-- ==== Sys2Proof/Word.lean ====
section
/-! DEFINITION. The word types of the machine and their plainest arithmetic (R1, R2, R7). -/

namespace Sys2Proof

/-- A 64-bit register value. -/
abbrev Word := BitVec 64

/-- One byte of memory. -/
abbrev Byte := BitVec 8

/-- A value with every bit set. -/
abbrev allOnes64 : Word := BitVec.allOnes 64

/-- The 64-bit word of a natural number, taken modulo 2^64 (R7). -/
abbrev w64 (n : Nat) : Word := BitVec.ofNat 64 n

end Sys2Proof
end

