-- ==== Sys2Proof/Config.lean ====
section
/-! DEFINITION. What is fixed for the machine (Table 1-1, R10) and the values no rule of the spec fixes. -/

namespace Sys2Proof.Config

/-- Compute dies of a module (R10). -/
def dies : Nat := 8
/-- Logical cores of a die (R10). -/
def logPerDie : Nat := 496
/-- Logical cores of a module (R10). -/
def logCores : Nat := 3968
/-- Physical cores of a die (R10). -/
def physPerDie : Nat := 512
/-- Home slices of a die (R10). -/
def slicesPerDie : Nat := 12
/-- Bytes of a scratchpad (R81). -/
def spBytes : Nat := 0x60000
/-- Bytes of DRAM of one die (R309). -/
def dramPerDie : Nat := 0x2CB4178000
/-- First die-local offset of the device register space (R309). -/
def devBase : Nat := 0x3000000000
/-- Threads of one partition table (R271). -/
def contexts : Nat := 4096
/-- Partitions (R15). -/
def partitions : Nat := 16
/-- Position of the modelled module in the pod (CSR pkg, R51); the model's own module (DESIGN CHOICE, log 7). -/
def pkg : Nat := 0
/-- Whether another module stands at a position of the pod (R77); no rule fixes it (DESIGN CHOICE, log 5, log 7). -/
opaque podHas : Nat → Bool
/-- Modules of the pod that are present (R77). -/
def present (m : Nat) : Bool := m == pkg || podHas m

/-! Values that lie outside the logic the spec gives. They have no body, so nothing can be proved of them (DESIGN CHOICE, log 5). -/

/-- Firmware version in the capsule header (R342). -/
opaque fwVersion : BitVec 32
/-- Module serial number (R342). -/
opaque serial : BitVec 64
/-- SHA-256 of the attestation public key (R342). -/
opaque idKey : BitVec 256
/-- The ECDSA signature r then s over a byte string under the device key (R343); argument 0 is the capsule number. -/
opaque signature : Nat → List Byte → BitVec 512
/-- Element i of the result of a walk operation whose operands no longer fit it, by the operation's number (DESIGN CHOICE, log 21). -/
opaque freeElem : Nat → Nat → Word
/-- What the argument field of `PARTCFG` says (R356): its partition, and the routers, slices, DRAM regions, queues, buffer shares and
link weights. The spec gives no layout of it. -/
opaque cfgPart : BitVec 480 → Nat
opaque cfgRouters : BitVec 480 → List Nat
opaque cfgSlices : BitVec 480 → List Nat
opaque cfgRegions : BitVec 480 → List (Nat × Nat)
opaque cfgQueues : BitVec 480 → List Nat
opaque cfgShares : BitVec 480 → List (Nat × Nat)
opaque cfgWeights : BitVec 480 → List (Nat × Nat)
/-- The physical core at whose router the launch unit of a die stands, by the die (R320, R321; DESIGN CHOICE, log 74). -/
opaque unitCore : Nat → Nat
/-- Byte i of what a read of a device register finds, by the number of the read (R88, R309; DESIGN CHOICE, log 84). -/
opaque deviceByte : Nat → Nat → BitVec 8
/-- What the argument field of a `DOORBELL`, a `PAGEMOVE` and a `CAPREAD` says (R356): core and slot; context, address and leaf; offset and
length. The spec gives no layout of it. -/
opaque mailBell : BitVec 480 → Nat × Fin 8
opaque mailMove : BitVec 480 → Nat × BitVec 48 × Word
opaque mailRead : BitVec 480 → Nat × Nat
/-- What firmware loads in stage 3 of bring-up, the logical map and the Detention maps, and in stage 4, the access tables (R358). -/
opaque bootLmap : List (Nat × Nat)
opaque bootDetMap : List ((Nat × Nat) × Word)
opaque bootAcl : List ((Nat × Nat × Nat) × BitVec 8)
/-- A value that no rule gives, by number (DESIGN CHOICE, log 5). -/
opaque freeWord : Nat → Word

end Sys2Proof.Config
end

