-- ==== Sys2Proof/Syntax.lean ====
section
/-! DEFINITION. The instruction and event syntax: one constructor of `Instr` for each row of spec/opcode_table.json. -/

namespace Sys2Proof

/-- Operand codes of Table 2-1 (R33); code 31 names nothing. -/
inductive Operand where
  | g (n : Fin 16)
  | a (n : Fin 8)
  | q (n : Fin 4)
  | nf
  | rq
  | zr
deriving DecidableEq, Repr

/-- The operand codes 0-23, which carry full/empty bits (R34). -/
inductive RegName where
  | g (n : Fin 16)
  | a (n : Fin 8)
deriving DecidableEq, Repr

/-- Scopes of Table 1-3 (R13). -/
inductive Scope where
  | ln | co | qd | di | pk | pd
deriving DecidableEq, Repr

/-- Load sizes of R186. -/
inductive Size where
  | b | h | w | d | bs | hs | ws
deriving DecidableEq, Repr

/-- Store sizes, codes 0-3 of R186. -/
inductive StSize where
  | b | h | w | d
deriving DecidableEq, Repr

/-- Scalar floating-point formats (R176). -/
inductive FFmt where
  | f32 | f64 | f16 | bf16
deriving DecidableEq, Repr

/-- Integer types of `FCVTI` and `ICVTF` (R181). -/
inductive ITy where
  | i64 | i32 | i16 | i8 | n64 | n32 | n16 | n8
deriving DecidableEq, Repr

/-- The selector X of `FCVT` (R180). -/
inductive FcvtSel where
  | fromF (f : FFmt) | toE4 | toE5 | fromE4 | fromE5
deriving DecidableEq, Repr

/-- Element formats of vector operations (Table 7-8). -/
inductive VFmt where
  | f32 | f16 | bf16 | i32 | i16 | i8 | e4 | e5
deriving DecidableEq, Repr

/-- Input formats of `MMA` (Table 7-8). -/
inductive MFmt where
  | c4 | c5 | f16 | bf16 | i8
deriving DecidableEq, Repr

/-- Tile format codes of Table 5-3 (R103). -/
inductive TFmt where
  | f32 | f16 | bf16 | i32 | i16 | i8 | e4 | e5 | c4 | c5
deriving DecidableEq, Repr

/-- Tile operations a `SUSP` can name (Table 5-5, R106), with TMMA's mode. -/
inductive TileOp where
  | tadd | tsub | tmul | tmax
  | tmma (tb eco : Bool) (scale : BitVec 6)
  | tcvt | tscal | trowsum
deriving DecidableEq, Repr

/-- Operations of `REDN` (Table 12-5, R258). -/
inductive RednOp where
  | add | min | max | and | or | xor | fadd | fmax
deriving DecidableEq, Repr

/-- Fields of a segment register that `SEGRD` reads (R55). -/
inductive SegField where
  | base | limit | rights
deriving DecidableEq, Repr

/-- Kinds of location of `DIAGST` and `DIAGLD` (R279). -/
inductive DiagKind where
  | dram | sp | acc | sc
deriving DecidableEq, Repr

/-- The queue a `QCNT` counts (R256). -/
inductive QSel where
  | q (n : Fin 4)
  | rq
deriving DecidableEq, Repr

/-- The branch immediate of R145: signed line delta and head index. -/
structure BTarget where
  ld : BitVec 22
  hx : BitVec 5
deriving DecidableEq, Repr

/-- Scope, order bits, width and offset of an atomic (R192). -/
structure AtomCtl where
  sc  : Scope
  acq : Bool
  rel : Bool
  dbl : Bool
  off : BitVec 32
deriving DecidableEq, Repr

/-- A stream operand: its pointer and post-increment bit (Table 7-8). -/
structure Strm where
  p   : Fin 8
  inc : Bool
deriving DecidableEq, Repr

/-- The sb operand of a vector operation: a stream or a broadcast g register (R202). -/
inductive VSrc where
  | strm (x : Strm)
  | scal (g : Fin 16)
deriving DecidableEq, Repr

/-- Wait bit and completion counter of an engine operation (Table 7-8, R221). -/
structure ECtl where
  wait : Bool
  cnt  : BitVec 3
deriving DecidableEq, Repr

/-- Shape and format of `APPLY` and `HVAL` (Table 12-2). -/
structure TShape where
  fmt  : TFmt
  rows : BitVec 5
  cols : BitVec 5
deriving DecidableEq, Repr

/-- Options of `MMA` (Table 7-8). -/
structure MmaCtl where
  fmt   : MFmt
  ec    : ECtl
  eco   : Bool
  tb    : Bool
  scale : BitVec 8
deriving DecidableEq, Repr

/-- The three engines of a core (R202, R222, R227). -/
inductive Eng where
  | mat | vec | copy
deriving DecidableEq, Repr

/-- A bank that performs accesses: a home slice (module, die, slice) or a scratchpad bank (module, physical core,
bank) (R79). -/
inductive Bank where
  | slice (m d i : Nat)
  | sp (m c b : Nat)
deriving DecidableEq, Repr

/-- What a `PERFORM` performs: the head of a bank's FIFO, or a line event of unit u of a running engine operation; its
line j of those still to read or write. -/
inductive PerfTarget where
  | bank (b : Bank)
  | line (core : Nat) (e : Eng) (u j : Nat)
deriving DecidableEq, Repr

/-- A queue of launch records (R291, R292). -/
inductive LQueue where
  | host (part q : Nat)
  | device (die : Nat)
deriving DecidableEq, Repr

/-- A Diary source (R333). -/
inductive Source where
  | core (c : Nat)
  | slice (i : Nat)
deriving DecidableEq, Repr

/-- Host-visible and CSR-window registers with no row of their own (R6, R291, R326, R357). -/
inductive HostReg where
  | qbase (part q : Nat)
  | qstat (part q : Nat)
  | qsize (part q : Nat)
  | qhead (part q : Nat)
  | prBase (part : Nat)
  | prHead (part : Nat)
  | intPending (part : Nat)
  | intEnable (part : Nat)
  | bustat
  | detMap (part die router : Nat)
deriving DecidableEq, Repr

/-- A word of a core that has no address (Table 21-2): behind the code of R318 an operation of an engine queue, its entries of the Hall
Pass table, a task descriptor, a range unit, an entry of the inbound deposit or migration buffer, by what it holds; under parity a completion
counter, the CSR `cc`. (DEDUCED, log 74) -/
inductive CoreStore where
  | eng (tag : Nat)
  | hall (tag : Nat)
  | task (num : Nat)
  | range (part seq : Nat)
  | dep (tag : Nat)
  | mig (hcore : BitVec 12) (hslot : Fin 8) (inc : BitVec 16)
  | cc (k : Fin 8)
deriving DecidableEq, Repr

/-- A place of storage, whose bits an error flips (R318, R320) and the debug port reads (R360): of a queue and a receive queue an entry by its
place from the head, of a Diary ring one by its place from the oldest, of a slot's resident windows one by its place from the newest; a launch
in its unit; a byte of the capsule store, an entry of an access table, and `BUSTAT`. (DEDUCED, log 74) -/
inductive ErrLoc where
  | dram (pa : Nat)
  | spad (core off : Nat)
  | acc (core k w : Nat)
  | reg (core : Nat) (slot : Fin 8) (r : RegName)
  | cell (pa : Nat)
  | cache (pa : Nat)
  | step (core : Nat) (e : Eng)
  | queue (core : Nat) (n : Fin 4) (k : Nat)
  | recv (core : Nat) (slot : Fin 8) (k : Nat)
  | window (core : Nat) (slot : Fin 8) (n : Nat) (r : Fin 8)
  | latch (core : Nat) (slot : Fin 8)
  | preds (core : Nat) (slot : Fin 8)
  | csr (core : Nat) (slot : Fin 8) (n : BitVec 12)
  | store (core : Nat) (u : CoreStore)
  | diary (src : Source) (i : Nat)
  | launch (part seq : Nat)
  | capsule (off : Nat)
  | acl (kind idx part : Nat)
  | bustat
deriving DecidableEq, Repr

/-- The head of a mailbox command: the partition it comes from and its `TAG`, which its answer repeats (R317, R345). -/
structure MailCmd where
  part : Nat
  tag : BitVec 16
  deriving DecidableEq, Repr

/-- Every row of spec/opcode_table.json, in the table's order. -/
inductive Instr where
  -- control (R151, R157 to R165)
  | nop | rlx | halt | yield
  | br (p : BitVec 5) (t : BTarget)
  | brn (p : BitVec 5) (t : BTarget)
  | jmp (x : Operand)
  | call (t : BTarget)
  | callr (x : Operand)
  | ret
  | loop (r : Fin 16) (t : BTarget)
  | trap (c : BitVec 6)
  | brk | xret
  | scall (c : BitVec 6)
  -- integer register (R166)
  | add (d x y : Operand) (w : Bool)
  | sub (d x y : Operand) (w : Bool)
  | and (d x y : Operand) (w : Bool)
  | or (d x y : Operand) (w : Bool)
  | xor (d x y : Operand) (w : Bool)
  | andn (d x y : Operand) (w : Bool)
  | shl (d x y : Operand) (w : Bool)
  | shr (d x y : Operand) (w : Bool)
  | sra (d x y : Operand) (w : Bool)
  | rotl (d x y : Operand) (w : Bool)
  | mul (d x y : Operand) (w : Bool)
  | mulh (d x y : Operand) (w : Bool)
  | mulhu (d x y : Operand) (w : Bool)
  | div (d x y : Operand) (w : Bool)
  | divu (d x y : Operand) (w : Bool)
  | rem (d x y : Operand) (w : Bool)
  | remu (d x y : Operand) (w : Bool)
  | min (d x y : Operand) (w : Bool)
  | max (d x y : Operand) (w : Bool)
  | minu (d x y : Operand) (w : Bool)
  | maxu (d x y : Operand) (w : Bool)
  | adds (d x y : Operand) (w : Bool)
  | subs (d x y : Operand) (w : Bool)
  | clz (d x : Operand) (w : Bool)
  | ctz (d x : Operand) (w : Bool)
  | popc (d x : Operand) (w : Bool)
  | sext (d x y : Operand) (w : Bool)
  | zext (d x y : Operand) (w : Bool)
  | bswp (d x : Operand) (w : Bool)
  | mov (d x : Operand) (w : Bool)
  -- immediates and moves (R167 to R170)
  | addi (d x : Operand) (imm : BitVec 27)
  | andi (d x : Operand) (imm : BitVec 27)
  | ori (d x : Operand) (imm : BitVec 27)
  | xori (d x : Operand) (imm : BitVec 27)
  | shli (d x : Operand) (sh : BitVec 6)
  | shri (d x : Operand) (sh : BitVec 6)
  | srai (d x : Operand) (sh : BitVec 6)
  | muli (d x : Operand) (imm : BitVec 27)
  | movi (d : Operand) (imm : BitVec 32)
  | movh (d : RegName) (imm : BitVec 32)
  | adr (d : Operand) (t : BTarget)
  | empt (r : RegName)
  -- compares, predicates, selection (R171 to R175)
  | ceq (p : BitVec 5) (x y : Operand)
  | cne (p : BitVec 5) (x y : Operand)
  | clt (p : BitVec 5) (x y : Operand)
  | cle (p : BitVec 5) (x y : Operand)
  | cltu (p : BitVec 5) (x y : Operand)
  | cleu (p : BitVec 5) (x y : Operand)
  | ceqi (p : BitVec 5) (x : Operand) (imm : BitVec 27)
  | clti (p : BitVec 5) (x : Operand) (imm : BitVec 27)
  | cltui (p : BitVec 5) (x : Operand) (imm : BitVec 27)
  | pand (d x y : BitVec 5) (nx ny : Bool)
  | por (d x y : BitVec 5) (nx ny : Bool)
  | pxor (d x y : BitVec 5) (nx ny : Bool)
  | pnot (d x : BitVec 5)
  | sel (d x y : Operand) (p : BitVec 5)
  | pget (d : Operand)
  | pset (x : Operand)
  | tfull (p : BitVec 5) (r : RegName)
  -- scalar floating point (R176 to R181)
  | fadd (d x y : Operand) (f : FFmt)
  | fsub (d x y : Operand) (f : FFmt)
  | fmul (d x y : Operand) (f : FFmt)
  | fdiv (d x y : Operand) (f : FFmt)
  | fsqrt (d x : Operand) (f : FFmt)
  | fma (d x y z : Operand) (f : FFmt)
  | fmin (d x y : Operand) (f : FFmt)
  | fmax (d x y : Operand) (f : FFmt)
  | fabs (d x : Operand) (f : FFmt)
  | fneg (d x : Operand) (f : FFmt)
  | fceq (p : BitVec 5) (x y : Operand) (f : FFmt)
  | fclt (p : BitVec 5) (x y : Operand) (f : FFmt)
  | fcle (p : BitVec 5) (x y : Operand) (f : FFmt)
  | fcvt (d x : Operand) (f : FFmt) (sel : FcvtSel)
  | fcvti (d x : Operand) (f : FFmt) (t : ITy)
  | icvtf (d x : Operand) (f : FFmt) (t : ITy)
  | fclass (d x : Operand) (f : FFmt)
  -- memory (R186 to R191, R129)
  | ld (d : Operand) (p : Fin 8) (sz : Size) (off : BitVec 24)
  | ldpi (d : Operand) (p : Fin 8) (sz : Size)
  | st (x : Operand) (p : Fin 8) (sz : StSize) (off : BitVec 24)
  | stpi (x : Operand) (p : Fin 8) (sz : StSize)
  | lda (d : RegName) (p : Fin 8) (sz : Size) (off : BitVec 24)
  | ldx (d : Operand) (p : Fin 8) (sz : Size) (pr : BitVec 5) (off : BitVec 29)
  | erase (p : Fin 8)
  | fence (sc : Scope)
  | ldaq (d : Operand) (p : Fin 8) (sz : Size) (sc : Scope) (off : BitVec 32)
  | strel (x : Operand) (p : Fin 8) (sz : StSize) (sc : Scope) (off : BitVec 32)
  | pref (p : Fin 8) (sz : Size) (off : BitVec 24)
  -- atomics (R192 to R195)
  | rsv (d : Operand) (p : Fin 8) (o : AtomCtl)
  | rls (d : Operand) (p : Fin 8) (x : Operand) (o : AtomCtl)
  | rlsn (d : Operand) (p : Fin 8) (o : AtomCtl)
  | waitrs
  | aadd (d : Operand) (p : Fin 8) (x : Operand) (o : AtomCtl)
  | aand (d : Operand) (p : Fin 8) (x : Operand) (o : AtomCtl)
  | aor (d : Operand) (p : Fin 8) (x : Operand) (o : AtomCtl)
  | axor (d : Operand) (p : Fin 8) (x : Operand) (o : AtomCtl)
  | amin (d : Operand) (p : Fin 8) (x : Operand) (o : AtomCtl)
  | amax (d : Operand) (p : Fin 8) (x : Operand) (o : AtomCtl)
  | aminu (d : Operand) (p : Fin 8) (x : Operand) (o : AtomCtl)
  | amaxu (d : Operand) (p : Fin 8) (x : Operand) (o : AtomCtl)
  | aswp (d : Operand) (p : Fin 8) (x : Operand) (o : AtomCtl)
  | cas (d : RegName) (p : Fin 8) (x : Operand) (o : AtomCtl)
  | aincb (d : Operand) (p : Fin 8) (x : Operand) (o : AtomCtl)
  | afadd (d : Operand) (p : Fin 8) (x : Operand) (o : AtomCtl)
  -- reductions and counters (R196, R197)
  | redadd (c : BitVec 3) (p : Fin 8) (x : Operand) (dbl : Bool) (off : BitVec 16)
  | redmin (c : BitVec 3) (p : Fin 8) (x : Operand) (dbl : Bool) (off : BitVec 16)
  | redmax (c : BitVec 3) (p : Fin 8) (x : Operand) (dbl : Bool) (off : BitVec 16)
  | redfadd (c : BitVec 3) (p : Fin 8) (x : Operand) (dbl : Bool) (off : BitVec 16)
  | pcadd (d : Operand) (p : Fin 8) (x : Operand) (hi : Bool) (off : BitVec 16)
  | pcrd (d : Operand) (p : Fin 8) (hi : Bool)
  | pcmrg (d : Operand) (p : Fin 8) (x : Fin 16) (hi : Bool)
  | pclv (d : Operand) (p : Fin 8) (hi : Bool)
  | pclvSet (d : Operand) (p : Fin 8) (x : Operand) (hi : Bool)
  -- segments and CSRs (R54, R55)
  | segrd (d : Operand) (k : Fin 8) (f : SegField)
  | segnw (k : Fin 8) (x y : Operand) (keep : BitVec 3)
  | csrr (d : Operand) (n : BitVec 12)
  | csrw (d x : Operand) (n : BitVec 12)
  | csrset (d x : Operand) (n : BitVec 12)
  | csrclr (d x : Operand) (n : BitVec 12)
  -- vector (R202 to R220)
  | vadd (f : VFmt) (e : ECtl) (d x : Strm) (y : VSrc)
  | vsub (f : VFmt) (e : ECtl) (d x : Strm) (y : VSrc)
  | vmul (f : VFmt) (e : ECtl) (d x : Strm) (y : VSrc)
  | vfma (f : VFmt) (e : ECtl) (d x : Strm) (y : VSrc) (z : Strm)
  | vmin (f : VFmt) (e : ECtl) (d x : Strm) (y : VSrc)
  | vmax (f : VFmt) (e : ECtl) (d x : Strm) (y : VSrc)
  | vabs (f : VFmt) (e : ECtl) (d x : Strm)
  | vneg (f : VFmt) (e : ECtl) (d x : Strm)
  | vdiv (f : VFmt) (e : ECtl) (d x : Strm) (y : VSrc)
  | vsqrt (f : VFmt) (e : ECtl) (d x : Strm)
  | vrsq (f : VFmt) (e : ECtl) (d x : Strm)
  | vexp2 (f : VFmt) (e : ECtl) (d x : Strm)
  | vand (f : VFmt) (e : ECtl) (d x : Strm) (y : VSrc)
  | vor (f : VFmt) (e : ECtl) (d x : Strm) (y : VSrc)
  | vxor (f : VFmt) (e : ECtl) (d x : Strm) (y : VSrc)
  | vshl (f : VFmt) (e : ECtl) (d x : Strm) (y : VSrc)
  | vshr (f : VFmt) (e : ECtl) (d x : Strm) (y : VSrc)
  | vsra (f : VFmt) (e : ECtl) (d x : Strm) (y : VSrc)
  | vceq (f : VFmt) (e : ECtl) (d x : Strm) (y : VSrc)
  | vclt (f : VFmt) (e : ECtl) (d x : Strm) (y : VSrc)
  | vsel (f : VFmt) (e : ECtl) (d x : Strm) (y : VSrc) (z : Strm)
  | vrsum (f : VFmt) (e : ECtl) (d x : Strm)
  | vrmax (f : VFmt) (e : ECtl) (d x : Strm)
  | viota (f : VFmt) (e : ECtl) (d : Strm)
  | vset (f : VFmt) (e : ECtl) (d : Strm) (y : Fin 16)
  | vmov (f : VFmt) (e : ECtl) (d x : Strm)
  | vcvt (f : VFmt) (e : ECtl) (d x : Strm) (y : Fin 16)
  | vpack (f : VFmt) (e : ECtl) (d x : Strm) (y : Fin 16)
  | vunpk (f : VFmt) (e : ECtl) (d x : Strm)
  | gath (f : VFmt) (e : ECtl) (d : Strm) (x : Fin 8) (y : Strm)
  | gathf (f : VFmt) (e : ECtl) (d : Strm) (x : Fin 8) (y : Strm) (n : Fin 16)
  | scat (f : VFmt) (e : ECtl) (d : Fin 8) (x y : Strm)
  | vlen (d x : Operand)
  | vtrn (f : VFmt) (e : ECtl) (d x : Strm)
  | vcmpr (f : VFmt) (e : ECtl) (d x y : Strm) (n : Fin 16)
  -- matrix and copy engines (R221 to R236)
  | mma (k : BitVec 4) (x y : Fin 8) (o : MmaCtl)
  | mzero (k : BitVec 4) (e : ECtl)
  | mlda (k : BitVec 4) (x : Strm) (int : Bool) (e : ECtl)
  | msta (k : BitVec 4) (x : Strm) (f : VFmt) (int : Bool) (e : ECtl)
  | mstc (k : BitVec 4) (x : Strm) (e5 : Bool) (e : ECtl)
  | madd (k src : BitVec 4) (int : Bool) (e : ECtl)
  | mscal (k : BitVec 4) (x : Strm) (e : ECtl)
  | mrssq (k : BitVec 4) (x : Strm) (e : ECtl)
  | cpy (d x : Strm) (n : Fin 16) (att : Option (Fin 8)) (e : ECtl)
  | cpy2 (d x : Strm) (n : Fin 16) (att : Option (Fin 8)) (e : ECtl)
  | cpym (d x : Strm) (n : Fin 16) (att : Option (Fin 8)) (e : ECtl) (m : BitVec 4)
  | attn (d : Operand) (p : Fin 8) (x : Operand)
  | await (d : Operand) (p : Fin 8) (x : Operand)
  | depo (x y : Operand) (e : ECtl)
  | ccinc (c : BitVec 3)
  | waitlt (c : BitVec 3) (n : BitVec 6)
  | efence
  -- handles, tasks, migration, barriers (R238 to R260)
  | susp (d x : Fin 8) (y : Option (Fin 8)) (pl : Fin 8) (op : TileOp) (res : Option TFmt)
  | apply (d : Fin 8) (entry : Fin 16) (arg pl : Fin 8) (sh : TShape)
  | force (d : Operand) (p : Fin 8)
  | spark (p : Fin 8)
  | htest (d : Operand) (p : Fin 8) (pr : BitVec 5)
  | hval (d x : Fin 8) (sh : TShape)
  | hfill (p : Fin 8)
  | task (entry : Fin 16) (arg : Fin 8) (n : Fin 16)
  | next (d : Operand) (pr : BitVec 5)
  | range (d : Operand)
  | mig (x : Fin 16)
  | home
  | send (d : Operand) (x : Fin 16) (y : Operand)
  | qcnt (d : Operand) (q : QSel)
  | bar (sc : Scope)
  | redn (d : Operand) (x n : Fin 16) (op : RednOp) (sc : Scope)
  | launch (d : Operand) (p : Fin 8)
  -- privileged (R275 to R285)
  | sret
  | scsrr (d : Operand) (n : BitVec 12)
  | scsrw (d x : Operand) (n : BitVec 12)
  | ctxsv (d : Operand) (x : Fin 16) (p : Fin 8)
  | ctxld (d : Operand) (x : Fin 16) (p : Fin 8)
  | tlbinvCtx
  | tlbinvPage (x : Fin 16)
  | tlbinvPart
  | diagst (x y c : Fin 16) (k : DiagKind)
  | diagld (d : Operand) (x c : Fin 16) (k : DiagKind)
  | detain (d : Operand) (x : Fin 16)
  | lmapw (d : Operand) (x y : Fin 16)
  | scant (d : Operand) (x : Fin 16)
  | dfrz
  | slotkill (d : Operand) (x : Fin 16)
  | slotkillCtx (d : Operand) (x : Fin 16)
  | preempt (d : Operand) (x : Fin 16)
  | matw (d : Operand) (x y z : Fin 16)
  | idle
  -- hardware and host events
  | qtail (part q : Nat) (v : BitVec 32)
  | launchRecordTake (q : LQueue)
  | launchDispatch (part seq : Nat)
  | imageLoad (part seq core : Nat)
  | stealRequest (i : Nat)
  | stealReply (i : Nat)
  | taskSteal (thief victim : Nat)
  | slotFill (core : Nat) (slot : Fin 8)
  | migrationArrival (i : Nat)
  | depositArrival (i : Nat)
  | depositLand (core i : Nat)
  | messageArrival (i : Nat)
  | windowSpill (core : Nat) (slot : Fin 8)
  | forcedSpill (core : Nat) (slot : Fin 8)
  | wakeMessage (i : Nat)
  | arrive (i : Nat)
  | perform (t : PerfTarget)
  | complete (i : Nat)
  | probe (b : Bank)
  | echo (i : Nat)
  | grant (line : Nat)
  | release (b : Bank)
  | reservationBreak (line : Nat)
  | migrationReservationBreak (line : Nat)
  | claimRetry (core : Nat) (slot : Fin 8)
  | engineOpStart (core : Nat) (e : Eng)
  | engineOpComplete (core : Nat) (e : Eng)
  | attendanceArrival (i : Nat)
  | mmaReplay (core : Nat)
  | rollCallSend (core : Nat) (slot : Fin 8)
  | rollCall (i : Nat)
  | stockRefill (i : Nat)
  | pageResponse (part : Nat) (tag gen : BitVec 32) (ok : Bool)
  | pagemove (hd : MailCmd) (ctx : Nat) (v : BitVec 48) (leaf : Word)
  | portAck (i port : Nat)
  | detentionNotice (i : Nat)
  | detentionReset (i : Nat)
  | detentionRejoin (i : Nat)
  | scrub (b : Bank) (line : Nat)
  | markerTimeout (core : Nat) (slot : Fin 8)
  | scanTestEnd (core : Nat) (fail : Bool)
  | freeze (src : Source)
  | reportCard
  | timeMark (src : Source)
  | coldReset
  | warmReset
  | partcfg (hd : MailCmd) (arg : BitVec 480)
  | doorbell (hd : MailCmd) (core : Nat) (slot : Fin 8)
  | capinfo (hd : MailCmd)
  | capread (hd : MailCmd) (off n : Nat)
  | capclear (hd : MailCmd)
  | debugRead (loc : ErrLoc)
  | barrierComplete (i : Nat)
  | reductionComplete (i : Nat)
  | registerWrite (r : HostReg) (v : Word)
  | unassignedOpcode (opc : BitVec 9)
  | deviceMemoryWindowAccess (part pa : Nat) (w : Option (List Byte)) (n : Nat)
  | windowReload (core : Nat) (slot : Fin 8)
  | flitResent (core : Nat) (again : Bool)
  | storageError (l : ErrLoc) (flip : BitVec 72)
deriving DecidableEq, Repr

end Sys2Proof
end

