-- ==== Sys2Proof/WellFormed.lean ====
section
/-! DEFINITION. Well-formed instructions: the operand and format limits of R149 (checks 4 to 6) that the types of the
syntax leave open, and the ranges of event operands (R10, R12, R15). -/

namespace Sys2Proof

/-- A destination operand code: `rq` as a destination is illegal (R33, R150). -/
def Operand.isDst : Operand → Bool
  | .rq => false
  | _ => true

/-- A floating element format, codes 0, 1, 2, 6, 7 (Table 10-1). -/
def VFmt.isFloat : VFmt → Bool
  | .f32 | .f16 | .bf16 | .e4 | .e5 => true
  | .i32 | .i16 | .i8 => false

/-- An integer element format, codes 3 to 5 (Table 10-1). -/
def VFmt.isInt (f : VFmt) : Bool := !f.isFloat

/-- A plain FP8 format, codes 6 and 7. -/
def VFmt.isFp8 : VFmt → Bool
  | .e4 | .e5 => true
  | _ => false

/-- A physical core id, 12 bits (R12). -/
def physOk (c : Nat) : Bool := c < 4096

/-- A bank of the pod: slices 0-11 of dies 0-7, scratchpad banks 0-2 (R79). -/
def Bank.ok : Bank → Bool
  | .slice m d i => m < 64 && d < 8 && i < 12
  | .sp m c b => m < 64 && physOk c && b < 3

/-- The target names a bank or a core that exists. -/
def PerfTarget.ok : PerfTarget → Bool
  | .bank b => b.ok
  | .line c _ _ _ => physOk c

/-- A launch queue that exists (R291, R292). -/
def LQueue.ok : LQueue → Bool
  | .host p q => p < 16 && q < 32
  | .device d => d < 8

/-- A Diary source that exists (R333). -/
def Source.ok : Source → Bool
  | .core c => physOk c
  | .slice i => i < 96

/-- A register that exists. -/
def HostReg.ok : HostReg → Bool
  | .qbase p q | .qstat p q | .qsize p q | .qhead p q => p < 16 && q < 32
  | .prBase p | .prHead p | .intPending p | .intEnable p => p < 16
  | .bustat => true
  | .detMap p d r => p < 16 && d < 8 && r < 32

/-- A storage location that the spec says exists (R81, R222, R309). -/
def ErrLoc.ok : ErrLoc → Bool
  | .dram pa => pa < 2 ^ 52 && pa % 2 ^ 38 < Config.dramPerDie && pa / 2 ^ 38 % 32 == 0
  | .spad c off => physOk c && off < Config.spBytes
  | .acc c k w => physOk c && k < 16 && w < 512
  | .reg c _ _ => physOk c
  | .cell pa | .cache pa => pa < 2 ^ 52
  | .step c _ => physOk c
  | .queue c _ _ | .recv c _ _ | .window c _ _ _ | .latch c _ | .preds c _ | .csr c _ _ | .store c _ => physOk c
  | .diary s i => s.ok && i < (match s with | .core _ => 1024 | .slice _ => 2048)
  | .launch p _ | .acl _ _ p => p < 16
  | .capsule _ | .bustat => true

/-- Well-formedness, one constructor at a time. Encoding limits that an entry of the spec lists as its own (check 7)
are tested by the meaning, which takes the trap. -/
def Instr.wf : Instr → Bool
  | .nop | .rlx | .halt | .yield | .br _ _ | .brn _ _ | .jmp _ | .call _ | .callr _ | .ret | .loop _ _
  | .trap _ | .brk | .xret | .scall _ | .movh _ _ | .empt _ | .ceq _ _ _ | .cne _ _ _ | .clt _ _ _ | .cle _ _ _
  | .cltu _ _ _ | .cleu _ _ _ | .ceqi _ _ _ | .clti _ _ _ | .cltui _ _ _ | .pand _ _ _ _ _ | .por _ _ _ _ _
  | .pxor _ _ _ _ _ | .pnot _ _ | .pset _ | .tfull _ _ | .fceq _ _ _ _ | .fclt _ _ _ _ | .fcle _ _ _ _
  | .st _ _ _ _ | .stpi _ _ _ | .lda _ _ _ _ | .erase _ | .fence _ | .strel _ _ _ _ _ | .pref _ _ _ | .waitrs
  | .cas _ _ _ _ | .redadd _ _ _ _ _ | .redmin _ _ _ _ _ | .redmax _ _ _ _ _ | .redfadd _ _ _ _ _
  | .segnw _ _ _ _ | .vadd _ _ _ _ _ | .vsub _ _ _ _ _ | .vmul _ _ _ _ _ | .vfma _ _ _ _ _ _ | .vmin _ _ _ _ _
  | .vmax _ _ _ _ _ | .vabs _ _ _ _ | .vneg _ _ _ _ | .vceq _ _ _ _ _ | .vclt _ _ _ _ _ | .vsel _ _ _ _ _ _
  | .vrsum _ _ _ _ | .vrmax _ _ _ _ | .viota _ _ _ | .vset _ _ _ _ | .vmov _ _ _ _ | .vcvt _ _ _ _ _
  | .vtrn _ _ _ _ | .mma _ _ _ _
  | .mzero _ _ | .mlda _ _ _ _ | .msta _ _ _ _ _ | .mstc _ _ _ _ | .madd _ _ _ _ | .mscal _ _ _ | .mrssq _ _ _
  | .cpy _ _ _ _ _ | .cpy2 _ _ _ _ _ | .cpym _ _ _ _ _ _ | .depo _ _ _ | .ccinc _ | .waitlt _ _ | .efence
  | .susp _ _ _ _ _ _ | .apply _ _ _ _ _ | .spark _ | .hval _ _ _ | .hfill _ | .task _ _ _ | .mig _ | .home
  | .bar _ | .sret | .tlbinvCtx | .tlbinvPage _ | .tlbinvPart | .diagst _ _ _ _ | .dfrz | .idle
  | .stealRequest _ | .stealReply _ | .migrationArrival _ | .depositArrival _ | .messageArrival _
  | .wakeMessage _ | .arrive _ | .complete _ | .echo _ | .grant _ | .reservationBreak _
  | .migrationReservationBreak _ | .attendanceArrival _ | .rollCall _ | .stockRefill _ | .detentionNotice _
  | .detentionReset _ | .detentionRejoin _ | .reportCard | .coldReset | .warmReset | .barrierComplete _
  | .reductionComplete _ | .unassignedOpcode _ => true
  | .add d _ _ _ | .sub d _ _ _ | .and d _ _ _ | .or d _ _ _ | .xor d _ _ _ | .andn d _ _ _ | .shl d _ _ _
  | .shr d _ _ _ | .sra d _ _ _ | .rotl d _ _ _ | .mul d _ _ _ | .mulh d _ _ _ | .mulhu d _ _ _ | .div d _ _ _
  | .divu d _ _ _ | .rem d _ _ _ | .remu d _ _ _ | .min d _ _ _ | .max d _ _ _ | .minu d _ _ _ | .maxu d _ _ _
  | .adds d _ _ _ | .subs d _ _ _ | .clz d _ _ | .ctz d _ _ | .popc d _ _ | .sext d _ _ _ | .zext d _ _ _
  | .bswp d _ _ | .mov d _ _ | .addi d _ _ | .andi d _ _ | .ori d _ _ | .xori d _ _ | .shli d _ _ | .shri d _ _
  | .srai d _ _ | .muli d _ _ | .movi d _ | .adr d _ | .sel d _ _ _ | .pget d | .fadd d _ _ _ | .fsub d _ _ _
  | .fmul d _ _ _ | .fdiv d _ _ _ | .fsqrt d _ _ | .fma d _ _ _ _ | .fmin d _ _ _ | .fmax d _ _ _ | .fabs d _ _
  | .fneg d _ _ | .fcvt d _ _ _ | .fcvti d _ _ _ | .icvtf d _ _ _ | .fclass d _ _ | .ld d _ _ _ | .ldpi d _ _
  | .ldx d _ _ _ _ | .ldaq d _ _ _ _ | .rsv d _ _ | .rls d _ _ _ | .rlsn d _ _ | .aadd d _ _ _ | .aand d _ _ _
  | .aor d _ _ _ | .axor d _ _ _ | .amin d _ _ _ | .amax d _ _ _ | .aminu d _ _ _ | .amaxu d _ _ _
  | .aswp d _ _ _ | .aincb d _ _ _ | .afadd d _ _ _ | .pcadd d _ _ _ _ | .pcrd d _ _ | .pcmrg d _ _ _
  | .pclv d _ _ | .pclvSet d _ _ _ | .segrd d _ _ | .csrr d _ | .csrw d _ _ | .csrset d _ _ | .csrclr d _ _
  | .vlen d _ | .attn d _ _ | .await d _ _ | .force d _ | .htest d _ _ | .next d _ | .range d | .send d _ _
  | .qcnt d _ | .redn d _ _ _ _ | .launch d _ | .scsrr d _ | .scsrw d _ _ | .ctxsv d _ _ | .ctxld d _ _
  | .diagld d _ _ _ | .detain d _ | .lmapw d _ _ | .scant d _ | .slotkill d _ | .slotkillCtx d _ | .preempt d _
  | .matw d _ _ _ => d.isDst
  | .vdiv f _ _ _ _ | .vsqrt f _ _ _ | .vrsq f _ _ _ | .vexp2 f _ _ _ | .vunpk f _ _ _ => f.isFloat
  | .vand f _ _ _ _ | .vor f _ _ _ _ | .vxor f _ _ _ _ | .vshl f _ _ _ _ | .vshr f _ _ _ _ | .vsra f _ _ _ _
  => f.isInt
  | .vpack f _ _ _ _ => f.isFp8
  | .gath _ e _ _ _ | .gathf _ e _ _ _ _ | .scat _ e _ _ _ | .vcmpr _ e _ _ _ _ => e.wait
  | .qtail part q _ => part < 16 && q < 32
  | .launchRecordTake q => q.ok
  | .launchDispatch part _ | .pageResponse part _ _ _ => part < 16
  | .partcfg hd _ | .capinfo hd | .capread hd _ _ | .capclear hd => hd.part < 16
  | .imageLoad part _ core => part < 16 && physOk core
  | .taskSteal thief victim => physOk thief && physOk victim
  | .slotFill core _ | .depositLand core _ | .windowSpill core _ | .forcedSpill core _ | .claimRetry core _
  | .engineOpStart core _ | .engineOpComplete core _ | .mmaReplay core | .rollCallSend core _
  | .markerTimeout core _ | .scanTestEnd core _ | .windowReload core _ | .flitResent core _ => physOk core
  | .perform t => t.ok
  | .probe b | .release b | .scrub b _ => b.ok
  | .pagemove hd ctx _ _ => hd.part < 16 && ctx < 4096
  | .portAck _ port => port < 1024
  | .freeze src | .timeMark src => src.ok
  | .doorbell hd core _ => hd.part < 16 && core < Config.logCores
  | .debugRead loc => loc.ok
  | .registerWrite r _ => r.ok
  | .deviceMemoryWindowAccess part pa _ _ => part < 16 && pa < 2 ^ 52
  | .storageError l _ => l.ok

/-- The rows that are hardware or host events and have no encoding. -/
def Instr.isEvent : Instr → Bool
  | .nop | .rlx | .halt | .yield | .br _ _ | .brn _ _ | .jmp _ | .call _ | .callr _ | .ret | .loop _ _
  | .trap _ | .brk | .xret | .scall _ | .add _ _ _ _ | .sub _ _ _ _ | .and _ _ _ _ | .or _ _ _ _ | .xor _ _ _ _
  | .andn _ _ _ _ | .shl _ _ _ _ | .shr _ _ _ _ | .sra _ _ _ _ | .rotl _ _ _ _ | .mul _ _ _ _ | .mulh _ _ _ _
  | .mulhu _ _ _ _ | .div _ _ _ _ | .divu _ _ _ _ | .rem _ _ _ _ | .remu _ _ _ _ | .min _ _ _ _ | .max _ _ _ _
  | .minu _ _ _ _ | .maxu _ _ _ _ | .adds _ _ _ _ | .subs _ _ _ _ | .clz _ _ _ | .ctz _ _ _ | .popc _ _ _
  | .sext _ _ _ _ | .zext _ _ _ _ | .bswp _ _ _ | .mov _ _ _ | .addi _ _ _ | .andi _ _ _ | .ori _ _ _
  | .xori _ _ _ | .shli _ _ _ | .shri _ _ _ | .srai _ _ _ | .muli _ _ _ | .movi _ _ | .movh _ _ | .adr _ _
  | .empt _ | .ceq _ _ _ | .cne _ _ _ | .clt _ _ _ | .cle _ _ _ | .cltu _ _ _ | .cleu _ _ _ | .ceqi _ _ _
  | .clti _ _ _ | .cltui _ _ _ | .pand _ _ _ _ _ | .por _ _ _ _ _ | .pxor _ _ _ _ _ | .pnot _ _ | .sel _ _ _ _
  | .pget _ | .pset _ | .tfull _ _ | .fadd _ _ _ _ | .fsub _ _ _ _ | .fmul _ _ _ _ | .fdiv _ _ _ _
  | .fsqrt _ _ _ | .fma _ _ _ _ _ | .fmin _ _ _ _ | .fmax _ _ _ _ | .fabs _ _ _ | .fneg _ _ _ | .fceq _ _ _ _
  | .fclt _ _ _ _ | .fcle _ _ _ _ | .fcvt _ _ _ _ | .fcvti _ _ _ _ | .icvtf _ _ _ _ | .fclass _ _ _
  | .ld _ _ _ _ | .ldpi _ _ _ | .st _ _ _ _ | .stpi _ _ _ | .lda _ _ _ _ | .ldx _ _ _ _ _ | .erase _ | .fence _
  | .ldaq _ _ _ _ _ | .strel _ _ _ _ _ | .pref _ _ _ | .rsv _ _ _ | .rls _ _ _ _ | .rlsn _ _ _ | .waitrs
  | .aadd _ _ _ _ | .aand _ _ _ _ | .aor _ _ _ _ | .axor _ _ _ _ | .amin _ _ _ _ | .amax _ _ _ _
  | .aminu _ _ _ _ | .amaxu _ _ _ _ | .aswp _ _ _ _ | .cas _ _ _ _ | .aincb _ _ _ _ | .afadd _ _ _ _
  | .redadd _ _ _ _ _ | .redmin _ _ _ _ _ | .redmax _ _ _ _ _ | .redfadd _ _ _ _ _ | .pcadd _ _ _ _ _
  | .pcrd _ _ _ | .pcmrg _ _ _ _ | .pclv _ _ _ | .pclvSet _ _ _ _ | .segrd _ _ _ | .segnw _ _ _ _ | .csrr _ _
  | .csrw _ _ _ | .csrset _ _ _ | .csrclr _ _ _ | .vadd _ _ _ _ _ | .vsub _ _ _ _ _ | .vmul _ _ _ _ _
  | .vfma _ _ _ _ _ _ | .vmin _ _ _ _ _ | .vmax _ _ _ _ _ | .vabs _ _ _ _ | .vneg _ _ _ _ | .vdiv _ _ _ _ _
  | .vsqrt _ _ _ _ | .vrsq _ _ _ _ | .vexp2 _ _ _ _ | .vand _ _ _ _ _ | .vor _ _ _ _ _ | .vxor _ _ _ _ _
  | .vshl _ _ _ _ _ | .vshr _ _ _ _ _ | .vsra _ _ _ _ _ | .vceq _ _ _ _ _ | .vclt _ _ _ _ _ | .vsel _ _ _ _ _ _
  | .vrsum _ _ _ _ | .vrmax _ _ _ _ | .viota _ _ _ | .vset _ _ _ _ | .vmov _ _ _ _ | .vcvt _ _ _ _ _
  | .vpack _ _ _ _ _ | .vunpk _ _ _ _ | .gath _ _ _ _ _ | .gathf _ _ _ _ _ _ | .scat _ _ _ _ _ | .vlen _ _
  | .vtrn _ _ _ _ | .vcmpr _ _ _ _ _ _ | .mma _ _ _ _ | .mzero _ _ | .mlda _ _ _ _ | .msta _ _ _ _ _
  | .mstc _ _ _ _ | .madd _ _ _ _ | .mscal _ _ _ | .mrssq _ _ _ | .cpy _ _ _ _ _ | .cpy2 _ _ _ _ _
  | .cpym _ _ _ _ _ _ | .attn _ _ _ | .await _ _ _ | .depo _ _ _ | .ccinc _ | .waitlt _ _ | .efence
  | .susp _ _ _ _ _ _ | .apply _ _ _ _ _ | .force _ _ | .spark _ | .htest _ _ _ | .hval _ _ _ | .hfill _
  | .task _ _ _ | .next _ _ | .range _ | .mig _ | .home | .send _ _ _ | .qcnt _ _ | .bar _ | .redn _ _ _ _ _
  | .launch _ _ | .sret | .scsrr _ _ | .scsrw _ _ _ | .ctxsv _ _ _ | .ctxld _ _ _ | .tlbinvCtx | .tlbinvPage _
  | .tlbinvPart | .diagst _ _ _ _ | .diagld _ _ _ _ | .detain _ _ | .lmapw _ _ _ | .scant _ _ | .dfrz
  | .slotkill _ _ | .slotkillCtx _ _ | .preempt _ _ | .matw _ _ _ _ | .idle => false
  | .qtail _ _ _ | .launchRecordTake _ | .launchDispatch _ _ | .imageLoad _ _ _ | .stealRequest _
  | .stealReply _ | .taskSteal _ _ | .slotFill _ _ | .migrationArrival _ | .depositArrival _ | .depositLand _ _
  | .messageArrival _ | .windowSpill _ _ | .forcedSpill _ _ | .wakeMessage _ | .arrive _ | .perform _
  | .complete _ | .probe _ | .echo _ | .grant _ | .release _ | .reservationBreak _
  | .migrationReservationBreak _ | .claimRetry _ _ | .engineOpStart _ _ | .engineOpComplete _ _
  | .attendanceArrival _ | .mmaReplay _ | .rollCallSend _ _ | .rollCall _ | .stockRefill _
  | .pageResponse _ _ _ _ | .pagemove _ _ _ _ | .portAck _ _ | .detentionNotice _ | .detentionReset _
  | .detentionRejoin _ | .scrub _ _ | .markerTimeout _ _ | .scanTestEnd _ _ | .freeze _ | .reportCard
  | .timeMark _ | .coldReset | .warmReset | .partcfg _ _ | .doorbell _ _ _ | .capinfo _ | .capread _ _ _
  | .capclear _ | .debugRead _ | .barrierComplete _ | .reductionComplete _ | .registerWrite _ _
  | .unassignedOpcode _ | .deviceMemoryWindowAccess _ _ _ _ | .windowReload _ _ | .flitResent _ _
  | .storageError _ _ => true

end Sys2Proof
end

