-- ==== Sys2Proof/Decode.lean ====
section
/-! DEFINITION. Decoding of instruction lines, heads and tails (R139 to R153), total on any bytes, and the encoder.
Fields are natural numbers below the width of their place, so that shifts are plain division. -/

namespace Sys2Proof

/-! ## Operand and enumeration codes -/

/-- A number below k, or nothing. -/
def fin? (k n : Nat) : Option (Fin k) := if h : n < k then some ⟨n, h⟩ else none

/-- Bit k of a field. -/
def bit (x k : Nat) : Bool := x / 2 ^ k % 2 == 1

/-- The code of an operand (Table 2-1). -/
def Operand.code : Operand → Nat
  | .g n => n.val
  | .a n => 16 + n.val
  | .q n => 24 + n.val
  | .nf => 28
  | .rq => 29
  | .zr => 30

/-- The operand of a code; 31 names nothing (R33, R150). -/
def Operand.ofCode? (n : Nat) : Option Operand :=
  if h : n < 16 then some (.g ⟨n, h⟩)
  else if h : n - 16 < 8 then some (.a ⟨n - 16, h⟩)
  else if h : n - 24 < 4 then some (.q ⟨n - 24, h⟩)
  else if n == 28 then some .nf
  else if n == 29 then some .rq
  else if n == 30 then some .zr
  else none

/-- A destination: `rq` is refused (R150). -/
def Operand.dst? (n : Nat) : Option Operand := if n == 29 then none else Operand.ofCode? n

/-- The code of a register 0-23. -/
def RegName.code : RegName → Nat
  | .g n => n.val
  | .a n => 16 + n.val

/-- The register of a code 0-23 (R34). -/
def RegName.ofCode? (n : Nat) : Option RegName :=
  if h : n < 16 then some (.g ⟨n, h⟩) else if h : n - 16 < 8 then some (.a ⟨n - 16, h⟩) else none

/-- The operand of a register code 0-23. -/
def RegName.op : RegName → Operand
  | .g n => .g n
  | .a n => .a n

/-- A pointer field accepts only 16-23 (R150). -/
def ptr? (n : Nat) : Option (Fin 8) := if 16 ≤ n then fin? 8 (n - 16) else none

/-- The code of a pointer. -/
def pcode (p : Fin 8) : Nat := p.val + 16

/-- A pointer or zr. -/
def optPtr? (n : Nat) : Option (Option (Fin 8)) :=
  if n == 30 then some none else if 16 ≤ n then (fin? 8 (n - 16)).map some else none

/-- The code of a pointer or zr. -/
def optCode : Option (Fin 8) → Nat
  | none => 30
  | some p => pcode p

/-- Scope codes (Table 1-3). -/
def Scope.code : Scope → Nat
  | .ln => 0 | .co => 1 | .qd => 2 | .di => 3 | .pk => 4 | .pd => 5
def Scope.ofCode? : Nat → Option Scope
  | 0 => some .ln | 1 => some .co | 2 => some .qd | 3 => some .di | 4 => some .pk | 5 => some .pd | _ => none

/-- Size codes (R186). -/
def Size.code : Size → Nat
  | .b => 0 | .h => 1 | .w => 2 | .d => 3 | .bs => 4 | .hs => 5 | .ws => 6
def Size.ofCode? : Nat → Option Size
  | 0 => some .b | 1 => some .h | 2 => some .w | 3 => some .d | 4 => some .bs | 5 => some .hs | 6 => some .ws
  | _ => none

/-- Store sizes (R186). -/
def StSize.code : StSize → Nat
  | .b => 0 | .h => 1 | .w => 2 | .d => 3
def StSize.ofCode? : Nat → Option StSize
  | 0 => some .b | 1 => some .h | 2 => some .w | 3 => some .d | _ => none

/-- Scalar formats (R176). -/
def FFmt.code : FFmt → Nat
  | .f32 => 0 | .f64 => 1 | .f16 => 2 | .bf16 => 3
def FFmt.ofCode? : Nat → Option FFmt
  | 0 => some .f32 | 1 => some .f64 | 2 => some .f16 | 3 => some .bf16 | _ => none

/-- Integer types (R181). -/
def ITy.code : ITy → Nat
  | .i64 => 0 | .i32 => 1 | .i16 => 2 | .i8 => 3 | .n64 => 4 | .n32 => 5 | .n16 => 6 | .n8 => 7
def ITy.ofCode? : Nat → Option ITy
  | 0 => some .i64 | 1 => some .i32 | 2 => some .i16 | 3 => some .i8
  | 4 => some .n64 | 5 => some .n32 | 6 => some .n16 | 7 => some .n8 | _ => none

/-- The selector of `FCVT` (R180). -/
def FcvtSel.code : FcvtSel → Nat
  | .fromF f => f.code | .toE4 => 4 | .toE5 => 5 | .fromE4 => 6 | .fromE5 => 7
def FcvtSel.ofCode? : Nat → Option FcvtSel
  | 0 => some (.fromF .f32) | 1 => some (.fromF .f64) | 2 => some (.fromF .f16) | 3 => some (.fromF .bf16)
  | 4 => some .toE4 | 5 => some .toE5 | 6 => some .fromE4 | 7 => some .fromE5 | _ => none

/-- Vector formats (Table 7-8). -/
def VFmt.code : VFmt → Nat
  | .f32 => 0 | .f16 => 1 | .bf16 => 2 | .i32 => 3 | .i16 => 4 | .i8 => 5 | .e4 => 6 | .e5 => 7
def VFmt.ofCode? : Nat → Option VFmt
  | 0 => some .f32 | 1 => some .f16 | 2 => some .bf16 | 3 => some .i32
  | 4 => some .i16 | 5 => some .i8 | 6 => some .e4 | 7 => some .e5 | _ => none

/-- `MMA` input codes; 5-7 are refused (R153). -/
def MFmt.code : MFmt → Nat
  | .c4 => 0 | .c5 => 1 | .f16 => 2 | .bf16 => 3 | .i8 => 4
def MFmt.ofCode? : Nat → Option MFmt
  | 0 => some .c4 | 1 => some .c5 | 2 => some .f16 | 3 => some .bf16 | 4 => some .i8 | _ => none

/-- Tile format codes (Table 5-3). -/
def TFmt.code : TFmt → Nat
  | .f32 => 0 | .f16 => 1 | .bf16 => 2 | .i32 => 3 | .i16 => 4 | .i8 => 5 | .e4 => 6 | .e5 => 7 | .c4 => 8 | .c5 => 9
def TFmt.ofCode? : Nat → Option TFmt
  | 0 => some .f32 | 1 => some .f16 | 2 => some .bf16 | 3 => some .i32 | 4 => some .i16
  | 5 => some .i8 | 6 => some .e4 | 7 => some .e5 | 8 => some .c4 | 9 => some .c5 | _ => none

/-- Reduction operations (Table 12-5). -/
def RednOp.code : RednOp → Nat
  | .add => 0 | .min => 1 | .max => 2 | .and => 3 | .or => 4 | .xor => 5 | .fadd => 6 | .fmax => 7
def RednOp.ofCode? : Nat → Option RednOp
  | 0 => some .add | 1 => some .min | 2 => some .max | 3 => some .and
  | 4 => some .or | 5 => some .xor | 6 => some .fadd | 7 => some .fmax | _ => none

/-- Segment field selectors (R55). -/
def SegField.code : SegField → Nat
  | .base => 0 | .limit => 1 | .rights => 2
def SegField.ofCode? : Nat → Option SegField
  | 0 => some .base | 1 => some .limit | 2 => some .rights | _ => none

/-- Kinds of `DIAGST` and `DIAGLD` (R279); 4-7 trap. -/
def DiagKind.code : DiagKind → Nat
  | .dram => 0 | .sp => 1 | .acc => 2 | .sc => 3
def DiagKind.ofCode? : Nat → Option DiagKind
  | 0 => some .dram | 1 => some .sp | 2 => some .acc | 3 => some .sc | _ => none

/-- The queue code of `QCNT`: 24-27 or 29 (R256). -/
def QSel.code : QSel → Nat
  | .q n => 24 + n.val
  | .rq => 29
def QSel.ofCode? (n : Nat) : Option QSel :=
  if n == 29 then some .rq else if 24 ≤ n then (fin? 4 (n - 24)).map .q else none

/-- The branch immediate (Table 7-4). -/
def btarget (i : Nat) : BTarget := ⟨BitVec.ofNat 22 (i / 32), BitVec.ofNat 5 i⟩
def BTarget.imm (t : BTarget) : Nat := t.ld.toNat * 32 + t.hx.toNat

/-- The target of a branch immediate from the line base of its own PC (R145). -/
def BTarget.target (t : BTarget) (base : Word) : Word := base + (t.ld.signExtend 64) * 64 + w64 (2 * t.hx.toNat)

/-- Wait bit 13 and counter 12:10 of an engine operation. -/
def ectl (f : Nat) : ECtl := ⟨bit f 13, BitVec.ofNat 3 (f / 1024)⟩
def ECtl.bits (e : ECtl) : Nat := 8192 * e.wait.toNat + 1024 * e.cnt.toNat

/-- Format 16:14 of a vector operation: every value names one. -/
def vfmt (f : Nat) : VFmt := (VFmt.ofCode? (f / 16384 % 8)).getD .f32

/-- A stream: a pointer with its post-increment bit. -/
def strm? (n : Nat) (inc : Bool) : Option Strm := (ptr? n).map (⟨·, inc⟩)
def Strm.code (s : Strm) : Nat := pcode s.p

/-- The sb operand of a vector operation: a stream, or a g register with post-increment bit 0 when f17[5] is set. -/
def vsrc? (n f : Nat) : Option VSrc :=
  if bit f 5 then (if bit f 7 then none else (fin? 16 n).map .scal) else (strm? n (bit f 7)).map .strm
def VSrc.code : VSrc → Nat
  | .strm x => x.code
  | .scal g => g.val
def VSrc.inc : VSrc → Bool
  | .strm x => x.inc
  | .scal _ => false
def VSrc.isScal : VSrc → Bool
  | .strm _ => false
  | .scal _ => true

/-- f17[4:0] of a vector operation is zero (Table 7-8). -/
def low5 (f : Nat) : Bool := f % 32 == 0

/-- f17 of a vector operation (Table 7-8). -/
def vf (f : VFmt) (e : ECtl) (d a b c s : Bool) : Nat :=
  f.code * 16384 + e.bits + 512 * d.toNat + 256 * a.toNat + 128 * b.toNat + 64 * c.toNat + 32 * s.toNat

/-- f6 of an atomic (R192). -/
def AtomCtl.f6 (o : AtomCtl) : Nat := 8 * o.sc.code + 4 * o.acq.toNat + 2 * o.rel.toNat + o.dbl.toNat

/-- f17 of `MMA` (Table 7-8): scale index bits 7:5 lie in bits 7:5. -/
def MmaCtl.f17 (o : MmaCtl) : Nat :=
  o.fmt.code * 16384 + o.ec.bits + 512 * o.eco.toNat + 256 * o.tb.toNat + o.scale.toNat

/-- f17 of `APPLY` and `HVAL` (Table 12-2). -/
def TShape.f17 (o : TShape) : Nat := o.rows.toNat * 4096 + o.fmt.code * 256 + o.cols.toNat * 8

/-- The tile operation of f17 of `SUSP` (Table 12-2): bits 7:0 are zero but for TMMA; 8-31 are refused. -/
def tileOp? (f : Nat) : Option TileOp :=
  match f / 4096 with
  | 0 => if f % 256 == 0 then some .tadd else none
  | 1 => if f % 256 == 0 then some .tsub else none
  | 2 => if f % 256 == 0 then some .tmul else none
  | 3 => if f % 256 == 0 then some .tmax else none
  | 4 => some (.tmma (bit f 7) (bit f 6) (BitVec.ofNat 6 f))
  | 5 => if f % 256 == 0 then some .tcvt else none
  | 6 => if f % 256 == 0 then some .tscal else none
  | 7 => if f % 256 == 0 then some .trowsum else none
  | _ => none
def TileOp.bits : TileOp → Nat
  | .tadd => 0 | .tsub => 4096 | .tmul => 8192 | .tmax => 12288
  | .tmma tb eco s => 16384 + 128 * tb.toNat + 64 * eco.toNat + s.toNat
  | .tcvt => 20480 | .tscal => 24576 | .trowsum => 28672

/-- The result format of `SUSP`: 0, or a format code plus 1 (R239). -/
def resFmt? (n : Nat) : Option (Option TFmt) := if n == 0 then some none else (TFmt.ofCode? (n - 1)).map some
def resCode : Option TFmt → Nat
  | none => 0
  | some f => f.code + 1

/-! ## Tail kinds and fields -/

/-- The tail kind an opcode takes (R141, R147). -/
inductive TailKind where
  | none | s | r | i | w
deriving DecidableEq, Repr

/-- The tail code of a kind (Table 7-2). -/
def TailKind.tc : TailKind → Nat
  | .none => 0 | .s => 1 | .r => 2 | .i => 2 | .w => 3

/-- Tail halfwords of a tail code (R142). -/
def tailLen (tc : Nat) : Nat := tc % 4

/-- Runs of opcodes with one tail kind (Table 7-6). -/
structure OpRun where
  lo   : Nat
  hi   : Nat
  kind : TailKind
deriving DecidableEq, Repr

/-- Table 7-6: every opcode outside these runs is unassigned. -/
def opRuns : List OpRun := [
  ⟨0x000, 0x003, .none⟩,
  ⟨0x004, 0x005, .i⟩,
  ⟨0x006, 0x006, .s⟩,
  ⟨0x007, 0x007, .i⟩,
  ⟨0x008, 0x008, .s⟩,
  ⟨0x009, 0x009, .none⟩,
  ⟨0x00A, 0x00A, .i⟩,
  ⟨0x00B, 0x00B, .s⟩,
  ⟨0x00C, 0x00D, .none⟩,
  ⟨0x00E, 0x00E, .s⟩,
  ⟨0x020, 0x03D, .s⟩,
  ⟨0x040, 0x047, .i⟩,
  ⟨0x048, 0x049, .w⟩,
  ⟨0x04A, 0x04A, .i⟩,
  ⟨0x04B, 0x04B, .none⟩,
  ⟨0x060, 0x065, .s⟩,
  ⟨0x066, 0x068, .i⟩,
  ⟨0x069, 0x06C, .s⟩,
  ⟨0x06D, 0x06D, .r⟩,
  ⟨0x06E, 0x070, .s⟩,
  ⟨0x080, 0x084, .s⟩,
  ⟨0x085, 0x085, .r⟩,
  ⟨0x086, 0x090, .s⟩,
  ⟨0x0A0, 0x0A0, .i⟩,
  ⟨0x0A1, 0x0A1, .s⟩,
  ⟨0x0A2, 0x0A2, .i⟩,
  ⟨0x0A3, 0x0A3, .s⟩,
  ⟨0x0A4, 0x0A4, .i⟩,
  ⟨0x0A5, 0x0A5, .w⟩,
  ⟨0x0A6, 0x0A6, .s⟩,
  ⟨0x0A7, 0x0A7, .none⟩,
  ⟨0x0A8, 0x0A9, .w⟩,
  ⟨0x0AA, 0x0AA, .i⟩,
  ⟨0x0C0, 0x0C2, .w⟩,
  ⟨0x0C3, 0x0C3, .none⟩,
  ⟨0x0C4, 0x0CF, .w⟩,
  ⟨0x0D0, 0x0D4, .r⟩,
  ⟨0x0D5, 0x0D7, .s⟩,
  ⟨0x0E0, 0x0E1, .s⟩,
  ⟨0x0E2, 0x0E5, .i⟩,
  ⟨0x100, 0x118, .r⟩,
  ⟨0x120, 0x126, .r⟩,
  ⟨0x127, 0x127, .s⟩,
  ⟨0x128, 0x129, .r⟩,
  ⟨0x140, 0x140, .r⟩,
  ⟨0x141, 0x141, .s⟩,
  ⟨0x142, 0x147, .r⟩,
  ⟨0x160, 0x162, .r⟩,
  ⟨0x163, 0x164, .s⟩,
  ⟨0x165, 0x165, .r⟩,
  ⟨0x166, 0x166, .none⟩,
  ⟨0x167, 0x167, .s⟩,
  ⟨0x168, 0x168, .none⟩,
  ⟨0x180, 0x181, .r⟩,
  ⟨0x182, 0x184, .s⟩,
  ⟨0x185, 0x185, .r⟩,
  ⟨0x186, 0x186, .s⟩,
  ⟨0x187, 0x187, .r⟩,
  ⟨0x188, 0x189, .s⟩,
  ⟨0x1A0, 0x1A0, .s⟩,
  ⟨0x1A1, 0x1A1, .none⟩,
  ⟨0x1A2, 0x1A2, .r⟩,
  ⟨0x1A3, 0x1A3, .s⟩,
  ⟨0x1A4, 0x1A4, .none⟩,
  ⟨0x1A5, 0x1A5, .r⟩,
  ⟨0x1A6, 0x1A6, .s⟩,
  ⟨0x1E0, 0x1E0, .none⟩,
  ⟨0x1E1, 0x1E2, .i⟩,
  ⟨0x1E3, 0x1E5, .s⟩,
  ⟨0x1E6, 0x1E8, .r⟩,
  ⟨0x1E9, 0x1EA, .s⟩,
  ⟨0x1EB, 0x1EB, .none⟩,
  ⟨0x1EC, 0x1ED, .s⟩,
  ⟨0x1EE, 0x1EE, .r⟩,
  ⟨0x1EF, 0x1EF, .none⟩]

/-- The tail kind of an opcode, or nothing where it is unassigned (R147, R148). -/
def opKind (opc : Nat) : Option TailKind := (opRuns.find? (fun r => r.lo ≤ opc && opc ≤ r.hi)).map (·.kind)

/-- An opcode of the privileged group (R148). -/
def isPrivOpc (opc : Nat) : Bool := 0x1E0 ≤ opc && opc ≤ 0x1EF

/-- The fields of a head and its tail: f is f6 or f17, imm is imm27 or imm32; a field the tail has not is 0. -/
structure Fields where
  opc : Nat
  d   : Nat
  sa  : Nat
  sb  : Nat
  sc  : Nat
  f   : Nat
  imm : Nat
deriving DecidableEq, Repr

/-- The opcode and d of a head, with the fields of its tail (Tables 7-2 and 7-3). -/
def unpack (k : TailKind) (head tail : Nat) : Fields :=
  let o := head / 32 % 512
  let d := head % 32
  match k with
  | .none => ⟨o, d, 0, 0, 0, 0, 0⟩
  | .s => ⟨o, d, tail / 2048 % 32, tail / 64 % 32, 0, tail % 64, 0⟩
  | .r => ⟨o, d, tail / 134217728 % 32, tail / 4194304 % 32, tail / 131072 % 32, tail % 131072, 0⟩
  | .i => ⟨o, d, tail / 134217728 % 32, 0, 0, 0, tail % 134217728⟩
  | .w => ⟨o, d, tail / 8796093022208 % 32, tail / 274877906944 % 32, 0, tail / 4294967296 % 64, tail % 4294967296⟩

/-- The tail of given fields (Table 7-3). -/
def packTail (k : TailKind) (x : Fields) : Nat :=
  match k with
  | .none => 0
  | .s => x.sa * 2048 + x.sb * 64 + x.f
  | .r => x.sa * 134217728 + x.sb * 4194304 + x.sc * 131072 + x.f
  | .i => x.sa * 134217728 + x.imm
  | .w => x.sa * 8796093022208 + x.sb * 274877906944 + x.f * 4294967296 + x.imm

/-- The head of given fields (Table 7-2). -/
def packHead (k : TailKind) (x : Fields) : Nat := k.tc * 16384 + x.opc * 32 + x.d

/-! ## Opcodes -/

/-- The rows of control (R157 to R165). -/
def decodeControl (x : Fields) : Option Instr :=
  match x.opc with
  | 0x000 => if x.d == 0 then some .nop else none
  | 0x001 => if x.d == 0 then some .rlx else none
  | 0x002 => if x.d == 0 then some .halt else none
  | 0x003 => if x.d == 0 then some .yield else none
  | 0x004 => if x.sa == 30 then some (.br (BitVec.ofNat 5 x.d) (btarget x.imm)) else none
  | 0x005 => if x.sa == 30 then some (.brn (BitVec.ofNat 5 x.d) (btarget x.imm)) else none
  | 0x006 => do let a ← Operand.ofCode? x.sa; if x.d == 0 && x.sb == 30 && x.f == 0 then some (.jmp a) else none
  | 0x007 => if x.d == 0 && x.sa == 30 then some (.call (btarget x.imm)) else none
  | 0x008 => do let a ← Operand.ofCode? x.sa; if x.d == 0 && x.sb == 30 && x.f == 0 then some (.callr a) else none
  | 0x009 => if x.d == 0 then some .ret else none
  | 0x00A => do let d ← fin? 16 x.d; if x.sa == 30 then some (.loop d (btarget x.imm)) else none
  | 0x00B => if x.d == 0 && x.sa == 30 && x.sb == 30 then some (.trap (BitVec.ofNat 6 x.f)) else none
  | 0x00C => if x.d == 0 then some .brk else none
  | 0x00D => if x.d == 0 then some .xret else none
  | 0x00E => if x.d == 0 && x.sa == 30 && x.sb == 30 then some (.scall (BitVec.ofNat 6 x.f)) else none
  | _ => none

/-- The rows of integer register (R166). -/
def decodeInteger (x : Fields) : Option Instr :=
  match x.opc with
  | 0x020 => do
    let d ← Operand.dst? x.d
    let a ← Operand.ofCode? x.sa
    let b ← Operand.ofCode? x.sb
    if x.f < 2 then some (.add d a b (bit x.f 0)) else none
  | 0x021 => do
    let d ← Operand.dst? x.d
    let a ← Operand.ofCode? x.sa
    let b ← Operand.ofCode? x.sb
    if x.f < 2 then some (.sub d a b (bit x.f 0)) else none
  | 0x022 => do
    let d ← Operand.dst? x.d
    let a ← Operand.ofCode? x.sa
    let b ← Operand.ofCode? x.sb
    if x.f < 2 then some (.and d a b (bit x.f 0)) else none
  | 0x023 => do
    let d ← Operand.dst? x.d
    let a ← Operand.ofCode? x.sa
    let b ← Operand.ofCode? x.sb
    if x.f < 2 then some (.or d a b (bit x.f 0)) else none
  | 0x024 => do
    let d ← Operand.dst? x.d
    let a ← Operand.ofCode? x.sa
    let b ← Operand.ofCode? x.sb
    if x.f < 2 then some (.xor d a b (bit x.f 0)) else none
  | 0x025 => do
    let d ← Operand.dst? x.d
    let a ← Operand.ofCode? x.sa
    let b ← Operand.ofCode? x.sb
    if x.f < 2 then some (.andn d a b (bit x.f 0)) else none
  | 0x026 => do
    let d ← Operand.dst? x.d
    let a ← Operand.ofCode? x.sa
    let b ← Operand.ofCode? x.sb
    if x.f < 2 then some (.shl d a b (bit x.f 0)) else none
  | 0x027 => do
    let d ← Operand.dst? x.d
    let a ← Operand.ofCode? x.sa
    let b ← Operand.ofCode? x.sb
    if x.f < 2 then some (.shr d a b (bit x.f 0)) else none
  | 0x028 => do
    let d ← Operand.dst? x.d
    let a ← Operand.ofCode? x.sa
    let b ← Operand.ofCode? x.sb
    if x.f < 2 then some (.sra d a b (bit x.f 0)) else none
  | 0x029 => do
    let d ← Operand.dst? x.d
    let a ← Operand.ofCode? x.sa
    let b ← Operand.ofCode? x.sb
    if x.f < 2 then some (.rotl d a b (bit x.f 0)) else none
  | 0x02A => do
    let d ← Operand.dst? x.d
    let a ← Operand.ofCode? x.sa
    let b ← Operand.ofCode? x.sb
    if x.f < 2 then some (.mul d a b (bit x.f 0)) else none
  | 0x02B => do
    let d ← Operand.dst? x.d
    let a ← Operand.ofCode? x.sa
    let b ← Operand.ofCode? x.sb
    if x.f < 2 then some (.mulh d a b (bit x.f 0)) else none
  | 0x02C => do
    let d ← Operand.dst? x.d
    let a ← Operand.ofCode? x.sa
    let b ← Operand.ofCode? x.sb
    if x.f < 2 then some (.mulhu d a b (bit x.f 0)) else none
  | 0x02D => do
    let d ← Operand.dst? x.d
    let a ← Operand.ofCode? x.sa
    let b ← Operand.ofCode? x.sb
    if x.f < 2 then some (.div d a b (bit x.f 0)) else none
  | 0x02E => do
    let d ← Operand.dst? x.d
    let a ← Operand.ofCode? x.sa
    let b ← Operand.ofCode? x.sb
    if x.f < 2 then some (.divu d a b (bit x.f 0)) else none
  | 0x02F => do
    let d ← Operand.dst? x.d
    let a ← Operand.ofCode? x.sa
    let b ← Operand.ofCode? x.sb
    if x.f < 2 then some (.rem d a b (bit x.f 0)) else none
  | 0x030 => do
    let d ← Operand.dst? x.d
    let a ← Operand.ofCode? x.sa
    let b ← Operand.ofCode? x.sb
    if x.f < 2 then some (.remu d a b (bit x.f 0)) else none
  | 0x031 => do
    let d ← Operand.dst? x.d
    let a ← Operand.ofCode? x.sa
    let b ← Operand.ofCode? x.sb
    if x.f < 2 then some (.min d a b (bit x.f 0)) else none
  | 0x032 => do
    let d ← Operand.dst? x.d
    let a ← Operand.ofCode? x.sa
    let b ← Operand.ofCode? x.sb
    if x.f < 2 then some (.max d a b (bit x.f 0)) else none
  | 0x033 => do
    let d ← Operand.dst? x.d
    let a ← Operand.ofCode? x.sa
    let b ← Operand.ofCode? x.sb
    if x.f < 2 then some (.minu d a b (bit x.f 0)) else none
  | 0x034 => do
    let d ← Operand.dst? x.d
    let a ← Operand.ofCode? x.sa
    let b ← Operand.ofCode? x.sb
    if x.f < 2 then some (.maxu d a b (bit x.f 0)) else none
  | 0x035 => do
    let d ← Operand.dst? x.d
    let a ← Operand.ofCode? x.sa
    let b ← Operand.ofCode? x.sb
    if x.f < 2 then some (.adds d a b (bit x.f 0)) else none
  | 0x036 => do
    let d ← Operand.dst? x.d
    let a ← Operand.ofCode? x.sa
    let b ← Operand.ofCode? x.sb
    if x.f < 2 then some (.subs d a b (bit x.f 0)) else none
  | 0x037 => do
    let d ← Operand.dst? x.d
    let a ← Operand.ofCode? x.sa
    if x.sb == 30 && x.f < 2 then some (.clz d a (bit x.f 0)) else none
  | 0x038 => do
    let d ← Operand.dst? x.d
    let a ← Operand.ofCode? x.sa
    if x.sb == 30 && x.f < 2 then some (.ctz d a (bit x.f 0)) else none
  | 0x039 => do
    let d ← Operand.dst? x.d
    let a ← Operand.ofCode? x.sa
    if x.sb == 30 && x.f < 2 then some (.popc d a (bit x.f 0)) else none
  | 0x03A => do
    let d ← Operand.dst? x.d
    let a ← Operand.ofCode? x.sa
    let b ← Operand.ofCode? x.sb
    if x.f < 2 then some (.sext d a b (bit x.f 0)) else none
  | 0x03B => do
    let d ← Operand.dst? x.d
    let a ← Operand.ofCode? x.sa
    let b ← Operand.ofCode? x.sb
    if x.f < 2 then some (.zext d a b (bit x.f 0)) else none
  | 0x03C => do
    let d ← Operand.dst? x.d
    let a ← Operand.ofCode? x.sa
    if x.sb == 30 && x.f < 2 then some (.bswp d a (bit x.f 0)) else none
  | 0x03D => do
    let d ← Operand.dst? x.d
    let a ← Operand.ofCode? x.sa
    if x.sb == 30 && x.f < 2 then some (.mov d a (bit x.f 0)) else none
  | _ => none

/-- The rows of immediates and moves (R167 to R170). -/
def decodeImmediate (x : Fields) : Option Instr :=
  match x.opc with
  | 0x040 => do let d ← Operand.dst? x.d; let a ← Operand.ofCode? x.sa; some (.addi d a (BitVec.ofNat 27 x.imm))
  | 0x041 => do let d ← Operand.dst? x.d; let a ← Operand.ofCode? x.sa; some (.andi d a (BitVec.ofNat 27 x.imm))
  | 0x042 => do let d ← Operand.dst? x.d; let a ← Operand.ofCode? x.sa; some (.ori d a (BitVec.ofNat 27 x.imm))
  | 0x043 => do let d ← Operand.dst? x.d; let a ← Operand.ofCode? x.sa; some (.xori d a (BitVec.ofNat 27 x.imm))
  | 0x044 => do
    let d ← Operand.dst? x.d
    let a ← Operand.ofCode? x.sa
    if x.imm < 64 then some (.shli d a (BitVec.ofNat 6 x.imm)) else none
  | 0x045 => do
    let d ← Operand.dst? x.d
    let a ← Operand.ofCode? x.sa
    if x.imm < 64 then some (.shri d a (BitVec.ofNat 6 x.imm)) else none
  | 0x046 => do
    let d ← Operand.dst? x.d
    let a ← Operand.ofCode? x.sa
    if x.imm < 64 then some (.srai d a (BitVec.ofNat 6 x.imm)) else none
  | 0x047 => do let d ← Operand.dst? x.d; let a ← Operand.ofCode? x.sa; some (.muli d a (BitVec.ofNat 27 x.imm))
  | 0x048 => do
    let d ← Operand.dst? x.d
    if x.sa == 30 && x.sb == 30 && x.f == 0 then some (.movi d (BitVec.ofNat 32 x.imm)) else none
  | 0x049 => do
    let d ← RegName.ofCode? x.d
    if x.sa == 30 && x.sb == 30 && x.f == 0 then some (.movh d (BitVec.ofNat 32 x.imm)) else none
  | 0x04A => do let d ← Operand.dst? x.d; if x.sa == 30 then some (.adr d (btarget x.imm)) else none
  | 0x04B => do let d ← RegName.ofCode? x.d; some (.empt d)
  | _ => none

/-- The rows of compares and predicates (R171 to R175). -/
def decodeCompare (x : Fields) : Option Instr :=
  match x.opc with
  | 0x060 => do
    let a ← Operand.ofCode? x.sa
    let b ← Operand.ofCode? x.sb
    if x.f == 0 then some (.ceq (BitVec.ofNat 5 x.d) a b) else none
  | 0x061 => do
    let a ← Operand.ofCode? x.sa
    let b ← Operand.ofCode? x.sb
    if x.f == 0 then some (.cne (BitVec.ofNat 5 x.d) a b) else none
  | 0x062 => do
    let a ← Operand.ofCode? x.sa
    let b ← Operand.ofCode? x.sb
    if x.f == 0 then some (.clt (BitVec.ofNat 5 x.d) a b) else none
  | 0x063 => do
    let a ← Operand.ofCode? x.sa
    let b ← Operand.ofCode? x.sb
    if x.f == 0 then some (.cle (BitVec.ofNat 5 x.d) a b) else none
  | 0x064 => do
    let a ← Operand.ofCode? x.sa
    let b ← Operand.ofCode? x.sb
    if x.f == 0 then some (.cltu (BitVec.ofNat 5 x.d) a b) else none
  | 0x065 => do
    let a ← Operand.ofCode? x.sa
    let b ← Operand.ofCode? x.sb
    if x.f == 0 then some (.cleu (BitVec.ofNat 5 x.d) a b) else none
  | 0x066 => do let a ← Operand.ofCode? x.sa; some (.ceqi (BitVec.ofNat 5 x.d) a (BitVec.ofNat 27 x.imm))
  | 0x067 => do let a ← Operand.ofCode? x.sa; some (.clti (BitVec.ofNat 5 x.d) a (BitVec.ofNat 27 x.imm))
  | 0x068 => do let a ← Operand.ofCode? x.sa; some (.cltui (BitVec.ofNat 5 x.d) a (BitVec.ofNat 27 x.imm))
  | 0x069 => if x.f < 4 then some (.pand (BitVec.ofNat 5 x.d) (BitVec.ofNat 5 x.sa) (BitVec.ofNat 5 x.sb) (bit x.f 0) (bit x.f 1)) else none
  | 0x06A => if x.f < 4 then some (.por (BitVec.ofNat 5 x.d) (BitVec.ofNat 5 x.sa) (BitVec.ofNat 5 x.sb) (bit x.f 0) (bit x.f 1)) else none
  | 0x06B => if x.f < 4 then some (.pxor (BitVec.ofNat 5 x.d) (BitVec.ofNat 5 x.sa) (BitVec.ofNat 5 x.sb) (bit x.f 0) (bit x.f 1)) else none
  | 0x06C => if x.sb == 0 && x.f == 0 then some (.pnot (BitVec.ofNat 5 x.d) (BitVec.ofNat 5 x.sa)) else none
  | 0x06D => do
    let d ← Operand.dst? x.d
    let a ← Operand.ofCode? x.sa
    let b ← Operand.ofCode? x.sb
    if x.sc == 30 && x.f < 32 then some (.sel d a b (BitVec.ofNat 5 x.f)) else none
  | 0x06E => do let d ← Operand.dst? x.d; if x.sa == 30 && x.sb == 30 && x.f == 0 then some (.pget d) else none
  | 0x06F => do let a ← Operand.ofCode? x.sa; if x.d == 0 && x.sb == 30 && x.f == 0 then some (.pset a) else none
  | 0x070 => do
    let a ← RegName.ofCode? x.sa
    if x.sb == 30 && x.f == 0 then some (.tfull (BitVec.ofNat 5 x.d) a) else none
  | _ => none

/-- The rows of scalar floating point (R176 to R181). -/
def decodeFloat (x : Fields) : Option Instr :=
  match x.opc with
  | 0x080 => do
    let d ← Operand.dst? x.d
    let a ← Operand.ofCode? x.sa
    let b ← Operand.ofCode? x.sb
    let f ← FFmt.ofCode? x.f
    some (.fadd d a b f)
  | 0x081 => do
    let d ← Operand.dst? x.d
    let a ← Operand.ofCode? x.sa
    let b ← Operand.ofCode? x.sb
    let f ← FFmt.ofCode? x.f
    some (.fsub d a b f)
  | 0x082 => do
    let d ← Operand.dst? x.d
    let a ← Operand.ofCode? x.sa
    let b ← Operand.ofCode? x.sb
    let f ← FFmt.ofCode? x.f
    some (.fmul d a b f)
  | 0x083 => do
    let d ← Operand.dst? x.d
    let a ← Operand.ofCode? x.sa
    let b ← Operand.ofCode? x.sb
    let f ← FFmt.ofCode? x.f
    some (.fdiv d a b f)
  | 0x084 => do
    let d ← Operand.dst? x.d
    let a ← Operand.ofCode? x.sa
    let f ← FFmt.ofCode? x.f
    if x.sb == 30 then some (.fsqrt d a f) else none
  | 0x085 => do
    let d ← Operand.dst? x.d
    let a ← Operand.ofCode? x.sa
    let b ← Operand.ofCode? x.sb
    let c ← Operand.ofCode? x.sc
    let f ← FFmt.ofCode? x.f
    some (.fma d a b c f)
  | 0x086 => do
    let d ← Operand.dst? x.d
    let a ← Operand.ofCode? x.sa
    let b ← Operand.ofCode? x.sb
    let f ← FFmt.ofCode? x.f
    some (.fmin d a b f)
  | 0x087 => do
    let d ← Operand.dst? x.d
    let a ← Operand.ofCode? x.sa
    let b ← Operand.ofCode? x.sb
    let f ← FFmt.ofCode? x.f
    some (.fmax d a b f)
  | 0x088 => do
    let d ← Operand.dst? x.d
    let a ← Operand.ofCode? x.sa
    let f ← FFmt.ofCode? x.f
    if x.sb == 30 then some (.fabs d a f) else none
  | 0x089 => do
    let d ← Operand.dst? x.d
    let a ← Operand.ofCode? x.sa
    let f ← FFmt.ofCode? x.f
    if x.sb == 30 then some (.fneg d a f) else none
  | 0x08A => do
    let a ← Operand.ofCode? x.sa
    let b ← Operand.ofCode? x.sb
    let f ← FFmt.ofCode? x.f
    some (.fceq (BitVec.ofNat 5 x.d) a b f)
  | 0x08B => do
    let a ← Operand.ofCode? x.sa
    let b ← Operand.ofCode? x.sb
    let f ← FFmt.ofCode? x.f
    some (.fclt (BitVec.ofNat 5 x.d) a b f)
  | 0x08C => do
    let a ← Operand.ofCode? x.sa
    let b ← Operand.ofCode? x.sb
    let f ← FFmt.ofCode? x.f
    some (.fcle (BitVec.ofNat 5 x.d) a b f)
  | 0x08D => do
    let d ← Operand.dst? x.d
    let a ← Operand.ofCode? x.sa
    let f ← FFmt.ofCode? (x.f % 8)
    let s ← FcvtSel.ofCode? (x.f / 8)
    if x.sb == 30 then some (.fcvt d a f s) else none
  | 0x08E => do
    let d ← Operand.dst? x.d
    let a ← Operand.ofCode? x.sa
    let f ← FFmt.ofCode? (x.f % 8)
    let t ← ITy.ofCode? (x.f / 8)
    if x.sb == 30 then some (.fcvti d a f t) else none
  | 0x08F => do
    let d ← Operand.dst? x.d
    let a ← Operand.ofCode? x.sa
    let f ← FFmt.ofCode? (x.f % 8)
    let t ← ITy.ofCode? (x.f / 8)
    if x.sb == 30 then some (.icvtf d a f t) else none
  | 0x090 => do
    let d ← Operand.dst? x.d
    let a ← Operand.ofCode? x.sa
    let f ← FFmt.ofCode? x.f
    if x.sb == 30 then some (.fclass d a f) else none
  | _ => none

/-- The rows of loads and stores (R182, R129). -/
def decodeMemory (x : Fields) : Option Instr :=
  match x.opc with
  | 0x0A0 => do
    let d ← Operand.dst? x.d
    let a ← ptr? x.sa
    let z ← Size.ofCode? (x.imm / 16777216)
    some (.ld d a z (BitVec.ofNat 24 x.imm))
  | 0x0A1 => do
    let d ← Operand.dst? x.d
    let a ← ptr? x.sa
    let z ← Size.ofCode? x.f
    if x.sb == 30 then some (.ldpi d a z) else none
  | 0x0A2 => do
    let d ← Operand.ofCode? x.d
    let a ← ptr? x.sa
    let z ← StSize.ofCode? (x.imm / 16777216)
    some (.st d a z (BitVec.ofNat 24 x.imm))
  | 0x0A3 => do
    let d ← Operand.ofCode? x.d
    let a ← ptr? x.sa
    let z ← StSize.ofCode? x.f
    if x.sb == 30 then some (.stpi d a z) else none
  | 0x0A4 => do
    let d ← RegName.ofCode? x.d
    let a ← ptr? x.sa
    let z ← Size.ofCode? (x.imm / 16777216)
    some (.lda d a z (BitVec.ofNat 24 x.imm))
  | 0x0A5 => do
    let d ← Operand.dst? x.d
    let a ← ptr? x.sa
    let z ← Size.ofCode? (x.imm / 536870912)
    if x.sb == 30 && x.f % 2 == 0 then some (.ldx d a z (BitVec.ofNat 5 (x.f / 2)) (BitVec.ofNat 29 x.imm)) else none
  | 0x0A6 => do let a ← ptr? x.sa; if x.d == 0 && x.sb == 30 && x.f == 0 then some (.erase a) else none
  | 0x0A7 => do let d ← Scope.ofCode? x.d; some (.fence d)
  | 0x0A8 => do
    let d ← Operand.dst? x.d
    let a ← ptr? x.sa
    let s ← Scope.ofCode? (x.f / 8)
    let z ← Size.ofCode? (x.f % 8)
    if x.sb == 30 then some (.ldaq d a z s (BitVec.ofNat 32 x.imm)) else none
  | 0x0A9 => do
    let d ← Operand.ofCode? x.d
    let a ← ptr? x.sa
    let s ← Scope.ofCode? (x.f / 8)
    let z ← StSize.ofCode? (x.f % 8)
    if x.sb == 30 then some (.strel d a z s (BitVec.ofNat 32 x.imm)) else none
  | 0x0AA => do
    let a ← ptr? x.sa
    let z ← Size.ofCode? (x.imm / 16777216)
    if x.d == 0 then some (.pref a z (BitVec.ofNat 24 x.imm)) else none
  | _ => none

/-- The rows of atomics, reductions and counters (R182, R192 to R197). -/
def decodeAtomic (x : Fields) : Option Instr :=
  match x.opc with
  | 0x0C0 => do
    let d ← Operand.dst? x.d
    let a ← ptr? x.sa
    let s ← Scope.ofCode? (x.f / 8)
    if x.sb == 30 then some (.rsv d a ⟨s, bit x.f 2, bit x.f 1, bit x.f 0, BitVec.ofNat 32 x.imm⟩) else none
  | 0x0C1 => do
    let d ← Operand.dst? x.d
    let a ← ptr? x.sa
    let b ← Operand.ofCode? x.sb
    let s ← Scope.ofCode? (x.f / 8)
    some (.rls d a b ⟨s, bit x.f 2, bit x.f 1, bit x.f 0, BitVec.ofNat 32 x.imm⟩)
  | 0x0C2 => do
    let d ← Operand.dst? x.d
    let a ← ptr? x.sa
    let s ← Scope.ofCode? (x.f / 8)
    if x.sb == 30 then some (.rlsn d a ⟨s, bit x.f 2, bit x.f 1, bit x.f 0, BitVec.ofNat 32 x.imm⟩) else none
  | 0x0C3 => if x.d == 0 then some .waitrs else none
  | 0x0C4 => do
    let d ← Operand.dst? x.d
    let a ← ptr? x.sa
    let b ← Operand.ofCode? x.sb
    let s ← Scope.ofCode? (x.f / 8)
    some (.aadd d a b ⟨s, bit x.f 2, bit x.f 1, bit x.f 0, BitVec.ofNat 32 x.imm⟩)
  | 0x0C5 => do
    let d ← Operand.dst? x.d
    let a ← ptr? x.sa
    let b ← Operand.ofCode? x.sb
    let s ← Scope.ofCode? (x.f / 8)
    some (.aand d a b ⟨s, bit x.f 2, bit x.f 1, bit x.f 0, BitVec.ofNat 32 x.imm⟩)
  | 0x0C6 => do
    let d ← Operand.dst? x.d
    let a ← ptr? x.sa
    let b ← Operand.ofCode? x.sb
    let s ← Scope.ofCode? (x.f / 8)
    some (.aor d a b ⟨s, bit x.f 2, bit x.f 1, bit x.f 0, BitVec.ofNat 32 x.imm⟩)
  | 0x0C7 => do
    let d ← Operand.dst? x.d
    let a ← ptr? x.sa
    let b ← Operand.ofCode? x.sb
    let s ← Scope.ofCode? (x.f / 8)
    some (.axor d a b ⟨s, bit x.f 2, bit x.f 1, bit x.f 0, BitVec.ofNat 32 x.imm⟩)
  | 0x0C8 => do
    let d ← Operand.dst? x.d
    let a ← ptr? x.sa
    let b ← Operand.ofCode? x.sb
    let s ← Scope.ofCode? (x.f / 8)
    some (.amin d a b ⟨s, bit x.f 2, bit x.f 1, bit x.f 0, BitVec.ofNat 32 x.imm⟩)
  | 0x0C9 => do
    let d ← Operand.dst? x.d
    let a ← ptr? x.sa
    let b ← Operand.ofCode? x.sb
    let s ← Scope.ofCode? (x.f / 8)
    some (.amax d a b ⟨s, bit x.f 2, bit x.f 1, bit x.f 0, BitVec.ofNat 32 x.imm⟩)
  | 0x0CA => do
    let d ← Operand.dst? x.d
    let a ← ptr? x.sa
    let b ← Operand.ofCode? x.sb
    let s ← Scope.ofCode? (x.f / 8)
    some (.aminu d a b ⟨s, bit x.f 2, bit x.f 1, bit x.f 0, BitVec.ofNat 32 x.imm⟩)
  | 0x0CB => do
    let d ← Operand.dst? x.d
    let a ← ptr? x.sa
    let b ← Operand.ofCode? x.sb
    let s ← Scope.ofCode? (x.f / 8)
    some (.amaxu d a b ⟨s, bit x.f 2, bit x.f 1, bit x.f 0, BitVec.ofNat 32 x.imm⟩)
  | 0x0CC => do
    let d ← Operand.dst? x.d
    let a ← ptr? x.sa
    let b ← Operand.ofCode? x.sb
    let s ← Scope.ofCode? (x.f / 8)
    some (.aswp d a b ⟨s, bit x.f 2, bit x.f 1, bit x.f 0, BitVec.ofNat 32 x.imm⟩)
  | 0x0CD => do
    let d ← RegName.ofCode? x.d
    let a ← ptr? x.sa
    let b ← Operand.ofCode? x.sb
    let s ← Scope.ofCode? (x.f / 8)
    some (.cas d a b ⟨s, bit x.f 2, bit x.f 1, bit x.f 0, BitVec.ofNat 32 x.imm⟩)
  | 0x0CE => do
    let d ← Operand.dst? x.d
    let a ← ptr? x.sa
    let b ← Operand.ofCode? x.sb
    let s ← Scope.ofCode? (x.f / 8)
    some (.aincb d a b ⟨s, bit x.f 2, bit x.f 1, bit x.f 0, BitVec.ofNat 32 x.imm⟩)
  | 0x0CF => do
    let d ← Operand.dst? x.d
    let a ← ptr? x.sa
    let b ← Operand.ofCode? x.sb
    let s ← Scope.ofCode? (x.f / 8)
    some (.afadd d a b ⟨s, bit x.f 2, bit x.f 1, bit x.f 0, BitVec.ofNat 32 x.imm⟩)
  | 0x0D0 => do
    let a ← ptr? x.sa
    let b ← Operand.ofCode? x.sb
    if x.d < 8 && x.sc == 30 then some (.redadd (BitVec.ofNat 3 x.d) a b (bit x.f 16) (BitVec.ofNat 16 x.f)) else none
  | 0x0D1 => do
    let a ← ptr? x.sa
    let b ← Operand.ofCode? x.sb
    if x.d < 8 && x.sc == 30 then some (.redmin (BitVec.ofNat 3 x.d) a b (bit x.f 16) (BitVec.ofNat 16 x.f)) else none
  | 0x0D2 => do
    let a ← ptr? x.sa
    let b ← Operand.ofCode? x.sb
    if x.d < 8 && x.sc == 30 then some (.redmax (BitVec.ofNat 3 x.d) a b (bit x.f 16) (BitVec.ofNat 16 x.f)) else none
  | 0x0D3 => do
    let a ← ptr? x.sa
    let b ← Operand.ofCode? x.sb
    if x.d < 8 && x.sc == 30 then some (.redfadd (BitVec.ofNat 3 x.d) a b (bit x.f 16) (BitVec.ofNat 16 x.f)) else none
  | 0x0D4 => do
    let d ← Operand.dst? x.d
    let a ← ptr? x.sa
    let b ← Operand.ofCode? x.sb
    if x.sc == 30 then some (.pcadd d a b (bit x.f 16) (BitVec.ofNat 16 x.f)) else none
  | 0x0D5 => do
    let d ← Operand.dst? x.d
    let a ← ptr? x.sa
    if x.sb == 30 && x.f < 2 then some (.pcrd d a (bit x.f 0)) else none
  | 0x0D6 => do
    let d ← Operand.dst? x.d
    let a ← ptr? x.sa
    let b ← fin? 16 x.sb
    if x.f < 2 then some (.pcmrg d a b (bit x.f 0)) else none
  | 0x0D7 => do
    let d ← Operand.dst? x.d
    let a ← ptr? x.sa
    if x.f < 2 then (if x.sb == 30 then some (.pclv d a (bit x.f 0)) else none)
    else if x.f < 4 then (do let b ← Operand.ofCode? x.sb; some (.pclvSet d a b (bit x.f 0)))
    else none
  | _ => none

/-- The rows of segments and CSRs (R54, R55). -/
def decodeSystem (x : Fields) : Option Instr :=
  match x.opc with
  | 0x0E0 => do
    let d ← Operand.dst? x.d
    let k ← fin? 8 (x.f % 8)
    let s ← SegField.ofCode? (x.f / 8)
    if x.sa == 30 && x.sb == 30 then some (.segrd d k s) else none
  | 0x0E1 => do
    let d ← fin? 8 x.d
    let a ← Operand.ofCode? x.sa
    let b ← Operand.ofCode? x.sb
    if x.f < 8 then some (.segnw d a b (BitVec.ofNat 3 x.f)) else none
  | 0x0E2 => do
    let d ← Operand.dst? x.d
    if x.sa == 30 && x.imm < 4096 then some (.csrr d (BitVec.ofNat 12 x.imm)) else none
  | 0x0E3 => do
    let d ← Operand.dst? x.d
    let a ← Operand.ofCode? x.sa
    if x.imm < 4096 then some (.csrw d a (BitVec.ofNat 12 x.imm)) else none
  | 0x0E4 => do
    let d ← Operand.dst? x.d
    let a ← Operand.ofCode? x.sa
    if x.imm < 4096 then some (.csrset d a (BitVec.ofNat 12 x.imm)) else none
  | 0x0E5 => do
    let d ← Operand.dst? x.d
    let a ← Operand.ofCode? x.sa
    if x.imm < 4096 then some (.csrclr d a (BitVec.ofNat 12 x.imm)) else none
  | _ => none

/-- The rows of vector arithmetic (R202, R153). -/
def decodeVector (x : Fields) : Option Instr :=
  match x.opc with
  | 0x100 => do
    let d ← strm? x.d (bit x.f 9)
    let a ← strm? x.sa (bit x.f 8)
    let y ← vsrc? x.sb x.f
    if low5 x.f && x.sc == 30 && !bit x.f 6 then some (.vadd (vfmt x.f) (ectl x.f) d a y) else none
  | 0x101 => do
    let d ← strm? x.d (bit x.f 9)
    let a ← strm? x.sa (bit x.f 8)
    let y ← vsrc? x.sb x.f
    if low5 x.f && x.sc == 30 && !bit x.f 6 then some (.vsub (vfmt x.f) (ectl x.f) d a y) else none
  | 0x102 => do
    let d ← strm? x.d (bit x.f 9)
    let a ← strm? x.sa (bit x.f 8)
    let y ← vsrc? x.sb x.f
    if low5 x.f && x.sc == 30 && !bit x.f 6 then some (.vmul (vfmt x.f) (ectl x.f) d a y) else none
  | 0x103 => do
    let d ← strm? x.d (bit x.f 9)
    let a ← strm? x.sa (bit x.f 8)
    let y ← vsrc? x.sb x.f
    let z ← strm? x.sc (bit x.f 6)
    if low5 x.f then some (.vfma (vfmt x.f) (ectl x.f) d a y z) else none
  | 0x104 => do
    let d ← strm? x.d (bit x.f 9)
    let a ← strm? x.sa (bit x.f 8)
    let y ← vsrc? x.sb x.f
    if low5 x.f && x.sc == 30 && !bit x.f 6 then some (.vmin (vfmt x.f) (ectl x.f) d a y) else none
  | 0x105 => do
    let d ← strm? x.d (bit x.f 9)
    let a ← strm? x.sa (bit x.f 8)
    let y ← vsrc? x.sb x.f
    if low5 x.f && x.sc == 30 && !bit x.f 6 then some (.vmax (vfmt x.f) (ectl x.f) d a y) else none
  | 0x106 => do
    let d ← strm? x.d (bit x.f 9)
    let a ← strm? x.sa (bit x.f 8)
    if low5 x.f && x.sb == 30 && !bit x.f 7 && !bit x.f 5 && x.sc == 30 && !bit x.f 6 then some (.vabs (vfmt x.f) (ectl x.f) d a) else none
  | 0x107 => do
    let d ← strm? x.d (bit x.f 9)
    let a ← strm? x.sa (bit x.f 8)
    if low5 x.f && x.sb == 30 && !bit x.f 7 && !bit x.f 5 && x.sc == 30 && !bit x.f 6 then some (.vneg (vfmt x.f) (ectl x.f) d a) else none
  | 0x108 => do
    let d ← strm? x.d (bit x.f 9)
    let a ← strm? x.sa (bit x.f 8)
    let y ← vsrc? x.sb x.f
    if low5 x.f && x.sc == 30 && !bit x.f 6 && (vfmt x.f).isFloat then some (.vdiv (vfmt x.f) (ectl x.f) d a y) else none
  | 0x109 => do
    let d ← strm? x.d (bit x.f 9)
    let a ← strm? x.sa (bit x.f 8)
    if low5 x.f && x.sb == 30 && !bit x.f 7 && !bit x.f 5 && x.sc == 30 && !bit x.f 6 && (vfmt x.f).isFloat then some (.vsqrt (vfmt x.f) (ectl x.f) d a) else none
  | 0x10A => do
    let d ← strm? x.d (bit x.f 9)
    let a ← strm? x.sa (bit x.f 8)
    if low5 x.f && x.sb == 30 && !bit x.f 7 && !bit x.f 5 && x.sc == 30 && !bit x.f 6 && (vfmt x.f).isFloat then some (.vrsq (vfmt x.f) (ectl x.f) d a) else none
  | 0x10B => do
    let d ← strm? x.d (bit x.f 9)
    let a ← strm? x.sa (bit x.f 8)
    if low5 x.f && x.sb == 30 && !bit x.f 7 && !bit x.f 5 && x.sc == 30 && !bit x.f 6 && (vfmt x.f).isFloat then some (.vexp2 (vfmt x.f) (ectl x.f) d a) else none
  | 0x10C => do
    let d ← strm? x.d (bit x.f 9)
    let a ← strm? x.sa (bit x.f 8)
    let y ← vsrc? x.sb x.f
    if low5 x.f && x.sc == 30 && !bit x.f 6 && (vfmt x.f).isInt then some (.vand (vfmt x.f) (ectl x.f) d a y) else none
  | 0x10D => do
    let d ← strm? x.d (bit x.f 9)
    let a ← strm? x.sa (bit x.f 8)
    let y ← vsrc? x.sb x.f
    if low5 x.f && x.sc == 30 && !bit x.f 6 && (vfmt x.f).isInt then some (.vor (vfmt x.f) (ectl x.f) d a y) else none
  | 0x10E => do
    let d ← strm? x.d (bit x.f 9)
    let a ← strm? x.sa (bit x.f 8)
    let y ← vsrc? x.sb x.f
    if low5 x.f && x.sc == 30 && !bit x.f 6 && (vfmt x.f).isInt then some (.vxor (vfmt x.f) (ectl x.f) d a y) else none
  | 0x10F => do
    let d ← strm? x.d (bit x.f 9)
    let a ← strm? x.sa (bit x.f 8)
    let y ← vsrc? x.sb x.f
    if low5 x.f && x.sc == 30 && !bit x.f 6 && (vfmt x.f).isInt then some (.vshl (vfmt x.f) (ectl x.f) d a y) else none
  | 0x110 => do
    let d ← strm? x.d (bit x.f 9)
    let a ← strm? x.sa (bit x.f 8)
    let y ← vsrc? x.sb x.f
    if low5 x.f && x.sc == 30 && !bit x.f 6 && (vfmt x.f).isInt then some (.vshr (vfmt x.f) (ectl x.f) d a y) else none
  | 0x111 => do
    let d ← strm? x.d (bit x.f 9)
    let a ← strm? x.sa (bit x.f 8)
    let y ← vsrc? x.sb x.f
    if low5 x.f && x.sc == 30 && !bit x.f 6 && (vfmt x.f).isInt then some (.vsra (vfmt x.f) (ectl x.f) d a y) else none
  | 0x112 => do
    let d ← strm? x.d (bit x.f 9)
    let a ← strm? x.sa (bit x.f 8)
    let y ← vsrc? x.sb x.f
    if low5 x.f && x.sc == 30 && !bit x.f 6 then some (.vceq (vfmt x.f) (ectl x.f) d a y) else none
  | 0x113 => do
    let d ← strm? x.d (bit x.f 9)
    let a ← strm? x.sa (bit x.f 8)
    let y ← vsrc? x.sb x.f
    if low5 x.f && x.sc == 30 && !bit x.f 6 then some (.vclt (vfmt x.f) (ectl x.f) d a y) else none
  | 0x114 => do
    let d ← strm? x.d (bit x.f 9)
    let a ← strm? x.sa (bit x.f 8)
    let y ← vsrc? x.sb x.f
    let z ← strm? x.sc (bit x.f 6)
    if low5 x.f then some (.vsel (vfmt x.f) (ectl x.f) d a y z) else none
  | 0x115 => do
    let d ← strm? x.d (bit x.f 9)
    let a ← strm? x.sa (bit x.f 8)
    if low5 x.f && x.sb == 30 && !bit x.f 7 && !bit x.f 5 && x.sc == 30 && !bit x.f 6 then some (.vrsum (vfmt x.f) (ectl x.f) d a) else none
  | 0x116 => do
    let d ← strm? x.d (bit x.f 9)
    let a ← strm? x.sa (bit x.f 8)
    if low5 x.f && x.sb == 30 && !bit x.f 7 && !bit x.f 5 && x.sc == 30 && !bit x.f 6 then some (.vrmax (vfmt x.f) (ectl x.f) d a) else none
  | 0x117 => do
    let d ← strm? x.d (bit x.f 9)
    if low5 x.f && x.sb == 30 && !bit x.f 7 && !bit x.f 5 && x.sa == 30 && !bit x.f 8 && x.sc == 30 && !bit x.f 6 then some (.viota (vfmt x.f) (ectl x.f) d) else none
  | 0x118 => do
    let d ← strm? x.d (bit x.f 9)
    let y ← fin? 16 x.sb
    if low5 x.f && x.sa == 30 && !bit x.f 8 && x.sc == 30 && !bit x.f 6 && !bit x.f 7 && bit x.f 5 then some (.vset (vfmt x.f) (ectl x.f) d y) else none
  | _ => none

/-- The rows of vector movement (R202). -/
def decodeMove (x : Fields) : Option Instr :=
  match x.opc with
  | 0x120 => do
    let d ← strm? x.d (bit x.f 9)
    let a ← strm? x.sa (bit x.f 8)
    if low5 x.f && x.sb == 30 && !bit x.f 7 && !bit x.f 5 && x.sc == 30 && !bit x.f 6 then some (.vmov (vfmt x.f) (ectl x.f) d a) else none
  | 0x121 => do
    let d ← strm? x.d (bit x.f 9)
    let a ← strm? x.sa (bit x.f 8)
    let y ← fin? 16 x.sb
    if low5 x.f && x.sc == 30 && !bit x.f 6 && !bit x.f 7 && bit x.f 5 then some (.vcvt (vfmt x.f) (ectl x.f) d a y) else none
  | 0x122 => do
    let d ← strm? x.d (bit x.f 9)
    let a ← strm? x.sa (bit x.f 8)
    let y ← fin? 16 x.sb
    if low5 x.f && x.sc == 30 && !bit x.f 6 && !bit x.f 7 && bit x.f 5 && (vfmt x.f).isFp8 then some (.vpack (vfmt x.f) (ectl x.f) d a y) else none
  | 0x123 => do
    let d ← strm? x.d (bit x.f 9)
    let a ← strm? x.sa (bit x.f 8)
    if low5 x.f && x.sb == 30 && !bit x.f 7 && !bit x.f 5 && x.sc == 30 && !bit x.f 6 && (vfmt x.f).isFloat then some (.vunpk (vfmt x.f) (ectl x.f) d a) else none
  | 0x124 => do
    let d ← strm? x.d (bit x.f 9)
    let a ← ptr? x.sa
    let y ← strm? x.sb (bit x.f 7)
    if low5 x.f && !bit x.f 8 && !bit x.f 5 && !bit x.f 6 && bit x.f 13 && x.sc == 30 then some (.gath (vfmt x.f) (ectl x.f) d a y) else none
  | 0x125 => do
    let d ← strm? x.d (bit x.f 9)
    let a ← ptr? x.sa
    let y ← strm? x.sb (bit x.f 7)
    let n ← fin? 16 x.sc
    if low5 x.f && !bit x.f 8 && !bit x.f 5 && !bit x.f 6 && bit x.f 13 then some (.gathf (vfmt x.f) (ectl x.f) d a y n) else none
  | 0x126 => do
    let d ← ptr? x.d
    let a ← strm? x.sa (bit x.f 8)
    let y ← strm? x.sb (bit x.f 7)
    if low5 x.f && !bit x.f 9 && !bit x.f 5 && !bit x.f 6 && x.sc == 30 && bit x.f 13 then some (.scat (vfmt x.f) (ectl x.f) d a y) else none
  | 0x127 => do
    let d ← Operand.dst? x.d
    let a ← Operand.ofCode? x.sa
    if x.sb == 30 && x.f == 0 then some (.vlen d a) else none
  | 0x128 => do
    let d ← strm? x.d (bit x.f 9)
    let a ← strm? x.sa (bit x.f 8)
    if low5 x.f && x.sb == 30 && !bit x.f 7 && !bit x.f 5 && x.sc == 30 && !bit x.f 6 then some (.vtrn (vfmt x.f) (ectl x.f) d a) else none
  | 0x129 => do
    let d ← strm? x.d (bit x.f 9)
    let a ← strm? x.sa (bit x.f 8)
    let y ← strm? x.sb (bit x.f 7)
    let n ← fin? 16 x.sc
    if low5 x.f && !bit x.f 5 && !bit x.f 6 && bit x.f 13 then some (.vcmpr (vfmt x.f) (ectl x.f) d a y n) else none
  | _ => none

/-- The rows of matrix engine (R223). -/
def decodeMatrix (x : Fields) : Option Instr :=
  match x.opc with
  | 0x140 => do
    let a ← ptr? x.sa
    let b ← ptr? x.sb
    let m ← MFmt.ofCode? (x.f / 16384)
    if x.d < 16 && x.sc == 30 then some (.mma (BitVec.ofNat 4 x.d) a b ⟨m, ectl x.f, bit x.f 9, bit x.f 8, BitVec.ofNat 8 x.f⟩) else none
  | 0x141 => if x.d < 16 && x.sa == 30 && x.sb == 30 && x.f / 8 % 4 == 0 then some (.mzero (BitVec.ofNat 4 x.d) ⟨bit x.f 5, BitVec.ofNat 3 x.f⟩) else none
  | 0x142 => do
    let a ← strm? x.sa (bit x.f 8)
    if x.d < 16 && x.sb == 30 && x.sc == 30 && (x.f / 16384 == 0 || x.f / 16384 == 3) && !bit x.f 9 && x.f % 256 == 0 then some (.mlda (BitVec.ofNat 4 x.d) a (bit x.f 14) (ectl x.f)) else none
  | 0x143 => do
    let a ← strm? x.sa (bit x.f 8)
    if x.d < 16 && x.sb == 30 && x.sc == 30 && x.f % 256 == 0 then some (.msta (BitVec.ofNat 4 x.d) a (vfmt x.f) (bit x.f 9) (ectl x.f)) else none
  | 0x144 => do
    let a ← strm? x.sa (bit x.f 8)
    if x.d < 16 && x.sb == 30 && x.sc == 30 && x.f / 16384 ≥ 6 && !bit x.f 9 && x.f % 256 == 0 then some (.mstc (BitVec.ofNat 4 x.d) a (bit x.f 14) (ectl x.f)) else none
  | 0x145 => if x.d < 16 && x.sa == 30 && x.sb == 30 && x.sc == 30 && x.f / 16384 == 0 && x.f / 16 % 32 == 0 then some (.madd (BitVec.ofNat 4 x.d) (BitVec.ofNat 4 x.f) (bit x.f 9) (ectl x.f)) else none
  | 0x146 => do
    let a ← strm? x.sa (bit x.f 8)
    if x.d < 16 && x.sb == 30 && x.sc == 30 && x.f / 16384 == 0 && !bit x.f 9 && x.f % 256 == 0 then some (.mscal (BitVec.ofNat 4 x.d) a (ectl x.f)) else none
  | 0x147 => do
    let a ← strm? x.sa (bit x.f 8)
    if x.d < 16 && x.sb == 30 && x.sc == 30 && x.f / 16384 == 0 && !bit x.f 9 && x.f % 256 == 0 then some (.mrssq (BitVec.ofNat 4 x.d) a (ectl x.f)) else none
  | _ => none

/-- The rows of copy engine (R223). -/
def decodeCopy (x : Fields) : Option Instr :=
  match x.opc with
  | 0x160 => do
    let d ← strm? x.d (bit x.f 9)
    let a ← strm? x.sa (bit x.f 8)
    let b ← fin? 16 x.sb
    let c ← optPtr? x.sc
    if x.f / 16384 == 0 && x.f % 256 == 0 then some (.cpy d a b c (ectl x.f)) else none
  | 0x161 => do
    let d ← strm? x.d (bit x.f 9)
    let a ← strm? x.sa (bit x.f 8)
    let b ← fin? 16 x.sb
    let c ← optPtr? x.sc
    if x.f / 16384 == 0 && x.f % 256 == 0 then some (.cpy2 d a b c (ectl x.f)) else none
  | 0x162 => do
    let d ← strm? x.d (bit x.f 9)
    let a ← strm? x.sa (bit x.f 8)
    let b ← fin? 16 x.sb
    let c ← optPtr? x.sc
    if x.f / 16384 == 0 && x.f / 16 % 16 == 0 then some (.cpym d a b c (ectl x.f) (BitVec.ofNat 4 x.f)) else none
  | 0x163 => do
    let d ← Operand.dst? x.d
    let a ← ptr? x.sa
    let b ← Operand.ofCode? x.sb
    if x.f == 0 then some (.attn d a b) else none
  | 0x164 => do
    let d ← Operand.dst? x.d
    let a ← ptr? x.sa
    let b ← Operand.ofCode? x.sb
    if x.f == 0 then some (.await d a b) else none
  | 0x165 => do
    let a ← Operand.ofCode? x.sa
    let b ← Operand.ofCode? x.sb
    if x.d == 0 && x.sc == 30 && x.f % 1024 == 0 && x.f < 16384 then some (.depo a b (ectl x.f)) else none
  | 0x166 => if x.d < 8 then some (.ccinc (BitVec.ofNat 3 x.d)) else none
  | 0x167 => if x.d < 8 && x.sa == 30 && x.sb == 30 then some (.waitlt (BitVec.ofNat 3 x.d) (BitVec.ofNat 6 x.f)) else none
  | 0x168 => if x.d == 0 then some .efence else none
  | _ => none

/-- The rows of handles and tasks (R238). -/
def decodeThunk (x : Fields) : Option Instr :=
  match x.opc with
  | 0x180 => do
    let d ← ptr? x.d
    let a ← ptr? x.sa
    let b ← optPtr? x.sb
    let c ← ptr? x.sc
    let o ← tileOp? x.f
    let r ← resFmt? (x.f / 256 % 16)
    some (.susp d a b c o r)
  | 0x181 => do
    let d ← ptr? x.d
    let a ← fin? 16 x.sa
    let b ← ptr? x.sb
    let c ← ptr? x.sc
    let t ← TFmt.ofCode? (x.f / 256 % 16)
    if x.f % 8 == 0 then some (.apply d a b c ⟨t, BitVec.ofNat 5 (x.f / 4096), BitVec.ofNat 5 (x.f / 8)⟩) else none
  | 0x182 => do
    let d ← Operand.dst? x.d
    let a ← ptr? x.sa
    if x.sb == 30 && x.f == 0 then some (.force d a) else none
  | 0x183 => do let a ← ptr? x.sa; if x.d == 0 && x.sb == 30 && x.f == 0 then some (.spark a) else none
  | 0x184 => do
    let d ← Operand.dst? x.d
    let a ← ptr? x.sa
    if x.sb == 30 && x.f % 2 == 0 then some (.htest d a (BitVec.ofNat 5 (x.f / 2))) else none
  | 0x185 => do
    let d ← ptr? x.d
    let a ← ptr? x.sa
    let t ← TFmt.ofCode? (x.f / 256 % 16)
    if x.sb == 30 && x.sc == 30 && x.f % 8 == 0 then some (.hval d a ⟨t, BitVec.ofNat 5 (x.f / 4096), BitVec.ofNat 5 (x.f / 8)⟩) else none
  | 0x186 => do let a ← ptr? x.sa; if x.d == 0 && x.sb == 30 && x.f == 0 then some (.hfill a) else none
  | 0x187 => do
    let a ← fin? 16 x.sa
    let b ← ptr? x.sb
    let c ← fin? 16 x.sc
    if x.d == 0 && x.f == 0 then some (.task a b c) else none
  | 0x188 => do
    let d ← Operand.dst? x.d
    if x.sa == 30 && x.sb == 30 && x.f < 32 then some (.next d (BitVec.ofNat 5 x.f)) else none
  | 0x189 => do let d ← Operand.dst? x.d; if x.sa == 30 && x.sb == 30 && x.f == 0 then some (.range d) else none
  | _ => none

/-- The rows of migration and barriers (R238). -/
def decodeMigration (x : Fields) : Option Instr :=
  match x.opc with
  | 0x1A0 => do let a ← fin? 16 x.sa; if x.d == 0 && x.sb == 30 && x.f == 0 then some (.mig a) else none
  | 0x1A1 => if x.d == 0 then some .home else none
  | 0x1A2 => do
    let d ← Operand.dst? x.d
    let a ← fin? 16 x.sa
    let b ← Operand.ofCode? x.sb
    if x.sc == 30 && x.f == 0 then some (.send d a b) else none
  | 0x1A3 => do
    let d ← Operand.dst? x.d
    let a ← QSel.ofCode? x.sa
    if x.sb == 30 && x.f == 0 then some (.qcnt d a) else none
  | 0x1A4 => do let d ← Scope.ofCode? x.d; some (.bar d)
  | 0x1A5 => do
    let d ← Operand.dst? x.d
    let a ← fin? 16 x.sa
    let b ← fin? 16 x.sb
    let o ← RednOp.ofCode? (x.f / 16384)
    let s ← Scope.ofCode? (x.f / 2048 % 8)
    if x.sc == 30 && x.f % 2048 == 0 then some (.redn d a b o s) else none
  | 0x1A6 => do
    let d ← Operand.dst? x.d
    let a ← ptr? x.sa
    if x.sb == 30 && x.f == 0 then some (.launch d a) else none
  | _ => none

/-- The rows of privileged (R275). `TLBINV` takes a g register for the extent that names a page and `zr` for the others; another pairing is
refused. (DESIGN CHOICE, log 101) -/
def decodePriv (x : Fields) : Option Instr :=
  match x.opc with
  | 0x1E0 => if x.d == 0 then some .sret else none
  | 0x1E1 => do
    let d ← Operand.dst? x.d
    if x.sa == 30 && x.imm < 4096 then some (.scsrr d (BitVec.ofNat 12 x.imm)) else none
  | 0x1E2 => do
    let d ← Operand.dst? x.d
    let a ← Operand.ofCode? x.sa
    if x.imm < 4096 then some (.scsrw d a (BitVec.ofNat 12 x.imm)) else none
  | 0x1E3 => do
    let d ← Operand.dst? x.d
    let a ← fin? 16 x.sa
    let b ← ptr? x.sb
    if x.f == 0 then some (.ctxsv d a b) else none
  | 0x1E4 => do
    let d ← Operand.dst? x.d
    let a ← fin? 16 x.sa
    let b ← ptr? x.sb
    if x.f == 0 then some (.ctxld d a b) else none
  | 0x1E5 =>
    if x.d == 0 && x.sb == 30 then
      (if x.f == 0 && x.sa == 30 then some .tlbinvCtx
       else if x.f == 1 then (do let a ← fin? 16 x.sa; some (.tlbinvPage a))
       else if x.f == 2 && x.sa == 30 then some .tlbinvPart
       else none)
    else none
  | 0x1E6 => do
    let a ← fin? 16 x.sa
    let b ← fin? 16 x.sb
    let c ← fin? 16 x.sc
    let k ← DiagKind.ofCode? (x.f / 16384)
    if x.d == 0 && x.f % 16384 == 0 then some (.diagst a b c k) else none
  | 0x1E7 => do
    let d ← Operand.dst? x.d
    let a ← fin? 16 x.sa
    let c ← fin? 16 x.sc
    let k ← DiagKind.ofCode? (x.f / 16384)
    if x.sb == 30 && x.f % 16384 == 0 then some (.diagld d a c k) else none
  | 0x1E8 => do
    let d ← Operand.dst? x.d
    let a ← fin? 16 x.sa
    if x.sb == 30 && x.sc == 30 && x.f == 0 then some (.detain d a) else none
  | 0x1E9 => do
    let d ← Operand.dst? x.d
    let a ← fin? 16 x.sa
    let b ← fin? 16 x.sb
    if x.f == 0 then some (.lmapw d a b) else none
  | 0x1EA => do
    let d ← Operand.dst? x.d
    let a ← fin? 16 x.sa
    if x.sb == 30 && x.f == 0 then some (.scant d a) else none
  | 0x1EB => if x.d == 0 then some .dfrz else none
  | 0x1EC => do
    let d ← Operand.dst? x.d
    let a ← fin? 16 x.sa
    if x.sb == 30 then
      (if x.f == 0 then some (.slotkill d a) else if x.f == 1 then some (.slotkillCtx d a) else none)
    else none
  | 0x1ED => do
    let d ← Operand.dst? x.d
    let a ← fin? 16 x.sa
    if x.sb == 30 && x.f == 0 then some (.preempt d a) else none
  | 0x1EE => do
    let d ← Operand.dst? x.d
    let a ← fin? 16 x.sa
    let b ← fin? 16 x.sb
    let c ← fin? 16 x.sc
    if x.f == 0 then some (.matw d a b c) else none
  | 0x1EF => if x.d == 0 then some .idle else none
  | _ => none

/-- The instruction of given fields: checks 4 to 6 of R149. -/
def decodeFields (x : Fields) : Option Instr :=
  match x.opc / 32 with
  | 0 => decodeControl x
  | 1 => decodeInteger x
  | 2 => decodeImmediate x
  | 3 => decodeCompare x
  | 4 => decodeFloat x
  | 5 => decodeMemory x
  | 6 => decodeAtomic x
  | 7 => decodeSystem x
  | 8 => decodeVector x
  | 9 => decodeMove x
  | 10 => decodeMatrix x
  | 11 => decodeCopy x
  | 12 => decodeThunk x
  | 13 => decodeMigration x
  | 15 => decodePriv x
  | _ => none

/-- Why a head is refused: its opcode is unassigned, its tail code does not suit, or a field is out of its values
(checks 1, 3 and 4 to 6 of R149). -/
inductive DecErr where
  | unassigned | tail | field
deriving DecidableEq, Repr

/-- Decoding of a head and its tail. -/
def decode (head tail : Nat) : Except DecErr Instr :=
  match opKind (head / 32 % 512) with
  | none => .error .unassigned
  | some k =>
    if head / 16384 % 4 == k.tc then
      match decodeFields (unpack k head tail) with
      | some i => .ok i
      | none => .error .field
    else .error .tail

/-! ## The encoder -/

/-- The fields of an instruction; hardware and host events have none. -/
def Instr.fields : Instr → Option Fields
  | .nop => some ⟨0x000, 0, 0, 0, 0, 0, 0⟩
  | .rlx => some ⟨0x001, 0, 0, 0, 0, 0, 0⟩
  | .halt => some ⟨0x002, 0, 0, 0, 0, 0, 0⟩
  | .yield => some ⟨0x003, 0, 0, 0, 0, 0, 0⟩
  | .br d t => some ⟨0x004, d.toNat, 30, 0, 0, 0, t.imm⟩
  | .brn d t => some ⟨0x005, d.toNat, 30, 0, 0, 0, t.imm⟩
  | .jmp a => some ⟨0x006, 0, a.code, 30, 0, 0, 0⟩
  | .call t => some ⟨0x007, 0, 30, 0, 0, 0, t.imm⟩
  | .callr a => some ⟨0x008, 0, a.code, 30, 0, 0, 0⟩
  | .ret => some ⟨0x009, 0, 0, 0, 0, 0, 0⟩
  | .loop d t => some ⟨0x00A, d.val, 30, 0, 0, 0, t.imm⟩
  | .trap c => some ⟨0x00B, 0, 30, 30, 0, c.toNat, 0⟩
  | .brk => some ⟨0x00C, 0, 0, 0, 0, 0, 0⟩
  | .xret => some ⟨0x00D, 0, 0, 0, 0, 0, 0⟩
  | .scall c => some ⟨0x00E, 0, 30, 30, 0, c.toNat, 0⟩
  | .add d a b w => some ⟨0x020, d.code, a.code, b.code, 0, w.toNat, 0⟩
  | .sub d a b w => some ⟨0x021, d.code, a.code, b.code, 0, w.toNat, 0⟩
  | .and d a b w => some ⟨0x022, d.code, a.code, b.code, 0, w.toNat, 0⟩
  | .or d a b w => some ⟨0x023, d.code, a.code, b.code, 0, w.toNat, 0⟩
  | .xor d a b w => some ⟨0x024, d.code, a.code, b.code, 0, w.toNat, 0⟩
  | .andn d a b w => some ⟨0x025, d.code, a.code, b.code, 0, w.toNat, 0⟩
  | .shl d a b w => some ⟨0x026, d.code, a.code, b.code, 0, w.toNat, 0⟩
  | .shr d a b w => some ⟨0x027, d.code, a.code, b.code, 0, w.toNat, 0⟩
  | .sra d a b w => some ⟨0x028, d.code, a.code, b.code, 0, w.toNat, 0⟩
  | .rotl d a b w => some ⟨0x029, d.code, a.code, b.code, 0, w.toNat, 0⟩
  | .mul d a b w => some ⟨0x02A, d.code, a.code, b.code, 0, w.toNat, 0⟩
  | .mulh d a b w => some ⟨0x02B, d.code, a.code, b.code, 0, w.toNat, 0⟩
  | .mulhu d a b w => some ⟨0x02C, d.code, a.code, b.code, 0, w.toNat, 0⟩
  | .div d a b w => some ⟨0x02D, d.code, a.code, b.code, 0, w.toNat, 0⟩
  | .divu d a b w => some ⟨0x02E, d.code, a.code, b.code, 0, w.toNat, 0⟩
  | .rem d a b w => some ⟨0x02F, d.code, a.code, b.code, 0, w.toNat, 0⟩
  | .remu d a b w => some ⟨0x030, d.code, a.code, b.code, 0, w.toNat, 0⟩
  | .min d a b w => some ⟨0x031, d.code, a.code, b.code, 0, w.toNat, 0⟩
  | .max d a b w => some ⟨0x032, d.code, a.code, b.code, 0, w.toNat, 0⟩
  | .minu d a b w => some ⟨0x033, d.code, a.code, b.code, 0, w.toNat, 0⟩
  | .maxu d a b w => some ⟨0x034, d.code, a.code, b.code, 0, w.toNat, 0⟩
  | .adds d a b w => some ⟨0x035, d.code, a.code, b.code, 0, w.toNat, 0⟩
  | .subs d a b w => some ⟨0x036, d.code, a.code, b.code, 0, w.toNat, 0⟩
  | .clz d a w => some ⟨0x037, d.code, a.code, 30, 0, w.toNat, 0⟩
  | .ctz d a w => some ⟨0x038, d.code, a.code, 30, 0, w.toNat, 0⟩
  | .popc d a w => some ⟨0x039, d.code, a.code, 30, 0, w.toNat, 0⟩
  | .sext d a b w => some ⟨0x03A, d.code, a.code, b.code, 0, w.toNat, 0⟩
  | .zext d a b w => some ⟨0x03B, d.code, a.code, b.code, 0, w.toNat, 0⟩
  | .bswp d a w => some ⟨0x03C, d.code, a.code, 30, 0, w.toNat, 0⟩
  | .mov d a w => some ⟨0x03D, d.code, a.code, 30, 0, w.toNat, 0⟩
  | .addi d a i => some ⟨0x040, d.code, a.code, 0, 0, 0, i.toNat⟩
  | .andi d a i => some ⟨0x041, d.code, a.code, 0, 0, 0, i.toNat⟩
  | .ori d a i => some ⟨0x042, d.code, a.code, 0, 0, 0, i.toNat⟩
  | .xori d a i => some ⟨0x043, d.code, a.code, 0, 0, 0, i.toNat⟩
  | .shli d a i => some ⟨0x044, d.code, a.code, 0, 0, 0, i.toNat⟩
  | .shri d a i => some ⟨0x045, d.code, a.code, 0, 0, 0, i.toNat⟩
  | .srai d a i => some ⟨0x046, d.code, a.code, 0, 0, 0, i.toNat⟩
  | .muli d a i => some ⟨0x047, d.code, a.code, 0, 0, 0, i.toNat⟩
  | .movi d i => some ⟨0x048, d.code, 30, 30, 0, 0, i.toNat⟩
  | .movh d i => some ⟨0x049, d.code, 30, 30, 0, 0, i.toNat⟩
  | .adr d t => some ⟨0x04A, d.code, 30, 0, 0, 0, t.imm⟩
  | .empt d => some ⟨0x04B, d.code, 0, 0, 0, 0, 0⟩
  | .ceq d a b => some ⟨0x060, d.toNat, a.code, b.code, 0, 0, 0⟩
  | .cne d a b => some ⟨0x061, d.toNat, a.code, b.code, 0, 0, 0⟩
  | .clt d a b => some ⟨0x062, d.toNat, a.code, b.code, 0, 0, 0⟩
  | .cle d a b => some ⟨0x063, d.toNat, a.code, b.code, 0, 0, 0⟩
  | .cltu d a b => some ⟨0x064, d.toNat, a.code, b.code, 0, 0, 0⟩
  | .cleu d a b => some ⟨0x065, d.toNat, a.code, b.code, 0, 0, 0⟩
  | .ceqi d a i => some ⟨0x066, d.toNat, a.code, 0, 0, 0, i.toNat⟩
  | .clti d a i => some ⟨0x067, d.toNat, a.code, 0, 0, 0, i.toNat⟩
  | .cltui d a i => some ⟨0x068, d.toNat, a.code, 0, 0, 0, i.toNat⟩
  | .pand d a b nx ny => some ⟨0x069, d.toNat, a.toNat, b.toNat, 0, nx.toNat + 2 * ny.toNat, 0⟩
  | .por d a b nx ny => some ⟨0x06A, d.toNat, a.toNat, b.toNat, 0, nx.toNat + 2 * ny.toNat, 0⟩
  | .pxor d a b nx ny => some ⟨0x06B, d.toNat, a.toNat, b.toNat, 0, nx.toNat + 2 * ny.toNat, 0⟩
  | .pnot d a => some ⟨0x06C, d.toNat, a.toNat, 0, 0, 0, 0⟩
  | .sel d a b p => some ⟨0x06D, d.code, a.code, b.code, 30, p.toNat, 0⟩
  | .pget d => some ⟨0x06E, d.code, 30, 30, 0, 0, 0⟩
  | .pset a => some ⟨0x06F, 0, a.code, 30, 0, 0, 0⟩
  | .tfull d a => some ⟨0x070, d.toNat, a.code, 30, 0, 0, 0⟩
  | .fadd d a b f => some ⟨0x080, d.code, a.code, b.code, 0, f.code, 0⟩
  | .fsub d a b f => some ⟨0x081, d.code, a.code, b.code, 0, f.code, 0⟩
  | .fmul d a b f => some ⟨0x082, d.code, a.code, b.code, 0, f.code, 0⟩
  | .fdiv d a b f => some ⟨0x083, d.code, a.code, b.code, 0, f.code, 0⟩
  | .fsqrt d a f => some ⟨0x084, d.code, a.code, 30, 0, f.code, 0⟩
  | .fma d a b c f => some ⟨0x085, d.code, a.code, b.code, c.code, f.code, 0⟩
  | .fmin d a b f => some ⟨0x086, d.code, a.code, b.code, 0, f.code, 0⟩
  | .fmax d a b f => some ⟨0x087, d.code, a.code, b.code, 0, f.code, 0⟩
  | .fabs d a f => some ⟨0x088, d.code, a.code, 30, 0, f.code, 0⟩
  | .fneg d a f => some ⟨0x089, d.code, a.code, 30, 0, f.code, 0⟩
  | .fceq d a b f => some ⟨0x08A, d.toNat, a.code, b.code, 0, f.code, 0⟩
  | .fclt d a b f => some ⟨0x08B, d.toNat, a.code, b.code, 0, f.code, 0⟩
  | .fcle d a b f => some ⟨0x08C, d.toNat, a.code, b.code, 0, f.code, 0⟩
  | .fcvt d a f s => some ⟨0x08D, d.code, a.code, 30, 0, f.code + 8 * s.code, 0⟩
  | .fcvti d a f t => some ⟨0x08E, d.code, a.code, 30, 0, f.code + 8 * t.code, 0⟩
  | .icvtf d a f t => some ⟨0x08F, d.code, a.code, 30, 0, f.code + 8 * t.code, 0⟩
  | .fclass d a f => some ⟨0x090, d.code, a.code, 30, 0, f.code, 0⟩
  | .ld d a z off => some ⟨0x0A0, d.code, pcode a, 0, 0, 0, z.code * 16777216 + off.toNat⟩
  | .ldpi d a z => some ⟨0x0A1, d.code, pcode a, 30, 0, z.code, 0⟩
  | .st d a z off => some ⟨0x0A2, d.code, pcode a, 0, 0, 0, z.code * 16777216 + off.toNat⟩
  | .stpi d a z => some ⟨0x0A3, d.code, pcode a, 30, 0, z.code, 0⟩
  | .lda d a z off => some ⟨0x0A4, d.code, pcode a, 0, 0, 0, z.code * 16777216 + off.toNat⟩
  | .ldx d a z pr off => some ⟨0x0A5, d.code, pcode a, 30, 0, 2 * pr.toNat, z.code * 536870912 + off.toNat⟩
  | .erase a => some ⟨0x0A6, 0, pcode a, 30, 0, 0, 0⟩
  | .fence d => some ⟨0x0A7, d.code, 0, 0, 0, 0, 0⟩
  | .ldaq d a z s i => some ⟨0x0A8, d.code, pcode a, 30, 0, 8 * s.code + z.code, i.toNat⟩
  | .strel d a z s i => some ⟨0x0A9, d.code, pcode a, 30, 0, 8 * s.code + z.code, i.toNat⟩
  | .pref a z off => some ⟨0x0AA, 0, pcode a, 0, 0, 0, z.code * 16777216 + off.toNat⟩
  | .rsv d a o => some ⟨0x0C0, d.code, pcode a, 30, 0, o.f6, o.off.toNat⟩
  | .rls d a b o => some ⟨0x0C1, d.code, pcode a, b.code, 0, o.f6, o.off.toNat⟩
  | .rlsn d a o => some ⟨0x0C2, d.code, pcode a, 30, 0, o.f6, o.off.toNat⟩
  | .waitrs => some ⟨0x0C3, 0, 0, 0, 0, 0, 0⟩
  | .aadd d a b o => some ⟨0x0C4, d.code, pcode a, b.code, 0, o.f6, o.off.toNat⟩
  | .aand d a b o => some ⟨0x0C5, d.code, pcode a, b.code, 0, o.f6, o.off.toNat⟩
  | .aor d a b o => some ⟨0x0C6, d.code, pcode a, b.code, 0, o.f6, o.off.toNat⟩
  | .axor d a b o => some ⟨0x0C7, d.code, pcode a, b.code, 0, o.f6, o.off.toNat⟩
  | .amin d a b o => some ⟨0x0C8, d.code, pcode a, b.code, 0, o.f6, o.off.toNat⟩
  | .amax d a b o => some ⟨0x0C9, d.code, pcode a, b.code, 0, o.f6, o.off.toNat⟩
  | .aminu d a b o => some ⟨0x0CA, d.code, pcode a, b.code, 0, o.f6, o.off.toNat⟩
  | .amaxu d a b o => some ⟨0x0CB, d.code, pcode a, b.code, 0, o.f6, o.off.toNat⟩
  | .aswp d a b o => some ⟨0x0CC, d.code, pcode a, b.code, 0, o.f6, o.off.toNat⟩
  | .cas d a b o => some ⟨0x0CD, d.code, pcode a, b.code, 0, o.f6, o.off.toNat⟩
  | .aincb d a b o => some ⟨0x0CE, d.code, pcode a, b.code, 0, o.f6, o.off.toNat⟩
  | .afadd d a b o => some ⟨0x0CF, d.code, pcode a, b.code, 0, o.f6, o.off.toNat⟩
  | .redadd d a b hi off => some ⟨0x0D0, d.toNat, pcode a, b.code, 30, 65536 * hi.toNat + off.toNat, 0⟩
  | .redmin d a b hi off => some ⟨0x0D1, d.toNat, pcode a, b.code, 30, 65536 * hi.toNat + off.toNat, 0⟩
  | .redmax d a b hi off => some ⟨0x0D2, d.toNat, pcode a, b.code, 30, 65536 * hi.toNat + off.toNat, 0⟩
  | .redfadd d a b hi off => some ⟨0x0D3, d.toNat, pcode a, b.code, 30, 65536 * hi.toNat + off.toNat, 0⟩
  | .pcadd d a b hi off => some ⟨0x0D4, d.code, pcode a, b.code, 30, 65536 * hi.toNat + off.toNat, 0⟩
  | .pcrd d a hi => some ⟨0x0D5, d.code, pcode a, 30, 0, hi.toNat, 0⟩
  | .pcmrg d a b hi => some ⟨0x0D6, d.code, pcode a, b.val, 0, hi.toNat, 0⟩
  | .pclv d a w => some ⟨0x0D7, d.code, pcode a, 30, 0, w.toNat, 0⟩
  | .pclvSet d a b w => some ⟨0x0D7, d.code, pcode a, b.code, 0, 2 + w.toNat, 0⟩
  | .segrd d k s => some ⟨0x0E0, d.code, 30, 30, 0, k.val + 8 * s.code, 0⟩
  | .segnw d a b k => some ⟨0x0E1, d.val, a.code, b.code, 0, k.toNat, 0⟩
  | .csrr d n => some ⟨0x0E2, d.code, 30, 0, 0, 0, n.toNat⟩
  | .csrw d a n => some ⟨0x0E3, d.code, a.code, 0, 0, 0, n.toNat⟩
  | .csrset d a n => some ⟨0x0E4, d.code, a.code, 0, 0, 0, n.toNat⟩
  | .csrclr d a n => some ⟨0x0E5, d.code, a.code, 0, 0, 0, n.toNat⟩
  | .vadd f e d a y => some ⟨0x100, d.code, a.code, y.code, 30, vf f e d.inc a.inc y.inc false y.isScal, 0⟩
  | .vsub f e d a y => some ⟨0x101, d.code, a.code, y.code, 30, vf f e d.inc a.inc y.inc false y.isScal, 0⟩
  | .vmul f e d a y => some ⟨0x102, d.code, a.code, y.code, 30, vf f e d.inc a.inc y.inc false y.isScal, 0⟩
  | .vfma f e d a y z => some ⟨0x103, d.code, a.code, y.code, z.code, vf f e d.inc a.inc y.inc z.inc y.isScal, 0⟩
  | .vmin f e d a y => some ⟨0x104, d.code, a.code, y.code, 30, vf f e d.inc a.inc y.inc false y.isScal, 0⟩
  | .vmax f e d a y => some ⟨0x105, d.code, a.code, y.code, 30, vf f e d.inc a.inc y.inc false y.isScal, 0⟩
  | .vabs f e d a => some ⟨0x106, d.code, a.code, 30, 30, vf f e d.inc a.inc false false false, 0⟩
  | .vneg f e d a => some ⟨0x107, d.code, a.code, 30, 30, vf f e d.inc a.inc false false false, 0⟩
  | .vdiv f e d a y => some ⟨0x108, d.code, a.code, y.code, 30, vf f e d.inc a.inc y.inc false y.isScal, 0⟩
  | .vsqrt f e d a => some ⟨0x109, d.code, a.code, 30, 30, vf f e d.inc a.inc false false false, 0⟩
  | .vrsq f e d a => some ⟨0x10A, d.code, a.code, 30, 30, vf f e d.inc a.inc false false false, 0⟩
  | .vexp2 f e d a => some ⟨0x10B, d.code, a.code, 30, 30, vf f e d.inc a.inc false false false, 0⟩
  | .vand f e d a y => some ⟨0x10C, d.code, a.code, y.code, 30, vf f e d.inc a.inc y.inc false y.isScal, 0⟩
  | .vor f e d a y => some ⟨0x10D, d.code, a.code, y.code, 30, vf f e d.inc a.inc y.inc false y.isScal, 0⟩
  | .vxor f e d a y => some ⟨0x10E, d.code, a.code, y.code, 30, vf f e d.inc a.inc y.inc false y.isScal, 0⟩
  | .vshl f e d a y => some ⟨0x10F, d.code, a.code, y.code, 30, vf f e d.inc a.inc y.inc false y.isScal, 0⟩
  | .vshr f e d a y => some ⟨0x110, d.code, a.code, y.code, 30, vf f e d.inc a.inc y.inc false y.isScal, 0⟩
  | .vsra f e d a y => some ⟨0x111, d.code, a.code, y.code, 30, vf f e d.inc a.inc y.inc false y.isScal, 0⟩
  | .vceq f e d a y => some ⟨0x112, d.code, a.code, y.code, 30, vf f e d.inc a.inc y.inc false y.isScal, 0⟩
  | .vclt f e d a y => some ⟨0x113, d.code, a.code, y.code, 30, vf f e d.inc a.inc y.inc false y.isScal, 0⟩
  | .vsel f e d a y z => some ⟨0x114, d.code, a.code, y.code, z.code, vf f e d.inc a.inc y.inc z.inc y.isScal, 0⟩
  | .vrsum f e d a => some ⟨0x115, d.code, a.code, 30, 30, vf f e d.inc a.inc false false false, 0⟩
  | .vrmax f e d a => some ⟨0x116, d.code, a.code, 30, 30, vf f e d.inc a.inc false false false, 0⟩
  | .viota f e d => some ⟨0x117, d.code, 30, 30, 30, vf f e d.inc false false false false, 0⟩
  | .vset f e d y => some ⟨0x118, d.code, 30, y.val, 30, vf f e d.inc false false false true, 0⟩
  | .vmov f e d a => some ⟨0x120, d.code, a.code, 30, 30, vf f e d.inc a.inc false false false, 0⟩
  | .vcvt f e d a y => some ⟨0x121, d.code, a.code, y.val, 30, vf f e d.inc a.inc false false true, 0⟩
  | .vpack f e d a y => some ⟨0x122, d.code, a.code, y.val, 30, vf f e d.inc a.inc false false true, 0⟩
  | .vunpk f e d a => some ⟨0x123, d.code, a.code, 30, 30, vf f e d.inc a.inc false false false, 0⟩
  | .gath f e d a y => some ⟨0x124, d.code, pcode a, y.code, 30, vf f e d.inc false y.inc false false, 0⟩
  | .gathf f e d a y n => some ⟨0x125, d.code, pcode a, y.code, n.val, vf f e d.inc false y.inc false false, 0⟩
  | .scat f e d a y => some ⟨0x126, pcode d, a.code, y.code, 30, vf f e false a.inc y.inc false false, 0⟩
  | .vlen d a => some ⟨0x127, d.code, a.code, 30, 0, 0, 0⟩
  | .vtrn f e d a => some ⟨0x128, d.code, a.code, 30, 30, vf f e d.inc a.inc false false false, 0⟩
  | .vcmpr f e d a y n => some ⟨0x129, d.code, a.code, y.code, n.val, vf f e d.inc a.inc y.inc false false, 0⟩
  | .mma d a b o => some ⟨0x140, d.toNat, pcode a, pcode b, 30, o.f17, 0⟩
  | .mzero d e => some ⟨0x141, d.toNat, 30, 30, 0, 32 * e.wait.toNat + e.cnt.toNat, 0⟩
  | .mlda d a i e => some ⟨0x142, d.toNat, a.code, 30, 30, (if i then 3 else 0) * 16384 + e.bits + 256 * a.inc.toNat, 0⟩
  | .msta d a vf i e => some ⟨0x143, d.toNat, a.code, 30, 30, vf.code * 16384 + e.bits + 512 * i.toNat + 256 * a.inc.toNat, 0⟩
  | .mstc d a e5 e => some ⟨0x144, d.toNat, a.code, 30, 30, (6 + e5.toNat) * 16384 + e.bits + 256 * a.inc.toNat, 0⟩
  | .madd d src i e => some ⟨0x145, d.toNat, 30, 30, 30, e.bits + 512 * i.toNat + src.toNat, 0⟩
  | .mscal d a e => some ⟨0x146, d.toNat, a.code, 30, 30, e.bits + 256 * a.inc.toNat, 0⟩
  | .mrssq d a e => some ⟨0x147, d.toNat, a.code, 30, 30, e.bits + 256 * a.inc.toNat, 0⟩
  | .cpy d a b c e => some ⟨0x160, d.code, a.code, b.val, optCode c, e.bits + 512 * d.inc.toNat + 256 * a.inc.toNat, 0⟩
  | .cpy2 d a b c e => some ⟨0x161, d.code, a.code, b.val, optCode c, e.bits + 512 * d.inc.toNat + 256 * a.inc.toNat, 0⟩
  | .cpym d a b c e m => some ⟨0x162, d.code, a.code, b.val, optCode c, e.bits + 512 * d.inc.toNat + 256 * a.inc.toNat + m.toNat, 0⟩
  | .attn d a b => some ⟨0x163, d.code, pcode a, b.code, 0, 0, 0⟩
  | .await d a b => some ⟨0x164, d.code, pcode a, b.code, 0, 0, 0⟩
  | .depo a b e => some ⟨0x165, 0, a.code, b.code, 30, e.bits, 0⟩
  | .ccinc d => some ⟨0x166, d.toNat, 0, 0, 0, 0, 0⟩
  | .waitlt d c => some ⟨0x167, d.toNat, 30, 30, 0, c.toNat, 0⟩
  | .efence => some ⟨0x168, 0, 0, 0, 0, 0, 0⟩
  | .susp d a b c o r => some ⟨0x180, pcode d, pcode a, optCode b, pcode c, o.bits + 256 * resCode r, 0⟩
  | .apply d a b c sh => some ⟨0x181, pcode d, a.val, pcode b, pcode c, sh.f17, 0⟩
  | .force d a => some ⟨0x182, d.code, pcode a, 30, 0, 0, 0⟩
  | .spark a => some ⟨0x183, 0, pcode a, 30, 0, 0, 0⟩
  | .htest d a pr => some ⟨0x184, d.code, pcode a, 30, 0, 2 * pr.toNat, 0⟩
  | .hval d a sh => some ⟨0x185, pcode d, pcode a, 30, 30, sh.f17, 0⟩
  | .hfill a => some ⟨0x186, 0, pcode a, 30, 0, 0, 0⟩
  | .task a b c => some ⟨0x187, 0, a.val, pcode b, c.val, 0, 0⟩
  | .next d p => some ⟨0x188, d.code, 30, 30, 0, p.toNat, 0⟩
  | .range d => some ⟨0x189, d.code, 30, 30, 0, 0, 0⟩
  | .mig a => some ⟨0x1A0, 0, a.val, 30, 0, 0, 0⟩
  | .home => some ⟨0x1A1, 0, 0, 0, 0, 0, 0⟩
  | .send d a b => some ⟨0x1A2, d.code, a.val, b.code, 30, 0, 0⟩
  | .qcnt d a => some ⟨0x1A3, d.code, a.code, 30, 0, 0, 0⟩
  | .bar d => some ⟨0x1A4, d.code, 0, 0, 0, 0, 0⟩
  | .redn d a b o s => some ⟨0x1A5, d.code, a.val, b.val, 30, o.code * 16384 + s.code * 2048, 0⟩
  | .launch d a => some ⟨0x1A6, d.code, pcode a, 30, 0, 0, 0⟩
  | .sret => some ⟨0x1E0, 0, 0, 0, 0, 0, 0⟩
  | .scsrr d n => some ⟨0x1E1, d.code, 30, 0, 0, 0, n.toNat⟩
  | .scsrw d a n => some ⟨0x1E2, d.code, a.code, 0, 0, 0, n.toNat⟩
  | .ctxsv d a b => some ⟨0x1E3, d.code, a.val, pcode b, 0, 0, 0⟩
  | .ctxld d a b => some ⟨0x1E4, d.code, a.val, pcode b, 0, 0, 0⟩
  | .tlbinvCtx => some ⟨0x1E5, 0, 30, 30, 0, 0, 0⟩
  | .tlbinvPage a => some ⟨0x1E5, 0, a.val, 30, 0, 1, 0⟩
  | .tlbinvPart => some ⟨0x1E5, 0, 30, 30, 0, 2, 0⟩
  | .diagst a b c k => some ⟨0x1E6, 0, a.val, b.val, c.val, k.code * 16384, 0⟩
  | .diagld d a c k => some ⟨0x1E7, d.code, a.val, 30, c.val, k.code * 16384, 0⟩
  | .detain d a => some ⟨0x1E8, d.code, a.val, 30, 30, 0, 0⟩
  | .lmapw d a b => some ⟨0x1E9, d.code, a.val, b.val, 0, 0, 0⟩
  | .scant d a => some ⟨0x1EA, d.code, a.val, 30, 0, 0, 0⟩
  | .dfrz => some ⟨0x1EB, 0, 0, 0, 0, 0, 0⟩
  | .slotkill d a => some ⟨0x1EC, d.code, a.val, 30, 0, 0, 0⟩
  | .slotkillCtx d a => some ⟨0x1EC, d.code, a.val, 30, 0, 1, 0⟩
  | .preempt d a => some ⟨0x1ED, d.code, a.val, 30, 0, 0, 0⟩
  | .matw d a b c => some ⟨0x1EE, d.code, a.val, b.val, c.val, 0, 0⟩
  | .idle => some ⟨0x1EF, 0, 0, 0, 0, 0, 0⟩
  | .qtail _ _ _ | .launchRecordTake _ | .launchDispatch _ _ | .imageLoad _ _ _ | .stealRequest _
  | .stealReply _ | .taskSteal _ _ | .slotFill _ _ | .migrationArrival _ | .depositArrival _ | .depositLand _ _
  | .messageArrival _ | .windowSpill _ _ | .forcedSpill _ _ | .wakeMessage _ | .arrive _ | .perform _
  | .complete _ | .probe _ | .echo _ | .grant _ | .release _ | .reservationBreak _
  | .migrationReservationBreak _ | .claimRetry _ _ | .engineOpStart _ _ | .engineOpComplete _ _
  | .attendanceArrival _ | .mmaReplay _ | .rollCallSend _ _ | .rollCall _ | .stockRefill _
  | .pageResponse _ _ _ _ | .pagemove _ _ _ _ | .portAck _ _ | .detentionNotice _ | .detentionReset _
  | .detentionRejoin _ | .scrub _ _ | .markerTimeout _ _ | .scanTestEnd _ _ | .freeze _ | .reportCard
  | .timeMark _ | .coldReset | .warmReset | .partcfg _ _ | .doorbell _ _ _ | .capinfo _ | .capread _ _ _
  | .capclear _ | .debugRead _ | .barrierComplete _ | .reductionComplete _ | .registerWrite _ _
  | .unassignedOpcode _ | .deviceMemoryWindowAccess _ _ _ _ | .windowReload _ _ | .flitResent _ _
  | .storageError _ _ => none

/-- The head and tail of an instruction, as the assembler writes them (R154); nothing for an event. -/
def encode (i : Instr) : Option (Nat × Nat) := do
  let x ← i.fields
  let k ← opKind x.opc
  some (packHead k x, packTail k x)

/-! ## Lines -/

/-- Two bytes as a halfword, the lower address first (R1). -/
def halfOf (lo hi : Byte) : Nat := lo.toNat + 256 * hi.toNat

/-- The halfwords of a list of bytes (R139). -/
def halves : List Byte → List Nat
  | lo :: hi :: r => halfOf lo hi :: halves r
  | _ => []

/-- A 64-byte instruction line as 32 halfwords (R139). -/
abbrev Line := List Nat

/-- HCNT of a header (Table 7-1). -/
def Line.hcnt (l : Line) : Nat := l.getD 0 0 / 2048 % 32
/-- THW of a header (Table 7-1). -/
def Line.thw (l : Line) : Nat := l.getD 0 0 / 64 % 32

/-- The tail halfwords of heads 1 to i: n(1) + … + n(i) (R142). -/
def Line.tailSum (l : Line) : Nat → Nat
  | 0 => 0
  | i + 1 => Line.tailSum l i + tailLen (l.getD (i + 1) 0 / 16384)

/-- A line is well-formed (R143). -/
def Line.wf (l : Line) : Bool :=
  let h := l.hcnt
  let t := l.thw
  1 ≤ h && 1 + h + t ≤ 32 && l.tailSum h == t && l.getD 0 0 % 64 == 0 &&
    ((l.drop (h + 1)).take (31 - t - h)).all (· == 0)

/-- The little-endian value of halfwords, the lowest first. -/
def leHalves : List Nat → Nat
  | [] => 0
  | x :: r => x + 65536 * leHalves r

/-- The head at index i and its tail (R142). -/
def Line.slot (l : Line) (i : Nat) : Nat × Nat :=
  let head := l.getD i 0
  let n := tailLen (head / 16384)
  (head, leHalves ((l.drop (32 - l.tailSum i)).take n))

/-- (tail << 16) | head, the `xval` of a decode trap (R149). -/
def encVal (ht : Nat × Nat) : Word := w64 (ht.2 * 65536 + ht.1)

/-- k halfwords of a number, the lowest first. -/
def halfsOf : Nat → Nat → List Nat
  | 0, _ => []
  | k + 1, n => n % 65536 :: halfsOf k (n / 65536)

/-- A line that holds one head with its tail and nothing else. -/
def oneHeadLine (head tail : Nat) : Line :=
  let n := tailLen (head / 16384)
  [2048 + 64 * n, head] ++ List.replicate (30 - n) 0 ++ halfsOf n tail

/-- The bytes of a line, in address order. -/
def Line.bytes : Line → List Byte
  | [] => []
  | h :: r => BitVec.ofNat 8 h :: BitVec.ofNat 8 (h / 256) :: Line.bytes r

/-- The instruction at head index i of a line of bytes: the line must be well-formed and hold the head. -/
def decodeAt (bytes : List Byte) (i : Nat) : Option Instr :=
  let l : Line := halves bytes
  if l.wf && 1 ≤ i && i ≤ l.hcnt then
    match decode (l.slot i).1 (l.slot i).2 with
    | .ok x => some x
    | .error _ => none
  else none

/-- The table's word: the head in bits 15:0 and the tail above it, laid out as the only instruction of a line. -/
def decodeTableWord (_nbits w : Nat) : Option Instr :=
  decodeAt (oneHeadLine (w % 65536) (w / 65536 % 281474976710656)).bytes 1

end Sys2Proof
end

