-- ==== Sys2Proof/Machine/State.lean ====
section
/-! DEFINITION. The state of the module as plain data, with the state after reset. Every field is named after the spec's
own part; the rule that names it stands beside it. -/

namespace Sys2Proof.Machine

/-! ## Identities, registers and waits -/

/-- The identity of a thread: context, home logical core, home slot, incarnation (R16). -/
structure Ident where
  ctx   : BitVec 12
  hcore : BitVec 12
  hslot : Fin 8
  inc   : BitVec 16
deriving DecidableEq, Repr

/-- A g or a register: value, full/empty bit, the fill it awaits while pending (R34, R35, R262), and a parity error
(R320). -/
structure RegCell where
  val  : Word
  full : Bool
  pend : Option Nat
  bad  : Bool
deriving DecidableEq, Repr

/-- A segment register (R49). -/
structure Seg where
  base  : BitVec 48
  limit : BitVec 40
  r     : Bool
  w     : Bool
  a     : Bool
deriving DecidableEq, Repr

/-- What a PARKED thread waits for (R27, R29, R304). -/
inductive Wait where
  /-- held by the issue stage for a queue or latch written one or two cycles before (R41); never kept in a thread -/
  | hold
  /-- sources, destinations, queues, accesses or windows of its next instruction; re-tested by reissuing it (R34) -/
  | issue
  /-- the register with this code is EMPTY and awaits no result (R34, R304) -/
  | reg (code : Nat)
  /-- the register with this code awaits a result (R34, R35, R304) -/
  | pend (code : Nat)
  /-- the queue is empty or full (R38, R304) -/
  | queue (k : Fin 4) (push : Bool)
  /-- its own receive queue is empty (R40) -/
  | rq
  /-- a spill must free a resident window (R46) -/
  | spill
  /-- the caller's window is being reloaded (R46) -/
  | reload
  /-- a completion counter must fall (R235) -/
  | counter (k : BitVec 3)
  /-- an attendance word must change (R231) -/
  | attend (pa : Nat)
  /-- a handle's waiter list (R112) -/
  | handle (va : Nat) (pa : Nat)
  /-- a claim or wait refused for want of waiter storage, with the cycle from which it is retried; 0 once that has come
  (R108) -/
  | retry (va : Nat) (pa : Nat) (due : Nat)
  /-- the grant of a reservation (R194) -/
  | grant (line : Nat)
  /-- a watched line (R195) -/
  | watch (line : Nat)
  /-- a barrier group (R257) -/
  | bar (id : Nat)
  /-- a reduction group (R258) -/
  | redn (id : Nat)
  /-- the receive queue of another slot is full (R255) -/
  | send (core : Nat) (slot : Fin 8)
  /-- the task queue of the core is full (R299) -/
  | task
  /-- a steal made for `NEXT` (R21, R252) -/
  | next (id : Nat)
  /-- the device launch queue is full (R260) -/
  | launch
  /-- a doorbell (R276) -/
  | idle
  /-- an operation of another unit: `TLBINV`, `DETAIN`, `SCANT`, `DFRZ`, `CTXSV` (R278 to R283) -/
  | remote (id : Nat)
deriving DecidableEq, Repr

/-- The state of a thread that occupies a slot, or is SAVED or MIGRATING (Table 1-7). -/
inductive Status where
  | ready
  | parked (w : Wait)
  /-- waits for the repair of a memory-side fault met by the access with this tag; `redo` where its instruction is the one at the
  PC, which then reissues to complete with what the wake message carries (R199) -/
  | dropped (tag : Nat) (redo : Bool)
  /-- waits for its engine operation -/
  | engineWait (tag : Nat)
  /-- an ordinary store, atomic or `RLS` to a class-1 page, and an `AFADD`, hold the next issue until they complete (R193, R368) -/
  | held (tag : Nat)
deriving DecidableEq, Repr

/-- The reservation a thread took with `RSV` (R194): physical word address and width in bytes. -/
structure Rsv where
  pa     : Nat
  va     : Nat
  bytes  : Nat
  broken : Bool
deriving DecidableEq, Repr

/-! ## Messages and banks -/

/-- Functions of the fetch-and-op forms (Table 9-4). -/
inductive AtomFn where
  | add | and | or | xor | min | max | minu | maxu | swp | cas | incb
  /-- with the issuing thread's rounding mode (R45) -/
  | fadd (rnd : BitVec 3)
deriving DecidableEq, Repr

/-- Counter instructions (Table 9-5). -/
inductive CtrFn where
  | add (m : Nat) | rd | mrg (l2 : Nat) | lv | lvSet (l : Nat)
deriving DecidableEq, Repr

/-- Kinds of operation that Table 4-5 tells apart. -/
inductive AccKind where
  | load | store | rlx | rmw | red | ldx | erase | ctr | copy | vec | handle | pref
deriving DecidableEq, Repr

/-- Rights that an access needs in its segment and its page (R49, R192). -/
structure Need where
  r : Bool
  w : Bool
  a : Bool
deriving DecidableEq, Repr

/-- What an access does at its bank. -/
inductive MemOp where
  /-- a load of n bytes (R186); `LDX` names its predicate (R188), `LDAQ` its scope (R190) -/
  | load (n : Nat) (sx : Bool) (acq : Option Scope) (pred : Option (BitVec 5))
  /-- a store (R186), with the scope of a release (R133) -/
  | store (bytes : List Byte) (rel : Option Scope)
  | erase
  /-- a fetch-and-op: function, 8-byte form, operand, comparand, acquire and release (R192, R193) -/
  | atom (f : AtomFn) (dbl : Bool) (x c : Word) (acq rel : Option Scope)
  | rsv (dbl : Bool) (acq : Option Scope)
  /-- `RLS` with its data, and `RLSN` (R194) -/
  | rls (bytes : Option (List Byte)) (rel : Option Scope)
  /-- `WAITRS` (R195) -/
  | watch
  /-- a fence probe (R129) -/
  | probe
  /-- a counter instruction on a nibble or byte, with the issuer's `pcb` (R197) -/
  | ctr (f : CtrFn) (hi : Bool) (pcb : BitVec 3)
  /-- a non-returning reduction (R196) -/
  | red (f : AtomFn) (dbl : Bool) (x : Word)
  /-- `ATTN` with its target, and `AWAIT` with the value it waits to differ from, or with none once it has been woken (R230, R231) -/
  | attn (target : BitVec 32)
  | await (v : Option (BitVec 32))
  /-- the diagnostic store and load of a word with its check bits, in a slice's cache where `sc` says so (R279) -/
  | diagSt (data : Word) (chk : BitVec 8) (sc : Bool)
  | diagLd (chkReg : Fin 16) (sc : Bool)
deriving DecidableEq, Repr

/-- Where a result goes: a register or predicate awaiting the tag, a reserved queue entry, a latch, or nowhere (R186). -/
inductive Dst where
  | none
  | reg
  | queue (core : Nat) (k : Fin 4)
  | nf (core : Nat) (slot : Fin 8)
deriving DecidableEq, Repr

/-- One access in flight or at its bank (R121, R123). -/
structure Msg where
  tag    : Nat
  who    : Ident
  part   : Nat
  core   : Nat
  slot   : Fin 8
  opc    : Nat
  pc     : Word
  /-- where its thread goes on: the head after it, or after the head it prefixes (R151, R199) -/
  next   : Word
  off    : Word
  va     : Nat
  pa     : Nat
  bytes  : Nat
  /-- its kind and the rights that it needs, as its port checks them (R184) -/
  acc    : AccKind
  need   : Need
  cls    : Nat
  bank   : Bank
  op     : MemOp
  rlx    : Bool
  /-- its page was MIGRATING at the port, so that the later checks of Table 9-3 are made when it goes on -/
  unchk  : Bool
  /-- the fault queues of its home and of its port were full: its port holds it (R199) -/
  stuck  : Bool
  dst    : Dst
  /-- the pointer that a trap of this access sets back (R183, R186) -/
  undo   : Option (Fin 8 × Word)
  /-- for a granule of a class-1 page: its existence-map entry, the pool header and the default pattern (R313) -/
  gran   : Option (Nat × Nat × Word)
deriving DecidableEq, Repr

/-- The release of a fetch-and-op, counter instruction or reduction on its way to the home (R132): the bytes it writes, if
any, the old word, and what the core's ALU leaves in the thread: flags and draw state (R193, R197). -/
structure Rel where
  msg   : Msg
  bytes : Option (List Byte)
  val   : Word
  sst   : BitVec 9
  cds   : Option (BitVec 32)
deriving DecidableEq, Repr

/-- A reply on the return path (R123). (DEDUCED, log 67) -/
structure Reply where
  tag  : Nat
  who  : Ident
  val  : Word
  pred : Option Bool
  /-- what the reply carries for the thread besides a value: flags for `sst`, the draw state, check bits -/
  sst  : BitVec 9
  chk  : Option (Fin 16 × Word)
  /-- the grant of an `RSV`: device address, word and width (R194) -/
  rsv  : Option Rsv
  /-- a refusal taken precisely by the held thread: cause, value, pc, pointer to set back (R93, R368) -/
  trap : Option (BitVec 8 × Word × Word × Option (Fin 8 × Word))
  /-- the instruction parks and is issued again at this PC (R87) -/
  park : Option (Wait × Word)
  msg  : Msg
  /-- the number after which it left its bank: wakes numbered lower left before it (R349) -/
  sent : Nat
deriving DecidableEq, Repr

/-! ## Threads -/

/-- A home bank of the module, or the place of requests to another module. -/
abbrev Home := Bank

/-- One access of the Relaxed set: its tag and its bank (R127). -/
structure RlxEntry where
  tag  : Nat
  bank : Bank
  /-- acknowledged at P(e) rather than A(e): the issuing core's own scratchpad (R128) -/
  own  : Bool
deriving DecidableEq, Repr

/-- The access in the Outstanding Access register (R126): whether it is an acquire not yet performed (R134), whether no other may be
outstanding beside it (R80), and, where later accesses need not wait for it because its acquire effect is to be dropped, whether
one has issued (R135). -/
structure Oar where
  tag   : Nat
  acq   : Bool
  alone : Bool
  loose : Option Bool
deriving DecidableEq, Repr

/-- What a thread is (R15 to R25). -/
inductive Kind where
  /-- a thread of the launch with this sequence number, with its role, and whether its mode is strict (R18, R42) -/
  | launch (seq : BitVec 32) (role : BitVec 2) (strict : Bool)
  /-- a task; the descriptor it keeps until it retires, by its number (R299) -/
  | task (desc : Nat)
  /-- a spark evaluating the handle at this device address (R25, R117) -/
  | spark (va : Nat)
deriving DecidableEq, Repr

/-- A handle a walk has claimed or is evaluating: one forcing frame (R109), mirrored in the window stack. -/
structure ForceFrame where
  va     : Nat
  pa     : Nat
  claim  : Nat
  /-- the next operand to walk, 0-2; 3 once every operand is VALUE -/
  nextOp : Nat
  base   : Nat
  /-- the VALUE words of the operands walked -/
  words  : List Nat
deriving DecidableEq, Repr

/-- The walk of a `FORCE`, a strict `SUSP`, an `APPLY` task or a spark (R111, R117, R118, R244): forcing frames, innermost
first. -/
structure Walk where
  frames : List ForceFrame
  /-- the VALUE words of the operands that a strict `SUSP` has forced (R118) -/
  words  : List Nat
  /-- the tag of the tile operation that runs for the innermost frame, or for the strict `SUSP` itself -/
  busy   : Option Nat
  /-- that operation, or the evaluation of an `APPLY` handle, has completed -/
  done   : Bool
  /-- what a strict `SUSP` computes: result format, rows, columns and placement (R118) -/
  strict : Option (Nat × Nat × Nat × Nat)
  /-- the trap, with its value, that the engine operation of the walk met (R111) -/
  failed : Option (BitVec 8 × Word)
deriving DecidableEq, Repr

/-- A hold frame in the window stack (R114): its base, the claimant's walk that it interrupts, and the claimant's segments,
which its block does not hold. -/
structure Hold where
  base : Nat
  walk : Option Walk
  segs : Vector Seg 8
  /-- where the stack goes back to, once an unwind above it has discarded the walk's frames (R110) -/
  cut  : Option Nat
  /-- the stores that the program under it holds, where a spark runs it (R117) -/
  held : List (Nat × Byte)
deriving DecidableEq, Repr

/-- A resident window other than the current one, with the base of its call record (R46, R158). -/
structure Resident where
  base : Nat
  win  : Vector RegCell 8
deriving DecidableEq, Repr

/-- What waits for a thread's next instruction boundary: its kill, its pre-emption, or its save by the `CTXSV` of another thread
(R30, R277, R284). -/
inductive Pend where
  | kill
  /-- the kill of its context, asked for by an instruction of a core, with the cause of its Report Card -/
  | killCtx (core : Nat) (cause : BitVec 8)
  | preempt
  | ctxsv (issuer : Ident)
deriving DecidableEq, Repr

/-- A thread, task or spark (R19, R27, R28; Tables 1-5, 2-4, 18-3). -/
structure Thread where
  id       : Ident
  part     : Nat
  kind     : Kind
  prio     : Nat
  status   : Status
  tag      : BitVec 16
  pc       : Word
  pw       : BitVec 32
  predPend : List (BitVec 5 × Nat)
  g        : Vector RegCell 8
  win      : Vector RegCell 8
  a        : Vector RegCell 8
  resident : List Resident
  segs     : Vector Seg 8
  dirty    : BitVec 8
  /-- the segments of the supervisor set that it has narrowed since it took that set (R50, R267). (DEDUCED, log 15) -/
  supDirty : BitVec 8
  rnd      : BitVec 3
  vl       : BitVec 11
  sst      : BitVec 9
  pcb      : BitVec 3
  cds      : BitVec 32
  fmtp     : Word
  sclp     : Word
  sbud     : BitVec 32
  xcause   : Word
  xval     : Word
  xpc      : Word
  xh       : Word
  ovh      : Word
  wsb      : Word
  wsl      : Word
  wsp      : Word
  mode     : Bool
  pmode    : Bool
  hdlr     : Bool
  scause   : Word
  sval     : Word
  spc      : Word
  sh       : Word
  sscr     : Word
  visible  : Bool
  oar      : Option Oar
  rlx      : List RlxEntry
  rlxLoads : List (Nat × Bank)
  /-- touched banks; every bank of another module counts as the one remote-package bit (R121) -/
  mask     : List Bank
  probes   : List (Nat × Bank)
  rsv      : Option Rsv
  engOps   : List Nat
  markers  : List (Nat × BitVec 3 × List Nat)
  walk     : Option Walk
  /-- the hold frames in the window stack, innermost first (R114) -/
  holds    : List Hold
  held     : List (Nat × Byte)
  parkedAt : Nat
  /-- Roll Call tokens sent along its present wait (R304) -/
  rolled   : Nat
  /-- the indices handed out to it, the last first (R31) -/
  drew     : List Nat
  /-- a value or result that reached a parked thread and that its reissue takes (R252, R258) -/
  carried  : Option (Nat × Word)
  /-- what the wake message of its DROPPED access carried: the reissue of the instruction at its PC completes with it (R199) -/
  replay   : Option Reply
  /-- device addresses of relaxed accesses that an access table refused and no fence of the thread has reported yet (R270, Table 18-1) -/
  refused  : List Word
  /-- the register that its last `EMPT` set EMPTY, and the cycle (R170) -/
  emptied  : Option (Nat × Nat)
  /-- the next blocked push may take the reserve entry of its queue (R305) -/
  spare    : Bool
  /-- what is to happen to it at its next instruction boundary (R30, R277, R284) -/
  pending  : Option Pend
  /-- a Marker thread trails this one in slot s + 4 (R324) -/
  lead     : Bool
  /-- the predicate word, and the CSRs with these numbers, fail their parity check (R320) -/
  badPw    : Bool
  badCsr   : List Nat
deriving DecidableEq, Repr

/-! ## Lines, faults and translation -/

/-- Who holds a reserved line (R132). -/
structure Holder where
  who    : Ident
  tag    : Nat
  /-- taken by `RSV` -/
  rsv    : Bool
  at_    : Nat
deriving DecidableEq, Repr

/-- The reservation queue of a line at its home, and its watchers (R121, R132, R195). -/
structure LineQ where
  line    : Nat
  holder  : Option Holder
  /-- waiting requesters in arrival order -/
  queue   : List Msg
  /-- plain accesses set aside behind the reservation, in arrival order (R125) -/
  aside   : List Msg
  /-- those of them that arrived on the free line behind a request, until its grant -/
  behind  : List Nat
  watch   : List Ident
  waitFrom : Nat
deriving DecidableEq, Repr

/-- The release record of an aligned 8-byte word (R133). -/
structure RelRec where
  word  : Nat
  scope : Scope
  lcore : Nat
  slot  : Fin 8
deriving DecidableEq, Repr

/-- The unit whose fault queue parks a request: a quad's port or a home bank (R199). -/
inductive FUnit where
  | port (quad : Nat)
  | home (b : Bank)
deriving DecidableEq, Repr

/-- Why a request is parked (R199, R201, R315); `order` is no fault: a relaxed access whose page is found to be strongly ordered waits for
the Outstanding Access register (R128). -/
inductive FaultKind where
  | absent | cow | table | stock | frame | moving | order
deriving DecidableEq, Repr

/-- What is parked: an access; a line event of a running engine operation; or a thread whose instruction reads or writes at
issue and is issued again after the repair. -/
inductive Parked where
  | access (m : Msg)
  | line (core : Nat) (e : Eng) (va : Nat)
  | thread (who : Ident) (core tag : Nat)
deriving DecidableEq, Repr

/-- An entry of a fault queue (R199). -/
structure FaultEntry where
  unit : FUnit
  ctx  : Nat
  part : Nat
  va   : Nat
  kind : FaultKind
  what : Parked
deriving DecidableEq, Repr

/-- An outstanding page request (R315). -/
structure PageReq where
  tag  : BitVec 32
  gen  : BitVec 32
  ctx  : Nat
  part : Nat
  kind : FaultKind
  va   : Nat
  unit : FUnit
  /-- it lies in the ring; while the ring is full the unit holds it -/
  posted : Bool
deriving DecidableEq, Repr

/-- A cached leaf entry of a port (R311): its page base, the entry and where it was read. -/
structure TlbEntry where
  port : Nat
  ctx  : Nat
  part : Nat
  base : Nat
  leaf : Word
  from_ : Nat
deriving DecidableEq, Repr

/-- A table invalidation whose acknowledgements are awaited (R278, R317). -/
structure Inval where
  tag  : Nat
  who  : Option Ident
  ctx  : Nat
  part : Nat
  /-- the page base and size, or every entry of the context, or of the partition -/
  page : Option (Nat × Nat)
  whole : Bool
  left : List Nat
deriving DecidableEq, Repr

/-- A page that is moving (R201, R317), with the TAG of its command (R356). -/
structure Move where
  cmd  : BitVec 16
  part : Nat
  ctx  : Nat
  base : Nat
  size : Nat
  oldLeaf : Word
  newLeaf : Word
  at_  : Nat
  /-- the data has moved and the shootdown with this tag runs -/
  shot : Option Nat
  tag  : Nat
deriving DecidableEq, Repr

/-! ## Engines -/

/-- A range of device addresses (R101). -/
structure Range where
  lo : Nat
  n  : Nat
deriving DecidableEq, Repr

/-- A line as its port has translated it: device address, whether it is written, name and granule (R205). -/
structure LineName where
  va   : Nat
  wr   : Bool
  name : Nat
  gran : Option (Nat × Nat × Word)
deriving DecidableEq, Repr

/-- A line read of an engine operation: the source stream it belongs to, device address, bytes, whether it is checked as a
load, and what was read: nothing yet, a refused line, or bytes. -/
structure LineRead where
  str   : Nat
  va    : Nat
  n     : Nat
  ld    : Bool
  got   : Option (Option (List Byte))
deriving DecidableEq, Repr

/-- A line write of an engine operation, with the attendance word that counts it, by its memory key (R86). -/
structure LineWrite where
  va    : Nat
  bytes : List Byte
  att   : Option Nat
  done  : Bool
deriving DecidableEq, Repr

/-- A unit of work of an engine operation: its reads, then its writes. -/
structure EUnit where
  key    : Nat
  reads  : List LineRead
  /-- how often its reads have been taken up: a coded tile or a gather reads more once it knows what -/
  phase  : Nat
  loaded : Bool
  writes : List LineWrite
  /-- lines written before a checkpoint of a copy (R302) -/
  gone   : List Nat
deriving DecidableEq, Repr

/-- A deposit on its way, or waiting in a buffer (R36, R232): the thread it follows, once redirected; its target; the
sending core and operation, whose counter falls when the deposit is accepted. -/
structure Deposit where
  tag   : Nat
  who   : Option Ident
  lcore : Nat
  slot  : Fin 8
  code  : Nat
  val   : Word
  src   : Option (Nat × Nat)
  part  : Nat
  ctx   : Nat
deriving DecidableEq, Repr

/-- The walk operation of a forcer (R111): the cell's operation and mode, result and operand formats, shapes and
addresses. (DESIGN CHOICE, log 21) -/
structure TileJob where
  op    : Nat
  mode  : BitVec 10
  rfmt  : Nat
  rows  : Nat
  cols  : Nat
  place : Nat
  afmt  : Nat
  arows : Nat
  acols : Nat
  aaddr : Nat
  bfmt  : Nat
  brows : Nat
  bcols : Nat
  baddr : Nat
  /-- there is a second operand -/
  two   : Bool
  sclp  : Nat
  /-- the operands no longer fit the operation: the result's elements and flags are free values of this number (DESIGN CHOICE, log 21) -/
  free  : Option Nat
deriving DecidableEq, Repr

/-- Elementwise vector operations (R206 to R213); `cvt` names its source format. -/
inductive ElemOp where
  | add | sub | mul | fma | min | max | abs | neg | div | sqrt | rsq | exp2
  | and | or | xor | shl | shr | sra | ceq | clt | sel | iota | mov
  | cvt (src : VFmt)
deriving DecidableEq, Repr

/-- A source of an elementwise operation: a stream at a device address with its format's element size, or a scalar. -/
inductive ESrc where
  | strm (va : Nat) (f : VFmt)
  | scal (w : Word)
deriving DecidableEq, Repr

/-- What an engine operation does, with its operands as read at issue; streams are device addresses. -/
inductive Job where
  | elem (op : ElemOp) (f : VFmt) (d : Nat) (xs : List ESrc)
  /-- `VRSUM` and `VRMAX` -/
  | fold (max : Bool) (f : VFmt) (d x : Nat)
  | pack (f src : VFmt) (rows cols d x : Nat)
  /-- the tile's pointer and its offset, for the check of its length (R215) -/
  | unpk (f : VFmt) (d x : Nat) (p : Fin 8) (off : Word)
  | trn (f : VFmt) (d x : Nat)
  | cmpr (f : VFmt) (d x y : Nat)
  /-- base pointer with its segment number -/
  | gath (f : VFmt) (first : Bool) (d : Nat) (p : Fin 8) (base : Word) (y : Nat)
  | scat (f : VFmt) (p : Fin 8) (base : Word) (x y : Nat)
  | mma (k : BitVec 4) (x y : Nat) (o : MmaCtl) (sclp : Nat)
  | mzero (k : BitVec 4)
  | mlda (k : BitVec 4) (x : Nat)
  | msta (k : BitVec 4) (x : Nat) (f : VFmt) (int : Bool)
  | mstc (k : BitVec 4) (x : Nat) (e5 : Bool)
  | madd (k src : BitVec 4) (int : Bool)
  | mscal (k : BitVec 4) (x : Nat)
  | mrssq (k : BitVec 4) (x : Nat)
  | cpy (d x n : Nat)
  | cpy2 (d x : Nat) (v : Word)
  /-- an offset in each of these physical cores -/
  | cpym (off x n : Nat) (cores : List Nat)
  | depo (d : Deposit)
  /-- a reduction, as a relaxed access of the copy engine -/
  | red (m : Msg)
  | tile (t : TileJob)
deriving DecidableEq, Repr

/-- An engine operation from issue to completion (R137, R221). -/
structure EngOp where
  tag   : Nat
  who   : Ident
  slot  : Fin 8
  part  : Nat
  opc   : Nat
  pc    : Word
  /-- its head and R tail, and its length or shape register, for the record of a checkpoint (R302) -/
  enc   : Nat
  shape : Word
  job   : Job
  rnd   : BitVec 3
  vl    : Nat
  segs  : Vector Seg 8
  /-- its completion counter; a walk's tile operation has none -/
  cnt   : Option (BitVec 3)
  wait  : Bool
  srcs  : List Range
  dsts  : List Range
  /-- entries of the Hall Pass table that it keeps for ranges not yet known (R101, R218) -/
  more  : Nat
  /-- attendance word of a copy, by its memory key (R86) -/
  att   : Option Nat
  started : Bool
  /-- a deposit has been accepted, or a reduction performed -/
  landed : Bool
  /-- its units, and the writes of a unit, are performed in order (R137) -/
  ordered : Bool
  units : List EUnit
  flags : BitVec 9
  /-- the trap, with its value, that a waiting operation met (R89, R205, R70) -/
  trap  : Option (BitVec 8 × Word)
  /-- the logical core to which `GATHF` sends its thread (R219) -/
  move  : Option Nat
  /-- registers a waiting operation writes at its completion -/
  outs  : List (RegName × Word)
  /-- pointers that advance by the count of `GATHF` and `VCMPR`: pointer, value, bytes -/
  scaled : List (Fin 8 × Word × Nat)
  /-- the count register of `GATHF` and `VCMPR` -/
  count : Option (Fin 16)
  /-- the pointer that is pending until a coded tile's length is known, with its value at issue (R204) -/
  late  : Option (Fin 8 × Word)
  /-- destination lines left unwritten because they depend on a refused source line (R89) -/
  skip  : List Nat
  /-- refused lines, with their causes, that the reduction log already holds for this operation -/
  logged : List (Nat × Nat)
  /-- what an operation that waits has translated before its first write (R205) -/
  granted : List LineName
deriving DecidableEq, Repr

/-- One engine of a core: its queue of operations, the running one first (R100, R221). -/
structure Engine where
  queue  : List EngOp
  /-- the accumulator as it was before the running MMA (R225) -/
  shadow : Option (Nat × List (BitVec 32))
  /-- a replay of the running MMA was asked for (R225, R323) -/
  retry  : Bool
  /-- the steps of the running operation whose residue did not match, which have been run once more (R323) -/
  again  : List Nat
deriving DecidableEq, Repr

/-! ## Tasks, ranges, slots and cores -/

/-- A task descriptor (Table 19-6) with its own number. -/
structure Desc where
  num     : Nat
  itag    : BitVec 16
  origin  : BitVec 12
  sbud    : BitVec 32
  cds     : BitVec 32
  handle  : BitVec 48
  sclp    : BitVec 48
  fmtp    : BitVec 48
  restart : BitVec 16
  args    : BitVec 48
  depc    : BitVec 16
  applyt  : Bool
  state   : BitVec 2
  prio    : BitVec 2
  ctx     : BitVec 12
  entry   : BitVec 19
  /-- enqueued by a redundant thread of this launch (R325) -/
  redun   : Option Nat
deriving DecidableEq, Repr

/-- A range unit given to a launch (R20, R295). -/
structure RangeUnit where
  part : Nat
  seq  : Nat
  lo   : Nat
  hi   : Nat
  /-- first and last logical index and die of the launch's rectangle, for steals (R21) -/
  rect : Nat × Nat × Nat × Nat
deriving DecidableEq, Repr

/-- An entry of a queue: a value, or a place reserved for the result with this tag (R38, R186). -/
inductive QEntry where
  | val (w : Word)
  | res (tag : Nat)
deriving DecidableEq, Repr

/-- An instruction that a leading thread has run and its Marker thread has not (R324): the numbers of what it sent, from `lo` up to `hi`;
how many values it took from outside its registers; whether it is an output, kept in the store comparator; whether the Marker thread's entry
will differ; its opcode and cycle. (DEDUCED, log 62) -/
structure Trail where
  lo   : Nat
  hi   : Nat
  vals : Nat
  out  : Bool
  bad  : Bool
  /-- the Marker thread reads a register of its own there that fails its parity check (R320) -/
  eats : Bool
  opc  : Nat
  at_  : Nat
deriving DecidableEq, Repr

/-- What a slot holds (R16). -/
inductive Occ where
  | free
  | thread (t : Thread)
  /-- reserved for a thread away by migration -/
  | away (who : Ident) (prio part : Nat) (strict : Bool)
  /-- reserved by a dispatch that is loading its image (R295, R296) -/
  | launch (part seq : Nat)
  /-- the Marker thread of the redundant thread in slot s - 4: the state it comes to once it has run what it trails behind (R18, R324) -/
  | marker (m : Thread)
deriving DecidableEq, Repr

/-- One of the eight slots of a core. -/
structure Slot where
  inc       : BitVec 16
  occ       : Occ
  rq        : List Word
  rqSpare   : Bool
  nf        : Word
  bell      : Bool
  lastIssue : Option Nat
  /-- the slots that have issued since its `YIELD`, and the cycle of the `YIELD` (R163) -/
  yieldSet  : Option (List (Fin 8) × Nat)
  /-- the slots that have been eligible in a cycle since its `YIELD` (R163) -/
  yieldSeen : List (Fin 8)
  /-- the cycle in which a deposit landed in a register of its thread, or an operation's flags reached its `sst`: after whatever the slot
  issues in that cycle, so that it issues no more in it (R37, R61) -/
  shutAt    : Option Nat
  /-- the cycle of the first of the two that the spill of its oldest window takes (R46) -/
  spillAt   : Option Nat
  /-- the thread that left it by migration, while no other has taken it: deposits for the slot follow that thread (R28, R36) -/
  left      : Option Ident
  wsb       : Word
  wsl       : Word
  /-- instructions of the leading thread that its Marker thread in this slot has still to run, the oldest first (R324) -/
  trail     : List Trail
  /-- the entries of the receive queue, by their places from the head, that fail their parity check, and whether the latch does (R320) -/
  badRq     : List Nat
  badNf     : Bool
deriving DecidableEq, Repr

/-- A SAVED thread of its home core: its record, the storage of its block's eight lines, whether `CTXSV` saved it and no core restores
it by itself, and the receive queue of its home slot (R30, R277, R301). -/
structure Saved where
  t      : Thread
  lines  : List Nat
  manual : Bool
  rq     : List Word
  rqSpare : Bool
deriving DecidableEq, Repr

/-- A saved core block (R302). -/
structure CoreBlock where
  prio   : Nat
  base   : Nat
  ctx    : Nat
  /-- the checkpointed copies, in queue order -/
  copies : List EngOp
  /-- contexts of the pool's sparks -/
  sparks : List Nat
  /-- places of the queues kept for results: queue, position, tag -/
  places : List (Fin 4 × Nat × Nat)
deriving DecidableEq, Repr

/-- A scan test in progress: its wait, the cycle it began, and that of an abort (R282, R332, R353). -/
structure Scan where
  who   : Option Ident
  id    : Nat
  at_   : Nat
  abort : Option Nat
deriving DecidableEq, Repr

/-- A completion counter: value and outstanding operations (R100, R233). -/
structure CC where
  val  : BitVec 16
  out  : Nat
deriving DecidableEq, Repr

/-- A physical core. -/
structure Core where
  xb       : Word
  itag     : BitVec 16
  csave    : Word
  q        : Vector (List QEntry) 4
  qSpare   : Vector Bool 4
  /-- nonzero words of the accumulators: (512 × 2 × tile + word, bits) in rising order; the rest is +0 (R222) -/
  acc      : List (Nat × BitVec 32)
  /-- nonzero syndromes of the accumulators' word pairs (512 × tile + pair, syndrome) (R279, R320) -/
  accSynd  : List (Nat × BitVec 8)
  cc       : Vector CC 8
  mat      : Engine
  vec      : Engine
  copy     : Engine
  slots    : Vector Slot 8
  depBuf   : List Deposit
  /-- inbound migration buffer: a thread and the logical core it came from (R26) -/
  migBuf   : List (Thread × Nat)
  tasks    : List Desc
  /-- the Spare Desk entry of each priority's task queue is in use (R305) -/
  taskSpare : Vector Bool 4
  sparks   : List (Nat × Nat)
  ranges   : List RangeUnit
  saved    : List Saved
  blocks   : List CoreBlock
  lastCtx  : Option (Nat × Nat)
  strict   : Bool
  lastSlot : Fin 8
  issuedAt : Option Nat
  /-- the last cycle in which the issue stage took no slot: one that a spill took, or one that has passed (R42, R46) -/
  bubbleAt : Option Nat
  strictBase : Nat
  qWritten : Vector (Option Nat) 4
  nfWritten : Vector (Option Nat) 8
  scan     : Option Scan
  /-- whether the last scan result recorded for it was 1 (R354) -/
  scanResult : Option Bool
  failed   : Bool
  /-- cycles at which it originated Detentions (R331) -/
  detTimes : List Nat
  stopped  : Bool
  /-- the entries of each queue, by their places from the head, that fail their parity check (R320) -/
  badQ     : Vector (List Nat) 4
  /-- nonzero syndromes of words that have no address (R318, R320) -/
  marks    : List (CoreStore × BitVec 8)
deriving DecidableEq, Repr

/-- A thread in flight between cores (R27, R28). -/
structure Mig where
  tag  : Nat
  t    : Thread
  dest : Nat
  src  : Nat
deriving DecidableEq, Repr

/-! ## Homes and contexts -/

/-- Who waits on a handle (R108, R112): a thread, or a squashed task by its descriptor. -/
inductive Waiter where
  | thread (who : Ident) (prio va : Nat)
  | task (desc : Nat)
deriving DecidableEq, Repr

/-- A claim record (R108); with no claimant it keeps the waiters of a reverted claim, or of a waiter list (R110). -/
structure Claim where
  idx    : Nat
  pa     : Nat
  bank   : Bank
  cell   : Nat
  claimant : Option (Ident × Bool)
  prio   : Nat
  part   : Nat
  waiters : List Waiter
  /-- tasks that list this handle as a dependence (R251) -/
  deps   : List Nat
deriving DecidableEq, Repr

/-- What the machine keeps of a context (R118, R198, R270, R274, R307). (DEDUCED, log 50) -/
structure Ctx where
  part    : Nat
  ctx     : Nat
  suse    : Nat
  cells   : List Nat
  retired : List Nat
  logN    : Nat
  logDone : Nat
  access  : Option Word
  ptroot  : Word
  killed  : Bool
deriving DecidableEq, Repr

/-- A host launch queue (Table 19-4). -/
structure HostQ where
  base : Word
  stat : Word
  size : Nat
  tail : BitVec 32
  head : BitVec 32
deriving DecidableEq, Repr

/-- A partition (R15, R270 to R274, R291, R293, R315, R352, R355 to R357). (DESIGN CHOICE, log 46) -/
structure Part where
  ctab    : Word
  evq     : Word
  evN     : Nat
  queues  : List (Nat × HostQ)
  seq     : Option (BitVec 32)
  ended   : List (BitVec 32)
  /-- the context served last, by the die of the launch unit and the priority (R294) -/
  rr      : List ((Nat × Nat) × Nat)
  prBase  : Word
  prHead  : BitVec 32
  prTail  : BitVec 32
  pending : BitVec 32
  enable  : BitVec 32
  routers : List Nat
  slices  : List Nat
  shares  : List (Nat × Nat)
  regions : List (Nat × Nat)
  /-- launch queues and link weights assigned at bring-up (R272, R352) -/
  owned   : List Nat
  weights : List (Nat × Nat)
  /-- page responses discarded (R200, R316) -/
  discards : Nat
  /-- the cycle of the newest setting of a pending bit, and the bits set in it (R357) -/
  raised  : Nat × BitVec 32
  /-- the record that the function has written at mailbox offset 0, and the newest answer at offset 0x80 (R356) -/
  mbox    : List Byte
  answer  : List Byte
deriving DecidableEq, Repr

/-- A launch record as fields (Table 19-1). -/
structure LRec where
  depa  : BitVec 32
  sbud  : BitVec 32
  args  : BitVec 48
  sclp  : BitVec 48
  fmtp  : BitVec 48
  count : BitVec 32
  first : BitVec 32
  image : BitVec 48
  depv  : BitVec 32
  roles : BitVec 16
  lix1  : BitVec 9
  lix0  : BitVec 9
  die1  : BitVec 3
  die0  : BitVec 3
  depk  : BitVec 2
  redun : Bool
  mode  : Bool
  nslot : BitVec 3
  prio  : BitVec 2
  ctx   : BitVec 12
  entry : BitVec 19
deriving DecidableEq, Repr

/-- A launch that has been taken: accepted, dispatching (its image on the way) or running (R290 to R296). -/
structure Launch where
  part  : Nat
  seq   : BitVec 32
  queue : LQueue
  r     : LRec
  tag   : BitVec 16
  len   : Nat
  src   : Nat
  /-- logical cores that still wait for the image, once dispatching -/
  load  : List Nat
  /-- its slots are reserved and what must go is being pre-empted -/
  dispatched : Bool
  /-- physical cores that must be emptied, whose core block of this priority is still to be written (R302) -/
  blocks : List (Nat × Nat)
  running : Bool
  live  : Nat
  /-- when its unit first chose it and found that it could not dispatch, in the order of such events (R294) -/
  chosen : Option Nat
  /-- nonzero where a word of its unit that holds it has an error: its syndrome (R318, R320) -/
  err : BitVec 8
deriving DecidableEq, Repr

/-- A record in a die's device queue (R292), with who sent it. -/
structure DevRec where
  part  : Nat
  seq   : BitVec 32
  bytes : List Byte
  lcore : Nat
  slot  : Fin 8
deriving DecidableEq, Repr

/-- A steal request or reply of a range unit, with the threads whose `NEXT` waits for it, the first to ask first (R21,
R252). -/
structure Steal where
  tag    : Nat
  who    : List Ident
  part   : Nat
  seq    : Nat
  thief  : Nat
  victim : Nat
  left   : List Nat
  /-- the answer: nothing yet, a failure, or a range -/
  reply  : Option (Option (Nat × Nat))
deriving DecidableEq, Repr

/-- A message of `SEND` (R255). -/
structure SendMsg where
  tag   : Nat
  who   : Ident
  part  : Nat
  lcore : Nat
  slot  : Fin 8
  val   : Word
  /-- the physical core that sent it (R349) -/
  src   : Nat
  /-- it has reached its target, and waits there for room (R255) -/
  there : Bool
deriving DecidableEq, Repr

/-- A wake on its way to a thread (R29, R199). -/
structure Wake where
  tag  : Nat
  who  : Ident
  /-- the wait it ends, or the access whose repair it reports -/
  wait : Wait ⊕ Nat
deriving DecidableEq, Repr

/-- An attendance count on its way to a word (R86), with the party whose copy it counts (R136). -/
structure Arrival where
  tag   : Nat
  pa    : Nat
  n     : Nat
  op    : Nat
  who   : Ident
  lcore : Nat
  slot  : Fin 8
deriving DecidableEq, Repr

/-- What a completion signal of the hardware does once the work that it closes is performed (R136). -/
inductive SignalAct where
  /-- the dependence counter of a descriptor falls -/
  | lower (num : Nat)
  /-- a launch ends -/
  | ended (part : Nat) (seq : BitVec 32)
deriving DecidableEq, Repr

/-- A completion signal that waits for the accesses of the parties whose work it closes (R136). -/
structure Signal where
  who : List Ident
  act : SignalAct
deriving DecidableEq, Repr

/-- A Roll Call token in flight (R304). -/
structure Token where
  tag    : Nat
  origin : Ident
  to_    : Ident
  hops   : Nat
  /-- every hop so far is a queue wait -/
  queues : Bool
  /-- the cycle in which the origin's wait began -/
  since  : Nat
deriving DecidableEq, Repr

/-- A barrier group that gathers: the launch, the scope and the unit, and the members that have arrived (R257). (DEDUCED, log 54) -/
structure BarGroup where
  id     : Nat
  part   : Nat
  seq    : BitVec 32
  scope  : Scope
  unit   : Nat
  members : List Ident
  /-- the cycle in which its newest member arrived (R263) -/
  lastAt : Nat
deriving DecidableEq, Repr

/-- A reduction group that gathers (R258). -/
structure RednGroup where
  id     : Nat
  part   : Nat
  ctx    : Nat
  scope  : Scope
  unit   : Nat
  op     : RednOp
  count  : Nat
  members : List (Ident × Nat × Word)
deriving DecidableEq, Repr

/-- A Detention (R327 to R331): who asked, the core that originated it, its rectangle word, how far it has come (0 waits to
start, 1 fenced, 2 noticed, 3 reset), the threads lost, and when it began. -/
structure Detention where
  id     : Nat
  who    : Option Ident
  origin : Nat
  rect   : Nat
  stage  : Nat
  lost   : Nat
  at_    : Nat
deriving DecidableEq, Repr

/-- A Diary source's ring (R333, R334): records in ring order, the oldest first; whether it is frozen; the events missed
and not yet counted in a gap record; the cycle of the last event and the records of that cycle (R336); the last mark. -/
structure Diary where
  src    : Source
  recs   : List (BitVec 64)
  frozen : Bool
  missed : Nat
  cycle  : Nat
  count  : Nat
  mark   : Nat
  /-- errors in entries, by the place from the oldest: data bits flipped and the syndrome (R318, R333) -/
  errs   : List (Nat × BitVec 64 × BitVec 8)
deriving DecidableEq, Repr

/-- A freeze in progress or a Report Card to be written (R338, R340). -/
structure Fatal where
  part   : Nat
  ctx    : Option Nat
  cause  : BitVec 8
  val    : Word
  pc     : Word
  src    : Source
  who    : Option Ident
  at_    : Nat
  /-- it arose while a capsule was being gathered (R339) -/
  late   : Bool
  /-- it began a freeze: its source was recording, and no capsule was being gathered (R339) -/
  own    : Bool
deriving DecidableEq, Repr

/-- An entry of the flash ring (R343): capsule number, hash of the signed bytes, signature, state, and whether `CAPCLEAR` has
marked it (R345). -/
structure Flash where
  seq     : Nat
  hash    : BitVec 256
  sig     : BitVec 512
  state   : BitVec 8
  cleared : Bool
deriving DecidableEq, Repr

/-- The capsule store of the module (R341 to R345): the state and the count of overflow headers in its state word, its other
bytes by offset, the flash ring, oldest entry first, and the number of capsules since manufacture. -/
structure Capsule where
  state : BitVec 8
  count : Nat
  store : List Host.Cell
  flash : List Flash
  seq   : Nat
deriving DecidableEq, Repr

/-! ## The state -/

/-- A turn that the agenda holds: which step of Table 6-2, or of the other units, comes next (R8, R123). (DESIGN CHOICE, log 3) -/
inductive Turn where
  /-- the issue stage gives this slot its turn -/
  | issue (core : Nat) (slot : Fin 8)
  /-- one hardware or host event -/
  | event (i : Instr)
  /-- one clock cycle -/
  | tick
  /-- a core goes on with accesses after an acquire that is yet to be performed, as it may where the acquire's check fails (R135) -/
  | loose (core : Nat) (slot : Fin 8)
  /-- a home caches a word of a region descriptor or an existence map, or forgets it (R313) -/
  | mapFill (home k : Nat)
  | mapDrop (home k : Nat)
  /-- a port forgets a cached entry (R311) -/
  | evict (port ctx base : Nat)
  /-- firmware ends its present stage of bring-up, or fails in it (R358, R359) -/
  | stage (ok : Bool)
deriving DecidableEq, Repr

/-- The slot whose instruction issues. -/
structure Cur where
  core : Nat
  slot : Fin 8
deriving DecidableEq, Repr

/-- The module's state. -/
structure State where
  time     : Word
  mem      : List Host.Cell
  synd     : List (Nat × BitVec 8)
  lost     : List (Bank × Nat)
  /-- uncorrectable words of clean lines in the slices' caches, whose DRAM words are as `mem` has them: key, data, syndrome (R321) -/
  cacheBad : List (Nat × Word × BitVec 8)
  lmap     : List (Nat × Nat)
  cores    : List (Nat × Core)
  net      : List Msg
  inbox    : List Msg
  rels     : List Rel
  replies  : List Reply
  /-- echoes of probes on their way to the fencing thread (R129) -/
  echoes   : List (Nat × Ident × Bank)
  lines    : List LineQ
  relRec   : List RelRec
  faultQ   : List FaultEntry
  pageReqs : List PageReq
  tlb      : List TlbEntry
  invals   : List Inval
  stocks   : List (Bank × Nat × List Nat)
  /-- region descriptors of class-1 pages whose leaf has become valid (R93) -/
  descs    : List Nat
  /-- words of region descriptors and existence maps as the homes have cached them: slice (die × 12 + slice), address, word (R313) -/
  mapCache : List (Nat × Nat × Word)
  moves    : List Move
  claims   : List Claim
  ctxs     : List Ctx
  parts    : List (Nat × Part)
  acl      : List ((Nat × Nat × Nat) × BitVec 8)
  devQ     : List (Nat × DevRec)
  launches : List Launch
  steals   : List Steal
  migs     : List Mig
  deps     : List Deposit
  sends    : List SendMsg
  wakes    : List Wake
  arrivals : List Arrival
  /-- markers of threads that have ended, by core and counter, with the operations that they still wait for (R234, R284) -/
  ownerless : List (Nat × BitVec 3 × List Nat)
  /-- completion signals that wait for the accesses of their parties (R136) -/
  signals : List Signal
  tokens   : List Token
  bars     : List BarGroup
  redns    : List RednGroup
  detMap   : List ((Nat × Nat) × Word)
  detentions : List Detention
  diary    : List Diary
  fatals   : List Fatal
  capsule  : Capsule
  bustat   : Word
  hostOut  : List (Nat × List Byte)
  agenda   : List Turn
  cur      : Cur
  nextTag  : Nat
deriving DecidableEq, Repr

/-- Why the machine stops with a fault. -/
inductive Fault where
  /-- raised by an event row whose operand names storage that the spec says does not exist (R77, R81, R309);
  safe: the hardware has no such event -/
  | noStorage
  /-- raised by an event row whose operands break its own ranges, so that it names no event of the machine;
  safe: the hardware has no such event -/
  | noSuchEvent
deriving DecidableEq, Repr

/-- Why an instruction has no meaning. -/
inductive Refusal where
  /-- raised by exec's arm of an instruction that is not modelled yet; safe -/
  | notModelled (mnemonic : String)
deriving DecidableEq, Repr

/-! ## Reset -/

/-- A FULL register holding a value. -/
def RegCell.of (v : Word) : RegCell := ⟨v, true, none, false⟩

/-- An empty engine. -/
def Engine.reset : Engine := ⟨[], none, false, []⟩

/-- A slot after reset: free; incarnation, window-stack bounds and latch at 0 (DESIGN CHOICE, log 1). -/
def Slot.reset : Slot := ⟨0, .free, [], false, 0, false, none, none, [], none, none, none, 0, 0, [], [], false⟩

/-- A core after reset (R296, R328, R354); values the spec does not give are 0 (DESIGN CHOICE, log 1). -/
def Core.reset : Core :=
  { xb := 0, itag := 0, csave := 0
    q := Vector.replicate 4 [], qSpare := Vector.replicate 4 false
    acc := [], accSynd := [], cc := Vector.replicate 8 ⟨0, 0⟩
    mat := .reset, vec := .reset, copy := .reset
    slots := Vector.replicate 8 .reset
    depBuf := [], migBuf := [], tasks := [], taskSpare := Vector.replicate 4 false, sparks := [], ranges := [], saved := [], blocks := []
    lastCtx := none, strict := false, lastSlot := 7, issuedAt := none, bubbleAt := none, strictBase := 0
    qWritten := Vector.replicate 4 none, nfWritten := Vector.replicate 8 none
    scan := none, scanResult := none, failed := false, detTimes := [], stopped := false
    badQ := Vector.replicate 4 [], marks := [] }

/-- An empty capsule store: state 0 (R341). -/
def Capsule.reset : Capsule := ⟨0, 0, [], [], 0⟩

/-- The module right after reset: time 0, memory as log 2 says, the logical core map of log 4 (no override), every core
in its reset state, nothing in flight, and every queue, ring and table empty (Tables 2-4, 18-3, 19-4, 25-3). Access
tables list no override: partition 0 has 0x1F, the others 0 (R273). (DESIGN CHOICE, log 1, log 83) -/
def State.reset : State :=
  { time := 0, mem := [], synd := [], lost := [], cacheBad := [], lmap := [], cores := []
    net := [], inbox := [], rels := [], replies := [], echoes := [], lines := [], relRec := []
    faultQ := [], pageReqs := [], tlb := [], invals := [], stocks := [], descs := [], mapCache := [], moves := [], claims := []
    ctxs := [], parts := [], acl := [], devQ := [], launches := [], steals := [], migs := [], deps := []
    sends := [], wakes := [], arrivals := [], ownerless := [], signals := [], tokens := [], bars := [], redns := [], detMap := []
    detentions := [], diary := [], fatals := [], capsule := .reset, bustat := 0, hostOut := []
    agenda := [], cur := ⟨0, 0⟩, nextTag := 0 }

end Sys2Proof.Machine
end

