-- ==== Sys2Proof/Machine/Mem.lean ====
section
/-! DEFINITION. The one memory: bytes by address in canonical form, words and lines over it, the check code (R318, R319),
and the places of scratchpads and DRAM (R78, R81, R309). -/

namespace Sys2Proof.Machine

/-! ## Bytes -/

/-- What an address that nothing has written reads as (DESIGN CHOICE, log 2). -/
def memDefault : Byte := 0

/-- The memory list of the state. -/
abbrev Memory := List Host.Cell

/-- The byte at an address. (DESIGN CHOICE, log 2) -/
def Memory.read (m : Memory) (a : Nat) : Byte :=
  match m with
  | [] => memDefault
  | (k, b) :: r => if k = a then b else if a < k then memDefault else Memory.read r a

/-- Write one byte, keeping the canonical form. -/
def Memory.write (m : Memory) (a : Nat) (b : Byte) : Memory :=
  match m with
  | [] => if b = memDefault then [] else [(a, b)]
  | (k, c) :: r =>
    if k = a then (if b = memDefault then r else (a, b) :: r)
    else if a < k then (if b = memDefault then (k, c) :: r else (a, b) :: (k, c) :: r)
    else (k, c) :: Memory.write r a b

/-- Write consecutive bytes. -/
def Memory.writes (m : Memory) (a : Nat) : List Byte → Memory
  | [] => m
  | b :: r => Memory.writes (Memory.write m a b) (a + 1) r

/-- Copy n bytes from src to dst, onto whatever lies there. -/
def Memory.copyRange (m : Memory) (src dst n : Nat) : Memory :=
  m.filter (fun x => x.1 < dst) ++
  (m.filter (fun x => src ≤ x.1 && x.1 < src + n)).map (fun x => (x.1 - src + dst, x.2)) ++
  m.filter (fun x => dst + n ≤ x.1)

/-- n consecutive bytes. -/
def Memory.reads (m : Memory) (a : Nat) : Nat → List Byte
  | 0 => []
  | n + 1 => Memory.read m a :: Memory.reads m (a + 1) n

/-- Addresses strictly above a bound and strictly rising, and no byte that equals what an unlisted address reads as. -/
def Memory.wfAbove : Option Nat → Memory → Bool
  | _, [] => true
  | lo, (k, b) :: r => (match lo with | none => true | some l => l < k) && b != memDefault && Memory.wfAbove (some k) r

/-- The canonical form of memory. -/
def Memory.wf (m : Memory) : Bool := Memory.wfAbove none m

/-- The little-endian value of bytes (R1). -/
def leNat : List Byte → Nat
  | [] => 0
  | b :: r => b.toNat + 256 * leNat r

/-- n bytes of a number, little-endian (R1). -/
def leBytes : Nat → Nat → List Byte
  | 0, _ => []
  | n + 1, v => BitVec.ofNat 8 v :: leBytes n (v / 256)

/-- Bits hi down to lo of a number. -/
def bits (v hi lo : Nat) : Nat := v / 2 ^ lo % 2 ^ (hi + 1 - lo)

/-! ## Places -/

/-- A memory key of the scratchpad of a physical core of a module (R81). -/
def spKey (pkg core off : Nat) : Nat := 2 ^ 52 + pkg * 2 ^ 31 + core * 2 ^ 19 + off

/-- A key lies in a scratchpad. -/
def isSp (k : Nat) : Bool := 2 ^ 52 ≤ k && k < 2 ^ 54

/-- The name of a byte of a sparse-existence page, by its descriptor's address and its offset in the page. It stands for the byte wherever
the granule's frame lies, and names no storage of its own. -/
def sparseKey (desc off : Nat) : Nat := 2 ^ 54 + desc / 4096 * 2 ^ 30 + off

/-- A key names a byte of a sparse-existence page. -/
def isSparse (k : Nat) : Bool := 2 ^ 54 ≤ k

/-- The region descriptor of a sparse name. -/
def sparseDesc (k : Nat) : Nat := (k - 2 ^ 54) / 2 ^ 30 * 4096

/-- The offset in its page of a sparse name. -/
def sparseOff (k : Nat) : Nat := (k - 2 ^ 54) % 2 ^ 30

/-- Module, physical core and offset of a scratchpad key. -/
def spOf (k : Nat) : Nat × Nat × Nat := (k / 2 ^ 31 % 64, k / 2 ^ 19 % 4096, k % 2 ^ 19)

/-- The die-local offset of a physical address (R309). -/
def dieOff (pa : Nat) : Nat := pa % 2 ^ 38
/-- The die of a physical address (R309). -/
def dieOf (pa : Nat) : Nat := pa / 2 ^ 43 % 8
/-- The module of a physical address (R309). -/
def modOf (pa : Nat) : Nat := pa / 2 ^ 46 % 64
/-- A physical address of DRAM: bits 42:38 zero and an offset that names storage (R309). -/
def isDram (pa : Nat) : Bool := pa < 2 ^ 52 && pa / 2 ^ 38 % 32 == 0 && dieOff pa < Config.dramPerDie

/-- A physical address of the device register space of a die (R309). -/
def isDev (pa : Nat) : Bool := pa < 2 ^ 52 && Config.devBase ≤ dieOff pa

/-- The physical address that a key stands for: itself, or for a sparse name the descriptor's address with the offset, which is its G of
R313. -/
def nameAddr (k : Nat) : Nat := if isSparse k then sparseDesc k + sparseOff k else k

/-- The bank of a key: a scratchpad bank by offset; a slice by line, or by granule on a class-1 page (R79, R81, R313). -/
def bankOf (k : Nat) : Bank :=
  if isSp k then
    let (m, c, o) := spOf k
    .sp m c (o / 64 % 3)
  else if isSparse k then
    let d := sparseDesc k
    .slice (modOf d) (dieOf d) ((dieOff d / 4096 + sparseOff k / 4096) % 12)
  else .slice (modOf k) (dieOf k) (dieOff k / 64 % 12)

/-- The line of an address. -/
def lineOf (k : Nat) : Nat := k / 64 * 64

/-! ## The check code -/

/-- Number of one bits of a byte. -/
def weight8 (n : Nat) : Nat := ((List.range 8).filter (fun i => n.testBit i)).length

/-- The 64 column bytes: the 56 of weight 3 in ascending order, then the eight smallest of weight 5 (R318). -/
def eccCols : List (BitVec 8) :=
  [0x07, 0x0B, 0x0D, 0x0E, 0x13, 0x15, 0x16, 0x19, 0x1A, 0x1C, 0x23, 0x25, 0x26, 0x29, 0x2A, 0x2C] ++
  [0x31, 0x32, 0x34, 0x38, 0x43, 0x45, 0x46, 0x49, 0x4A, 0x4C, 0x51, 0x52, 0x54, 0x58, 0x61, 0x62] ++
  [0x64, 0x68, 0x70, 0x83, 0x85, 0x86, 0x89, 0x8A, 0x8C, 0x91, 0x92, 0x94, 0x98, 0xA1, 0xA2, 0xA4] ++
  [0xA8, 0xB0, 0xC1, 0xC2, 0xC4, 0xC8, 0xD0, 0xE0, 0x1F, 0x2F, 0x37, 0x3B, 0x3D, 0x3E, 0x4F, 0x57]

/-- The check bits of a word from the columns left and the bit number reached. -/
def eccFrom (x : Word) : List (BitVec 8) → Nat → BitVec 8
  | [], _ => 0
  | c :: r, i => (if x.getLsbD i then c else 0) ^^^ eccFrom x r (i + 1)

/-- ecc(x) (R318). -/
def ecc (x : Word) : BitVec 8 := eccFrom x eccCols 0

/-- What a read of a word with syndrome s finds (R319). -/
inductive EccRead where
  | clean
  | check
  | data (i : Nat)
  | bad
deriving DecidableEq, Repr

/-- The class of a syndrome (R319). -/
def eccClass (s : BitVec 8) : EccRead :=
  if s = 0 then .clean
  else if weight8 s.toNat == 1 then .check
  else match eccCols.findIdx? (· == s) with
    | some i => .data i
    | none => .bad

/-- The syndrome stored with the aligned word at a key; an unlisted word is clean. -/
def State.syndAt (s : State) (k : Nat) : BitVec 8 :=
  match s.synd.find? (fun p => p.1 == k / 8 * 8) with
  | some p => p.2
  | none => 0

/-- Set the syndrome of an aligned word. -/
def State.setSynd (s : State) (k : Nat) (v : BitVec 8) : State :=
  let r := s.synd.filter (fun p => p.1 != k / 8 * 8)
  { s with synd := if v = 0 then r else (k / 8 * 8, v) :: r }

/-- n stored bytes at a key, as they lie there. -/
def State.raw (s : State) (k n : Nat) : List Byte := Memory.reads s.mem k n

/-- The little-endian value of n stored bytes. -/
def State.rawNat (s : State) (k n : Nat) : Nat := leNat (s.raw k n)

/-- The aligned words that n bytes at a key touch. -/
def wordsOf (k n : Nat) : List Nat :=
  (List.range ((k + n + 7) / 8 - k / 8)).map (fun i => (k / 8 + i) * 8)

/-- Correct one word in place where its syndrome allows (R319). -/
def State.correctWord (s : State) (w : Nat) : State :=
  match eccClass (s.syndAt w) with
  | .clean | .bad => s
  | .check => s.setSynd w 0
  | .data i =>
    let x : Word := w64 (s.rawNat w 8)
    { s.setSynd w 0 with mem := Memory.writes s.mem w (leBytes 8 (x ^^^ (1 <<< i)).toNat) }

/-- Correct every word that n bytes at a key touch, as the read that finds it does (R319). (DEDUCED, log 24) -/
def State.correct (s : State) (k n : Nat) : State :=
  if s.synd.isEmpty then s else (wordsOf k n).foldl State.correctWord s

/-- n bytes at a storage key as a read returns them: corrected where that is possible (R319). -/
def State.goodBytes (s : State) (k n : Nat) : List Byte := (s.correct k n).raw k n

/-- Their little-endian value. -/
def State.goodNat (s : State) (k n : Nat) : Nat := leNat (s.goodBytes k n)

/-- Some word of n bytes at a key is uncorrectable. -/
def State.badAt (s : State) (k n : Nat) : Bool :=
  (wordsOf k n).any (fun w => eccClass (s.syndAt w) == .bad)

/-- Store bytes at a key: each word fully written gets fresh check bits, a word written in part is first corrected
(R318, R319); an uncorrectable word written in part stays so. (DEDUCED, log 24) -/
def State.store (s : State) (k : Nat) (bytes : List Byte) : State :=
  let n := bytes.length
  let s1 := s.correct k n
  let synd := s1.synd.filter (fun p => !(k ≤ p.1 && p.1 + 8 ≤ k + n))
  { s1 with mem := Memory.writes s1.mem k bytes, synd := synd }

/-- A slice's clean lines that n bytes at a key touch are fetched once more where a word of them cannot be corrected (R321). -/
def State.refetch (s : State) (k n : Nat) : State :=
  if s.cacheBad.isEmpty then s
  else { s with cacheBad := s.cacheBad.filter (fun e => !(lineOf k ≤ e.1 && e.1 < lineOf (k + n - 1) + 64)) }

/-- Store a number of n bytes. -/
def State.storeNat (s : State) (k n v : Nat) : State := s.store k (leBytes n v)

/-- n bytes at an offset of a granule that holds its default pattern (R91). -/
def patBytes (pat : Word) (off n : Nat) : List Byte :=
  (List.range n).map (fun i => BitVec.ofNat 8 (pat.toNat / 256 ^ ((off + i) % 8)))

end Sys2Proof.Machine
end

