-- ==== Sys2Proof/Machine/Thr.lean ====
section
/-! DEFINITION. Cores, slots, threads, contexts and partitions: finding them and changing them. Every change of the state
made here touches one field of it. -/

namespace Sys2Proof.Machine

/-! ## The logical core map (R12) -/

/-- The physical core that a logical id names. (DESIGN CHOICE, log 4) -/
def State.physOf (s : State) (l : Nat) : Nat :=
  match s.lmap.find? (fun p => p.1 == l) with
  | some p => p.2
  | none => l / 496 * 512 + l % 496

/-- The logical id bound to a physical core, if any. (DESIGN CHOICE, log 4) -/
def State.logOf? (s : State) (p : Nat) : Option Nat :=
  match s.lmap.find? (fun x => x.2 == p) with
  | some x => some x.1
  | none =>
    if p % 512 < 496 then
      let l := p / 512 * 496 + p % 512
      if s.lmap.any (fun x => x.1 == l) then none else some l
    else none

/-- The logical id of a physical core, 0 for a spare. -/
def State.logOf (s : State) (p : Nat) : Nat := (s.logOf? p).getD 0

/-- Quad number of a physical core in its module: its router and quad fields with its die (R12). -/
def quadOf (p : Nat) : Nat := p / 4
/-- Die of a physical core. -/
def coreDie (p : Nat) : Nat := p / 512
/-- Compute router of a physical core, 0-31. -/
def coreRouter (p : Nat) : Nat := p / 16 % 32

/-! ## Cores and slots -/

/-- A physical core; an unlisted one is in its reset state. -/
def coreIn (l : List (Nat × Core)) (c : Nat) : Core :=
  match l with
  | [] => .reset
  | (k, x) :: r => if k = c then x else coreIn r c

/-- Change one core of a list. -/
def updCores (l : List (Nat × Core)) (c : Nat) (f : Core → Core) : List (Nat × Core) :=
  match l with
  | [] => [(c, f .reset)]
  | (k, x) :: r => if k = c then (k, f x) :: r else (k, x) :: updCores r c f

/-- The core with this physical id. -/
def State.core (s : State) (c : Nat) : Core := coreIn s.cores c

/-- Change a core. -/
def State.modCore (s : State) (c : Nat) (f : Core → Core) : State := { s with cores := updCores s.cores c f }

/-- Change a slot of a core. -/
def Core.modSlot (k : Core) (i : Fin 8) (f : Slot → Slot) : Core := { k with slots := k.slots.set i (f k.slots[i]) }

/-- The slot of a core. -/
def State.slot (s : State) (c : Nat) (i : Fin 8) : Slot := (s.core c).slots[i]

/-- Change a slot. -/
def State.modSlot (s : State) (c : Nat) (i : Fin 8) (f : Slot → Slot) : State := s.modCore c (fun k => k.modSlot i f)

/-- What a leading thread sent with a number waits in its store comparator for the Marker thread's matching entry (R324). -/
def State.pairHeld (s : State) (c tag : Nat) : Bool :=
  (s.core c).slots.any (fun sl => sl.trail.any (fun e => e.out && e.lo ≤ tag && tag < e.hi))

/-- The thread of an occupant. -/
def Occ.thread? : Occ → Option Thread
  | .thread t => some t
  | _ => none

/-- Change the thread of an occupant; anything else stays. -/
def Occ.map (f : Thread → Thread) : Occ → Occ
  | .thread t => .thread (f t)
  | o => o

/-- The slot is free: neither occupied nor reserved (R16, R295). -/
def Occ.isFree : Occ → Bool
  | .free => true
  | _ => false

/-- The thread in a slot. -/
def State.threadAt (s : State) (c : Nat) (i : Fin 8) : Option Thread := (s.slot c i).occ.thread?

/-- Change the thread in a slot. -/
def State.modAt (s : State) (c : Nat) (i : Fin 8) (f : Thread → Thread) : State :=
  s.modSlot c i (fun sl => { sl with occ := sl.occ.map f })

/-- Set what a slot holds; a thread that left it before is forgotten there. -/
def State.setOcc (s : State) (c : Nat) (i : Fin 8) (o : Occ) : State := s.modSlot c i (fun sl => { sl with occ := o, left := none })

/-- The thread whose instruction issues. -/
def State.me (s : State) : Option Thread := s.threadAt s.cur.core s.cur.slot

/-- Change the issuing thread. -/
def State.modMe (s : State) (f : Thread → Thread) : State := s.modAt s.cur.core s.cur.slot f

/-- The issuing core. -/
def State.myCore (s : State) : Core := s.core s.cur.core

/-- The strict turn counter, mod 8 (R42). -/
def Core.strictTurn (k : Core) (now : Nat) : Nat := (now + 8 - k.strictBase % 8) % 8

/-- The eight slots. -/
def allSlots : List (Fin 8) := [0, 1, 2, 3, 4, 5, 6, 7]

/-! ## Threads by identity -/

/-- The first slot of a core whose thread has this identity. -/
def Core.slotOf? (k : Core) (who : Ident) : Option (Fin 8) :=
  allSlots.find? (fun i => match k.slots[i].occ with | .thread t => t.id == who | _ => false)

/-- The core and slot in which the thread with this identity runs. -/
def State.placeOf? (s : State) (who : Ident) : Option (Nat × Fin 8) :=
  s.cores.findSome? (fun (c, k) => (k.slotOf? who).map (fun i => (c, i)))

/-- Change every copy of the thread with this identity in a core: in its slots, SAVED, or in the migration buffer. -/
def Core.mapWho (k : Core) (who : Ident) (f : Thread → Thread) : Core :=
  let g := fun (t : Thread) => if t.id = who then f t else t
  { k with
    slots := k.slots.map (fun sl => { sl with occ := sl.occ.map g })
    saved := k.saved.map (fun x => { x with t := g x.t })
    migBuf := k.migBuf.map (fun (t, l) => (g t, l)) }

/-- Change the thread with this identity wherever it is. -/
def State.modWho (s : State) (who : Ident) (f : Thread → Thread) : State :=
  { s with
    cores := s.cores.map (fun (c, k) => (c, k.mapWho who f))
    migs := s.migs.map (fun m => { m with t := if m.t.id = who then f m.t else m.t }) }

/-- The thread with this identity in a core, in any of its places. -/
def Core.thread? (k : Core) (who : Ident) : Option Thread :=
  match k.slotOf? who with
  | some i => k.slots[i].occ.thread?
  | none =>
    match k.saved.find? (fun x => x.t.id == who) with
    | some x => some x.t
    | none => (k.migBuf.find? (fun x => x.1.id == who)).map (·.1)

/-- The thread with this identity wherever it is. -/
def State.thread? (s : State) (who : Ident) : Option Thread :=
  match s.cores.findSome? (fun (_, k) => k.thread? who) with
  | some t => some t
  | none => (s.migs.find? (fun m => m.t.id == who)).map (·.t)

/-- The threads that occupy slots. -/
def Core.threads (k : Core) : List (Fin 8 × Thread) :=
  allSlots.filterMap (fun i => (k.slots[i].occ.thread?).map (fun t => (i, t)))

/-- The physical core that is a thread's home core (R16). -/
def State.homeOf (s : State) (t : Thread) : Nat := s.physOf t.id.hcore.toNat

/-- A new number for a message or operation. -/
def State.bump (s : State) : State := { s with nextTag := s.nextTag + 1 }

/-! ## Registers of a thread -/

/-- The cell of g0-g15. -/
def Thread.gCell (t : Thread) (n : Fin 16) : RegCell :=
  if h : n.val < 8 then t.g[n.val] else t.win[n.val - 8]

/-- Set the cell of g0-g15. -/
def Thread.setG (t : Thread) (n : Fin 16) (c : RegCell) : Thread :=
  if h : n.val < 8 then { t with g := t.g.set n.val c } else { t with win := t.win.set (n.val - 8) c }

/-- The cell of a register code 0-23. -/
def Thread.cell (t : Thread) : RegName → RegCell
  | .g n => t.gCell n
  | .a n => t.a[n]

/-- Set the cell of a register code 0-23. -/
def Thread.setCell (t : Thread) (r : RegName) (c : RegCell) : Thread :=
  match r with
  | .g n => t.setG n c
  | .a n => { t with a := t.a.set n c }

/-- The value of g0-g15. -/
def Thread.gv (t : Thread) (n : Fin 16) : Word := (t.gCell n).val
/-- The value of a0-a7. -/
def Thread.av (t : Thread) (n : Fin 8) : Word := (t.a[n]).val

/-- The cell is not readable: EMPTY or pending (R34, R35). -/
def RegCell.blocksRead (c : RegCell) : Bool := !c.full || c.pend.isSome

/-- What a read of the register with a code waits for (R34, R304). -/
def RegCell.readWait (c : RegCell) (code : Nat) : Option Wait :=
  if c.pend.isSome then some (.pend code) else if c.full then none else some (.reg code)

/-- Fill the cell if it awaits this tag (R35, R262). -/
def RegCell.fill (tag : Nat) (v : Word) (c : RegCell) : RegCell := if c.pend = some tag then ⟨v, true, none, false⟩ else c

/-- Fill whatever register of the thread awaits this tag, in whichever window it lies (R35). -/
def Thread.fill (tag : Nat) (v : Word) (t : Thread) : Thread :=
  { t with
    g := t.g.map (RegCell.fill tag v)
    win := t.win.map (RegCell.fill tag v)
    a := t.a.map (RegCell.fill tag v)
    resident := t.resident.map (fun r => { r with win := r.win.map (RegCell.fill tag v) }) }

/-- A predicate, p0 reading 1 (R44). -/
def Thread.p (t : Thread) (n : BitVec 5) : Bool := if n = 0 then true else t.pw.getLsbD n.toNat

/-- Write a predicate; p0 ignores writes (R44). -/
def setPred (pw : BitVec 32) (n : BitVec 5) (b : Bool) : BitVec 32 :=
  if n = 0 then pw
  else if b then pw ||| (1#32 <<< n.toNat) else pw &&& ~~~(1#32 <<< n.toNat)

/-- Write a predicate of the thread. -/
def Thread.setP (t : Thread) (n : BitVec 5) (b : Bool) : Thread := { t with pw := setPred t.pw n b }

/-- OR flags into `sst` (R52, R61). -/
def Thread.orSst (t : Thread) (f : BitVec 9) : Thread := { t with sst := t.sst ||| f }

/-- Something is asked of the thread at its next instruction boundary; what was asked before it comes first (R284). -/
def Thread.ask (p : Pend) (t : Thread) : Thread :=
  { t with pending := match t.pending, p with
      | none, _ | some .preempt, .kill | some .preempt, .killCtx _ _ | some (.ctxsv _), .kill | some (.ctxsv _), .killCtx _ _ => some p
      | q, _ => q }

/-- The thread's kill has been asked for (R284). -/
def Thread.doomed (t : Thread) : Bool :=
  match t.pending with
  | some .kill | some (.killCtx _ _) => true
  | _ => false

/-! ## Contexts and partitions -/

/-- What the machine keeps of a context; an unlisted one has nothing yet. -/
def State.ctx (s : State) (part ctx : Nat) : Ctx :=
  (s.ctxs.find? (fun c => c.part == part && c.ctx == ctx)).getD ⟨part, ctx, 0, [], [], 0, 0, none, 0, false⟩

/-- Change what the machine keeps of a context. -/
def State.modCtx (s : State) (part ctx : Nat) (f : Ctx → Ctx) : State :=
  { s with ctxs := f (s.ctx part ctx) :: s.ctxs.filter (fun c => !(c.part == part && c.ctx == ctx)) }

/-- A partition at reset (Tables 18-3, 19-4). -/
def Part.reset : Part :=
  { ctab := 0, evq := 0, evN := 0, queues := [], seq := none, ended := [], rr := [], prBase := 0, prHead := 0, prTail := 0
    pending := 0, enable := 0, routers := [], slices := [], shares := [], regions := [], owned := [], weights := [], discards := 0
    raised := (0, 0), mbox := List.replicate 64 0, answer := [] }

/-- Interrupt vectors become pending in a cycle (R357). -/
def Part.raise (now : Nat) (b : BitVec 32) (p : Part) : Part :=
  { p with pending := p.pending ||| b, raised := (now, if p.raised.1 = now then p.raised.2 ||| b else b) }

/-- A partition; an unlisted one is at reset. -/
def State.partn (s : State) (p : Nat) : Part := ((s.parts.find? (fun x => x.1 == p)).map (·.2)).getD .reset

/-- Change a partition. -/
def State.modPart (s : State) (p : Nat) (f : Part → Part) : State :=
  { s with parts := (p, f (s.partn p)) :: s.parts.filter (fun x => x.1 != p) }

/-- The partition that owns a core: the one to which bring-up assigned its router (die × 32 + router), else partition 0
(R272, R356). (DESIGN CHOICE, log 17) -/
def State.partOf (s : State) (core : Nat) : Nat :=
  ((s.parts.find? (fun x => x.2.routers.contains (core / 16))).map (·.1)).getD 0

/-- LIVE of a context entry (Table 18-2). -/
def entLive (e : Nat) : Bool := e.testBit 451
/-- SUPV of a context entry. -/
def entSupv (e : Nat) : Bool := e.testBit 452
/-- GEN of a context entry. -/
def entGen (e : Nat) : Nat := bits e 191 160

/-- Bits of an access table entry: 0x1F for partition 0 and 0 for others until `MATW` changes it (R273). -/
def State.rights (s : State) (kind idx part : Nat) : BitVec 8 :=
  match s.acl.find? (fun x => x.1 == (kind, idx, part)) with
  | some x => x.2
  | none => if part = 0 then 0x1F else 0

/-- The marks of a core's words once every counter holds a value written anew (R320). -/
def Core.soundCounters (k : Core) : List (CoreStore × BitVec 8) :=
  k.marks.filter (fun m => match m.1 with | .cc _ => false | _ => true)

/-- The access table index of the slice that performs an access to DRAM (R285): die × 12 + slice. -/
def sliceIdx : Bank → Option Nat
  | .slice _ d i => some (d * 12 + i)
  | .sp _ _ _ => none

/-- A bank grants every right of a mask to a partition; a scratchpad bank holds no access table (R273). -/
def State.grants (s : State) (b : Bank) (part : Nat) (mask : BitVec 8) : Bool :=
  match sliceIdx b with
  | some i => (s.rights 0 i part) &&& mask == mask
  | none => true

/-- The 64-byte entry of a context in its partition's table, as a number (R271); the slice that holds it refuses the read of a partition to
which it does not grant R, and the entry then reads as one with every field 0, which names no context (R271, R273). (DEDUCED, log 87) -/
def State.centry (s : State) (part ctx : Nat) : Nat :=
  let a := (s.partn part).ctab.toNat + 64 * ctx
  if s.grants (bankOf a) part 1 then s.rawNat a 64 else 0

end Sys2Proof.Machine
end

