-- ==== Sys2Proof/Machine/Diary.lean ====
section
/-! DEFINITION. The Diary: how a source records an event (R333 to R336). -/

namespace Sys2Proof.Machine

/-- Records a ring holds (R333). -/
def ringSize : Source → Nat
  | .core _ => 1024
  | .slice _ => 2048

/-- The ring of a source; an unlisted one is empty and records. -/
def State.diaryOf (s : State) (src : Source) : Diary :=
  (s.diary.find? (fun d => d.src == src)).getD ⟨src, [], false, 0, 0, 0, 0, []⟩

/-- Put a ring back. -/
def State.setDiary (s : State) (d : Diary) : State := { s with diary := d :: s.diary.filter (fun x => x.src != d.src) }

/-- A record (Table 22-1). -/
def diaryRec (ty time payload : Nat) : BitVec 64 :=
  BitVec.ofNat 64 (ty % 64 * 2 ^ 58 + time / 16 % 2 ^ 18 * 2 ^ 40 + payload % 2 ^ 40)

/-- Keep the newest records that the ring holds; the errors in those dropped go with them. -/
def Diary.trim (d : Diary) : Diary :=
  let n := d.recs.length - ringSize d.src
  { d with recs := d.recs.drop n, errs := (d.errs.filter (fun e => n ≤ e.1)).map (fun e => (e.1 - n, e.2)) }

/-- Entries from a place on are written: no error is left in them. -/
def Diary.rewrite (d : Diary) (n : Nat) : Diary := { d with errs := d.errs.filter (fun e => e.1 < n) }

/-- The type of a record. -/
def recType (r : BitVec 64) : Nat := r.toNat / 2 ^ 58

/-- Insert a record among those of its cycle, in ascending type (R336). -/
def insertRec (r : BitVec 64) : List (BitVec 64) → List (BitVec 64)
  | [] => [r]
  | x :: l => if recType r < recType x then r :: x :: l else x :: insertRec r l

/-- Enter a new cycle: events that the last cycle dropped are counted in a gap record (R336). -/
def Diary.enter (d : Diary) (now : Nat) : Diary :=
  if d.cycle = now then d
  else if d.missed = 0 || d.frozen then { d with cycle := now, count := 0 }
  else
    let gap := diaryRec 0x3C (d.cycle + 1) (if d.missed < 2 ^ 32 then d.missed else 2 ^ 32 - 1)
    Diary.trim { d.rewrite d.recs.length with recs := d.recs ++ [gap], missed := 0, cycle := now, count := if d.cycle + 1 = now then 1 else 0 }

/-- A ring whose source dropped events in the last cycle takes its gap record (R336). -/
def Diary.gapDue (now : Nat) (d : Diary) : Diary := if d.missed = 0 || d.frozen then d else d.enter now

/-- The freeze record is a source's last, whatever its cycle has dropped: then it stops recording (R336, R338). (DESIGN CHOICE, log 70) -/
def Diary.freeze (now payload : Nat) (d : Diary) : Diary :=
  let d1 := d.enter now
  { Diary.trim { d1.rewrite d1.recs.length with recs := d1.recs ++ [diaryRec 0x3F now payload], count := d1.count + 1 } with frozen := true }

/-- Records written together in one cycle, or all dropped and counted (R335, R336). -/
def Diary.write (d : Diary) (now : Nat) (l : List (Nat × Nat)) : Diary :=
  if d.frozen then { d with missed := d.missed + l.length }
  else
    let d1 := d.enter now
    if 4 < d1.count + l.length then { d1 with missed := d1.missed + l.length }
    else
      let keep := d1.recs.length - d1.count
      let add := l.foldl (fun r p => insertRec (diaryRec p.1 now p.2) r) (d1.recs.drop keep)
      Diary.trim { d1.rewrite keep with recs := d1.recs.take keep ++ add, count := d1.count + l.length }

/-- A source records events of one moment. -/
def State.notes (s : State) (src : Source) (l : List (Nat × Nat)) : State :=
  s.setDiary ((s.diaryOf src).write s.time.toNat l)

/-- A source records one event: its type and payload (Table 22-2). -/
def State.note (s : State) (src : Source) (ty payload : Nat) : State := s.notes src [(ty, payload)]

/-- The slot field of a payload. -/
def paySlot (i : Fin 8) : Nat := i.val * 2 ^ 37

/-- A PC as a payload holds it (R335). -/
def payPc (pc : Word) : Nat := pc.toNat / 2 % 2 ^ 18

/-- The source that a slice of this module is (R333). -/
def sliceSource : Bank → Option Source
  | .slice m d i => if m = Config.pkg then some (.slice (d * 12 + i)) else none
  | .sp _ _ _ => none

/-- A slice records an event; a scratchpad bank is no source (R333). -/
def State.noteBank (s : State) (b : Bank) (ty payload : Nat) : State :=
  match sliceSource b with
  | some src => s.note src ty payload
  | none => s

/-- The source of a storage: its slice, or the core of a scratchpad (R319). -/
def storageSource : Bank → Option Source
  | .slice m d i => sliceSource (.slice m d i)
  | .sp m c _ => if m = Config.pkg then some (.core c) else none

/-- The storage code of a bank in an error record (Table 22-2). -/
def storageCode : Bank → Nat
  | .slice _ _ _ => 0
  | .sp _ _ _ => 2

/-- The wait kind of a wait, in the row order of Table 19-10; waits that the table does not name count with its last row.
(DESIGN CHOICE, log 29) -/
def waitKind : Wait → Nat
  | .handle _ _ | .retry _ _ _ => 0
  | .grant _ => 1
  | .queue _ _ | .reg _ => 2
  | .send _ _ => 3
  | .task => 4
  | _ => 5

/-- A slot of a core records an event that carries its context. -/
def State.noteCtx (s : State) (c : Nat) (i : Fin 8) (ty mid : Nat) (ctx : BitVec 12) : State :=
  s.note (.core c) ty (paySlot i + mid + ctx.toNat)

/-- A taken transfer of the issuing thread (type 0x01). -/
def State.noteJump (s : State) (pc target : Word) : State :=
  s.note (.core s.cur.core) 0x01 (paySlot s.cur.slot + payPc pc * 2 ^ 18 + payPc target)

end Sys2Proof.Machine
end

