-- ==== Sys2Proof/Machine/Operands.lean ====
section
/-! DEFINITION. Lines and targets in a core's code (R139 to R146), the issue conditions of operands (R34, R35, R41), and
reading and writing them (R33, R38 to R40, R155). -/

namespace Sys2Proof.Machine

/-! ## Code -/

/-- The instruction line at an offset of a core's scratchpad, as its fetch reads it (R84, R139, R319). -/
def State.lineAt (s : State) (core base : Nat) : Line := halves (s.goodBytes (spKey Config.pkg core base) 64)

/-- The line base of a PC (R144). -/
def pcBase (pc : Word) : Word := pc &&& ~~~63#64

/-- The head index of a PC (R144). -/
def pcIdx (pc : Word) : Nat := pc.toNat / 2 % 32

/-- The successor of a PC in its line (R144). -/
def succPc (l : Line) (pc : Word) : Word := if pcIdx pc < l.hcnt then pc + 2 else pcBase pc + 66

/-- The line that holds the issuing thread's PC. -/
def State.myLine (s : State) (t : Thread) : Line := s.lineAt s.cur.core (pcBase t.pc).toNat

/-- The target of a branch immediate at a PC (R145). -/
def targetAt (b : BTarget) (pc : Word) : Word := b.target (pcBase pc)

/-- User causes (Table 18-6). -/
def cILLEGAL : BitVec 8 := 0x01
def cILLEGAL_LINE : BitVec 8 := 0x02
def cILLEGAL_TARGET : BitVec 8 := 0x03
def cSEGV : BitVec 8 := 0x04
def cEXECONLY : BitVec 8 := 0x05
def cOVERLAY : BitVec 8 := 0x06
def cMISALIGN : BitVec 8 := 0x07
def cHALLPASS : BitVec 8 := 0x08
def cSELFDEP : BitVec 8 := 0x09
def cCYCLE : BitVec 8 := 0x0A
def cPOISON : BitVec 8 := 0x0B
def cALLOCFAIL : BitVec 8 := 0x0C
def cTRAP : BitVec 8 := 0x0D
def cBREAK : BitVec 8 := 0x0E
def cSPLIT : BitVec 8 := 0x0F
def cMMAREACH : BitVec 8 := 0x10
def cCLASS : BitVec 8 := 0x11
def cREDCOUNT : BitVec 8 := 0x12
/-- Supervisor causes (Table 18-1). -/
def cSCALL : BitVec 8 := 0x40
def cPRIV : BitVec 8 := 0x41
def cPAGEFAIL : BitVec 8 := 0x42
def cREDLOG : BitVec 8 := 0x43
def cMCE : BitVec 8 := 0x44
def cACCESS : BitVec 8 := 0x45
def cWINDOW : BitVec 8 := 0x46

/-- The check of a transfer target: the cause and value of its failure; a target at or above `xb` passes, and its fetch
traps `OVERLAY` (R146). -/
def State.checkTarget (s : State) (core : Nat) (t : Word) : Option (BitVec 8 × Word) :=
  if t.getLsbD 0 || pcIdx t == 0 then some (cILLEGAL_TARGET, t)
  else if (s.core core).xb ≤ t then none
  else
    let l := s.lineAt core (pcBase t).toNat
    if !l.wf then some (cILLEGAL_LINE, pcBase t)
    else if l.hcnt < pcIdx t then some (cILLEGAL_TARGET, t)
    else none

/-- A handler address passes the checks of trap delivery: also below `xb` (R146, R286). -/
def State.handlerOk (s : State) (core : Nat) (t : Word) : Bool :=
  (s.checkTarget core t).isNone && t < (s.core core).xb

/-! ## How an instruction stops -/

/-- The ways an instruction ends without its own effect. -/
inductive StopKind where
  /-- it parks (R34) -/
  | park (w : Wait)
  /-- a user trap at its own PC (R286) -/
  | trap (cause : BitVec 8) (val : Word)
  /-- a user trap with another `xpc` -/
  | trapAt (cause : BitVec 8) (val pc : Word)
  /-- a supervisor cause at its own PC (R268) -/
  | sup (cause : BitVec 8) (val : Word)
  /-- the thread leaves for another logical core and the instruction reissues there (R80, R48) -/
  | migrate (dest : Nat)
  /-- it reads a register whose parity fails: the value is consumed (R320, R321) -/
  | consume
  /-- what follows is in the state already: the thread waits as it says, goes on with the same instruction, or is gone -/
  | asIs
deriving DecidableEq, Repr

/-- The effect of an instruction: a new state, or a stop with the state it leaves (queue pops that stand, R149). -/
abbrev Eff := Except (StopKind × State) State

/-- Stop with the state given. -/
def stop {α : Type} (s : State) (k : StopKind) : Except (StopKind × State) α := .error (k, s)

/-- The ILLEGAL trap with the encoding of the head at the PC as its value (R149). -/
def State.encHere (s : State) (t : Thread) : Word := encVal ((s.myLine t).slot (pcIdx t.pc))

/-- Trap ILLEGAL with the instruction's own encoding (R149). (DEDUCED, log 66) -/
def illegal {α : Type} (s : State) (t : Thread) : Except (StopKind × State) α := stop s (.trap cILLEGAL (s.encHere t))

/-! ## Issue conditions (R34) -/

/-- Entries at the head of a queue that hold values. -/
def readyEntries : List QEntry → Nat
  | .val _ :: r => readyEntries r + 1
  | _ => 0

/-- The queue or latch was written one or two cycles ago (R41). -/
def heldBy (written : Option Nat) (now : Nat) : Bool :=
  match written with
  | some w => w < now && now ≤ w + 2
  | none => false

/-- The first source that is not readable, with what it waits for (R34). -/
def State.srcWait (s : State) (t : Thread) (all : List Operand) : List Operand → Option Wait
  | [] => none
  | x :: r =>
    let k := s.myCore
    let w : Option Wait :=
      match x with
      | .g n => (t.gCell n).readWait n.val
      | .a n => (t.a[n]).readWait (16 + n.val)
      | .q n => if readyEntries k.q[n] < (all.filter (· == x)).length then some (.queue n false) else none
      | .rq => if (k.slots[s.cur.slot]).rq.length < (all.filter (· == x)).length then some .rq else none
      | .nf | .zr => none
    match w with
    | some w => some w
    | none => State.srcWait s t all r

/-- A source is a queue or latch that was written one or two cycles ago (R41). -/
def State.srcHeld (s : State) (srcs : List Operand) : Bool :=
  srcs.any (fun x => match x with
    | .q n => heldBy s.myCore.qWritten[n] s.time.toNat
    | .nf => heldBy s.myCore.nfWritten[s.cur.slot] s.time.toNat
    | _ => false)

/-- Why the destination is not writable: a pending register, or a full queue (R34, R35, R38, R305). -/
def State.dstWait (s : State) (t : Thread) : Operand → Option Wait
  | .g n => if (t.gCell n).pend.isSome then some (.pend n.val) else none
  | .a n => if (t.a[n]).pend.isSome then some (.pend (16 + n.val)) else none
  | .q n =>
    let k := s.myCore
    if k.q[n].length < 8 || (t.spare && !k.qSpare[n]) then none else some (.queue n true)
  | .nf | .rq | .zr => none

/-- A named predicate is pending (R188). -/
def Thread.predWait (t : Thread) (ps : List (BitVec 5)) : Bool := ps.any (fun p => t.predPend.any (fun q => q.1 == p))

/-- What an instruction with these sources, destinations and predicates waits for before it issues; one that is ready to issue may still
be held (R34, R41). -/
def State.waits (s : State) (t : Thread) (srcs dsts : List Operand) (ps : List (BitVec 5)) : Option Wait :=
  match s.srcWait t srcs srcs with
  | some w => some w
  | none =>
    match dsts.findSome? (fun d => s.dstWait t d) with
    | some w => some w
    | none => if t.predWait ps then some .issue else if s.srcHeld srcs then some .hold else none

/-- A source register fails its parity check (R320). -/
def Thread.parityFails (t : Thread) (srcs : List Operand) : Bool :=
  srcs.any (fun x => match x with
    | .g n => (t.gCell n).bad
    | .a n => (t.a[n]).bad
    | _ => false)

/-- What an instruction reads fails its parity check: a source register, the head of a queue or of the receive queue, the latch, or the
predicate word (R320). -/
def State.parityFails (s : State) (t : Thread) (srcs : List Operand) (ps : List (BitVec 5)) : Bool :=
  t.parityFails srcs || (!ps.isEmpty && t.badPw) ||
  srcs.any (fun x => match x with
    | .q n => s.myCore.badQ[n].contains 0
    | .nf => (s.myCore.slots[s.cur.slot]).badNf
    | .rq => (s.myCore.slots[s.cur.slot]).badRq.contains 0
    | _ => false)

/-- The issuing thread, once its sources are readable and its destinations writable. -/
def State.ready (s : State) (srcs dsts : List Operand) (ps : List (BitVec 5)) : Except (StopKind × State) Thread :=
  match s.me with
  | none => stop s (.park .issue)
  | some t =>
    match s.waits t srcs dsts ps with
    | some w => stop s (.park w)
    | none => if s.parityFails t srcs ps then stop s .consume else .ok t

/-- A limit that only the encoding decides is tested before any source is read (R149). -/
def State.limit (s : State) (bad : Bool) : Except (StopKind × State) Unit :=
  if bad then
    match s.me with
    | none => stop s (.park .issue)
    | some t => illegal s t
  else .ok ()

/-! ## Reading and writing operands -/

/-- Places from the head once the head is gone. -/
def dropPlace (l : List Nat) : List Nat := (l.filter (0 < ·)).map (· - 1)

/-- Drop the head of a queue; the Spare Desk is free again once the count falls to 7 (R38, R305). -/
def Core.popQ (k : Core) (n : Fin 4) : Core :=
  let q := k.q[n].tail
  { k with q := k.q.set n q, qSpare := k.qSpare.set n (k.qSpare[n] && !(q.length ≤ 7)), badQ := k.badQ.set n (dropPlace k.badQ[n]) }

/-- Push an entry, into the reserve entry where the queue is full (R38, R305); the write is remembered for R41. -/
def Core.pushQ (k : Core) (n : Fin 4) (e : QEntry) (now : Nat) : Core :=
  { k with
    q := k.q.set n (k.q[n] ++ [e])
    qSpare := k.qSpare.set n (k.qSpare[n] || !(k.q[n].length < 8))
    qWritten := k.qWritten.set n (some now) }

/-- Set the latch of the slot after slot i (R39, R41). -/
def Core.setNf (k : Core) (i : Fin 8) (v : Word) (now : Nat) : Core :=
  let j : Fin 8 := i + 1
  { (k.modSlot j (fun sl => { sl with nf := v, badNf := false })) with nfWritten := k.nfWritten.set j (some now) }

/-- Drop the head of a receive queue (R40, R305). -/
def Slot.popRq (sl : Slot) : Slot :=
  { sl with rq := sl.rq.tail, badRq := dropPlace sl.badRq, rqSpare := sl.rqSpare && !(sl.rq.tail.length ≤ 15) }

/-- The value a source operand gives the issuing thread now. -/
def State.peek (s : State) (t : Thread) : Operand → Word
  | .g n => t.gv n
  | .a n => t.av n
  | .q n => match s.myCore.q[n] with | .val w :: _ => w | _ => 0
  | .nf => (s.myCore.slots[s.cur.slot]).nf
  | .rq => (s.myCore.slots[s.cur.slot]).rq.headD 0
  | .zr => 0

/-- The state after a source has been read: a queue and rq lose their head (R155). -/
def State.pop (s : State) : Operand → State
  | .q n => s.modCore s.cur.core (fun k => k.popQ n)
  | .rq => s.modSlot s.cur.core s.cur.slot Slot.popRq
  | _ => s

/-- Read source operands in order. -/
def State.reads (s : State) (t : Thread) : List Operand → List Word × State
  | [] => ([], s)
  | x :: r =>
    let p := State.reads (s.pop x) t r
    (s.peek t x :: p.1, p.2)

/-- Read one source. (DEDUCED, log 13) -/
def State.read1 (s : State) (t : Thread) (x : Operand) : Word × State := (s.peek t x, s.pop x)

/-- Read two sources in order. (DEDUCED, log 13) -/
def State.read2 (s : State) (t : Thread) (x y : Operand) : Word × Word × State :=
  let s1 := s.pop x
  (s.peek t x, s1.peek t y, s1.pop y)

/-- Write a result (R33, R39): `zr` discards, a queue takes a push, nf is the next slot's latch. -/
def State.write (s : State) (d : Operand) (v : Word) : State :=
  match d with
  | .g n => s.modMe (fun t => t.setG n (.of v))
  | .a n => s.modMe (fun t => { t with a := t.a.set n (.of v) })
  | .q n => (s.modMe (fun t => { t with spare := false })).modCore s.cur.core (fun k => k.pushQ n (.val v) s.time.toNat)
  | .nf => s.modCore s.cur.core (fun k => k.setNf s.cur.slot v s.time.toNat)
  | .rq | .zr => s

/-- Set the PC of the issuing thread, which is READY. -/
def State.goto (s : State) (pc : Word) : State := s.modMe (fun t => { t with pc := pc, status := .ready })

/-- The successor PC of the issuing thread's head (R144). -/
def State.succ (s : State) (t : Thread) : Word := succPc (s.myLine t) t.pc

/-- The instruction is complete: execution continues at the next head (R144). -/
def State.advance (s : State) (t : Thread) : State := s.goto (s.succ t)

/-- A two-source register instruction: read, compute, write, go on (R155). -/
def alu2 (d x y : Operand) (f : Word → Word → Word) (s : State) : Eff := do
  let t ← s.ready [x, y] [d] []
  let (a, b, s1) := s.read2 t x y
  return (s1.write d (f a b)).advance t

/-- A one-source register instruction. -/
def alu1 (d x : Operand) (f : Word → Word) (s : State) : Eff := do
  let t ← s.ready [x] [d] []
  let (a, s1) := s.read1 t x
  return (s1.write d (f a)).advance t

/-- A comparison that writes a predicate (R171). -/
def cmp2 (p : BitVec 5) (x y : Operand) (f : Word → Word → Bool) (s : State) : Eff := do
  let t ← s.ready [x, y] [] [p]
  let (a, b, s1) := s.read2 t x y
  return (s1.modMe (fun t => t.setP p (f a b))).advance t

end Sys2Proof.Machine
end

