-- ==== Sys2Proof/Machine/Home.lean ====
section
/-! DEFINITION. What homes and cores do on their own account: writes with their release records and watchers (R133, R195),
claims, fills, reverts and poisonings (R108 to R115), wakes (R29), task descriptors (R23, R299), event records (R270), and
the ends of threads, launches and contexts (R16, R22, R32). -/

namespace Sys2Proof.Machine

/-! ## Wakes and event records -/

/-- Send a wake to a thread (R29). -/
def State.wake (s : State) (who : Ident) (w : Wait ⊕ Nat) : State :=
  { s with wakes := s.wakes ++ [⟨s.nextTag, who, w⟩], nextTag := s.nextTag + 1 }

/-! ## Writes at a home -/

/-- Correct the words that n bytes at a storage key touch, with a record for each correction (R319). -/
def State.correctNoted (s : State) (k n : Nat) : State :=
  if s.synd.isEmpty then s
  else (wordsOf k n).foldl (fun s w =>
    match eccClass (s.syndAt w) with
    | .clean | .bad => s
    | _ =>
      let s1 := s.correctWord w
      match storageSource (bankOf w) with
      | some src => s1.note src 0x12 (storageCode (bankOf w) * 2 ^ 38 + w % 2 ^ 38)
      | none => s1) s

/-- The words that a write of n bytes changes in part are read and corrected for it, with their records (R319). -/
def State.correctEdges (s : State) (k n : Nat) : State :=
  if s.synd.isEmpty then s
  else ((wordsOf k n).filter (fun w => w < k || k + n < w + 8)).foldl (fun s w => s.correctNoted w 8) s

/-- Wake the watchers of every line that a write of n bytes named k touches; the list is then empty (R195). -/
def State.wakeWatchers (s : State) (k n : Nat) : State :=
  let hit := s.lines.filter (fun q => lineOf k ≤ q.line && q.line < k + n && !q.watch.isEmpty)
  if hit.isEmpty then s
  else
    let s1 := hit.foldl (fun s q => q.watch.foldl (fun s w => s.wake w (.inl (.watch q.line))) s) s
    { s1 with lines := s1.lines.map (fun q => if lineOf k ≤ q.line && q.line < k + n then { q with watch := [] } else q) }

/-- The aligned words of a write lose their release records (R133). -/
def State.clearRel (s : State) (k n : Nat) : State :=
  { s with relRec := s.relRec.filter (fun r => !(k / 8 * 8 ≤ r.word && r.word < k + n)) }

/-- Set the release record of the word that holds a byte (R133). -/
def State.setRel (s : State) (k : Nat) (sc : Scope) (lcore : Nat) (slot : Fin 8) : State :=
  { s with relRec := ⟨k / 8 * 8, sc, lcore, slot⟩ :: s.relRec.filter (fun r => r.word != k / 8 * 8) }

/-- The entry of a lost line is cleared by a write of the whole line (R322). -/
def State.clearLost (s : State) (k n : Nat) : State :=
  { s with lost := s.lost.filter (fun l => !(k ≤ l.2 && l.2 + 64 ≤ k + n)) }

/-- The attendance word at a key has changed so that the `AWAIT` of a thread need wait no longer: GEN is no more the value it read, which
its parking has kept (R87, R231). -/
def State.awaitsOn (s : State) (t : Thread) (k n : Nat) : Option Nat :=
  match t.status, t.carried with
  | .parked (.attend pa), some (11, v) =>
    if k < pa + 16 && pa < k + n && s.goodNat (pa + 8) 4 != v.toNat && !(s.wakes.any (fun w => w.who == t.id && w.wait == .inl (.attend pa)))
    then some pa else none
  | _, _ => none

/-- A write of n bytes in a scratchpad wakes the `AWAIT`s of its core that it lets go on (R86, R87). -/
def State.wakeAwaits (s : State) (k n : Nat) : State :=
  if !isSp k then s
  else allSlots.foldl (fun s i =>
    match s.threadAt (spOf k).2.1 i with
    | none => s
    | some t =>
      match s.awaitsOn t k n with
      | some pa => s.wake t.id (.inl (.attend pa))
      | none => s) s

/-- One write of bytes named `name` performed at their storage k: storage, release records, lost lines, watchers and waiting `AWAIT`s (R87,
R122, R133, R195, R322). -/
def State.writeAs (s : State) (name k : Nat) (bytes : List Byte) : State :=
  let n := bytes.length
  ((((((s.correctEdges k n).store k bytes).clearRel name n).clearLost k n).wakeWatchers name n).wakeAwaits k n).refetch k n

/-- One write performed at its home. -/
def State.homeWrite (s : State) (k : Nat) (bytes : List Byte) : State := s.writeAs k k bytes

/-- A write that is a release: its word's record names the party (R133, R136). -/
def State.homeWriteRel (s : State) (k : Nat) (bytes : List Byte) (sc : Scope) (lcore : Nat) (slot : Fin 8) : State :=
  (s.homeWrite k bytes).setRel k sc lcore slot

/-- Post a 16-byte record to a partition's event ring of 4,096 records (R270, Table 18-3), where its slice grants the partition W; interrupt
vector 1 becomes pending (R357). (DESIGN CHOICE, log 82, log 87) -/
def State.postEvent (s : State) (part : Nat) (cause : BitVec 8) (ctx lcore slot : Nat) (val : Nat) : State :=
  let p := s.partn part
  let a := p.evq.toNat + 16 * (p.evN % 4096)
  let lo := cause.toNat + ctx * 2 ^ 8 + lcore * 2 ^ 20 + slot * 2 ^ 32
  if s.grants (bankOf a) part 2 then
    ((s.homeWrite a (leBytes 8 lo)).homeWrite (a + 8) (leBytes 8 val)).modPart part
      (fun p => { p with evN := p.evN + 1, pending := p.pending }.raise s.time.toNat 2)
  else s

/-- A refused access of a function: its answer to the host is a NACK, which carries nothing, and `ACCESS` names the address in the function's
windows (R355). (DEDUCED, log 76) -/
def State.nack (s : State) (part addr : Nat) : State :=
  ({ s with hostOut := s.hostOut ++ [(part, [])] } : State).postEvent part cACCESS 0 0 0 addr

/-- A host write to a window of a partition's function, which the function's access table must grant W; no link access is taken after a failed
bring-up (R273, R355, R359). -/
def State.hostWrite (s : State) (part addr : Nat) (f : State → State) : State :=
  if s.bustat.toNat % 256 != 0 then s else if (s.rights 3 part part).getLsbD 1 then f s else s.nack part addr

/-- The answer busy to a host access outside the mailbox: STATUS 2 (R356, R359). (DEDUCED, log 78) -/
def State.hostBusy (s : State) (part : Nat) : State := { s with hostOut := s.hostOut ++ [(part, leBytes 8 (2 * 2 ^ 32))] }

/-! ## Task descriptors (R23, R299) -/

/-- Change the descriptor with this number, in whichever core's queue it lies. -/
def State.modDesc (s : State) (num : Nat) (f : Desc → Desc) : State :=
  { s with cores := s.cores.map (fun (c, k) => (c, { k with tasks := k.tasks.map (fun d => if d.num = num then f d else d) })) }

/-- The descriptor with this number. -/
def State.desc? (s : State) (num : Nat) : Option Desc :=
  s.cores.findSome? (fun (_, k) => k.tasks.find? (fun d => d.num == num))

/-- Lower a dependence counter; at 0 a waiting descriptor is eligible (R23, R112, R251). -/
def Desc.lower (d : Desc) : Desc :=
  let n := d.depc - 1
  if d.depc = 0 then d else { d with depc := n, state := if n = 0 && d.state = 0 then 1 else d.state }

/-! ## Completion signals (R136) -/

/-- The bank lies in this package. -/
def bankHere (b : Bank) : Bool :=
  match b with
  | .slice m _ _ | .sp m _ _ => m == Config.pkg

/-- An access of a party within the extent of `.pk` is still to be performed, wherever it is: what a drain waits for (R129, R136). -/
def State.outstanding (s : State) (who : List Ident) : Bool :=
  let mine := fun (m : Msg) => who.contains m.who && bankHere m.bank && (match m.op with | .probe => false | _ => true)
  s.net.any mine || s.inbox.any mine || s.lines.any (fun q => q.queue.any mine || q.aside.any mine) || s.rels.any (fun r => mine r.msg) ||
  s.faultQ.any (fun f => match f.what with | .access m => mine m | _ => false) ||
  s.cores.any (fun (_, k) => k.copy.queue.any (fun o => match o.job with | .red m => mine m && !o.landed && !o.started | _ => false))

/-- End marks are kept for the newest 4,096 numbers only (R293). -/
def Part.mark (seq : BitVec 32) (p : Part) : Part :=
  { p with ended := seq :: p.ended.filter (fun d => d != seq && p.seq.all (fun n => (n - d).toNat < 4096)) }

/-- A core block that is not written is given up: its copies go back to the head of their queue. -/
def Core.dropBlock (k : Core) (p : Nat) : Core :=
  let l := (k.blocks.filter (fun b => b.prio == p)).flatMap (·.copies)
  { k with copy := { k.copy with queue := l ++ k.copy.queue }, blocks := k.blocks.filter (fun b => b.prio != p) }

/-- Forget a dispatch: the slots reserved for it are free, and what it was pre-empting goes on. -/
def Core.dropDispatch (c : Nat) (l : Launch) (k : Core) : Core :=
  let mine := allSlots.any (fun i => match (k.slots[i]).occ with | .launch p q => p == l.part && q == l.seq.toNat | _ => false)
  let k1 := (l.blocks.filter (fun b => b.1 == c)).foldl (fun k b => k.dropBlock b.2) k
  { k1 with slots := k1.slots.map (fun sl => { sl with occ :=
      match sl.occ with
      | .launch p q => if p = l.part && q = l.seq.toNat then .free else sl.occ
      | .thread t => if mine && t.pending = some .preempt then .thread { t with pending := none } else sl.occ
      | o => o }) }

/-- A launch ends: its number is marked ended, its range units are free (R22, R293). (DEDUCED, log 18) -/
def State.endLaunch (s : State) (part : Nat) (seq : BitVec 32) : State :=
  let s1 := s.modPart part (Part.mark seq)
  let gone := s1.launches.filter (fun l => l.part == part && l.seq == seq && l.dispatched && !l.running)
  { s1 with
    launches := s1.launches.filter (fun l => !(l.part == part && l.seq == seq))
    cores := s1.cores.map (fun (c, k) =>
      (c, { gone.foldl (fun k l => k.dropDispatch c l) k with
            ranges := k.ranges.filter (fun r => !(r.part == part && r.seq == seq.toNat)) })) }

/-- A completion signal acts. -/
def State.act (s : State) : SignalAct → State
  | .lower num => s.modDesc num Desc.lower
  | .ended part seq => s.endLaunch part seq

/-- A completion signal of the hardware on behalf of the parties whose work it closes: it acts once their accesses within the extent of `.pk` are
performed (R136). -/
def State.signal (s : State) (who : List Ident) (a : SignalAct) : State :=
  if s.outstanding who then { s with signals := s.signals ++ [⟨who, a⟩] } else s.act a

/-- The completion signals that waited act, as far as their parties' accesses are performed (R136). -/
def State.flushSignals (s : State) : State :=
  s.signals.foldl (fun s x => s.signal x.who x.act) { s with signals := [] }

/-- The descriptors of a core's queue at a priority. -/
def Core.taskCount (k : Core) (prio : Nat) : Nat := (k.tasks.filter (fun d => d.prio.toNat == prio)).length

/-- Descriptors leave a core's task queues; the Spare Desk of a queue is free again once its count is 63 or less (R299,
R305). -/
def Core.keepTasks (k : Core) (p : Desc → Bool) : Core :=
  let k1 := { k with tasks := k.tasks.filter p }
  { k1 with taskSpare := Vector.ofFn (fun i : Fin 4 => k1.taskSpare[i] && 63 < k1.taskCount i.val) }

/-- A descriptor retires: its entry is free (R299). -/
def State.retireDesc (s : State) (num : Nat) : State :=
  { s with cores := s.cores.map (fun (c, k) => (c, k.keepTasks (fun d => d.num != num))) }

/-- A squashed descriptor: its restart count rises, saturating, and it waits for n events or is eligible (R24, R112). -/
def Desc.squash (n : BitVec 16) (d : Desc) : Desc :=
  { d with restart := if d.restart = 65535 then d.restart else d.restart + 1, depc := d.depc + n
           state := if d.depc + n = 0 then 1 else 0 }

/-! ## Handle words and claims -/

/-- A handle word's fields (Table 5-1). -/
def hState (w : Nat) : Nat := bits w 63 62
def hFmt (w : Nat) : Nat := bits w 61 58
def hRows (w : Nat) : Nat := bits w 57 53 + 1
def hCols (w : Nat) : Nat := bits w 52 48 + 1
def hLow (w : Nat) : Nat := w % 2 ^ 48

/-- A handle word from its common fields (of another word) and its state and low bits. -/
def hWord (st : Nat) (w low : Nat) : Nat := st * 2 ^ 62 + bits w 61 48 * 2 ^ 48 + low % 2 ^ 48

/-- A VALUE word with format, rows, columns and tile address. -/
def hValue (fmt rows cols addr : Nat) : Nat :=
  fmt * 2 ^ 58 + (rows - 1) * 2 ^ 53 + (cols - 1) * 2 ^ 48 + addr % 2 ^ 48

/-- The claim record of a handle, with or without a claimant (R108, R110). -/
def State.claimOf? (s : State) (pa : Nat) : Option Claim := s.claims.find? (fun c => c.pa == pa)

/-- The party whose work on a handle the closing or reverting of its record closes (R136). -/
def Claim.party (c : Claim) : List Ident := (c.claimant.map (·.1)).toList

/-- Put a claim record in place of the one for its handle. -/
def State.setClaim (s : State) (c : Claim) : State := { s with claims := c :: s.claims.filter (fun x => x.pa != c.pa) }

/-- Entries of a home's waiter storage in use: records, waiters, dependences, watchers and waiting requesters (R108). -/
def State.waiterUse (s : State) (b : Bank) : Nat :=
  ((s.claims.filter (fun c => c.bank == b)).map (fun c => 1 + c.waiters.length + c.deps.length)).sum +
  ((s.lines.filter (fun q => bankOf q.line == b)).map (fun q => q.watch.length + q.queue.length)).sum

/-- The home has a free entry of its 65,536 (R108). -/
def State.waiterFree (s : State) (b : Bank) : Bool := s.waiterUse b < 65536

/-- The record index that a claim takes: the smallest that no record holds. The spec does not say which. (DESIGN CHOICE, log 88) -/
def State.freeIdx (s : State) : Nat :=
  ((List.range (s.claims.length + 1)).find? (fun i => !(s.claims.any (fun c => c.idx == i)))).getD 0

/-- Wake one waiter of a handle, on behalf of the parties whose work that closes (R29, R112, R136). -/
def State.wakeWaiter (s : State) (pa : Nat) (who : List Ident) : Waiter → State
  | .thread w _ va => s.wake w (.inl (.handle va pa))
  | .task num => s.signal who (.lower num)

/-- The EVALUATING word of a claim (Table 5-2). -/
def evalWord (w : Nat) (who : Ident) (spark : Bool) (idx : Nat) : Nat :=
  hWord 2 w (who.ctx.toNat * 2 ^ 36 + spark.toNat * 2 ^ 35 + who.hslot.val * 2 ^ 32 + idx)

/-- G[37:3] of an address. -/
def noteG3 (pa : Nat) : Nat := dieOff (nameAddr pa) / 8
/-- G[37:6] of an address. -/
def noteG6 (pa : Nat) : Nat := dieOff (nameAddr pa) / 64

/-- A claim: the SUSPENDED word becomes EVALUATING and a record is made, taking over retained waiters (R108, R110). -/
def State.claim (s : State) (pa : Nat) (b : Bank) (part : Nat) (who : Ident) (spark : Bool) (prio : Nat) : State :=
  let w := s.rawNat pa 8
  let old := s.claimOf? pa
  let idx := (old.map (·.idx)).getD s.freeIdx
  let c : Claim :=
    { idx := idx, pa := pa, bank := b, cell := w % 2 ^ 32, claimant := some (who, spark), prio := prio, part := part
      waiters := (old.map (·.waiters)).getD [], deps := (old.map (·.deps)).getD [] }
  ((s.homeWrite pa (leBytes 8 (evalWord w who spark idx))).setClaim c).noteBank b 0x0D (spark.toNat * 2 ^ 35 + noteG3 pa)

/-- The claimant of a handle, if it is EVALUATING. -/
def State.claimant? (s : State) (pa : Nat) : Option (Ident × Bool) := (s.claimOf? pa).bind (·.claimant)

/-- Revert a claim: the SUSPENDED word comes back, the record stays with its waiters, and the oldest waiter is woken (R110). -/
def State.revert (s : State) (pa : Nat) : State :=
  match s.claimOf? pa with
  | none => s
  | some c =>
    let w := s.rawNat pa 8
    let s1 := (s.homeWrite pa (leBytes 8 (hWord 1 w c.cell))).noteBank c.bank 0x0F
      ((match c.claimant with | some (_, sp) => sp.toNat | none => 0) * 2 ^ 35 + noteG3 pa)
    match c.waiters with
    | [] => s1.setClaim { c with claimant := none }
    | x :: r => (s1.setClaim { c with claimant := none, waiters := r }).wakeWaiter pa c.party x

/-- Close a handle's record: wake every waiter, oldest first, and lower the counters that list the handle (R111, R251). -/
def State.closeRecord (s : State) (pa : Nat) : State :=
  match s.claimOf? pa with
  | none => s
  | some c =>
    let s1 := c.waiters.foldl (fun s x => s.wakeWaiter pa c.party x) s
    let s2 := c.deps.foldl (fun s d => s.signal c.party (.lower d)) s1
    { s2 with claims := s2.claims.filter (fun x => x.pa != pa) }

/-- Free a suspension cell; `suse` falls (R111, R118). -/
def State.freeCell (s : State) (part ctx cell : Nat) : State :=
  s.modCtx part ctx (fun c => { c with cells := c.cells.filter (· != cell), suse := c.suse - 1 })

/-- A fill: VALUE with the resolved format, the cell freed, the record released, every waiter woken, as a release at
`.pk` by the filler (R111, R136). -/
def State.fillHandle (s : State) (pa part ctx fmt place lcore : Nat) (slot : Fin 8) : State :=
  let w := s.rawNat pa 8
  let cell := ((s.claimOf? pa).map (·.cell)).getD 0
  let v := hValue fmt (hRows w) (hCols w) place
  let spark := match s.claimant? pa with | some (_, sp) => sp.toNat | none => 0
  let s1 := s.noteBank (bankOf pa) 0x0E (spark * 2 ^ 35 + noteG3 pa)
  ((s1.homeWriteRel pa (leBytes 8 v) .pk lcore slot).freeCell part ctx cell).closeRecord pa

/-- A poisoning wakes every waiter (R111, R115). (DEDUCED, log 50) -/
def State.poison (s : State) (pa cause : Nat) : State :=
  let w := s.rawNat pa 8
  (s.homeWrite pa (leBytes 8 (hWord 3 w cause))).closeRecord pa

/-- The forcing frames of a thread, innermost first: those of its walk, and those below its hold frames (R109, R114). -/
def Thread.allFrames (t : Thread) : List ForceFrame :=
  ((t.walk.map (·.frames)).getD []) ++ t.holds.flatMap (fun h => (h.walk.map (·.frames)).getD [])

/-- A hold frame once the forcing frames below it are discarded: its walk starts again when the program above it ends (R110). -/
def Hold.unwound (h : Hold) : Hold :=
  match h.walk with
  | none => h
  | some w =>
    { h with walk := some { w with frames := [] }
             cut := match w.frames.getLast? with | some f => some f.base | none => h.cut }

/-- Unwind a thread: revert every claim on its forcing frames, innermost first, those below its hold frames too, and discard them (R110).
(DEDUCED, log 48) -/
def State.unwind (s : State) (who : Ident) : State :=
  match s.thread? who with
  | none => s
  | some t =>
    let s1 := t.allFrames.foldl (fun s f => s.revert f.pa) s
    let base := (t.walk.bind (·.frames.getLast?)).map (·.base)
    s1.modWho who (fun t => { t with walk := none, wsp := (base.map w64).getD t.wsp, holds := t.holds.map Hold.unwound })

/-! ## Reservations of a thread that ends -/

/-- The line queue of a line. -/
def State.lineQ (s : State) (line : Nat) : LineQ := (s.lines.find? (fun q => q.line == line)).getD ⟨line, none, [], [], [], [], 0⟩

/-- Put a line queue back; an empty one is not kept. -/
def State.setLineQ (s : State) (q : LineQ) : State :=
  let r := s.lines.filter (fun x => x.line != q.line)
  { s with lines := if q.holder.isNone && q.queue.isEmpty && q.aside.isEmpty && q.watch.isEmpty then r else q :: r }

/-- Free a line with no write; the accesses set aside behind the reservation are performed before the next grant (R125,
R132). -/
def State.freeLine (s : State) (line : Nat) (broken : Bool) : State :=
  let q := s.lineQ line
  (s.noteBank (bankOf line) 0x0C (broken.toNat * 2 ^ 32 + noteG6 line)).setLineQ { q with holder := none, waitFrom := s.time.toNat }

/-- Release the reservation that a thread took with `RSV`, with no write (R132, R162, R284). -/
def State.dropRsv (s : State) (who : Ident) : State :=
  let held := s.lines.filter (fun q => match q.holder with | some h => h.who == who && h.rsv | none => false)
  (held.foldl (fun s q => s.freeLine q.line false) s).modWho who (fun t => { t with rsv := none })

/-- Reductions parked in a fault queue, named by their messages, are purged with their thread: nothing is left for their operations to wait
for (R196). -/
def Core.dropRed (k : Core) (tags : List Nat) : Core :=
  { k with copy := { k.copy with queue := k.copy.queue.map (fun o =>
      match o.job with
      | .red m => if tags.contains m.tag then { o with landed := true } else o
      | _ => o) } }

/-- A reduction (R196). -/
def MemOp.isRed : MemOp → Bool
  | .red _ _ _ => true
  | _ => false

/-- A request for a reservation, or one that gives it back. -/
def MemOp.asks : MemOp → Bool
  | .rsv _ _ | .watch => true
  | _ => false

/-- Forget the requests and watches of a thread that is no more, those for a reservation wherever they are (R132, R284); its reductions are
engine operations, which complete (R284). -/
def State.dropWaits (s : State) (who : Ident) : State :=
  let parked := s.faultQ.filterMap (fun f => match f.what with | .access m => if m.who = who then some m.tag else none | _ => none)
  { s with
    net := s.net.filter (fun m => m.who != who || !m.op.asks)
    inbox := s.inbox.filter (fun m => m.who != who || !m.op.asks)
    lines := s.lines.map (fun q => { q with queue := q.queue.filter (fun m => m.who != who || m.op.isRed), watch := q.watch.filter (· != who) })
    faultQ := s.faultQ.filter (fun f => match f.what with | .access m => m.who != who | .thread x _ _ => x != who | .line _ _ _ => true)
    cores := if parked.isEmpty then s.cores else s.cores.map (fun (c, k) => (c, k.dropRed parked))
    steals := s.steals.map (fun x => { x with who := x.who.filter (· != who) })
    claims := s.claims.map (fun c => { c with waiters := c.waiters.filter (fun w => match w with | .thread x _ _ => x != who | .task _ => true) })
    bars := s.bars.map (fun g => { g with members := g.members.filter (· != who) })
    redns := s.redns.map (fun g => { g with members := g.members.filter (fun m => m.1 != who) }) }

/-! ## Launch and thread ends -/

/-- A thread of a launch has halted; the last one ends the launch (R22). -/
def State.launchLoses (s : State) (who : Ident) (part : Nat) (seq : BitVec 32) : State :=
  match s.launches.find? (fun l => l.part == part && l.seq == seq) with
  | none => s
  | some l =>
    if l.live ≤ 1 then s.signal [who] (.ended part seq)
    else { s with launches := s.launches.map (fun x => if x.part == part && x.seq == seq then { x with live := x.live - 1 } else x) }

/-- Outputs that have not left a core are dropped: accesses, messages and engine operations with these numbers (R324). -/
def State.dropHeld (s : State) (c lo hi : Nat) : State :=
  let mine := fun (core tag : Nat) => core == c && decide (lo ≤ tag) && decide (tag < hi)
  let left := fun (e : Engine) => { e with queue := e.queue.filter (fun o => !mine c o.tag) }
  { (s.modCore c (fun k => { k with mat := left k.mat, vec := left k.vec, copy := left k.copy })) with
    net := s.net.filter (fun m => !mine m.core m.tag)
    faultQ := s.faultQ.filter (fun f => match f.what with | .access m => !mine m.core m.tag | _ => true)
    sends := s.sends.filter (fun m => !(decide (lo ≤ m.tag) && decide (m.tag < hi))) }

/-- The outputs that still wait in the store comparator of a pair that ends (R324). -/
def State.dropPair (s : State) (who : Ident) : State :=
  s.cores.foldl (fun s (c, k) => allSlots.foldl (fun s i =>
    match (k.slots[i]).occ with
    | .marker m => if m.id = who then ((k.slots[i]).trail.filter (·.out)).foldl (fun s e => s.dropHeld c e.lo e.hi) s else s
    | _ => s) s) s

/-- Free whatever slot holds or is reserved for a thread (R16). -/
def State.vacate (s : State) (who : Ident) : State :=
  let s := s.dropPair who
  let f := fun (o : Occ) => match o with
    | .thread t => if t.id = who then Occ.free else o
    | .away w _ _ _ => if w = who then Occ.free else o
    | .marker m => if m.id = who then Occ.free else o
    | _ => o
  { s with
    cores := s.cores.map (fun (c, k) => (c, { k with
      slots := k.slots.map (fun sl => { sl with occ := f sl.occ, trail := if (f sl.occ).isFree then [] else sl.trail })
      saved := k.saved.filter (fun x => x.t.id != who)
      migBuf := k.migBuf.filter (fun x => x.1.id != who) }))
    migs := s.migs.filter (fun m => m.t.id != who) }

/-- A thread becomes HALTED: its slot is free; a task retires its descriptor; a launch loses a thread; markers that it leaves go on for
operations under way (R16, R22, R284, R299). -/
def State.retire (s : State) (t : Thread) : State :=
  let s1 := { s.vacate t.id with ownerless := s.ownerless ++ ((s.thread? t.id).getD t).markers }
  match t.kind with
  | .launch seq _ _ => s1.launchLoses t.id t.part seq
  | .task d => s1.retireDesc d
  | .spark _ => s1

/-- Revert every claim of a thread, newest first, and drop its reservation and requests (R284, R110). -/
def State.dropClaims (s : State) (who : Ident) : State :=
  let mine := s.claims.filter (fun c => match c.claimant with | some (x, _) => x == who | none => false)
  mine.foldl (fun s c => s.revert c.pa) s

/-- End one thread as `SLOTKILL` does: its engine operations complete by themselves, its reservation is released with no
write, its fault-queue entries are purged, and its claims are reverted (R284). (DEDUCED, log 45) -/
def State.killThread (s : State) (t : Thread) : State :=
  ((((s.dropRsv t.id).dropClaims t.id).dropWaits t.id)).retire t

/-- A spark is abandoned: held lines are discarded, its claims are reverted, it is dropped (R117). -/
def State.abandon (s : State) (t : Thread) : State := s.killThread t

/-- Every thread of a context that a core holds, in any place. -/
def Core.ctxThreads (k : Core) (part ctx : Nat) : List Thread :=
  ((k.threads.map (·.2)) ++ k.saved.map (·.t) ++ k.migBuf.map (·.1)).filter (fun t => t.part == part && t.id.ctx.toNat == ctx)

/-- Every thread of a context in the module. -/
def State.ctxThreads (s : State) (part ctx : Nat) : List Thread :=
  (s.cores.map (fun (_, k) => k.ctxThreads part ctx)).flatten ++
  (s.migs.map (·.t)).filter (fun t => t.part == part && t.id.ctx.toNat == ctx)

/-- Kill a context: every unit is HALTED wherever it is, its fault-queue entries are purged, every handle it claims
becomes POISON 0x01, its reservations are released, and its launches end (R32, R115, R132, R200). (DEDUCED, log 18, log 45) -/
def State.killCtx (s : State) (part ctx : Nat) : State :=
  let ts := s.ctxThreads part ctx
  let s1 := ts.foldl (fun s t => s.dropRsv t.id) s
  let mine := s1.claims.filter (fun c => c.part == part &&
    (match c.claimant with | some (x, _) => x.ctx.toNat == ctx | none => false))
  let s2 := mine.foldl (fun s c => s.poison c.pa 1) s1
  let s3 := ts.foldl (fun s t => (s.dropWaits t.id).retire t) s2
  let ls := s3.launches.filter (fun l => l.part == part && l.r.ctx.toNat == ctx)
  let s4 := ls.foldl (fun s l => s.signal (ts.map (·.id)) (.ended l.part l.seq)) s3
  let s5 : State :=
    { s4 with
      faultQ := s4.faultQ.filter (fun f => !(f.part == part && f.ctx == ctx))
      pageReqs := s4.pageReqs.filter (fun r => !(r.part == part && r.ctx == ctx))
      cores := s4.cores.map (fun (c, k) => if s4.partOf c != part then (c, k) else (c, { k.keepTasks (fun d => !(d.ctx.toNat == ctx)) with
        sparks := k.sparks.filter (fun p => !(p.1 == ctx))
        blocks := k.blocks.filter (fun b => !(b.ctx == ctx)) })) }
  s5.modCtx part ctx (fun c => { c with killed := true })

/-- The partition that owns a source: bring-up assigned it, else it is partition 0's (R272). (DESIGN CHOICE, log 17) -/
def State.srcPart (s : State) : Source → Nat
  | .core c => s.partOf c
  | .slice i => ((s.parts.find? (fun x => x.2.slices.contains i)).map (·.1)).getD 0

/-- Freeze a source: its freeze record, then no more records (R338). Table 22-2 puts the cause in bits 15:8 and a context in bits 11:0: the
cause stands whole, and of the context its low 8 bits. (DESIGN CHOICE, log 70) -/
def State.freeze (s : State) (src : Source) (mine : Bool) (cause : BitVec 8) (ctx : Nat) : State :=
  s.setDiary ((s.diaryOf src).freeze s.time.toNat (mine.toNat * 2 ^ 39 + cause.toNat * 2 ^ 8 + ctx % 2 ^ 8))

/-- A fatal fault: its source writes the freeze record and stops recording, unless it is frozen already; a Report Card of the source's
partition is to be written (R337 to R339). -/
def State.fatal (s : State) (ctx : Option Nat) (cause : BitVec 8) (val pc : Word) (src : Source)
    (who : Option Ident) : State :=
  let late : Bool := s.capsule.state == 1
  let own : Bool := !(s.diaryOf src).frozen && !late
  let s1 := if own then s.freeze src true cause (ctx.getD 0) else s
  { s1 with fatals := s1.fatals ++ [⟨s.srcPart src, ctx, cause, val, pc, src, who, s.time.toNat, late, own⟩] }

end Sys2Proof.Machine
end

