-- ==== Sys2Proof/Machine/Contain.lean ====
section
/-! DEFINITION. Errors found by reads: corrections (R319), lost lines (R322) and consumed values with the Detention they start
(R321, R326, R327, R330); storage of plain and of sparse-existence bytes (R90 to R92, R313). -/

namespace Sys2Proof.Machine

/-! ## Rectangles (Table 21-3) -/

/-- The rectangle word of one router of a die. -/
def ownRect (die router : Nat) : Nat :=
  let row := router / 8
  let col := router % 8
  die + row * 2 ^ 3 + row * 2 ^ 5 + col * 2 ^ 7 + col * 2 ^ 10

/-- Die of a rectangle word. -/
def rectDie (w : Nat) : Nat := w % 8

/-- The routers of a rectangle word. -/
def rectRouters (w : Nat) : List Nat :=
  (List.range 32).filter (fun r => bits w 4 3 ≤ r / 8 && r / 8 ≤ bits w 6 5 && bits w 9 7 ≤ r % 8 && r % 8 ≤ bits w 12 10)

/-- A physical core lies in a rectangle. -/
def inRect (w core : Nat) : Bool := coreDie core == rectDie w && (rectRouters w).contains (coreRouter core)

/-- The physical cores of a rectangle. -/
def rectCores (w : Nat) : List Nat :=
  ((rectRouters w).map (fun r => (List.range 16).map (fun i => rectDie w * 512 + r * 16 + i))).flatten

/-- The rectangle that the Detention map gives for a core's router; a word that does not contain its router acts as the
router's own rectangle (R326). -/
def State.mapRect (s : State) (core : Nat) : Nat :=
  let die := coreDie core
  let r := coreRouter core
  let w := match s.detMap.find? (fun x => x.1 == (die, r)) with
    | some x => x.2.toNat % 2 ^ 13
    | none => ownRect die r
  if rectDie w == die && (rectRouters w).contains r then w else ownRect die r

/-- Two rectangles overlap. -/
def rectsMeet (v w : Nat) : Bool := rectDie v == rectDie w && (rectRouters v).any (fun r => (rectRouters w).contains r)

/-! ## Starting a Detention (R327, R330) -/

/-- A bank of this module lies inside a rectangle. -/
def bankInside (rect : Nat) : Bank → Bool
  | .slice _ _ _ => false
  | .sp m c _ => m == Config.pkg && inRect rect c

/-- A migrating thread has been dropped by the fence of a rectangle that it was leaving (R327). (DEDUCED, log 69) -/
def State.migDropped (s : State) (m : Mig) : Bool :=
  s.detentions.any (fun d => d.stage == 1 && inRect d.rect m.src && !inRect d.rect (s.physOf m.dest)) && (Config.freeWord (2 ^ 64 + m.tag)).getLsbD 0

/-- What is leaving a rectangle as its fence comes up: the boundary routers drop what has not passed them, probes excepted, which travel on
the control channel, and wakes, which are delivered (R29). Which messages have passed is a free value of each, since the spec does not say
(R327, R347); a migrating thread that is dropped is lost with those inside at the notice. (DEDUCED, log 69) -/
def State.dropLeaving (s : State) (rect : Nat) : State :=
  let stays := fun (tag : Nat) (fromIn toIn : Bool) => !(fromIn && !toIn && (Config.freeWord (2 ^ 64 + tag)).getLsbD 0)
  { s with
    net := s.net.filter (fun m => (match m.op with | .probe => true | _ => false) || stays m.tag (inRect rect m.core) (bankInside rect m.bank))
    replies := s.replies.filter (fun r => stays r.tag (bankInside rect r.msg.bank) (inRect rect r.msg.core))
    deps := s.deps.filter (fun d => stays d.tag (d.src.any (fun x => inRect rect x.1)) (inRect rect (s.physOf d.lcore)))
    sends := s.sends.filter (fun m => stays m.tag ((s.placeOf? m.who).any (fun p => inRect rect p.1)) (inRect rect (s.physOf m.lcore)))
    rels := s.rels.filter (fun r => stays r.msg.tag (inRect rect r.msg.core) (bankInside rect r.msg.bank))
    arrivals := s.arrivals.filter (fun a => stays a.tag (inRect rect (s.physOf a.lcore)) (bankInside rect (bankOf a.pa))) }

/-- Stop and fence: every core of the rectangle stops issuing, and traffic that leaves it is dropped; its origin counts it
(R331, Table 21-4). -/
def State.fenceIn (s : State) (d : Detention) : State :=
  let s1 := (rectCores d.rect).foldl (fun s c =>
    (s.modCore c (fun k => { k with stopped := true })).note (.core c) 0x17 (d.rect % 2 ^ 13))
    ((s.dropLeaving d.rect).modCore d.origin (fun k => { k with detTimes := s.time.toNat :: k.detTimes }))
  { s1 with detentions := s1.detentions.map (fun x => if x.id = d.id then { x with stage := 1, at_ := s.time.toNat } else x) }

/-- A core lies behind a fence: its rectangle has been fenced and has not rejoined (Table 21-4). -/
def State.fenced (s : State) (core : Nat) : Bool := s.detentions.any (fun d => d.stage != 0 && inRect d.rect core)

/-- A packet of a core to a bank is refused by a fence: the bank lies inside a rectangle that the core is not in (R329). -/
def State.fencedFrom (s : State) (core : Nat) (b : Bank) : Bool :=
  match b with
  | .slice _ _ _ => false
  | .sp _ _ _ => s.detentions.any (fun d => d.stage != 0 && bankInside d.rect b && !inRect d.rect core)

/-- A Detention of a rectangle: absorbed where it overlaps one in progress that its origin lies inside, held back while one in progress
overlaps it, and begun otherwise (R330). One held back is not in progress; a core that consumes again meanwhile adds none. (DEDUCED,
log 69) -/
def State.startDetention (s : State) (who : Option Ident) (origin rect : Nat) : State :=
  if s.detentions.any (fun d => (d.stage != 0 && inRect d.rect origin && rectsMeet d.rect rect) ||
      (d.stage == 0 && who.isNone && d.who.isNone && d.origin == origin && d.rect == rect)) then s
  else
    let d : Detention := ⟨s.nextTag, who, origin, rect, 0, 0, s.time.toNat⟩
    let s1 := { s with detentions := s.detentions ++ [d], nextTag := s.nextTag + 1 }
    if s.detentions.any (fun x => x.stage != 0 && rectsMeet x.rect rect) then s1 else s1.fenceIn d

/-- A core consumes a value that cannot be corrected: the Detention of its mapped rectangle starts (R321). -/
def State.consume (s : State) (core : Nat) : State :=
  (s.note (.core core) 0x13 (3 * 2 ^ 38)).startDetention none core (s.mapRect core)

/-- What the check of a word without an address finds as the word is read (R319, R320): nothing, an error that it corrects with a record, or
one that cannot be corrected. -/
def State.checkStore (s : State) (c : Nat) (u : CoreStore) : Option State :=
  match (s.core c).marks.find? (fun m => m.1 == u) with
  | none => some s
  | some m =>
    match eccClass m.2 with
    | .bad => none
    | x =>
      let s1 := s.modCore c (fun k => { k with marks := k.marks.filter (fun y => y.1 != u) })
      some (if x = .clean then s1 else s1.note (.core c) 0x12 (3 * 2 ^ 38))

/-- A read of such a word: one that cannot be corrected is consumed (R321). -/
def State.useStore (s : State) (c : Nat) (u : CoreStore) : Except (StopKind × State) State :=
  match s.checkStore c u with
  | some s1 => .ok s1
  | none => stop (s.consume c) .asIs

/-! ## Reads (R319, R322) -/

/-- The aperture address of an offset of a physical core's scratchpad (R78). -/
def State.aperture (s : State) (core off : Nat) : Nat := 0x800000000000 + Config.pkg * 2 ^ 31 + s.logOf core * 2 ^ 19 + off

/-- The address of a line of storage: its physical address, or, in a scratchpad, its aperture address (R322). (DEDUCED, log 30) -/
def State.lineAddr (s : State) (k : Nat) : Nat :=
  if isSp k then
    let (m, c, o) := spOf k
    if m = Config.pkg then s.aperture c (o / 64 * 64) else lineOf k - 2 ^ 52 + 0x800000000000
  else lineOf k

/-- The line of a storage key is recorded as lost. -/
def State.isLost (s : State) (k : Nat) : Bool := s.lost.any (fun l => l.2 == lineOf k)

/-- A lost line has a reader: its context gets `MCE` and is killed with a Report Card (R322). -/
def State.lostReader (s : State) (k part ctx lcore slot : Nat) (src : Source) : State :=
  let s1 := s.postEvent part cMCE ctx lcore slot (s.lineAddr k)
  (s1.fatal (some ctx) cMCE (w64 (s.lineAddr k)) 0 src none).killCtx part ctx

/-- The source of a storage key; other modules' storage has none here and counts with slice 0. -/
def keySource (k : Nat) : Source := (storageSource (bankOf k)).getD (.slice 0)

/-- Bytes of a page by its size code (Table 20-1). -/
def pageBytes (size : Nat) : Nat :=
  match size with
  | 0 => 4096
  | 1 => 65536
  | 2 => 2097152
  | _ => 1073741824

/-- A leaf entry's page holds a line: its storage does, or, on a class-1 page, the frame of an existing granule (R308, R313). -/
def State.leafHolds (s : State) (e line : Nat) : Bool :=
  let pa := bits e 55 16 * 4096
  let n := pageBytes (bits e 11 10)
  if bits e 9 7 = 1 then
    let m := s.rawNat (pa + 24) 8
    (List.range (n / 4096)).any (fun i =>
      let x := s.rawNat (m + 8 * i) 8
      x.testBit 0 && bits x 51 12 * 4096 == line / 4096 * 4096)
  else pa ≤ line && line < pa + n

/-- A page of the tables from one table down holds a line (R307): the levels below it are counted down. -/
def State.tableHolds (s : State) (line table : Nat) : Nat → Bool
  | 0 => (List.range 512).any (fun i => let e := s.rawNat (table + 8 * i) 8; e.testBit 0 && s.leafHolds e line)
  | lv + 1 => (List.range 512).any (fun i =>
      let e := s.rawNat (table + 8 * i) 8
      e.testBit 0 &&
      (if (lv = 1 && bits e 11 10 = 3) || (lv = 0 && bits e 11 10 = 2) then s.leafHolds e line
       else State.tableHolds s line (bits e 55 16 * 4096) lv))

/-- The contexts that own the page of a line: those whose tables map it, or, for a line of a scratchpad, whose units its core holds
(R322). (DEDUCED, log 30) -/
def State.owners (s : State) (k : Nat) : List (Nat × Nat) :=
  if isSp k then
    let c := (spOf k).2.1
    ((((s.core c).threads.map (·.2)) ++ (s.core c).saved.map (·.t)).map (fun t => (t.part, t.id.ctx.toNat))).eraseDups
  else
    (s.ctxs.filter (fun c => c.ptroot.toNat != 0 && !c.killed && s.tableHolds (lineOf k) c.ptroot.toNat 3)).map (fun c => (c.part, c.ctx))

/-- A bank finds an uncorrectable word: the line is lost and recorded. The loss that fills the table of 64 posts `MCE` to partition 0 and
is a fatal fault; every later one kills the contexts that own the line's page (R322, R337). (DEDUCED, log 30) -/
def State.loseLine (s : State) (k : Nat) : State :=
  let b := bankOf k
  if s.isLost k then s
  else
    let s1 := s.note (keySource k) 0x13 (storageCode b * 2 ^ 38 + k % 2 ^ 38)
    let n := (s1.lost.filter (fun l => l.1 == b)).length
    if n < 64 then
      let s2 := { s1 with lost := (b, lineOf k) :: s1.lost }
      if n = 63 then (s2.postEvent 0 cMCE 0 0 0 (s2.lineAddr k)).fatal none 0x81 (w64 (s2.lineAddr k)) 0 (keySource k) none else s2
    else (s1.owners k).foldl (fun s x =>
      ((s.postEvent x.1 cMCE x.2 0 0 (s.lineAddr k)).fatal (some x.2) cMCE (w64 (s.lineAddr k)) 0 (keySource k) none).killCtx x.1 x.2) s1

/-- Read n bytes at a storage key within one line: corrected bytes, or nothing where the line is or becomes lost; a clean line of a slice's
cache with an uncorrectable word is fetched once more from DRAM before that (R321). -/
def State.readStored (s : State) (k n : Nat) : Option (List Byte) × State :=
  if s.isLost k then (none, s)
  else if s.badAt k n then (none, (s.refetch k n).loseLine k)
  else
    let s1 := (s.correctNoted k n).refetch k n
    (some (s1.raw k n), s1)

/-- What a read that the hardware makes for a context leaves behind: its corrections, or, where it meets a word that cannot be corrected
or a lost line, the loss and the end of the context (R319, R322). -/
def State.audit (s : State) (k n part ctx lcore slot : Nat) : State :=
  if s.synd.isEmpty && s.lost.isEmpty then s
  else
    match (wordsOf k n).find? (fun w => s.isLost w || s.badAt w 8) with
    | some w => (if s.isLost w then s else s.loseLine w).lostReader w part ctx lcore slot (keySource w)
    | none => s.correctNoted k n

/-- Such a read finds its data (R322). -/
def State.sound (s : State) (k n : Nat) : Bool := !((wordsOf k n).any (fun w => s.isLost w || s.badAt w 8))

/-! ## Plain and sparse bytes -/

/-- Where the bytes of an access lie: its storage key; or, on a class-1 page, the existence-map entry, the pool header and
the default pattern of its granule (R313). -/
abbrev Gran := Option (Nat × Nat × Word)

/-- The slice number of a home: die × 12 + slice. -/
def homeNum (b : Bank) : Nat := (sliceIdx b).getD 0

/-- A word of a region descriptor as a home reads it: as it has cached it, or from memory (R313). (DEDUCED, log 89) -/
def State.descWord (s : State) (b : Bank) (k : Nat) : Nat :=
  match s.mapCache.find? (fun e => e.1 == homeNum b && e.2.1 == k) with
  | some e => e.2.2.toNat
  | none => s.goodNat k 8

/-- The existence-map entry of a granule as its home reads it, which is the only home that does: as it has cached it, or from memory
(R313). (DEDUCED, log 89) -/
def State.mapEntry (s : State) (g : Nat × Nat × Word) : Nat :=
  match s.mapCache.find? (fun e => e.2.1 == g.1) with
  | some e => e.2.2.toNat
  | none => s.goodNat g.1 8

/-- A home writes an existence-map entry, through its cache (R92, R94, R313). -/
def State.setMapEntry (s : State) (g : Nat × Nat × Word) (v : Nat) : State :=
  let s1 := s.homeWrite g.1 (leBytes 8 v)
  { s1 with mapCache := s1.mapCache.map (fun e => if e.2.1 = g.1 then (e.1, e.2.1, w64 v) else e) }

/-- A home caches a word of a descriptor or a map, corrected (R313, R319); one that it cannot read is not cached. -/
def State.fillMap (s : State) (home k : Nat) : State :=
  if s.mapCache.any (fun e => e.1 == home && e.2.1 == k) || !s.sound k 8 then s
  else
    let s := s.correctNoted k 8
    { s with mapCache := (home, k, w64 (s.goodNat k 8)) :: s.mapCache }

/-- A home forgets a cached word (R313). -/
def State.forgetMap (s : State) (home k : Nat) : State :=
  { s with mapCache := s.mapCache.filter (fun e => !(e.1 == home && e.2.1 == k)) }

/-- The granule exists (R91). -/
def State.granExists (s : State) (g : Gran) : Bool :=
  match g with
  | none => true
  | some x => (s.mapEntry x).testBit 0

/-- The storage key of a named byte: itself, or its place in the granule's frame. -/
def State.storageKey (s : State) (name : Nat) (g : Gran) : Nat :=
  match g with
  | none => name
  | some x => bits (s.mapEntry x) 51 12 * 4096 + name % 4096

/-- Read n named bytes within one line: the default pattern where the granule is absent (R91). What a device register reads as is a free
value (R88, R309). (DESIGN CHOICE, log 84) -/
def State.readNamed (s : State) (name n : Nat) (g : Gran) : Option (List Byte) × State :=
  match g with
  | none =>
    if isDev name then (some ((List.range n).map (Config.deviceByte s.nextTag)), { s with nextTag := s.nextTag + 1 })
    else s.readStored name n
  | some x => if s.granExists g then s.readStored (s.storageKey name g) n else (some (patBytes x.2.2 name n), s)

/-! ## Births and erasures (R92 to R94, R314) -/

/-- The free frames of a home's stock for a pool. -/
def State.stockOf (s : State) (b : Bank) (pool : Nat) : List Nat :=
  ((s.stocks.find? (fun x => x.1 == b && x.2.1 == pool)).map (·.2.2)).getD []

/-- Set the stock of a home for a pool. -/
def State.setStock (s : State) (b : Bank) (pool : Nat) (l : List Nat) : State :=
  let r := s.stocks.filter (fun x => !(x.1 == b && x.2.1 == pool))
  { s with stocks := if l.isEmpty then r else (b, pool, l) :: r }

/-- What stands in the way of a write to a granule. -/
inductive Birth where
  /-- it exists, or the stock has a good frame -/
  | ok
  /-- the stock is empty and the pool is not -/
  | stock
  /-- both are empty -/
  | pool
  /-- the frame that the birth would use is no DRAM frame of the page's die -/
  | frame
deriving DecidableEq, Repr

/-- COUNT of a pool header (R314). -/
def State.poolCount (s : State) (pool : Nat) : Nat := s.goodNat pool 4

/-- Whether a write may be performed on a granule (R93, R314). -/
def State.birthOf (s : State) (name : Nat) (g : Gran) : Birth :=
  match g with
  | none => .ok
  | some x =>
    if s.granExists g then .ok
    else
      match s.stockOf (bankOf name) x.2.1 with
      | [] => if s.poolCount x.2.1 = 0 then .pool else .stock
      | f :: _ => if f % 4096 == 0 && isDram f && dieOf f == dieOf (nameAddr name) && modOf f == modOf (nameAddr name) then .ok else .frame

/-- The words that a home reads for itself as it performs an access to a granule, but for those that it has cached: the descriptor's, the map
entry, and for a write (w) out of an empty stock, or an erasure (er) into a full one, the header of the pool (R93, R94, R313, R314). -/
def State.homeWords (s : State) (name : Nat) (g : Gran) (w er : Bool) : List Nat :=
  match g with
  | none => []
  | some x =>
    let d := (name - 2 ^ 54) / 2 ^ 30 * 4096
    let n := (s.stockOf (bankOf name) x.2.1).length
    let head : Bool := if s.granExists g then er && decide (8 ≤ n) else w && n == 0
    [d, d + 16, d + 24, x.1].filter (fun k => !(s.mapCache.any (fun e => (e.1 == homeNum (bankOf name) || k == x.1) && e.2.1 == k))) ++ (if head then [x.2.1] else [])

/-- A home reads those words for a context: corrected with their records, or, where one is lost or cannot be corrected, with the end of the
context, and the answer that nothing is performed (R319, R322). -/
def State.homeReads (s : State) (name : Nat) (g : Gran) (w er : Bool) (part ctx lcore slot : Nat) : Bool × State :=
  if s.synd.isEmpty && s.lost.isEmpty then (true, s)
  else
    match (s.homeWords name g w er).find? (fun k => !s.sound k 8) with
    | some k => (false, s.audit k 8 part ctx lcore slot)
    | none => (true, (s.homeWords name g w er).foldl (fun s k => s.correctNoted k 8) s)

/-- The birth of an absent granule: a frame from the stock, filled with the pattern, and the map entry; it is a write of the whole granule
(R92, R133, R195). -/
def State.birth (s : State) (name : Nat) (g : Gran) : State :=
  match g with
  | none => s
  | some x =>
    if s.granExists g then s
    else
      match s.stockOf (bankOf name) x.2.1 with
      | [] => s
      | f :: r =>
        let s1 := s.setStock (bankOf name) x.2.1 r
        (s1.writeAs (name / 4096 * 4096) f (patBytes x.2.2 0 4096)).setMapEntry x (f + 1)

/-- Write named bytes, with the birth that the first write to an absent granule is (R92). What a write to a device register does there the spec
does not say: its words' release records are cleared, as by any store (R88, R133). (DESIGN CHOICE, log 84) -/
def State.writeNamed (s : State) (name : Nat) (g : Gran) (bytes : List Byte) : State :=
  if isDev name then s.clearRel name bytes.length else
  let s1 := s.birth name g
  s1.writeAs name (s1.storageKey name g) bytes

/-- The header of a pool is free for an atomic of a home: no other holds its line, whose release would write over it (R132, R314). -/
def State.poolFree (s : State) (pool : Nat) : Bool := (s.lineQ (lineOf pool)).holder.isNone

/-- Frames are pushed onto a pool in one atomic at its header's home: as many as its array has room for (R314). -/
def State.pushPool (s : State) (pool f : Nat) : State :=
  let n := s.poolCount pool
  (s.homeWrite (pool + 16 + 8 * n) (leBytes 8 f)).homeWrite pool (leBytes 4 (n + 1))

/-- `ERASE` of a granule: existence cleared, the frame back to the stock, or to the pool when the stock is full; ordered as
a store of the pattern (R94). An absent granule changes nothing. (DEDUCED, log 33) -/
def State.eraseNamed (s : State) (name : Nat) (g : Gran) : State :=
  match g with
  | none => s
  | some x =>
    if !s.granExists g then s
    else
      let f := bits (s.mapEntry x) 51 12 * 4096
      let s1 := (s.setMapEntry x 0).clearRel name 4096
      let l := s1.stockOf (bankOf name) x.2.1
      let s2 := if l.length < 8 then s1.setStock (bankOf name) x.2.1 (f :: l) else s1.pushPool x.2.1 f
      { (s2.wakeWatchers name 4096) with lost := s2.lost.filter (fun l => !(f ≤ l.2 && l.2 < f + 4096)) }

/-- The words that a refill reads: the header of the pool and its topmost entries (R314). -/
def State.refillWords (s : State) (pool : Nat) : List Nat :=
  let n := s.poolCount pool
  let k := if (n + 11) / 12 < 8 then (n + 11) / 12 else 8
  pool :: (List.range k).map (fun i => pool + 16 + 8 * (n - k + i))

/-- A refill: k = min(8, ⌈COUNT / 12⌉) frames from the top of the pool into an empty stock, in one atomic at its header's home (R93,
R314). -/
def State.refill (s : State) (b : Bank) (pool : Nat) : State :=
  let n := s.poolCount pool
  let k := if (n + 11) / 12 < 8 then (n + 11) / 12 else 8
  let frames := (List.range k).map (fun i => s.goodNat (pool + 16 + 8 * (n - k + i)) 8)
  (((s.refillWords pool).foldl (fun s w => s.correctNoted w 8) s).homeWrite pool (leBytes 4 (n - k))).setStock b pool frames

end Sys2Proof.Machine
end

