-- ==== Sys2Proof/Machine/Ops.lean ====
section
/-! DEFINITION. The shared operations of the issue stage: parking, the drain (R129 to R131), segments (R49, R50, R267),
taking a trap and returning from one (R268, R269, R286), departure of a migrating thread (R27, R28), and how an effect
becomes an outcome. -/

namespace Sys2Proof.Machine

/-! ## Parking -/

/-- Two waits are one: a refused claim or wait that is retried keeps its place (R108). -/
def Wait.same (v w : Wait) : Bool :=
  match v, w with
  | .retry _ a _, .retry _ b _ => a == b
  | _, _ => v == w

/-- A parked thread waits for a condition that its core tests by trying its instruction again; any other wait ends with a wake (R29, R34).
(DEDUCED, log 11) -/
def Wait.retests : Wait → Bool
  | .watch _ | .bar _ | .redn _ | .next _ | .idle | .remote _ | .grant _ | .handle _ _ | .attend _ => false
  | .retry _ _ due => due == 0
  | _ => true

/-- What an `AWAIT` that has read its source keeps for its reissue: that it waits, or that a change has woken it (R231). -/
def carryWait : Nat := 11
def carryWoken : Nat := 12

/-- A thread waits as given. -/
def Status.waits (st : Status) (w : Wait) : Bool :=
  match st with
  | .parked v => v.same w
  | _ => false

/-- A thread parks; the cycle its wait began is kept for Roll Call while the wait stays the same (R34, R304). -/
def Thread.park (w : Wait) (now : Nat) (t : Thread) : Thread :=
  { t with status := .parked w, parkedAt := if t.status.waits w then t.parkedAt else now
           rolled := if t.status.waits w then t.rolled else 0 }

/-- The thread in a slot parks; a new wait is recorded (type 0x05). A hold of R41 is no wait. -/
def State.parkAt (s : State) (c : Nat) (i : Fin 8) (w : Wait) : State :=
  match s.threadAt c i with
  | none => s
  | some t =>
    let s1 := s.modAt c i (Thread.park w s.time.toNat)
    if t.status.waits w || w = .hold then s1 else s1.noteCtx c i 0x05 (waitKind w * 2 ^ 32) t.id.ctx

/-- The issuing thread parks. -/
def State.park (s : State) (w : Wait) : State := s.parkAt s.cur.core s.cur.slot w

/-- A waiting thread becomes READY (type 0x06). -/
def State.wakeAt (s : State) (c : Nat) (i : Fin 8) : State :=
  match s.threadAt c i with
  | none => s
  | some t =>
    (s.modAt c i (fun t => { t with status := .ready })).noteCtx c i 0x06
      ((match t.status with | .parked w => waitKind w | _ => 5) * 2 ^ 32) t.id.ctx

/-! ## Accesses of a thread under way -/

/-- The bank is one of the core's own scratchpad. -/
def ownBank (b : Bank) (c : Nat) : Bool :=
  match b with
  | .sp m k _ => m == Config.pkg && k == c
  | .slice _ _ _ => false

/-- An erasure waits until no line of its granule is reserved, and until the header of the pool that would take the frame is free (R94,
R314). -/
def State.eraseWaits (s : State) (m : Msg) : Bool :=
  match m.op with
  | .erase => s.lines.any (fun q => q.holder.isSome && m.pa ≤ q.line && q.line < m.pa + 4096) ||
      m.gran.any (fun g => s.granExists m.gran && 8 ≤ (s.stockOf m.bank g.2.1).length && !s.poolFree g.2.1)
  | _ => false

/-- An access takes part in the line's reservation queue. -/
def MemOp.queues : MemOp → Bool
  | .atom _ _ _ _ _ _ | .rsv _ _ | .ctr _ _ _ | .red _ _ _ => true
  | _ => false

/-- The first message of a bank's FIFO that may be performed; a probe performs nothing and holds nothing up. Behind an erasure that waits, the
accesses to its granule wait too, but for those of a holder to the line that it has reserved, and a request for a reserved line, which joins
its queue (R94, R125, R132); `er` are the granules of such erasures and `sk` the lines of the accesses passed over. -/
def State.nextOf (s : State) (b : Bank) (er sk : List Nat) : List Msg → Option Msg
  | [] => none
  | m :: l =>
    if m.bank != b then State.nextOf s b er sk l
    else
      let line := lineOf m.pa
      match m.op with
      | .probe => State.nextOf s b er sk l
      | _ =>
        if s.eraseWaits m then State.nextOf s b (m.pa / 4096 :: er) sk l
        else if !er.contains (m.pa / 4096) || (s.lineQ line).holder.any (fun h => h.who == m.who || (m.op.queues && !sk.contains line))
        then some m else State.nextOf s b er (line :: sk) l

/-- A message touches a line: an access its own, an erasure every one of its granule. -/
def Msg.touches (m : Msg) (line : Nat) : Bool :=
  match m.op with
  | .probe => false
  | .erase => m.pa ≤ line && line < m.pa + 4096
  | _ => lineOf m.pa == line

/-- Earlier arrivals stand in a bank's FIFO before an access to a line that arrives now (R125). -/
def State.fifoAhead (s : State) (line : Nat) : Bool :=
  let b := bankOf line
  (s.nextOf b [] [] s.inbox).isSome || s.inbox.any (fun m => m.bank == b && m.touches line)

/-- An access that the hardware makes now for a thread on a core, an engine's line or a read at issue, finds an earlier one ahead: on its path,
which it shares with every access of its core to the line, or to one bank of the core's own scratchpad; in the bank's FIFO; or its own in the
line's queue (R124, R125, R262, R349). -/
def State.pathBusy (s : State) (core : Nat) (who : Ident) (line : Nat) : Bool :=
  let b := bankOf line
  let q := s.lineQ line
  s.net.any (fun m => (m.core == core || m.who == who) && (m.touches line || (ownBank b core && m.bank == b))) ||
  s.fifoAhead line || q.queue.any (fun m => m.who == who) || q.aside.any (fun m => m.who == who) ||
  s.rels.any (fun r => r.msg.who == who && lineOf r.msg.pa == line)

/-- Such an access may not be performed yet: something is ahead of it, another party holds its line, or an earlier atomic waits for the line's
grant (R125). -/
def State.lineAhead (s : State) (core : Nat) (who : Ident) (line : Nat) : Bool :=
  s.pathBusy core who line ||
  (match (s.lineQ line).holder with | some h => h.who != who || !h.rsv | none => !(s.lineQ line).queue.isEmpty)

/-- An access to the lines of n bytes at a key is ahead of what the hardware does there for the thread (R124, R158). -/
def State.ownBusy (s : State) (t : Thread) (k n : Nat) : Bool :=
  let core := ((s.placeOf? t.id).map (·.1)).getD s.cur.core
  (List.range ((lineOf (k + n - 1) - lineOf k) / 64 + 1)).any (fun i => s.pathBusy core t.id (lineOf k + 64 * i))

/-- A read of storage that the hardware makes for an instruction of the thread: corrected, with its records, or the end of the context
(R319, R320, R322). -/
def State.checked (s : State) (t : Thread) (k n : Nat) : Except (StopKind × State) State :=
  if s.sound k n then .ok (s.correctNoted k n)
  else stop (s.audit k n t.part t.id.ctx.toNat (s.logOf s.cur.core) s.cur.slot.val) .asIs

/-! ## The drain (R129 to R131) -/

/-- The place of the remote-package bit (R121): it stands for every bank of another module. -/
def podBank : Bank := .slice 64 0 0

/-- The mask bit of a bank (R121, R127). -/
def maskBank (b : Bank) : Bank :=
  match b with
  | .slice m _ _ => if m = Config.pkg then b else podBank
  | .sp m _ _ => if m = Config.pkg then b else podBank

/-- A bank lies in the extent of a scope for a core: its own scratchpad banks always, then the slices of its die, then
every slice, then other packages (Table 6-3). The scratchpad of another core, which only a reduction reaches, lies with the slices of its
die. (DEDUCED, log 34) -/
def inExtent (core : Nat) (sc : Scope) (b : Bank) : Bool :=
  match maskBank b with
  | .sp _ c _ =>
    c == core || (match sc with
      | .ln | .co | .qd => false
      | .di => coreDie c == coreDie core
      | .pk | .pd => true)
  | .slice m d _ =>
    if m != Config.pkg then sc == .pd
    else
      match sc with
      | .ln | .co | .qd => false
      | .di => d == coreDie core
      | .pk | .pd => true

/-- Nothing of the thread is outstanding in the extent: no relaxed access unacknowledged, no bit set, no probe out, no
relaxed load unfilled (R129). -/
def Thread.drained (t : Thread) (core : Nat) (sc : Scope) : Bool :=
  !(t.rlx.any (fun e => inExtent core sc e.bank)) && !(t.mask.any (inExtent core sc)) &&
  !(t.probes.any (fun p => inExtent core sc p.2)) && !(t.rlxLoads.any (fun l => inExtent core sc l.2))

/-- The code of a scope (Table 1-3). -/
def scopeCode : Scope → Nat
  | .ln => 0
  | .co => 1
  | .qd => 2
  | .di => 3
  | .pk => 4
  | .pd => 5

/-- A probe message (R129). -/
def probeMsg (t : Thread) (core : Nat) (slot : Fin 8) (tag : Nat) (b : Bank) : Msg :=
  { tag := tag, who := t.id, part := t.part, core := core, slot := slot, opc := 0, pc := 0, next := 0, off := 0, va := 0, pa := 0, bytes := 0
    acc := .load, need := ⟨false, false, false⟩, cls := 0, bank := b, op := .probe, rlx := false, unchk := false, stuck := false
    dst := .none, undo := none, gran := none }

/-- Send a probe to every bank of the extent whose bit is set and that has none, once every relaxed access to it is
acknowledged and the thread's ordinary access has completed; it enters the bank's FIFO behind everything there (R129). -/
def State.sendProbes (s : State) (t : Thread) (core : Nat) (slot : Fin 8) (sc : Scope) : State :=
  if t.oar.isSome || t.rlx.any (fun e => inExtent core sc e.bank) then s
  else
    let bs := t.mask.filter (fun b => inExtent core sc b && !(t.probes.any (fun p => p.2 == b)))
    if bs.isEmpty then s
    else
      let ps := (List.range bs.length).zip bs |>.map (fun (i, b) => (s.nextTag + i, b))
      let s1 := s.note (.core core) 0x09 (paySlot slot + scopeCode sc * 2 ^ 32 + bs.length)
      { (s1.modWho t.id (fun t => { t with probes := t.probes ++ ps })) with
        inbox := s1.inbox ++ ps.map (fun p => probeMsg t core slot p.1 p.2)
        nextTag := s.nextTag + bs.length }

/-- Hold the issuing thread until the extent is drained: stop with the probes sent, or go on (R129). -/
def State.drainOr (s : State) (t : Thread) (sc : Scope) : Except (StopKind × State) Unit :=
  if t.drained s.cur.core sc && t.oar.isNone then .ok ()
  else stop (s.sendProbes t s.cur.core s.cur.slot sc) (.park .issue)

/-- The same for an instruction that leaves one record of its drain (type 0x09): where it has sent no probe, of a drain with none. (DEDUCED,
log 29) -/
def State.beginDrain (s : State) (t : Thread) (sc : Scope) : Except (StopKind × State) State :=
  if t.drained s.cur.core sc && t.oar.isNone then
    .ok (if t.carried.any (fun c => c.1 == 13) then s.modMe (fun t => { t with carried := none })
      else s.note (.core s.cur.core) 0x09 (paySlot s.cur.slot + scopeCode sc * 2 ^ 32))
  else
    let s1 := s.sendProbes t s.cur.core s.cur.slot sc
    stop (if s1.nextTag = s.nextTag then s1 else s1.modMe (fun t => { t with carried := some (13, 0) })) (.park .issue)

/-- A completion signal of the hardware is a release at `.pk` on behalf of a party: while that thread has work of the extent outstanding the
signal waits, and the probes for it are sent (R136). -/
def State.signalWait (s : State) (who : Ident) : Option State :=
  match s.placeOf? who with
  | none => none
  | some (c, i) =>
    match s.threadAt c i with
    | none => none
    | some t => if t.drained c .pk then none else some (s.sendProbes t c i .pk)

/-! ## Segments -/

/-- A segment descriptor of 16 bytes (R271). -/
def segOfNat (d : Nat) : Seg :=
  ⟨BitVec.ofNat 48 d, BitVec.ofNat 40 (d / 2 ^ 48), d.testBit 88, d.testBit 89, d.testBit 90⟩

/-- The descriptor of a segment. -/
def Seg.toNat (g : Seg) : Nat :=
  g.base.toNat + g.limit.toNat * 2 ^ 48 + g.r.toNat * 2 ^ 88 + g.w.toNat * 2 ^ 89 + g.a.toNat * 2 ^ 90

/-- Where a context's segment set lies, user or supervisor: SSEG lies 128 bytes above (R271). -/
def State.segBase (s : State) (part ctx : Nat) (sup : Bool) : Nat := bits (s.centry part ctx) 47 0 + (if sup then 128 else 0)

/-- The segment set of a context, user or supervisor (R49, R267, R271). A descriptor whose slice refuses the partition R is not read,
and grants nothing (R273). (DEDUCED, log 87) -/
def State.segSet (s : State) (part ctx : Nat) (sup : Bool) : Vector Seg 8 :=
  let base := s.segBase part ctx sup
  Vector.ofFn (fun i : Fin 8 =>
    let a := base + 16 * i.val
    segOfNat (if s.grants (bankOf a) part 1 then s.goodNat a 16 else 0))

/-- What the reading of a segment set leaves behind: `ACCESS` in the event ring for a slice that refused it, and what the reading of its
words finds (R270, R273, R319). -/
def State.segAudit (s : State) (part ctx : Nat) (sup : Bool) : State :=
  let base := s.segBase part ctx sup
  match allSlots.find? (fun i => !s.grants (bankOf (base + 16 * i.val)) part 1) with
  | some i => s.postEvent part cACCESS ctx 0 0 (base + 16 * i.val)
  | none => s.audit base 128 part ctx 0 0

/-- The memory key of a thread's segment save block entry, in its home core's scratchpad (R50). -/
def State.segSlot (s : State) (t : Thread) (k : Nat) : Nat :=
  spKey Config.pkg (s.homeOf t) ((t.wsb.toNat + 2 ^ 64 - 128 + 16 * k) % 2 ^ 64)

/-- Write every dirty segment to the save block (R50, R267). -/
def State.saveSegs (s : State) (t : Thread) : State :=
  allSlots.foldl (fun s k => if t.dirty.getLsbD k.val then s.homeWrite (s.segSlot t k.val) (leBytes 16 (t.segs[k]).toNat) else s) s

/-- The segments of a mode as a core takes them: dirty ones from the save block, clean ones from the context's set (R50). -/
def State.segsOf (s : State) (t : Thread) (sup : Bool) : Vector Seg 8 :=
  let set := s.segSet t.part t.id.ctx.toNat sup
  let dirty := if sup then t.supDirty else t.dirty
  Vector.ofFn (fun k : Fin 8 => if dirty.getLsbD k.val then segOfNat (s.goodNat (s.segSlot t k.val) 16) else set[k])

/-- User segments as a core takes them (R50). -/
def State.userSegs (s : State) (t : Thread) : Vector Seg 8 := s.segsOf t false

/-- What the reading of a thread's segments of a mode leaves behind (R50, R319). -/
def State.segsOfAudit (s : State) (t : Thread) (sup : Bool) : State :=
  let s1 := s.segAudit t.part t.id.ctx.toNat sup
  if (if sup then t.supDirty else t.dirty) = 0 then s1 else s1.audit (s.segSlot t 0) 128 t.part t.id.ctx.toNat t.id.hcore.toNat t.id.hslot.val

/-! ## Traps -/

/-- The Report Card fault of a killed context, then the kill (R268, R269, R337). -/
def State.killFault (s : State) (t : Thread) (c : Nat) (cause : BitVec 8) (val pc : Word) : State :=
  (s.fatal (some t.id.ctx.toNat) cause val pc (.core c) (some t.id)).killCtx t.part t.id.ctx.toNat

/-- Delivery of a supervisor cause to the thread in a slot: from user mode the saved registers, the mode, the supervisor
segments and the handler; from supervisor mode, or where `sh` fails its checks, the context is killed; a spark is
abandoned (R268, R269, R117). An `sh` that fails its parity check is consumed (R320). -/
def State.supTrapAt (s : State) (c : Nat) (i : Fin 8) (cause : BitVec 8) (sval spc : Word) (hdlr : Bool) : State :=
  match s.threadAt c i with
  | none => s
  | some t =>
    match t.kind with
    | .spark _ => s.abandon t
    | _ =>
      if t.mode then s.killFault t c cause sval spc
      else if t.badCsr.contains 0x804 then s.consume c
      else if !(s.handlerOk c t.sh) then s.killFault t c cause sval spc
      else
        let s1 := (s.saveSegs t).note (.core c) 0x02 (paySlot i + cause.toNat * 2 ^ 28 + payPc spc)
        let segs := s1.segSet t.part t.id.ctx.toNat true
        (s1.modAt c i (fun t =>
          { t with spc := spc, scause := cause.setWidth 64, sval := sval, pmode := false, mode := true, hdlr := hdlr
                   segs := segs, supDirty := 0, pc := t.sh, status := .ready, carried := none })).segAudit t.part t.id.ctx.toNat true

/-- Delivery of a user trap to the thread in a slot: `xcause`, `xval`, `xpc` and the handler at `xh`, or `ovh` for
`OVERLAY`; a handler that fails its checks gives supervisor cause `PRIV`; in supervisor mode the context is killed; a
spark is abandoned (R84, R286, R269, R117). A handler register that fails its parity check is consumed (R320). -/
def State.userTrapAt (s : State) (c : Nat) (i : Fin 8) (cause : BitVec 8) (xval xpc : Word) : State :=
  match s.threadAt c i with
  | none => s
  | some t =>
    match t.kind with
    | .spark _ => s.abandon t
    | _ =>
      if t.mode then s.killFault t c cause xval xpc
      else if t.badCsr.contains (if cause = cOVERLAY then 0x014 else 0x013) then s.consume c
      else
        let s1 := (s.modAt c i (fun t => { t with xcause := cause.setWidth 64, xval := xval, xpc := xpc })).note
          (.core c) 0x02 (paySlot i + cause.toNat * 2 ^ 28 + payPc xpc)
        let h := if cause = cOVERLAY then t.ovh else t.xh
        if s.handlerOk c h then s1.modAt c i (fun t => { t with pc := h, status := .ready, carried := none })
        else s1.supTrapAt c i cPRIV h xpc true

/-- A user trap of the issuing thread. -/
def State.userTrap (s : State) (cause : BitVec 8) (xval xpc : Word) : State :=
  s.userTrapAt s.cur.core s.cur.slot cause xval xpc

/-- A supervisor cause of the issuing thread. -/
def State.supTrap (s : State) (cause : BitVec 8) (sval spc : Word) : State :=
  s.supTrapAt s.cur.core s.cur.slot cause sval spc false

/-- What the reading of a thread's user segments leaves behind. -/
def State.userSegAudit (s : State) (t : Thread) : State := s.segsOfAudit t false

/-- Return from a user trap: PC := `xpc`; after a tag mismatch `itag` takes the thread's image tag. A failing target is
reported at the target, the `XRET` having completed (R84, R165, Table 7-5). -/
def State.userReturn (s : State) (t : Thread) : State :=
  let s1 := if t.xcause = 6 && t.xval.getLsbD 63
    then (s.modCore s.cur.core (fun k => { k with itag := t.xval.setWidth 16 })) else s
  match s1.checkTarget s.cur.core t.xpc with
  | none => (s1.noteJump t.pc t.xpc).goto t.xpc
  | some (c, v) => ((s1.noteJump t.pc t.xpc).goto t.xpc).userTrap c v t.xpc

/-- Return from a supervisor cause: PC := `spc`, MODE := PMODE, and the segments of the mode returned to (R267, R276). -/
def State.supReturn (s : State) (t : Thread) : State :=
  let s1 := (s.noteJump t.pc t.spc).modMe (fun u =>
    { u with pc := t.spc, mode := t.pmode, status := .ready
             segs := if t.pmode then u.segs else s.userSegs t })
  if t.pmode then s1 else s1.userSegAudit t

/-! ## A thread as it starts -/

/-- Eight FULL registers holding 0: a fresh window (R46). -/
def freshWin : Vector RegCell 8 := Vector.replicate 8 (.of 0)

/-- A thread with the state of Table 1-5, before the values its launch, descriptor or claimant give it (R19, R266). -/
def Thread.fresh (id : Ident) (part : Nat) (kind : Kind) (prio : Nat) (tag : BitVec 16) (pc : Word) (sup : Bool)
    (segs : Vector Seg 8) (wsb wsl : Word) (xh ovh sh : Word) : Thread :=
  { id := id, part := part, kind := kind, prio := prio, status := .ready, tag := tag, pc := pc, pw := 1, predPend := []
    g := freshWin, win := freshWin, a := freshWin, resident := [], segs := segs, dirty := 0, supDirty := 0
    rnd := 0, vl := 16, sst := 0, pcb := 0, cds := 0, fmtp := 0, sclp := 0, sbud := 0
    xcause := 0, xval := 0, xpc := 0, xh := xh, ovh := ovh, wsb := wsb, wsl := wsl, wsp := wsb
    mode := sup, pmode := sup, hdlr := false, scause := 0, sval := 0, spc := 0, sh := sh, sscr := 0
    visible := false, oar := none, rlx := [], rlxLoads := [], mask := [], probes := []
    rsv := none, engOps := [], markers := [], walk := none, holds := [], held := [], parkedAt := 0
    carried := none, replay := none, refused := [], emptied := none, spare := false, pending := none, lead := false, rolled := 0, drew := []
    badPw := false, badCsr := [] }

/-- The thread a unit of a context starts as in a slot of a core: Table 1-5 with the context's handlers, segment set and
mode (R19, R23, R25, R266, R271). -/
def State.startThread (s : State) (c : Nat) (i : Fin 8) (part : Nat) (ctx : BitVec 12) (kind : Kind) (prio : Nat)
    (pc : Word) : Thread :=
  let e := s.centry part ctx.toNat
  let sl := s.slot c i
  let sup := entSupv e
  Thread.fresh ⟨ctx, BitVec.ofNat 12 (s.logOf c), i, sl.inc⟩ part kind prio (s.core c).itag pc sup
    (s.segSet part ctx.toNat sup) sl.wsb sl.wsl (w64 (bits e 239 192)) (w64 (bits e 303 256)) (w64 (bits e 367 320))

/-- The next incarnation of a slot, past every value that a thread homed there still holds, SAVED or elsewhere (R16). -/
def State.nextInc (s : State) (c : Nat) (i : Fin 8) : BitVec 16 :=
  let all := s.cores.flatMap (fun (_, k) => k.threads.map (·.2) ++ k.saved.map (·.t) ++ k.migBuf.map (·.1)) ++ s.migs.map (·.t)
  let used := all.filterMap (fun (t : Thread) => if t.id.hcore.toNat == s.logOf c && t.id.hslot == i then some t.id.inc else none)
  let go := fun (n : Nat) (x : BitVec 16) => (List.range n).foldl (fun x _ => if used.contains x then x + 1 else x) x
  go (used.length + 1) ((s.slot c i).inc + 1)

/-- Place a new unit in a slot: the slot's incarnation count advances and the thread takes it (R16). -/
def State.place (s : State) (c : Nat) (i : Fin 8) (mk : State → Thread) : State :=
  let n := s.nextInc c i
  let s1 := s.modSlot c i (fun sl => { sl with inc := n })
  let t := mk s1
  ((s1.setOcc c i (.thread t)).modCore c (fun k => { k with lastCtx := some (t.part, t.id.ctx.toNat) })).segAudit
    t.part t.id.ctx.toNat t.mode

/-- The record's threads run in strict mode (R18, R42). -/
def LRec.strict (r : LRec) : Bool := r.mode || r.redun

/-- A slot holds, or is reserved by, a thread of a strict launch (R42). -/
def State.strictOcc (s : State) : Occ → Bool
  | .thread t => match t.kind with | .launch _ _ b => b | _ => false
  | .away _ _ _ b => b
  | .launch p q => s.launches.any (fun l => l.part == p && l.seq.toNat == q && l.r.strict)
  | .marker _ => true
  | .free => false

/-- A launch with the redundancy flag that has dispatched and not ended has this core in its rectangle (R18). -/
def State.redunOn (s : State) (c : Nat) : Bool :=
  s.launches.any (fun l => l.r.redun && l.dispatched && (match s.logOf? c with
    | none => false
    | some x => l.r.die0.toNat ≤ x / 496 && x / 496 ≤ l.r.die1.toNat && l.r.lix0.toNat ≤ x % 496 && x % 496 ≤ l.r.lix1.toNat))

/-- The core is to be in strict mode: R42's condition on its slots, and R18's, which keeps every core of a redundant launch's rectangle
strict until the launch ends. (DEDUCED, log 85) -/
def State.wantStrict (s : State) (c : Nat) : Bool :=
  allSlots.any (fun i => s.strictOcc (s.slot c i).occ) || s.redunOn c

/-- The thread that a load from outside places in the current slot where none stands: context 0 of partition 0, READY at
head 1 of the line at offset 0 (DEDUCED, log 6). -/
def State.loadThread (s : State) : State :=
  match s.me with
  | some _ => s
  | none => s.place s.cur.core s.cur.slot (fun s => s.startThread s.cur.core s.cur.slot 0 0 (.launch 0 0 false) 0 2)

/-- The bytes of the line that holds one head with its tail and nothing else. -/
def fetchBytes (w : Nat) : List Byte := (oneHeadLine (w % 65536) (w / 65536 % 281474976710656)).bytes

/-- A line with this word as its only head lies at the line of the current thread's PC, below `xb`; the thread is a READY one of a
launch at that head, and its slot has the next turn of its core (DEDUCED, log 6). -/
def State.loadWord (s : State) (w : Nat) : State :=
  let s1 := s.loadThread
  let base := match s1.me with | some t => pcBase t.pc | none => 0
  let c := s1.cur.core
  let key := spKey Config.pkg c base.toNat
  let s2 := { s1 with mem := Memory.writes s1.mem key (fetchBytes w)
                      synd := s1.synd.filter (fun x => lineOf x.1 != lineOf key), lost := s1.lost.filter (fun x => x.2 != lineOf key) }
  let i := s1.cur.slot
  let now := s.time.toNat
  let s3 := s2.modCore c (fun k =>
    { k with xb := if k.xb ≤ base + 63 then base + 64 else k.xb, stopped := false, scan := none
             lastSlot := i - 1, issuedAt := none, bubbleAt := none, strictBase := now + 8 - i.val
             qWritten := Vector.replicate 4 none, nfWritten := k.nfWritten.set i none, marks := [] })
  let s4 := (s3.modSlot c i (fun sl => { sl with lastIssue := none, yieldSet := none, shutAt := none })).modMe
    (fun t => { t with pc := base + 2, status := .ready, replay := none, pending := none, lead := false, badCsr := []
                       kind := match t.kind with | .launch a b d => .launch a b d | _ => .launch 0 0 false })
  let s5 := s4.modCore c (fun k => { k with strict := s4.wantStrict c })
  { s5 with agenda := .issue c i :: s5.agenda }

/-! ## Departure -/

/-- The thread leaves for another logical core: its current window and shadow set travel, older windows stay at home, its
home slot stays reserved (R16, R27, R28, R48). -/
def State.depart (s : State) (t : Thread) (dest : Nat) : State :=
  let home := s.cur.core == s.homeOf t && s.cur.slot == t.id.hslot
  let strict := match t.kind with | .launch _ _ b => b | _ => false
  let s1 := ((s.setOcc s.cur.core s.cur.slot (if home then .away t.id t.prio t.part strict else .free)).modSlot
    s.cur.core s.cur.slot (fun sl => { sl with left := some t.id })).noteCtx s.cur.core s.cur.slot 0x03 (dest * 2 ^ 20) t.id.ctx
  { s1 with migs := s1.migs ++ [⟨s.nextTag, { t with status := .ready }, dest, s.cur.core⟩], nextTag := s.nextTag + 1 }

/-- Something that leaves the core with the thread fails its parity check (R320, R321). -/
def Thread.unsound (t : Thread) : Bool :=
  t.badPw || !t.badCsr.isEmpty || t.g.any (·.bad) || t.win.any (·.bad) || t.a.any (·.bad) || t.resident.any (fun r => r.win.any (·.bad))

/-- The thread must run its instruction on another logical core: it drains at `.pd`, then leaves (R80, R131). A spark
never migrates and is abandoned (R117). A core of another partition is no place for it, and its going there is refused as a target refuses
it; the spec gives no cause (R272). (DESIGN CHOICE, log 97) -/
def State.leaveFor (s : State) (dest : Nat) : State :=
  match s.me with
  | none => s
  | some t =>
    match t.kind with
    | .spark _ => s.abandon t
    | _ =>
      -- a destination behind a fence or under test holds the thread at the sender (R80, R329, R353)
      if s.partOf (s.physOf dest) != t.part then s.supTrap cACCESS (w64 dest) t.pc
      else if s.fenced (s.physOf dest) || (s.core (s.physOf dest)).scan.isSome then s.park .issue
      else match s.drainOr t .pd with
      | .ok _ => if t.unsound then s.consume s.cur.core else s.depart t dest
      | .error (_, s1) => s1.park .issue

/-! ## From an effect to an outcome -/

/-- What a stopped instruction leaves. -/
def State.stopped (s : State) : StopKind → Host.Outcome State Fault Refusal
  | .park w => .next (s.park w)
  | .trap c v => .next (match s.me with | some t => s.userTrap c v t.pc | none => s)
  | .trapAt c v pc => .next (s.userTrap c v pc)
  | .sup c v => .next (match s.me with | some t => s.supTrap c v t.pc | none => s)
  | .migrate d => .next (s.leaveFor d)
  | .consume => .next (s.consume s.cur.core)
  | .asIs => .next s

/-- The outcome of an effect. -/
def Eff.done : Eff → Host.Outcome State Fault Refusal
  | .ok s => .next s
  | .error (k, s) => s.stopped k

/-- The issuing thread performs a visible side effect of R24: a spark is abandoned instead (R24, R117). -/
def State.sideEffect (s : State) (t : Thread) : Except (StopKind × State) State :=
  match t.kind with
  | .spark _ => stop (s.abandon t) .asIs
  | _ => .ok (s.modMe (fun t => { t with visible := true }))

/-- A visible side effect of the issuing thread has been performed (R24). -/
def State.shown (s : State) : State := s.modMe (fun t => { t with visible := true })

/-- An instruction that a spark may not issue although it is no side effect: `NEXT`, `RANGE`, `BAR`, `MIG`, `HOME`;
or one whose side effect is performed only once its last check has passed (R117). -/
def State.noSpark (s : State) (t : Thread) : Except (StopKind × State) Unit :=
  match t.kind with
  | .spark _ => stop (s.abandon t) .asIs
  | _ => .ok ()

/-- A privileged instruction in user mode traps `PRIV` with its encoding (R148, R149). -/
def State.privileged (s : State) (t : Thread) : Except (StopKind × State) Unit :=
  if t.mode then .ok () else stop s (.sup cPRIV (s.encHere t))

end Sys2Proof.Machine
end

