-- ==== Sys2Proof/Machine/Flags.lean ====
section
/-! DEFINITION. The sticky flags of `sst` (R52, R61) and the integer results with the flags they raise (R56 to R58, R166). -/

namespace Sys2Proof.Machine

/-- Flag bits of `sst` (Table 2-5). -/
def fNV : BitVec 9 := 1
def fDZ : BitVec 9 := 2
def fOF : BitVec 9 := 4
def fUF : BitVec 9 := 8
def fNX : BitVec 9 := 16
def fSAT : BitVec 9 := 32
def fPCSAT : BitVec 9 := 64
def fSCOPEMISS : BitVec 9 := 128
def fCCWR : BitVec 9 := 256

/-- A flag when a condition holds. -/
def flagIf (b : Bool) (f : BitVec 9) : BitVec 9 := if b then f else 0

/-- OR flags into the issuing thread's `sst`. -/
def State.orFlags (s : State) (f : BitVec 9) : State := s.modMe (fun t => t.orSst f)

/-- The low 32 bits, sign-extended: every 32-bit form's result (R166). -/
def sext32 (v : BitVec 32) : Word := v.signExtend 64

/-- A register operation in its 64-bit or its 32-bit form (R166). -/
def form2 (w : Bool) (f : Word → Word → Word) (g : BitVec 32 → BitVec 32 → BitVec 32) (x y : Word) : Word :=
  if w then sext32 (g (x.setWidth 32) (y.setWidth 32)) else f x y

/-- A one-source operation in its 64-bit or its 32-bit form. -/
def form1 (w : Bool) (f : Word → Word) (g : BitVec 32 → BitVec 32) (x : Word) : Word :=
  if w then sext32 (g (x.setWidth 32)) else f x

/-- Left shift by the low bits of y: 6 for 64-bit words, 5 for 32-bit words (R56). -/
def shlBy {n : Nat} (x y : BitVec n) : BitVec n := x <<< (y.toNat % n)
/-- Logical right shift (R56). -/
def shrBy {n : Nat} (x y : BitVec n) : BitVec n := x >>> (y.toNat % n)
/-- Arithmetic right shift (R56). -/
def sraBy {n : Nat} (x y : BitVec n) : BitVec n := x.sshiftRight (y.toNat % n)
/-- Rotation to the left (R166). -/
def rotlBy {n : Nat} (x y : BitVec n) : BitVec n := x.rotateLeft (y.toNat % n)

/-- The high half of the signed product (R56). -/
def mulhS {n : Nat} (x y : BitVec n) : BitVec n := BitVec.ofInt n (x.toInt * y.toInt / 2 ^ n)
/-- The high half of the unsigned product (R56). -/
def mulhU {n : Nat} (x y : BitVec n) : BitVec n := BitVec.ofNat n (x.toNat * y.toNat / 2 ^ n)

/-- Signed quotient, truncated; divisor 0 gives all-ones, overflow gives the dividend (R57, Table 3-1). -/
def divS {n : Nat} (x y : BitVec n) : BitVec n :=
  if y = 0 then BitVec.allOnes n else BitVec.ofInt n (x.toInt.tdiv y.toInt)
/-- Unsigned quotient (R57). -/
def divU {n : Nat} (x y : BitVec n) : BitVec n := if y = 0 then BitVec.allOnes n else BitVec.ofNat n (x.toNat / y.toNat)
/-- Signed remainder with the dividend's sign; divisor 0 gives the dividend (R57). -/
def remS {n : Nat} (x y : BitVec n) : BitVec n := if y = 0 then x else BitVec.ofInt n (x.toInt.tmod y.toInt)
/-- Unsigned remainder (R57). -/
def remU {n : Nat} (x y : BitVec n) : BitVec n := if y = 0 then x else BitVec.ofNat n (x.toNat % y.toNat)

/-- Minima and maxima (R166). -/
def minS {n : Nat} (x y : BitVec n) : BitVec n := if x.toInt ≤ y.toInt then x else y
def maxS {n : Nat} (x y : BitVec n) : BitVec n := if y.toInt ≤ x.toInt then x else y
def minU {n : Nat} (x y : BitVec n) : BitVec n := if x.toNat ≤ y.toNat then x else y
def maxU {n : Nat} (x y : BitVec n) : BitVec n := if y.toNat ≤ x.toNat then x else y

/-- sat(x, n): the clamp to the signed range (R58). -/
def satI (x : Int) (n : Nat) : Int :=
  if x < -(2 ^ (n - 1) : Int) then -(2 ^ (n - 1) : Int) else if (2 ^ (n - 1) : Int) - 1 < x then (2 ^ (n - 1) : Int) - 1 else x

/-- satu(x, n): the clamp to the unsigned range (R58). -/
def satuI (x : Int) (n : Nat) : Int := if x < 0 then 0 else if (2 ^ n : Int) - 1 < x then (2 ^ n : Int) - 1 else x

/-- Leading zeros: of k bits, counted from bit k - 1 down. -/
def clzAux {n : Nat} (x : BitVec n) : Nat → Nat
  | 0 => 0
  | k + 1 => if x.getLsbD k then 0 else clzAux x k + 1

/-- Leading zeros, n for 0 (R166). -/
def clz {n : Nat} (x : BitVec n) : BitVec n := BitVec.ofNat n (clzAux x n)

/-- Trailing zeros of the k bits from bit i up. -/
def ctzAux {n : Nat} (x : BitVec n) (i : Nat) : Nat → Nat
  | 0 => 0
  | k + 1 => if x.getLsbD i then 0 else ctzAux x (i + 1) k + 1

/-- Trailing zeros, n for 0 (R166). -/
def ctz {n : Nat} (x : BitVec n) : BitVec n := BitVec.ofNat n (ctzAux x 0 n)

/-- One bits of the low k bits. -/
def popAux {n : Nat} (x : BitVec n) : Nat → Nat
  | 0 => 0
  | k + 1 => (if x.getLsbD k then 1 else 0) + popAux x k

/-- Number of one bits (R166). -/
def popc {n : Nat} (x : BitVec n) : BitVec n := BitVec.ofNat n (popAux x n)

/-- Sign extension from the bit count in y, or x for a count of 0 (R166). -/
def sextBy {w : Nat} (x y : BitVec w) : BitVec w :=
  let n := y.toNat % w
  if n = 0 then x else (x.setWidth n).signExtend w

/-- Zero extension from the bit count in y, or x for a count of 0 (R166). -/
def zextBy {w : Nat} (x y : BitVec w) : BitVec w :=
  let n := y.toNat % w
  if n = 0 then x else (x.setWidth n).setWidth w

/-- Bytes in reverse order (R166). -/
def bswapN {w : Nat} (x : BitVec w) : BitVec w := BitVec.ofNat w (leNat (leBytes (w / 8) x.toNat).reverse)

/-- A saturating sum or difference in either form, with SAT when it clamps (R58, R166). -/
def satOp (w : Bool) (f : Int → Int → Int) (x y : Word) : Word × BitVec 9 :=
  let n := if w then 32 else 64
  let e := if w then f (x.setWidth 32).toInt (y.setWidth 32).toInt else f x.toInt y.toInt
  let r := satI e n
  (BitVec.ofInt 64 r, flagIf (r != e) fSAT)

end Sys2Proof.Machine
end

