-- ==== Sys2Proof/Machine/Control.lean ====
section
/-! DEFINITION. Control: branches, jumps, calls, returns, halting, yielding and traps (R157 to R165, R46 to R48). -/

namespace Sys2Proof.Machine

/-- Transfer to T: a failed check traps at the instruction with no effect, otherwise PC := T (R146, R156). -/
def State.transfer (s : State) (t : Word) : Eff :=
  match s.checkTarget s.cur.core t with
  | some (c, v) => stop s (.trap c v)
  | none => return (s.noteJump ((s.me.map (·.pc)).getD 0) t).goto t

/-- A conditional branch (R157). -/
def branch (p : BitVec 5) (b : BTarget) (want : Bool) (s : State) : Eff := do
  let t ← s.ready [] [] [p]
  if t.p p == want then s.transfer (targetAt b t.pc) else return s.advance t

/-- `NOP`: occupies an issue turn (R161). -/
def execNop (s : State) : Host.Outcome State Fault Refusal :=
  Eff.done do
    let t ← s.ready [] [] []
    return s.advance t

/-- `YIELD`: in shared mode the slot waits until every other slot eligible meanwhile has issued, or 8 cycles; the slots that have issued
since, and those that have been eligible, are kept (R163). -/
def execYield (s : State) : Host.Outcome State Fault Refusal :=
  Eff.done do
    let t ← s.ready [] [] []
    let s1 := if s.myCore.strict then s
      else s.modSlot s.cur.core s.cur.slot (fun sl => { sl with yieldSet := some ([], s.time.toNat), yieldSeen := [] })
    return s1.advance t

/-- `BR`: taken when the predicate is 1 (R157). -/
def execBr (p : BitVec 5) (b : BTarget) (s : State) : Host.Outcome State Fault Refusal := (branch p b true s).done

/-- `BRN`: taken when the predicate is 0 (R157). -/
def execBrn (p : BitVec 5) (b : BTarget) (s : State) : Host.Outcome State Fault Refusal := (branch p b false s).done

/-- `JMP`: a popped source stays popped when the check traps (R157). -/
def execJmp (x : Operand) (s : State) : Host.Outcome State Fault Refusal :=
  Eff.done do
    let t ← s.ready [x] [] []
    let (v, s1) := s.read1 t x
    s1.transfer v

/-- `LOOP`: counts down and branches unless the count reached 0; a failed check leaves the register (R157). -/
def execLoop (r : Fin 16) (b : BTarget) (s : State) : Host.Outcome State Fault Refusal :=
  Eff.done do
    let t ← s.ready [.g r] [.g r] []
    let v := t.gv r - 1
    if v = 0 then return (s.write (.g r) v).advance t
    else
      match s.checkTarget s.cur.core (targetAt b t.pc) with
      | some (c, x) => stop s (.trap c x)
      | none => return ((s.write (.g r) v).noteJump t.pc (targetAt b t.pc)).goto (targetAt b t.pc)

/-! ## Windows -/

/-- The bytes of a window in its spill slot (Table 2-3). -/
def winBytes (w : Vector RegCell 8) : List Byte :=
  (w.toList.map (fun c => leBytes 8 c.val.toNat)).flatten ++
  [BitVec.ofNat 8 ((List.range 8).map (fun i => if ((w.toList.getD i (.of 0)).full) then 2 ^ i else 0)).sum] ++
  List.replicate 15 0

/-- The window that 80 bytes of a spill slot hold (Table 2-3). -/
def winOfBytes (b : List Byte) : Vector RegCell 8 :=
  Vector.ofFn (fun i : Fin 8 =>
    ⟨w64 (leNat ((b.drop (8 * i.val)).take 8)), (b.getD 64 0).getLsbD i.val, none, false⟩)

/-- The key of an offset of a thread's window stack, in its home core's scratchpad (R47, R158). -/
def State.stackKey (s : State) (t : Thread) (off : Nat) : Nat := spKey Config.pkg (s.homeOf t) (off % 2 ^ 19)

/-- Windows resident with the current one: a slot keeps up to four (R46). -/
def Thread.residentCount (t : Thread) : Nat := t.resident.length + 1

/-- Some register of a window awaits a fill (R35). -/
def winPending (w : Vector RegCell 8) : Bool := w.toList.any (fun c => c.pend.isSome)

/-- `CALL` and `CALLR` to T: the target and `WINDOW` checks, the waits of R46, the return PC in the call record, and a
fresh window. Off the home core the caller's window is first written to its spill slot there (R159). The writes come after every earlier
access of the thread to those lines; a register that fails its parity check is consumed there (R321). `s` is the state before the source of `CALLR` was read, and `base` the state after. (DEDUCED, log 19) -/
def State.callTo (s base : State) (t : Thread) (target : Word) : Eff :=
  match s.checkTarget s.cur.core target with
  | some (c, v) => stop base (.trap c v)
  | none =>
    if t.wsl.toNat < t.wsp.toNat + 96 then stop base (.sup cWINDOW t.wsp)
    else
      let away := s.cur.core != s.homeOf t
      if (away && winPending t.win) || s.ownBusy t (s.stackKey t t.wsp.toNat) 96 then stop s (.park .issue)
      else if t.residentCount ≥ 4 && !away then stop s (.park .spill)
      else if away && t.win.any (·.bad) then stop s .consume
      else
        let at_ := t.wsp.toNat
        let s1 := if away then base.homeWrite (s.stackKey t at_) (winBytes t.win) else base
        let s2 := (s1.homeWrite (s.stackKey t (at_ + 80)) (leBytes 8 (s.succ t).toNat)).homeWrite
          (s.stackKey t (at_ + 88)) (leBytes 8 0)
        return ((s2.noteJump t.pc target).modMe (fun t =>
          { t with wsp := t.wsp + 96, win := freshWin
                   resident := if away then t.resident else ⟨at_, t.win⟩ :: t.resident })).goto target

/-- `CALL` (R159). -/
def execCall (b : BTarget) (s : State) : Host.Outcome State Fault Refusal :=
  Eff.done do
    let t ← s.ready [] [] []
    s.callTo s t (targetAt b t.pc)

/-- `CALLR`: the source is read, then as `CALL` (R159). -/
def execCallr (x : Operand) (s : State) : Host.Outcome State Fault Refusal :=
  Eff.done do
    let t ← s.ready [x] [] []
    let (v, s1) := s.read1 t x
    s.callTo s1 t v

/-- `RET`: no open record traps; the return PC is read from the record, after every earlier access of the thread to its line, and checked; a
window held on the home core brings the thread home; the caller's window must be resident and the current one filled (R48, R160, R320). -/
def execRet (s : State) : Host.Outcome State Fault Refusal :=
  Eff.done do
    let t ← s.ready [] [] []
    if t.wsp.toNat < t.wsb.toNat + 96 then illegal s t
    let rec_ := s.stackKey t (t.wsp.toNat - 16)
    if s.ownBusy t rec_ 8 then stop s (.park .issue)
    else do
      let s ← s.checked t rec_ 8
      let target := w64 (s.rawNat rec_ 8)
      match s.checkTarget s.cur.core target with
      | some (c, v) => stop s (.trap c v)
      | none =>
        if s.cur.core != s.homeOf t then stop s (.migrate t.id.hcore.toNat)
        else
          let base := t.wsp.toNat - 96
          match t.resident.find? (fun r => r.base == base) with
          | none => stop s (.park .reload)
          | some r =>
            if winPending t.win then stop s (.park .issue)
            else return ((s.noteJump t.pc target).modMe (fun t =>
              { t with win := r.win, wsp := t.wsp - 96, resident := t.resident.filter (fun x => x.base != base) })).goto target

/-! ## Traps and returns -/

/-- `TRAP`: user cause 0x0D with its code and the successor PC (R164). -/
def execTrap (c : BitVec 6) (s : State) : Host.Outcome State Fault Refusal :=
  Eff.done do
    let t ← s.ready [] [] []
    stop s (.trapAt cTRAP (c.setWidth 64) (s.succ t))

/-- `BRK`: user cause 0x0E at its own PC with value 0 (R161). -/
def execBrk (s : State) : Host.Outcome State Fault Refusal :=
  Eff.done do
    let t ← s.ready [] [] []
    stop s (.trapAt cBREAK 0 t.pc)

/-- `XRET` (R165). -/
def execXret (s : State) : Host.Outcome State Fault Refusal :=
  Eff.done do
    let t ← s.ready [] [] []
    return s.userReturn t

/-- `SCALL`: supervisor cause 0x40 with its code and the successor PC; in supervisor mode a trap with cause `ILLEGAL`,
which kills the context (R164, R268, R269). -/
def execScall (c : BitVec 6) (s : State) : Host.Outcome State Fault Refusal :=
  Eff.done do
    let t ← s.ready [] [] []
    if t.mode then illegal s t else return s.supTrap cSCALL (c.setWidth 64) (s.succ t)

/-- An opcode that Table 7-6 leaves unassigned traps `ILLEGAL` in either mode (R148). -/
def execUnassignedOpcode (_opc : BitVec 9) (s : State) : Host.Outcome State Fault Refusal :=
  Eff.done do
    let t ← s.ready [] [] []
    illegal s t

/-- The window that a spill of a thread of a core writes: its oldest, while its home slot keeps four, once no register of it is pending and no
earlier access of the thread to its place is under way (R46, R48). -/
def State.spillable (s : State) (c : Nat) (t : Thread) : Option Resident :=
  if t.residentCount < 4 || c != s.homeOf t then none
  else t.resident.getLast?.filter (fun r => !winPending r.win && !s.ownBusy t (s.stackKey t r.base) 80)

/-- The oldest resident window of the slot is written to its spill slot (R46, R47, R158). -/
def State.spill (s : State) (c : Nat) (i : Fin 8) (t : Thread) (r : Resident) : State :=
  if r.win.any (·.bad) then s.consume c
  else (s.homeWrite (s.stackKey t r.base) (winBytes r.win)).modAt c i (fun t => { t with resident := t.resident.dropLast })

/-- One of the two cycles that a spill takes: a bubble of the core, or one of its issue cycles; the second ends it (R46). -/
def State.spillCycle (s : State) (c : Nat) (i : Fin 8) (issue : Bool) : State :=
  let k := s.core c
  let now := s.time.toNat
  if k.issuedAt = some now || k.bubbleAt = some now || k.stopped then s
  else
    match s.threadAt c i with
    | none => s
    | some t =>
      match s.spillable c t with
      | none => s
      | some r =>
        let s1 := s.modCore c (fun k => { k with bubbleAt := some now, issuedAt := if issue then some now else k.issuedAt })
        match (s.slot c i).spillAt with
        | none => s1.modSlot c i (fun sl => { sl with spillAt := some now })
        | some _ => (s1.spill c i t r).modSlot c i (fun sl => { sl with spillAt := none })

/-- A parked `CALL`, or a `RET` whose reload finds four windows resident, has found no bubble of its core for 32 cycles, so that the spill
takes issue cycles (R46). (DEDUCED, log 19) -/
def State.spillDue (s : State) (c : Nat) (i : Fin 8) : Bool :=
  match s.threadAt c i with
  | some t =>
    (t.status == .parked .spill || t.status == .parked .reload) && (s.spillable c t).isSome &&
    max t.parkedAt ((s.core c).bubbleAt.getD 0) + 32 ≤ s.time.toNat
  | none => false

/-- A core has issued nothing in a cycle: a spill goes on in it, or that of the first slot that needs one begins (R42, R46). (DEDUCED,
log 19) -/
def State.spillBubble (s : State) (c : Nat) : State :=
  let need := allSlots.filter (fun i => (s.threadAt c i).any (fun t => (s.spillable c t).isSome))
  match (need.find? (fun i => (s.slot c i).spillAt.isSome)).or need.head? with
  | some i => s.spillCycle c i false
  | none => s

/-- `WINDOW_SPILL`: a cycle of the spill in a bubble, while four windows are resident (R46). -/
def execWindowSpill (core : Nat) (slot : Fin 8) (s : State) : Host.Outcome State Fault Refusal :=
  .next (s.spillCycle core slot false)

/-- The spill that takes issue cycles because a parked `CALL` has found no bubble for 32 cycles (R46). -/
def execForcedSpill (core : Nat) (slot : Fin 8) (s : State) : Host.Outcome State Fault Refusal :=
  .next (if s.spillDue core slot then s.spillCycle core slot true else s)

/-- The reload of the caller's window that a parked `RET` needs, which takes 4 cycles, and a place among the four (R46, R319, R322). -/
def execWindowReload (core : Nat) (slot : Fin 8) (s : State) : Host.Outcome State Fault Refusal :=
  .next (match s.threadAt core slot with
    | some t =>
      let base := t.wsp.toNat - 96
      let k := s.stackKey t base
      if t.status == .parked .reload && 96 ≤ t.wsp.toNat && t.residentCount < 4 && t.parkedAt + 4 ≤ s.time.toNat && !s.ownBusy t k 80 then
        let s1 := s.audit k 80 t.part t.id.ctx.toNat (s.logOf core) slot.val
        if !s.sound k 80 then s1
        else
          let w := winOfBytes (s1.raw k 80)
          s1.modAt core slot (fun t =>
            if t.resident.any (fun r => r.base == base) then t else { t with resident := ⟨base, w⟩ :: t.resident })
      else s
    | none => s)

end Sys2Proof.Machine
end

