-- ==== Sys2Proof/Machine/Port.lean ====
section
/-! DEFINITION. Device addresses (R49, R77, R78), translation (R307 to R313), the port's checks (Table 9-3), page requests
(R315), the reduction log (R198) and the Hall Pass check (R101). -/

namespace Sys2Proof.Machine

/-! ## Device addresses (Table 4-1) -/

/-- Where a device address lies: in paged global memory, or at an offset of the scratchpad of a physical core. -/
inductive Space where
  | glob
  | sp (m c off : Nat)
deriving DecidableEq, Repr

/-- The physical core of a logical id in a module: the map of another module has no override here. -/
def State.coreIn (s : State) (m l : Nat) : Nat := if m = Config.pkg then s.physOf l else l / 496 * 512 + l % 496

/-- The place of a device address for an access issued on a core, if it has one (R77, R78). (DESIGN CHOICE, log 7) -/
def State.spaceOf (s : State) (core va : Nat) : Option Space :=
  if va < 0x800000000000 then some .glob
  else if va < 0x802000000000 then
    let m := va / 2 ^ 31 % 64
    let l := va / 2 ^ 19 % 4096
    let off := va % 2 ^ 19
    if off < Config.spBytes && l < Config.logCores && Config.present m then some (.sp m (s.coreIn m l) off) else none
  else if 0xFF0000000000 ≤ va && va < 0xFF0000060000 then some (.sp Config.pkg core (va % 2 ^ 19))
  else none

/-- A device address with an alias resolved to the aperture address of the issuing core (R101). -/
def State.canonVa (s : State) (core va : Nat) : Nat :=
  if 0xFF0000000000 ≤ va && va < 0xFF0000080000 then s.aperture core (va % 2 ^ 19) else va

/-- Rights that an access needs: to read, to write, and to write in an atomic (R49, R192). -/
def needR : Need := ⟨true, false, false⟩
def needW : Need := ⟨false, true, false⟩
def needWA : Need := ⟨false, true, true⟩

/-- The segment grants n bytes at an offset (R49). -/
def Seg.grants (g : Seg) (o n : Nat) (need : Need) : Bool :=
  o + n ≤ g.limit.toNat && g.base.toNat + o + n ≤ 2 ^ 48 && (!need.r || g.r) && (!need.w || g.w) && (!need.a || g.a)

/-! ## Operations and classes (Table 4-5) -/

/-- A region class accepts an operation; the scratchpad has no class (Table 4-5). -/
def AccKind.allowed (k : AccKind) (cls : Option Nat) : Bool :=
  match k, cls with
  | .load, _ | .pref, _ => true
  | .store, some c => c != 3
  | .store, none => true
  | .rlx, some c | .rmw, some c | .red, some c | .ldx, some c | .vec, some c => c == 0 || c == 1
  | .rlx, none | .rmw, none | .red, none | .ldx, none | .vec, none => true
  | .erase, some c => c == 1
  | .erase, none => false
  | .ctr, some c => c == 2
  | .ctr, none => true
  | .copy, some c => c ≤ 2
  | .copy, none => true
  | .handle, some c => c == 3
  | .handle, none => false

/-! ## Leaf entries (Table 20-1) -/

def lfPa (e : Nat) : Nat := bits e 55 16 * 4096
def lfD (e : Nat) : Bool := e.testBit 15
def lfSwz (e : Nat) : Nat := bits e 14 12
def lfSize (e : Nat) : Nat := bits e 11 10
def lfCls (e : Nat) : Nat := bits e 9 7
def lfOrd (e : Nat) : Bool := e.testBit 6
def lfCow (e : Nat) : Bool := e.testBit 5
def lfA (e : Nat) : Bool := e.testBit 4
def lfX (e : Nat) : Bool := e.testBit 3
def lfW (e : Nat) : Bool := e.testBit 2
def lfR (e : Nat) : Bool := e.testBit 1
def lfV (e : Nat) : Bool := e.testBit 0

/-- A valid leaf entry is a page-table error (R310). -/
def lfBad (e : Nat) : Bool :=
  let pa := lfPa e
  let c := lfCls e
  let span := pageBytes (lfSize e)
  4 < c || pa % span != 0 || (lfSwz e != 0 && (c != 0 || lfOrd e)) || pa / 2 ^ 38 % 32 != 0 ||
  (c == 4) != (Config.devBase ≤ dieOff pa) || (dieOff pa < Config.devBase && Config.dramPerDie < dieOff pa + span)

/-- What a walk finds. -/
inductive Walked where
  | leaf (base size : Nat) (e : Word) (from_ : Nat)
  | absent
  | bad
  /-- the line of an entry is reserved, so that the read waits (R125) -/
  | busy
  /-- an entry lies in a lost line (R322) -/
  | lost (k : Nat)
deriving DecidableEq, Repr

/-- What the read of a table entry gives. -/
inductive Pte where
  | ok (e : Nat)
  | denied
  | busy
  | lost
deriving DecidableEq, Repr

/-- The read of a table entry, an ordinary load at its home: it must lie in DRAM whose slice grants R, it waits for a reservation of its
line, and it is corrected or finds its line lost (R125, R307, R319, R322). -/
def State.pte (s : State) (part k : Nat) : Pte :=
  if !(isDram k && s.grants (bankOf k) part 1) then .denied
  else if (s.lineQ (lineOf k)).holder.isSome then .busy
  else if !s.sound k 8 then .lost
  else .ok (s.goodNat k 8)

/-- What a walk finds where the read of an entry gives none. -/
def Pte.fails (k : Nat) : Pte → Walked
  | .busy => .busy
  | .lost => .lost k
  | _ => .bad

/-- An entry with the bits that the check of a 64 KiB group leaves out: D, which a port sets, and the ignored ones (R308). -/
def groupBits (e : Nat) : Nat := (if lfD e then e - 2 ^ 15 else e) % 2 ^ 56

/-- Walk the levels from one down (R307): table address, address bits, levels left. (DEDUCED, log 26) -/
def State.walkAt (s : State) (part va table : Nat) : Nat → Walked
  | 0 =>
    let k := table + va / 4096 % 512 * 8
    match s.pte part k with
    | .ok e =>
      if !lfV e then .absent
      else if lfSize e = 0 then (if lfBad e then .bad else .leaf (va / 4096 * 4096) 0 (w64 e) k)
      else if lfSize e = 1 then
        let k0 := table + va / 65536 % 32 * 128
        let ks := (List.range 16).map (fun i => k0 + 8 * i)
        match ks.find? (fun j => match s.pte part j with | .busy | .lost => true | _ => false) with
        | some j => (s.pte part j).fails j
        | none =>
          let same := ks.all (fun j => match s.pte part j with | .ok x => groupBits x == groupBits e | _ => false)
          if lfBad e || !same then .bad else .leaf (va / 65536 * 65536) 1 (w64 e) k0
      else .bad
    | x => x.fails k
  | lv + 1 =>
    let k := table + va / 2 ^ (12 + 9 * (lv + 1)) % 512 * 8
    match s.pte part k with
    | .ok e =>
      if !lfV e then .absent
      else if (lv = 1 && lfSize e = 3) || (lv = 0 && lfSize e = 2) then
        let n := pageBytes (lfSize e)
        if lfBad e then .bad else .leaf (va / n * n) (lfSize e) (w64 e) k
      else if e / 2 % 2 ^ 15 != 0 then .bad
      else State.walkAt s part va (lfPa e) lv
    | x => x.fails k

/-- The table entries that a walk reads, the first level first. -/
def State.walkKeys (s : State) (part va table : Nat) : Nat → List Nat
  | 0 =>
    let k := table + va / 4096 % 512 * 8
    match s.pte part k with
    | .ok e => if lfV e && lfSize e = 1 then (List.range 16).map (fun i => table + va / 65536 % 32 * 128 + 8 * i) else [k]
    | _ => [k]
  | lv + 1 =>
    let k := table + va / 2 ^ (12 + 9 * (lv + 1)) % 512 * 8
    match s.pte part k with
    | .ok e =>
      if !lfV e || (lv = 1 && lfSize e = 3) || (lv = 0 && lfSize e = 2) then [k] else k :: State.walkKeys s part va (lfPa e) lv
    | _ => [k]

/-- Walk the context's table (R307); a root of 0 is an error (R310). (DEDUCED, log 26) -/
def State.walk (s : State) (part ctx va : Nat) : Walked :=
  let root := (s.ctx part ctx).ptroot.toNat
  if root = 0 then .bad else s.walkAt part va root 3

/-- The corrections that a walk's reads make (R319). -/
def State.walkNotes (s : State) (part ctx va : Nat) : State :=
  let root := (s.ctx part ctx).ptroot.toNat
  if s.synd.isEmpty || root = 0 then s else (s.walkKeys part va root 3).foldl (fun s k => s.correctNoted k 8) s

/-- The entry that a port has cached for an address (R311). -/
def State.cached? (s : State) (port part ctx va : Nat) : Option TlbEntry :=
  s.tlb.find? (fun e => e.port == port && e.part == part && e.ctx == ctx && e.base ≤ va &&
    va < e.base + pageBytes (lfSize e.leaf.toNat))

/-- A port first caches the leaf of a class-1 page: the stocks of its pool are empty, unless another such page uses the pool already; and
where no port had cached it, the homes read its descriptor and map afresh (R93, R313). (DEDUCED, log 89, log 90) -/
def State.openSparse (s : State) (e : Word) : State :=
  if lfCls e.toNat != 1 then s
  else
    let d := lfPa e.toNat
    let pool := s.rawNat (d + 16) 8
    let map := s.rawNat (d + 24) 8
    let s1 :=
      if s.tlb.any (fun x => lfCls x.leaf.toNat == 1 && lfPa x.leaf.toNat == d) then s
      else { s with mapCache := s.mapCache.filter (fun x =>
        !(d ≤ x.2.1 && x.2.1 < d + 64) && !(map ≤ x.2.1 && x.2.1 < map + 8 * (pageBytes (lfSize e.toNat) / 4096))) }
    if s1.descs.contains d then s1
    else
      let s2 := { s1 with descs := d :: s1.descs }
      if s1.descs.any (fun x => s1.rawNat (x + 16) 8 == pool) then s2
      else { s2 with stocks := s2.stocks.filter (fun x => x.2.1 != pool) }

/-! ## Routes (R348, R350)

A route decides through which edge routers, and so under which access tables, a message goes, and what shares a path. The order of the hops on
a die (H[0]) and the channels (H[1]) decide timing alone: messages for one key keep their order, and others have none (R349, log 81). -/

/-- The hash of a key (R348). -/
def routeHash (k : Nat) : Nat :=
  ([0, 8, 16, 24, 32].map (fun i => k / 2 ^ i % 256)).foldl Nat.xor (k / 2 ^ 40 % 64)

/-- The dies that a message crosses between two dies: row first where H[4] is 0 (R350). -/
def dieRoute (a b h : Nat) : List Nat :=
  if a = b then []
  else if a / 4 = b / 4 || a % 4 = b % 4 then [a, b]
  else [a, if h.testBit 4 then b / 4 * 4 + a % 4 else a / 4 * 4 + b % 4, b]

/-- The module that a message to another module crosses the pod link to first: in its own pod-row where H[5] is 0 (R350). -/
def podFirst (a b h : Nat) : Nat :=
  if a / 8 = b / 8 || a % 8 = b % 8 then b
  else if h.testBit 5 then b / 8 * 8 + a % 8 else a / 8 * 8 + b % 8

/-- The die whose pod link leads to a neighbouring module: links are counted over the other modules in ascending position (R350). -/
def podDie (a b : Nat) : Nat :=
  if a / 8 = b / 8 then (if b % 8 < a % 8 then b % 8 else b % 8 - 1) else (if b / 8 < a / 8 then b / 8 else b / 8 - 1)

/-- The edge routers that a message of a core to a bank crosses, by their number in the access tables: 2 × die for router 6, which holds the
die links, and one more for router 7, which holds the pod links (R350). (DESIGN CHOICE, log 92) -/
def edgeRoute (core : Nat) (b : Bank) (name : Nat) : List Nat :=
  let h := routeHash (nameAddr name / 64)
  let (m, d) := match b with
    | .slice m d _ => (m, d)
    | .sp m c _ => (m, coreDie c)
  if m = Config.pkg then (dieRoute (coreDie core) d h).map (2 * ·)
  else
    let e := podDie Config.pkg (podFirst Config.pkg m h)
    (dieRoute (coreDie core) e h).map (2 * ·) ++ [2 * e + 1]

/-- The edge routers on the way and the bank's slice grant a message of a core its rights (R273). -/
def State.grantsTo (s : State) (core part : Nat) (b : Bank) (name : Nat) (mask : BitVec 8) : Bool :=
  s.grants b part mask && (edgeRoute core b name).all (fun e => s.rights 1 e part &&& mask == mask)

/-- What a walk from a port finds: its reads are ordinary loads, and each crosses the edge routers on its way (R307, R350). -/
def State.walkFrom (s : State) (port part ctx va : Nat) : Walked :=
  match s.walk part ctx va with
  | .bad => .bad
  | w =>
    if (s.walkKeys part va (s.ctx part ctx).ptroot.toNat 3).all (fun k =>
        (edgeRoute (4 * port) (bankOf k) k).all (fun e => s.rights 1 e part &&& 1 == 1)) then w
    else .bad

/-- What translation gives at a port; a leaf that was walked is cached (R311), and an entry whose line is lost ends the context (R322). -/
def State.translate (s : State) (port part ctx va : Nat) : Walked × State :=
  match s.cached? port part ctx va with
  | some e => (.leaf e.base (lfSize e.leaf.toNat) e.leaf e.from_, s)
  | none =>
    match s.walkFrom port part ctx va with
    | .leaf b z e k =>
      let s1 := (s.walkNotes part ctx va).openSparse e
      (.leaf b z e k, { s1 with tlb := ⟨port, ctx, part, b, e, k⟩ :: s1.tlb })
    | .lost k => (.lost k, (if s.isLost k then s else s.loseLine k).lostReader k part ctx 0 0 (keySource k))
    | w => (w, s.walkNotes part ctx va)

/-- The page of a device address by the table's words alone: from the level down that maps it, whether its leaf is good or not; 4 KiB where none
does. -/
def State.spanAt (s : State) (va table : Nat) : Nat → Nat × Nat
  | 0 =>
    let e := s.goodNat (table + va / 4096 % 512 * 8) 8
    if lfV e && lfSize e = 1 then (va / 65536 * 65536, 65536) else (va / 4096 * 4096, 4096)
  | lv + 1 =>
    let e := s.goodNat (table + va / 2 ^ (12 + 9 * (lv + 1)) % 512 * 8) 8
    if !lfV e then (va / 4096 * 4096, 4096)
    else if (lv = 1 && lfSize e = 3) || (lv = 0 && lfSize e = 2) then (va / pageBytes (lfSize e) * pageBytes (lfSize e), pageBytes (lfSize e))
    else if e / 2 % 2 ^ 15 != 0 then (va / 4096 * 4096, 4096)
    else State.spanAt s va (lfPa e) lv

/-- The page of a device address of a context: its base and its bytes (R315). -/
def State.pageSpan (s : State) (part ctx va : Nat) : Nat × Nat := s.spanAt va (s.ctx part ctx).ptroot.toNat 3

/-- Two device addresses of a context lie on one page (R125, R315). -/
def State.samePage (s : State) (part ctx a b : Nat) : Bool :=
  let (base, n) := s.pageSpan part ctx a
  base ≤ b && b < base + n

/-- The swizzle of bits 11:6 (Table 20-2). -/
def swizzle (swz g : Nat) : Nat :=
  let lo := g / 64 % 8
  let hi := g / 512 % 8
  let f := fun (k : Nat) => g / 2 ^ k % 8
  let r : Nat × Nat :=
    match swz with
    | 0 => (lo, hi)
    | 1 => (Nat.xor lo (f 12), hi)
    | 2 => (Nat.xor lo (f 13), hi)
    | 3 => (Nat.xor lo (f 14), hi)
    | 4 => (Nat.xor lo (f 15), hi)
    | 5 => (Nat.xor lo (f 16), hi)
    | 6 => (Nat.xor hi (f 12), lo)
    | _ => (Nat.xor hi (f 15), lo)
  g / 4096 * 4096 + r.2 * 512 + r.1 * 64 + g % 64

/-- A translated address: the byte's name, class, ORD, bank and granule (R79, R312, R313), and the leaf. -/
structure Xl where
  name : Nat
  cls  : Nat
  ord  : Bool
  gran : Gran
  leaf : Nat
deriving DecidableEq, Repr

/-- The translated address of va in a page. -/
def State.place? (s : State) (va base : Nat) (leaf : Word) : Xl :=
  let e := leaf.toNat
  let pa := lfPa e
  let off := va - base
  if lfCls e = 1 then
    let b := bankOf (sparseKey pa off)
    let m := s.descWord b (pa + 24)
    ⟨sparseKey pa off, 1, lfOrd e, some (m + 8 * (off / 4096), s.descWord b (pa + 16), w64 (s.descWord b pa)), e⟩
  else ⟨swizzle (lfSwz e) (pa + off), lfCls e, lfOrd e, none, e⟩

/-- The offset G in its page of an address, after the swizzle: a name is its page's name plus it. -/
def leafName (leaf : Word) : Nat := if lfCls leaf.toNat = 1 then sparseKey (lfPa leaf.toNat) 0 else lfPa leaf.toNat

/-- A page's storage holds a name. -/
def leafHas (leaf : Word) (size name : Nat) : Bool := leafName leaf ≤ name && name < leafName leaf + size

/-! ## The port's checks (Table 9-3) -/

/-- What the port decides. -/
inductive Ported where
  | ok (x : Xl)
  /-- a refusal; `strong` where the page makes a relaxed access ordinary, so that it is a trap (R128) -/
  | trap (cause : BitVec 8) (strong : Bool)
  | fault (k : FaultKind)
  /-- the page is MIGRATING: the access parks at its old home, before the later checks (R184, R201) -/
  | moving (x : Xl)
  /-- an entry's line is reserved: the port waits (R125, R308) -/
  | wait
  /-- the walk met a lost line, and the context is killed (R322) -/
  | gone
deriving DecidableEq, Repr

/-- The lines that hold the leaf entries of a page. -/
def TlbEntry.keys (e : TlbEntry) : List Nat :=
  if lfSize e.leaf.toNat = 1 then (List.range 16).map (fun i => e.from_ + 8 * i) else [e.from_]

/-- The entry's home cannot write D yet: a reservation holds its line (R132, R308). -/
def State.dBusy (s : State) (port part ctx va : Nat) : Bool :=
  match s.cached? port part ctx va with
  | none => false
  | some e => !lfD e.leaf.toNat && e.keys.any (fun k => (s.lineQ (lineOf k)).holder.isSome)

/-- D of the entry is set by the first write that the port accepts, in one atomic event at the entry's home (R308). -/
def State.setD (s : State) (port part ctx va : Nat) : State :=
  match s.cached? port part ctx va with
  | none => s
  | some e =>
    if lfD e.leaf.toNat then s
    else
      let s1 := e.keys.foldl (fun s k =>
        let s := s.correctNoted k 8
        let x := s.rawNat k 8
        if lfD x then s else s.homeWrite k (leBytes 8 (x + 2 ^ 15))) s
      { s1 with tlb := s1.tlb.map (fun f => if f = e then { f with leaf := f.leaf ||| 0x8000 } else f) }

/-- A request that a port has parked holds every later one to its page until the repair (R125). -/
def State.heldAt (s : State) (port part ctx va : Nat) : Option FaultEntry :=
  s.faultQ.find? (fun f => f.unit == .port port && f.part == part && f.ctx == ctx && f.kind != .order && s.samePage part ctx f.va va)

/-- A page of a context is moving, and its data has not moved yet (R201). -/
def State.moveOf (s : State) (part ctx va : Nat) : Option Move :=
  s.moves.find? (fun v => v.part == part && v.ctx == ctx && v.base ≤ va && va < v.base + v.size && v.shot.isNone)

/-- The leaf that places a request: where its page's data has moved and the port still holds the old entry, the old home forwards it to the
new one (R317). -/
def State.placeLeaf (s : State) (part ctx va : Nat) (leaf : Word) : Word :=
  match s.moves.find? (fun v => v.part == part && v.ctx == ctx && v.base ≤ va && va < v.base + v.size && v.shot.isSome &&
      lfPa v.oldLeaf.toNat == lfPa leaf.toNat) with
  | some v => v.newLeaf
  | none => leaf

/-- The checks of Table 9-3 that follow the translation and the move. The faults that need the host come before them: a page that is not
resident and a root of 0 are memory-side faults, and the refusals of R205 are those that stand here. (DEDUCED, log 91) -/
def State.portLeaf (s : State) (port part ctx va : Nat) (k : AccKind) (need : Need) (base : Nat) (leaf : Word) : Ported × State :=
  let e := leaf.toNat
  let strong := lfOrd e || modOf (lfPa e) != Config.pkg
  if !k.allowed (some (lfCls e)) then (.trap cCLASS strong, s)
  else if need.r && !lfR e then (.trap cSEGV strong, s)
  else if need.w && !lfW e && lfCow e then (.fault .cow, s)
  else if (need.w && !lfW e) || (need.a && !lfA e) then (.trap cSEGV strong, s)
  else if need.w && s.dBusy port part ctx va then (.wait, s)
  else (.ok (s.place? va base (s.placeLeaf part ctx va leaf)), if need.w then s.setD port part ctx va else s)

/-- Translate and check an access at a port (R184, Table 9-3). -/
def State.port (s : State) (port part ctx va : Nat) (k : AccKind) (need : Need) : Ported × State :=
  match s.heldAt port part ctx va with
  | some f => (.fault f.kind, s)
  | none =>
    match s.translate port part ctx va with
    | (.absent, s1) => (.fault .absent, s1)
    | (.bad, s1) => (.fault .table, s1)
    | (.busy, s1) => (.wait, s1)
    | (.lost _, s1) => (.gone, s1)
    | (.leaf base _ leaf _, s1) =>
      if (s.moveOf part ctx va).isSome then (.moving (s1.place? va base leaf), s1)
      else s1.portLeaf port part ctx va k need base leaf

/-! ## Page requests (R315) -/

/-- The code of a unit in the TAG of its page requests. -/
def FUnit.code : FUnit → Nat
  | .port q => q
  | .home (.slice _ d i) => 2048 + d * 12 + i
  | .home (.sp _ c b) => 4096 + c * 4 + b

/-- KIND of a page request (R315). -/
def FaultKind.code : FaultKind → Nat
  | .absent => 0
  | .cow => 1
  | .table => 2
  | .frame => 3
  | .stock | .moving | .order => 0

/-- Records that the page request ring holds (PRESUMED, log 8). -/
def ringLen : Nat := 4096

/-- Write a page request to the ring; interrupt vector 0 becomes pending (R315, R357). -/
def State.writeReq (s : State) (r : PageReq) : State :=
  let p := s.partn r.part
  let a := p.prBase.toNat + 32 * (p.prTail.toNat % ringLen)
  let hi := r.ctx * 2 ^ 52 + r.part * 2 ^ 48 + r.kind.code * 2 ^ 46
  (((s.homeWrite a (leBytes 8 r.va)).homeWrite (a + 8) (leBytes 8 0)).homeWrite (a + 16) (leBytes 8 hi)).homeWrite (a + 24)
    (leBytes 8 (r.gen.toNat + r.tag.toNat * 2 ^ 32))
    |>.modPart r.part (fun p => { p with prTail := p.prTail + 1 }.raise s.time.toNat 1)

/-- The ring of a partition is full. -/
def Part.prFull (p : Part) : Bool := (p.prTail - p.prHead).toNat ≥ ringLen

/-- Post a request for a page, at most one per unit, context and virtual page (R315, R316); while the ring is full the unit holds it. -/
def State.postReq (s : State) (u : FUnit) (part ctx va : Nat) (k : FaultKind) : State :=
  if s.pageReqs.any (fun r => r.unit == u && r.part == part && r.ctx == ctx && s.samePage part ctx r.va va) then s
  else
    let used := s.pageReqs.map (·.tag.toNat)
    let slot := ((List.range 65536).find? (fun i => !used.contains (u.code * 2 ^ 16 + i))).getD 0
    let full := (s.partn part).prFull
    let r : PageReq := ⟨BitVec.ofNat 32 (u.code * 2 ^ 16 + slot), BitVec.ofNat 32 (entGen (s.centry part ctx)), ctx, part, k, va, u, !full⟩
    let s1 := { s with pageReqs := s.pageReqs ++ [r] }
    if full then s1 else s1.writeReq r

/-- Requests held while the ring was full are posted as it empties, oldest first. -/
def State.postHeld (s : State) (part : Nat) : State :=
  match s.pageReqs.find? (fun r => r.part == part && !r.posted) with
  | none => s
  | some r =>
    if (s.partn part).prFull then s
    else { (s.writeReq r) with pageReqs := s.pageReqs.map (fun x => if x.tag = r.tag then { x with posted := true } else x) }

/-- Entries that a fault queue holds: 64 at a home, 32 at a port (R199). -/
def FUnit.room : FUnit → Nat
  | .port _ => 32
  | .home _ => 64

/-- A fault queue has a free entry. -/
def State.queueRoom (s : State) (u : FUnit) : Bool := (s.faultQ.filter (fun f => f.unit == u)).length < u.room

/-- The source that records what a unit does: the home slice, or the core behind a port (Table 22-2). -/
def FUnit.source (u : FUnit) (core : Nat) : Source :=
  match u with
  | .port _ => .core core
  | .home b => (sliceSource b).getD (.core core)

/-- What the Diary records of a parked request (Table 22-2): its kind and G[37:6]; a request with no physical address in hand is recorded with
its virtual address. (DESIGN CHOICE, log 29) -/
def FaultEntry.noted (f : FaultEntry) : Nat :=
  let g := match f.unit, f.what with
    | .home _, .access m => dieOff (nameAddr m.pa)
    | _, _ => f.va
  f.kind.code * 2 ^ 38 + g / 64 % 2 ^ 32

/-- Park a request in a fault queue (R199); the faults that need the host post a page request (R200, R315). -/
def State.parkFault (s : State) (f : FaultEntry) (core : Nat) : State :=
  let s1 := { s with faultQ := s.faultQ ++ [f] }
  let s2 := s1.note (f.unit.source core) 0x10 f.noted
  match f.kind with
  | .stock | .moving | .order => s2
  | k => s2.postReq f.unit f.part f.ctx f.va k

/-! ## The reduction log (R185, R198, Table 9-6) -/

/-- Write an entry for a refused access; the log is full at LOGN entries, and then its last entry is overwritten with SEQ
all-ones; a slice that refuses the partition R and W takes none (R271, R273). -/
def State.logRefusal (s : State) (part ctx : Nat) (cause : BitVec 8) (operand va lcore slot opc nbytes : Nat) : State :=
  let e := s.centry part ctx
  let base := bits e 431 384
  let cap := bits e 447 432
  let n := (s.ctx part ctx).logN
  let at_ := if n < cap then n else cap - 1
  let seq := if n < cap then n else 2 ^ 64 - 1
  let a := base + 32 * at_
  let w1 := cause.toNat * 2 ^ 24 + nbytes * 2 ^ 32 + slot * 2 ^ 36 + opc * 2 ^ 39 + lcore * 2 ^ 52
  let s1 := if cap = 0 || !s.grants (bankOf a) part 3 then s else
    (((s.homeWrite a (leBytes 8 seq)).homeWrite (a + 8) (leBytes 8 w1)).homeWrite (a + 16) (leBytes 8 va)).homeWrite
      (a + 24) (leBytes 8 operand)
  s1.modCtx part ctx (fun c => { c with logN := n + 1 })

/-! ## Hall Passes (R101) -/

/-- Two ranges of device addresses share a byte. -/
def Range.meets (a b : Range) : Bool := a.lo < b.lo + b.n && b.lo < a.lo + a.n

/-- Every engine operation of a core that has not completed. -/
def Core.engQueue (k : Core) : List EngOp := k.mat.queue ++ k.vec.queue ++ k.copy.queue

/-- A thread access on a core overlaps a registered range: a destination, or, for a write, any range (R101). -/
def State.hallHit (s : State) (core va n : Nat) (write : Bool) : Bool :=
  let r : Range := ⟨s.canonVa core va, n⟩
  (s.core core).engQueue.any (fun o => o.dsts.any r.meets || (write && o.srcs.any r.meets))

end Sys2Proof.Machine
end

