-- ==== Sys2Proof/Machine/Access.lean ====
section
/-! DEFINITION. Issuing an access (R126 to R128, R183 to R186, R368): its checks in order, its message, and what the thread
holds from then on. -/

namespace Sys2Proof.Machine

/-- What an instruction asks for. -/
structure Access where
  opc   : Nat
  p     : Fin 8
  /-- the signed offset, extended to 64 bits -/
  off   : Word
  n     : Nat
  align : Nat
  kind  : AccKind
  need  : Need
  /-- the Hall Pass check: none, or as a load, or as a write -/
  hall  : Option Bool
  /-- relaxed where R128 does not make it ordinary -/
  rlx   : Bool
  /-- the `RLX` prefix (R151) -/
  pre   : Bool
  op    : MemOp
  dst   : Operand
  /-- the post-increment (R186) -/
  inc   : Bool
  /-- the predicate that `LDX` leaves pending -/
  pred  : Option (BitVec 5)
  /-- an acquire (R134) -/
  acq   : Bool
  /-- a visible side effect, unless it is a store into the own window stack (R24) -/
  side  : Bool
  /-- no further access may be outstanding beside it: it goes to the scratchpad of another package, or, from a redundant thread, of another
  core (R80, R325) -/
  alone : Bool
  /-- its page is MIGRATING: the checks that follow in Table 9-3 are made when it goes on (R184, R201) -/
  unchk : Bool

/-- The PC after an access: the head after it, or after the head it prefixes. -/
def State.after (s : State) (t : Thread) (pre : Bool) : Word :=
  let l := s.myLine t
  if pre then succPc l (t.pc + 2) else succPc l t.pc

/-- The pointer offset o of an access (R183). -/
def Access.o (a : Access) (t : Thread) : Word := t.av a.p + a.off

/-- Steps 4 to 9 of R183: the device address and its place, or the trap, migration or code boundary that stops it. `base` is
the state to leave on a trap, `s` the state before any source was read. -/
def State.locate (s base : State) (t : Thread) (a : Access) : Except (StopKind × State) (Nat × Space) :=
  let o := (a.o t).toNat
  let g := t.segs[a.p]
  let va := g.base.toNat + o
  let trap := fun (c : BitVec 8) => stop base (.trap c (a.o t))
  if !g.grants o a.n a.need then trap cSEGV
  else if va % a.align != 0 then trap cMISALIGN
  else
    match s.spaceOf s.cur.core va with
    | none => trap cSEGV
    | some .glob =>
      if a.hall.any (fun w => s.hallHit s.cur.core va a.n w) then trap cHALLPASS else .ok (va, .glob)
    | some (.sp m c off) =>
      if m = Config.pkg && c != s.cur.core && !t.lead then stop s (.migrate (s.logOf c))
      else if m = Config.pkg && off < (s.core c).xb.toNat then trap cEXECONLY
      else if a.hall.any (fun w => s.hallHit s.cur.core va a.n w) then trap cHALLPASS
      else .ok (va, .sp m c off)

/-- The Outstanding Access register holds back a relaxed access or an engine instruction: an acquire that has not completed and whose
effect is not dropped, or an access beside which no other may be outstanding (R80, R134, R135). -/
def Oar.blocks (o : Oar) : Bool := (o.acq && o.loose.isNone) || o.alone

/-- The waits of step 3: an ordinary access for the Outstanding Access register; a relaxed one for an entry of the Relaxed
set, and for an acquire or a strongly ordered access to complete (R80, R126, R127, R134). -/
def Thread.accWait (t : Thread) (rlx : Bool) : Bool :=
  if rlx then 16 ≤ t.rlx.length || t.oar.any Oar.blocks else t.oar.isSome

/-- The destination of a message for an operand (R186): a register awaits the tag, a queue keeps a place, a latch is named. -/
def State.reserve (s : State) (d : Operand) (tag : Nat) : Dst × State :=
  match d with
  | .g n => (.reg, s.modMe (fun t => t.setG n { t.gCell n with full := false, pend := some tag }))
  | .a n => (.reg, s.modMe (fun t => { t with a := t.a.set n { t.a[n] with full := false, pend := some tag } }))
  | .q n => (.queue s.cur.core n, (s.modMe (fun t => { t with spare := false })).modCore s.cur.core
      (fun k => k.pushQ n (.res tag) s.time.toNat))
  | .nf => (.nf s.cur.core s.cur.slot, s)
  | .rq | .zr => (.none, s)

/-- The data a refused relaxed store would have written, for the log (Table 9-6). -/
def MemOp.operand : MemOp → Nat
  | .store b _ => leNat b
  | .red _ _ x => x.toNat
  | _ => 0

/-- The thread's pointer moves by n (R186). -/
def State.bumpPtr (s : State) (a : Access) : State :=
  if a.inc then s.modMe (fun t => { t with a := t.a.set a.p (.of (t.av a.p + BitVec.ofNat 64 a.n)) }) else s

/-- A refused relaxed access: an entry in the log; a load fills its destination with 0 (R185). (DEDUCED, log 14) -/
def State.refuseRelaxed (s : State) (t : Thread) (a : Access) (va : Nat) (cause : BitVec 8) : State :=
  let s1 := s.logRefusal t.part t.id.ctx.toNat cause a.op.operand va (s.logOf s.cur.core) s.cur.slot.val a.opc a.n
  ((match a.op with | .load _ _ _ _ => s1.write a.dst 0 | _ => s1).bumpPtr a).goto (s.after t a.pre)

/-- An access is a load. -/
def MemOp.isLoad : MemOp → Bool
  | .load _ _ _ _ => true
  | _ => false

/-- The bank is one of a scratchpad of this module: its accesses are acknowledged when they are performed, since the mask has no bit for
it (R121, R128). Of the scratchpads of other cores only a reduction reaches one so. (DEDUCED, log 34) -/
def padBank (b : Bank) : Bool :=
  match b with
  | .sp m _ _ => m == Config.pkg
  | .slice _ _ _ => false

/-- The message of an access to a place (R123). -/
def Access.msg (a : Access) (s : State) (t : Thread) (va name cls : Nat) (gran : Gran) (rlx : Bool) (dst : Dst) : Msg :=
  { tag := s.nextTag, who := t.id, part := t.part, core := s.cur.core, slot := s.cur.slot, opc := a.opc, pc := t.pc, next := s.after t a.pre, off := a.o t
    va := va, pa := name, bytes := a.n, acc := a.kind, need := a.need, cls := cls, bank := bankOf name, op := a.op, rlx := rlx
    unchk := a.unchk, stuck := false, dst := dst
    undo := if a.inc then some (a.p, t.av a.p) else none, gran := gran }

/-- A fetch-and-op that raises flags in its thread (R193). -/
def MemOp.flags : MemOp → Bool
  | .atom (.fadd _) _ _ _ _ _ => true
  | _ => false

/-- What the thread holds from the issue of an access until it completes: an entry of the Relaxed set or the Outstanding Access register,
its predicate pending, its PC and its status (R126, R127, R188). A relaxed access that passes an acquire whose effect is to be dropped is
noted in the register (R135). -/
def Thread.sends (a : Access) (tag : Nat) (bank : Bank) (own rlx : Bool) (pc : Word) (st : Status) (u : Thread) : Thread :=
  { u with
    oar := if rlx then u.oar.map (fun o => { o with loose := o.loose.map (fun _ => true) }) else some ⟨tag, a.acq, a.alone, none⟩
    rlx := if rlx then u.rlx ++ [⟨tag, bank, own⟩] else u.rlx
    rlxLoads := if rlx && a.op.isLoad then (tag, bank) :: u.rlxLoads else u.rlxLoads
    predPend := match a.pred with | some p => if p = 0 then u.predPend else (p, tag) :: u.predPend | none => u.predPend
    pc := pc, status := st }

/-- The rights that an access needs in an access table (R192, R273). -/
def MemOp.rights : MemOp → BitVec 8
  | .load _ _ _ _ | .probe | .await _ => 1
  | .store _ _ | .erase | .attn _ => 2
  | .ctr .rd _ _ | .ctr .lv _ _ => 5
  | .atom _ _ _ _ _ _ | .rsv _ _ | .rls _ _ | .watch | .ctr _ _ _ | .red _ _ _ => 6
  | .diagSt _ _ _ | .diagLd _ _ => 8

/-- The message of an access to a place enters the path of its line (R123). An ordinary access whose page faults leaves its thread DROPPED
at its own PC, from which it reissues to complete; with its port's fault queue full the port holds its request (R199). While its page is not known, an access counts with the issuing die's slice 0, which
lies in the extent of every scope. (DEDUCED, log 22) -/
def State.sendAccess (s : State) (t : Thread) (a : Access) (va name cls : Nat) (gran : Gran) (rlx : Bool)
    (fault : Option FaultKind) : State :=
  let tag := s.nextTag
  let c := s.cur.core
  let bank := match fault with | some _ => .slice Config.pkg (coreDie c) 0 | none => bankOf name
  let r := s.reserve a.dst tag
  let m := a.msg s t va name cls gran rlx r.1
  let drop := (fault.isSome || a.unchk) && !rlx
  let hold := !rlx && ((cls == 1 && !a.op.isLoad) || a.op.flags)
  let st : Status := if drop then .dropped tag true else if hold then .held tag else .ready
  let s3 := (r.2.bumpPtr a).modMe (Thread.sends a tag bank (padBank bank) rlx (if drop then t.pc else s.after t a.pre) st)
  let s4 := { s3 with nextTag := tag + 1 }
  match fault with
  | none => { s4 with net := s4.net ++ [m] }
  | some k =>
    let m1 := { m with bank := bank, unchk := true }
    if s.queueRoom (.port (quadOf c)) then s4.parkFault ⟨.port (quadOf c), t.id.ctx.toNat, t.part, va, k, .access m1⟩ c
    else { s4 with net := s4.net ++ [{ m1 with stuck := true }] }

/-- The bytes of a thread's own window stack (R24, R47). -/
def State.inOwnStack (s : State) (t : Thread) (va n : Nat) : Bool :=
  match s.spaceOf s.cur.core va with
  | some (.sp m c off) => m == Config.pkg && c == s.homeOf t && t.wsb.toNat ≤ off && off + n ≤ t.wsl.toNat
  | _ => false

/-- Elements' bytes by tile format code; a coded result reserves 4,096 bytes (R103, R107). -/
def placeBytes (fmt rows cols : Nat) : Nat :=
  match fmt with
  | 0 | 3 => rows * cols * 4
  | 1 | 2 | 4 => rows * cols * 2
  | 5 | 6 | 7 => rows * cols
  | _ => 4096

/-- The storage key of a suspension cell (R105). -/
def State.cellKey (s : State) (part ctx idx : Nat) : Nat := bits (s.centry part ctx) 111 64 + 64 * idx

/-- n bytes at a device address lie in the placement of the handle whose `APPLY` a spark evaluates: that of the innermost frame of the walk
that its innermost hold frame interrupts (R114, R117). -/
def State.inPlace (s : State) (t : Thread) (va n : Nat) : Bool :=
  match ((t.holds.head?).bind (·.walk)).bind (·.frames.head?) with
  | none => false
  | some f =>
    let cell := s.cellKey t.part t.id.ctx.toNat (((s.claimOf? f.pa).map (·.cell)).getD 0)
    let place := s.canonVa s.cur.core (s.goodNat (cell + 40) 6)
    let w := s.rawNat f.pa 8
    place ≤ s.canonVa s.cur.core va && s.canonVa s.cur.core va + n ≤ place + placeBytes (hFmt w) (hRows w) (hCols w)

/-- Lines that a spark's held bytes occupy (R117). -/
def heldLines (l : List (Nat × Byte)) : Nat := ((l.map (fun x => x.1 / 64)).eraseDups).length

/-- A spark holds the bytes of a store, or is abandoned where it needs a 33rd line (R117). -/
def State.holdStore (s : State) (t : Thread) (a : Access) (va : Nat) (bytes : List Byte) : State :=
  let base := s.canonVa s.cur.core va
  let new := (List.range bytes.length).zip bytes |>.map (fun (i, b) => (base + i, b))
  let held := new ++ t.held.filter (fun x => !(base ≤ x.1 && x.1 < base + bytes.length))
  if 32 < heldLines (held ++ t.holds.flatMap (·.held)) then s.abandon t
  else ((s.modMe (fun u => { u with held := held })).bumpPtr a).goto (s.after t a.pre)

/-- A store into the thread's own window stack is no visible side effect (R24). -/
def State.quiet (s : State) (t : Thread) (a : Access) (va : Nat) : Bool :=
  match a.op with
  | .store _ _ => s.inOwnStack t va a.n
  | _ => false

/-- What is done once every check has passed: a spark holds its stores outside PLACE; anything else is sent, and is a
visible side effect where R24 says so. -/
def State.commit (s : State) (t : Thread) (a : Access) (va name cls : Nat) (gran : Gran) (rlx : Bool)
    (fault : Option FaultKind) : State :=
  let go := s.sendAccess t a va name cls gran rlx fault
  match t.kind with
  | .spark _ =>
    match a.op with
    | .store b _ => if s.inPlace t va a.n then go else s.holdStore t a va b
    | _ => if a.side then s.abandon t else go
  | _ => if a.side && !s.quiet t a va then go.modMe (fun t => { t with visible := true }) else go

/-- An access whose place is known goes on: an ordinary one once the Outstanding Access register is empty (R126). That the access tables on its
way grant an ordinary one is decided as its port accepts it, so that a refusal is precise (R273, R368). (DEDUCED, log 28) -/
def State.issueTo (s base : State) (t : Thread) (a : Access) (va name cls : Nat) (gran : Gran) (rlx : Bool)
    (fault : Option FaultKind) : Eff :=
  if !rlx && t.oar.isSome then stop s (.park .issue)
  else if !rlx && fault.isNone && !s.grantsTo s.cur.core t.part (bankOf name) name a.op.rights then stop base (.sup cACCESS (w64 va))
  else .ok (base.commit t a va name cls gran rlx fault)

/-- Issue an access (R183): `s` is the state before its sources were read and `base` the state after. A relaxed access whose page makes it
ordinary is refused as an ordinary one is (R128). -/
def State.access (s base : State) (t : Thread) (a : Access) : Eff := do
  if t.accWait a.rlx then stop s (.park .issue)
  let (va, sp) ← s.locate base t a
  match sp with
  | .sp m c off =>
    if !a.kind.allowed none then stop base (.trap cCLASS (a.o t))
    else
      let own := m == Config.pkg && c == s.cur.core
      s.issueTo base t { a with alone := !own } va (spKey m c off) 5 none (a.rlx && own) none
  | .glob =>
    let (r, s1) := base.port (quadOf s.cur.core) t.part t.id.ctx.toNat va a.kind a.need
    match r with
    | .gone => stop s1 .asIs
    | .wait => stop s (.park .issue)
    | .trap c strong =>
      if a.rlx && !strong && !(a.pre && c == cCLASS) then return s1.refuseRelaxed t a va c
      else if t.oar.isSome then stop s (.park .issue)
      else stop base (.trap c (a.o t))
    | .fault k => s.issueTo s1 t a va va 0 none a.rlx (some k)
    | .moving x => s.issueTo s1 t { a with unchk := true } va x.name x.cls x.gran (a.rlx && !x.ord && modOf (nameAddr x.name) == Config.pkg) none
    | .ok x => s.issueTo s1 t a va x.name x.cls x.gran (a.rlx && !x.ord && modOf (nameAddr x.name) == Config.pkg) none

end Sys2Proof.Machine
end

