-- ==== Sys2Proof/Machine/Float.lean ====
section
/-! DEFINITION. Floating-point formats and arithmetic (R59 to R66): values are exact numbers m × 2^e, and one rounding gives
the bits of a format with the flags it raises. -/

namespace Sys2Proof.Machine

/-! ## Formats and values -/

/-- How a format ends its exponent range (R59). -/
inductive FKind where
  | ieee | e4 | e5
deriving DecidableEq, Repr

/-- A format: exponent and fraction width, bias, kind (Table 3-2). -/
structure Fmt where
  ew   : Nat
  fw   : Nat
  bias : Nat
  kind : FKind
deriving DecidableEq, Repr

def fmt64 : Fmt := ⟨11, 52, 1023, .ieee⟩
def fmt32 : Fmt := ⟨8, 23, 127, .ieee⟩
def fmt16 : Fmt := ⟨5, 10, 15, .ieee⟩
def fmtB16 : Fmt := ⟨8, 7, 127, .ieee⟩
def fmtE4 : Fmt := ⟨4, 3, 7, .e4⟩
def fmtE5 : Fmt := ⟨5, 2, 15, .e5⟩

/-- The format of a scalar suffix (R176). -/
def fmtOf : FFmt → Fmt
  | .f32 => fmt32
  | .f64 => fmt64
  | .f16 => fmt16
  | .bf16 => fmtB16

/-- Bits of a format. -/
def Fmt.width (f : Fmt) : Nat := 1 + f.ew + f.fw
/-- The all-ones exponent. -/
def Fmt.emax (f : Fmt) : Nat := 2 ^ f.ew - 1
/-- A pattern from its fields. -/
def Fmt.pack (f : Fmt) (neg : Bool) (e m : Nat) : Nat := neg.toNat * 2 ^ (f.ew + f.fw) + e * 2 ^ f.fw + m
/-- The canonical quiet NaN (Table 3-2). -/
def Fmt.qnan (f : Fmt) : Nat :=
  match f.kind with
  | .e4 => 0x7F
  | _ => f.pack false f.emax (2 ^ (f.fw - 1))
/-- The largest finite pattern (Table 3-2). -/
def Fmt.largest (f : Fmt) (neg : Bool) : Nat :=
  match f.kind with
  | .e4 => f.pack neg 15 6
  | _ => f.pack neg (f.emax - 1) (2 ^ f.fw - 1)
/-- The infinity of a format that has one. -/
def Fmt.infty (f : Fmt) (neg : Bool) : Nat := f.pack neg f.emax 0

/-- A value: a NaN, an infinity, or the number m × 2^e, with some excess below 2^e when `st` holds. -/
inductive FV where
  | nan (sig : Bool)
  | inf (neg : Bool)
  | num (neg : Bool) (m : Nat) (e : Int) (st : Bool)
deriving DecidableEq, Repr

/-- The value of a pattern (R59, R66). -/
def Fmt.value (f : Fmt) (b : Nat) : FV :=
  let neg := b.testBit (f.ew + f.fw)
  let e := b / 2 ^ f.fw % 2 ^ f.ew
  let m := b % 2 ^ f.fw
  let normal := FV.num neg (2 ^ f.fw + m) ((e : Int) - f.bias - f.fw) false
  match f.kind with
  | .ieee =>
    if e = f.emax then (if m = 0 then .inf neg else .nan (!m.testBit (f.fw - 1)))
    else if e = 0 then .num neg m (1 - (f.bias : Int) - f.fw) false
    else normal
  | .e4 => if e = 15 && m = 7 then .nan false else if e = 0 then .num neg 0 0 false else normal
  | .e5 =>
    if e = 31 then (if m = 0 then .inf neg else .nan (!m.testBit 1))
    else if e = 0 then .num neg 0 0 false
    else normal

/-! ## Rounding (R62, R64) -/

/-- Whether the kept part of a magnitude is raised by one: what was dropped, compared with half, under the mode (R62). -/
def roundsUp (mode : BitVec 3) (neg odd : Bool) (rest half : Nat) (st : Bool) : Bool :=
  let inexact := rest != 0 || st
  if mode = 0 then half < rest || (rest = half && half != 0 && (st || odd))
  else if mode = 1 then false
  else if mode = 2 then neg && inexact
  else if mode = 3 then !neg && inexact
  else half < rest || (rest = half && half != 0)

/-- Round m × 2^e to a multiple of 2^q: the multiple, and whether anything was lost. -/
def roundAt (mode : BitVec 3) (neg : Bool) (m : Nat) (e : Int) (st : Bool) (q : Int) : Nat × Bool :=
  if e < q then
    let k := (q - e).toNat
    let kept := m / 2 ^ k
    let rest := m % 2 ^ k
    let up := roundsUp mode neg (kept.testBit 0) rest (2 ^ (k - 1)) st
    (kept + up.toNat, rest != 0 || st)
  else
    let kept := m * 2 ^ (e - q).toNat
    (kept + (roundsUp mode neg (kept.testBit 0) 0 1 st).toNat, st)

/-- The exponent of the leading one of a nonzero m × 2^e. -/
def topExp (m : Nat) (e : Int) : Int := e + Nat.log2 m

/-- The overflow result (Table 3-3). -/
def Fmt.overflow (f : Fmt) (mode : BitVec 3) (neg : Bool) : Nat :=
  if mode = 0 || mode = 4 then f.infty neg
  else if mode = 1 then f.largest neg
  else if mode = 2 then (if neg then f.infty neg else f.largest neg)
  else (if neg then f.largest neg else f.infty neg)

/-- Round a nonzero number with the format's precision and an unbounded exponent range: significand and exponent of its
unit, and whether anything was lost. -/
def Fmt.unbounded (f : Fmt) (mode : BitVec 3) (neg : Bool) (m : Nat) (e : Int) (st : Bool) : Nat × Int × Bool :=
  let q := topExp m e - f.fw
  let (k, lost) := roundAt mode neg m e st q
  if k = 2 ^ (f.fw + 1) then (2 ^ f.fw, q + 1, lost) else (k, q, lost)

/-- round(fmt, x, mode): the pattern and the flags (R62, R64). -/
def Fmt.round (f : Fmt) (mode : BitVec 3) : FV → Nat × BitVec 9
  | .nan sig => (f.qnan, flagIf sig fNV)
  | .inf neg =>
    match f.kind with
    | .e4 => (f.largest neg, fNV)
    | _ => (f.infty neg, 0)
  | .num neg 0 _ _ => (f.pack neg 0 0, 0)
  | .num neg m e st =>
    let (k, q, lost) := f.unbounded mode neg m e st
    let top := q + f.fw
    let be := top + f.bias
    match f.kind with
    | .ieee =>
      if be < 1 then
        let (k, lost) := roundAt mode neg m e st (1 - (f.bias : Int) - f.fw)
        (f.pack neg 0 0 + k, flagIf lost (fUF ||| fNX))
      else if (f.emax : Int) ≤ be then (f.overflow mode neg, fOF ||| fNX)
      else if topExp m e + f.bias < 1 then
        -- tiny before rounding but not after it
        let (k, lost) := roundAt mode neg m e st (1 - (f.bias : Int) - f.fw)
        (f.pack neg 0 0 + k, flagIf lost fNX)
      else (f.pack neg be.toNat (k - 2 ^ f.fw), flagIf lost fNX)
    | .e4 =>
      if be < 1 then (f.pack neg 0 0, fUF ||| fNX)
      else if 15 < be || (be = 15 && k = 15) then (f.largest neg, fOF ||| fNX)
      else (f.pack neg be.toNat (k - 2 ^ f.fw), flagIf lost fNX)
    | .e5 =>
      if be < 1 then (f.pack neg 0 0, fUF ||| fNX)
      else if 31 ≤ be then (f.overflow mode neg, fOF ||| fNX)
      else (f.pack neg be.toNat (k - 2 ^ f.fw), flagIf lost fNX)

/-! ## Exact operations -/

/-- A value with the flags met so far. -/
abbrev FR := FV × BitVec 9

/-- A signalling NaN among operands sets NV (R60). -/
def sigNV : List FV → BitVec 9
  | [] => 0
  | .nan true :: r => fNV ||| sigNV r
  | _ :: r => sigNV r

/-- The value is a NaN. -/
def FV.isNan : FV → Bool
  | .nan _ => true
  | _ => false

/-- The value with its sign inverted; a NaN stays. -/
def FV.neg : FV → FV
  | .nan s => .nan s
  | .inf n => .inf (!n)
  | .num n m e st => .num (!n) m e st

/-- The signed integer m of a number at unit 2^q, for q at most its exponent. -/
def atUnit (neg : Bool) (m : Nat) (e q : Int) : Int :=
  let v : Int := (m * 2 ^ (e - q).toNat : Nat)
  if neg then -v else v

/-- The exact sum (R63): a zero sum is +0, or −0 under RDN; two zeros of one sign keep it. -/
def FV.add (mode : BitVec 3) (x y : FV) : FR :=
  match x, y with
  | .nan a, .nan b => (.nan false, flagIf (a || b) fNV)
  | .nan a, _ => (.nan false, flagIf a fNV)
  | _, .nan b => (.nan false, flagIf b fNV)
  | .inf a, .inf b => if a = b then (.inf a, 0) else (.nan false, fNV)
  | .inf a, _ => (.inf a, 0)
  | _, .inf b => (.inf b, 0)
  | .num a m e _, .num b n g _ =>
    if m = 0 && n = 0 then (.num (if a = b then a else mode = 2) 0 0 false, 0)
    else
      let q := if m = 0 then g else if n = 0 then e else if e ≤ g then e else g
      let v := (if m = 0 then 0 else atUnit a m e q) + (if n = 0 then 0 else atUnit b n g q)
      if v = 0 then (.num (mode = 2) 0 0 false, 0) else (.num (v < 0) v.natAbs q false, 0)

/-- The exact product; ∞ × 0 is invalid. -/
def FV.mul (x y : FV) : FR :=
  match x, y with
  | .nan a, .nan b => (.nan false, flagIf (a || b) fNV)
  | .nan a, _ => (.nan false, flagIf a fNV)
  | _, .nan b => (.nan false, flagIf b fNV)
  | .inf a, .inf b => (.inf (a != b), 0)
  | .inf a, .num b n _ _ => if n = 0 then (.nan false, fNV) else (.inf (a != b), 0)
  | .num a m _ _, .inf b => if m = 0 then (.nan false, fNV) else (.inf (a != b), 0)
  | .num a m e _, .num b n g _ => (.num (a != b) (m * n) (if m * n = 0 then 0 else e + g) false, 0)

/-- x × y + z before its one rounding (R63, R177). -/
def FV.fma (mode : BitVec 3) (x y z : FV) : FR :=
  let (p, f) := x.mul y
  if p.isNan then (.nan false, f ||| sigNV [z])
  else
    let (r, g) := p.add mode z
    (r, f ||| g)

/-- The quotient, to enough bits for any format (Table 3-4). -/
def FV.div (x y : FV) : FR :=
  match x, y with
  | .nan a, .nan b => (.nan false, flagIf (a || b) fNV)
  | .nan a, _ => (.nan false, flagIf a fNV)
  | _, .nan b => (.nan false, flagIf b fNV)
  | .inf _, .inf _ => (.nan false, fNV)
  | .inf a, .num b _ _ _ => (.inf (a != b), 0)
  | .num a _ _ _, .inf b => (.num (a != b) 0 0 false, 0)
  | .num a m e _, .num b n g _ =>
    if n = 0 then (if m = 0 then (.nan false, fNV) else (.inf (a != b), fDZ))
    else if m = 0 then (.num (a != b) 0 0 false, 0)
    else
      let k := Nat.log2 n + 64
      let p := m * 2 ^ k
      (.num (a != b) (p / n) (e - g - k) (p % n != 0), 0)

/-- Newton's integer square root from a start not below it. -/
def isqrtFrom (n : Nat) : Nat → Nat → Nat
  | 0, x => x
  | k + 1, x =>
    let y := (x + n / x) / 2
    if x ≤ y then x else isqrtFrom n k y

/-- The integer square root. -/
def isqrt (n : Nat) : Nat := if n = 0 then 0 else isqrtFrom n (Nat.log2 n + 2) (2 ^ (Nat.log2 n / 2 + 1))

/-- The square root, to enough bits (Table 3-4). -/
def FV.sqrt (x : FV) : FR :=
  match x with
  | .nan a => (.nan false, flagIf a fNV)
  | .inf neg => if neg then (.nan false, fNV) else (.inf false, 0)
  | .num neg m e _ =>
    if m = 0 then (.num neg 0 0 false, 0)
    else if neg then (.nan false, fNV)
    else
      let m1 := if e % 2 = 0 then m else 2 * m
      let e1 := if e % 2 = 0 then e else e - 1
      let p := m1 * 2 ^ 128
      let r := isqrt p
      (.num false r (e1 / 2 - 64) (r * r != p), 0)

/-- The reciprocal square root, to enough bits (Table 3-4). -/
def FV.rsqrt (x : FV) : FR :=
  match x with
  | .nan a => (.nan false, flagIf a fNV)
  | .inf neg => if neg then (.nan false, fNV) else (.num false 0 0 false, 0)
  | .num neg m e _ =>
    if m = 0 then (.inf neg, fDZ)
    else if neg then (.nan false, fNV)
    else
      let m1 := if e % 2 = 0 then m else 2 * m
      let e1 := if e % 2 = 0 then e else e - 1
      let k := Nat.log2 m1 + 128
      let p := 2 ^ (2 * k)
      let r := isqrt (p / m1)
      (.num false r (-(e1 / 2) - k) (r * r * m1 != p), 0)

/-- ln 2 × 2^256, rounded down. (DEDUCED, log 25) -/
def ln2Fixed : Nat := 0xb17217f7d1cf79abc9e3b39803f2f6af40f343267298b62d8a0d175b8baafa2b

/-- Sum of y^n / n! for the terms left, in units of 2^-256, from the term reached. -/
def expTerms (y : Nat) : Nat → Nat → Nat → Nat
  | 0, _, _ => 0
  | k + 1, n, term => term + expTerms y k (n + 1) (term * y / 2 ^ 256 / (n + 1))

/-- 2^x: exact for an integer x; otherwise its first 256 fraction bits with an excess (Table 3-4). (DEDUCED, log 25) -/
def FV.exp2 (x : FV) : FR :=
  match x with
  | .nan a => (.nan false, flagIf a fNV)
  | .inf neg => (if neg then .num false 0 0 false else .inf false, 0)
  | .num neg m e _ =>
    if m = 0 then (.num false 1 0 false, 0)
    else if 11 ≤ topExp m e then (.num false 1 (if neg then -4096 else 4096) false, 0)
    else if 0 ≤ e then (.num false 1 (atUnit neg m e 0) false, 0)
    else
      let u := (-e).toNat
      let v : Int := if neg then -(m : Int) else m
      let k := v / 2 ^ u
      let frac := (v % 2 ^ u).toNat
      if frac = 0 then (.num false 1 k false, 0)
      else (.num false (expTerms (frac * ln2Fixed / 2 ^ u) 80 0 (2 ^ 256)) (k - 256) true, 0)

/-- Whether x orders below y: numbers and infinities, with −0 below +0 where `zeros` holds. -/
def FV.lt (zeros : Bool) (x y : FV) : Bool :=
  match x, y with
  | .inf a, .inf b => a && !b
  | .inf a, .num _ _ _ _ => a
  | .num _ _ _ _, .inf b => !b
  | .num a m e _, .num b n g _ =>
    if m = 0 && n = 0 then zeros && a && !b
    else
      let q := if e ≤ g then e else g
      atUnit a m e q < atUnit b n g q
  | _, _ => false

/-- minimumNumber and maximumNumber (R63). -/
def FV.minmax (max : Bool) (x y : FV) : FR :=
  let f := sigNV [x, y]
  if x.isNan then (if y.isNan then .nan false else y, f)
  else if y.isNan then (x, f)
  else (if (if max then x.lt true y else y.lt true x) then y else x, f)

/-- Comparisons: equal, less, less or equal; a NaN gives 0, with NV for a signalling one or, where `quiet` fails, for any
(R178). -/
def FV.eq (x y : FV) : Bool := !x.isNan && !y.isNan && !x.lt false y && !y.lt false x
def FV.le (x y : FV) : Bool := !x.isNan && !y.isNan && !y.lt false x
def cmpFlags (quiet : Bool) (x y : FV) : BitVec 9 := if quiet then sigNV [x, y] else flagIf (x.isNan || y.isNan) fNV

/-! ## Integers (R65, R181) -/

/-- A number rounded to an integer, and whether anything was lost. -/
def roundInt (mode : BitVec 3) (neg : Bool) (m : Nat) (e : Int) (st : Bool) : Int × Bool :=
  let (k, lost) := roundAt mode neg m e st 0
  (if neg then -(k : Int) else k, lost)

/-- Conversion to an integer range, clamped with NV; a NaN gives 0 with NV (R65). -/
def FV.toInt (mode : BitVec 3) (lo hi : Int) : FV → Int × BitVec 9
  | .nan _ => (0, fNV)
  | .inf neg => (if neg then lo else hi, fNV)
  | .num neg m e st =>
    if 80 ≤ topExp m e && m != 0 then (if neg then lo else hi, fNV)
    else
      let (v, lost) := roundInt mode neg m e st
      if v < lo then (lo, fNV) else if hi < v then (hi, fNV) else (v, flagIf lost fNX)

/-- An integer as an exact value. -/
def FV.ofInt (v : Int) : FV := .num (v < 0) v.natAbs 0 false

/-- Width and signedness of an integer type (R181). -/
def iTy : ITy → Nat × Bool
  | .i64 => (64, true)
  | .i32 => (32, true)
  | .i16 => (16, true)
  | .i8 => (8, true)
  | .n64 => (64, false)
  | .n32 => (32, false)
  | .n16 => (16, false)
  | .n8 => (8, false)

/-- The bounds of an integer type. -/
def iBounds (w : Nat) (sg : Bool) : Int × Int := if sg then (-(2 ^ (w - 1) : Int), (2 ^ (w - 1) : Int) - 1) else (0, (2 ^ w : Int) - 1)

/-- The signed value of the low w bits of a number. -/
def sIntOf (v w : Nat) : Int := if v.testBit (w - 1) then (v % 2 ^ w : Nat) - (2 ^ w : Int) else (v % 2 ^ w : Nat)

/-- One of the ten classes of `FCLASS` (Table 8-5). -/
def Fmt.classOf (f : Fmt) (b : Nat) : Nat :=
  let neg := b.testBit (f.ew + f.fw)
  let e := b / 2 ^ f.fw % 2 ^ f.ew
  let m := b % 2 ^ f.fw
  if e = f.emax then
    (if m = 0 then (if neg then 0 else 7) else if m.testBit (f.fw - 1) then 9 else 8)
  else if e = 0 then
    (if m = 0 then (if neg then 3 else 4) else if neg then 2 else 5)
  else if neg then 1 else 6

/-! ## Scalar instructions -/

/-- A scalar operand as a value (R155). -/
def fval (f : FFmt) (w : Word) : FV := (fmtOf f).value (w.toNat % 2 ^ (fmtOf f).width)

/-- A result rounded to a format with all its flags (R155, R176). -/
def fres (f : Fmt) (mode : BitVec 3) (r : FR) : Word × BitVec 9 :=
  let (b, g) := f.round mode r.1
  (w64 b, r.2 ||| g)

/-- A two-source scalar operation (R155, R176). -/
def fop2 (d x y : Operand) (f : BitVec 3 → Word → Word → Word × BitVec 9) (s : State) : Eff := do
  let t ← s.ready [x, y] [d] []
  let (a, b, s1) := s.read2 t x y
  let (v, g) := f t.rnd a b
  return ((s1.write d v).orFlags g).advance t

/-- A one-source scalar operation. -/
def fop1 (d x : Operand) (f : BitVec 3 → Word → Word × BitVec 9) (s : State) : Eff := do
  let t ← s.ready [x] [d] []
  let (a, s1) := s.read1 t x
  let (v, g) := f t.rnd a
  return ((s1.write d v).orFlags g).advance t

/-- A scalar comparison (R178). -/
def fcmp (p : BitVec 5) (x y : Operand) (f : Word → Word → Bool × BitVec 9) (s : State) : Eff := do
  let t ← s.ready [x, y] [] [p]
  let (a, b, s1) := s.read2 t x y
  let (r, g) := f a b
  return ((s1.modMe (fun t => t.setP p r)).orFlags g).advance t

/-- `FADD` (Table 8-4). -/
def execFadd (d x y : Operand) (f : FFmt) (s : State) : Host.Outcome State Fault Refusal :=
  (fop2 d x y (fun m a b => fres (fmtOf f) m ((fval f a).add m (fval f b))) s).done

/-- `FSUB` (Table 8-4). -/
def execFsub (d x y : Operand) (f : FFmt) (s : State) : Host.Outcome State Fault Refusal :=
  (fop2 d x y (fun m a b => fres (fmtOf f) m ((fval f a).add m (fval f b).neg)) s).done

/-- `FMUL` (Table 8-4). -/
def execFmul (d x y : Operand) (f : FFmt) (s : State) : Host.Outcome State Fault Refusal :=
  (fop2 d x y (fun m a b => fres (fmtOf f) m ((fval f a).mul (fval f b))) s).done

/-- `FDIV` (Tables 3-4, 8-4). -/
def execFdiv (d x y : Operand) (f : FFmt) (s : State) : Host.Outcome State Fault Refusal :=
  (fop2 d x y (fun m a b => fres (fmtOf f) m ((fval f a).div (fval f b))) s).done

/-- `FSQRT` (Tables 3-4, 8-4). -/
def execFsqrt (d x : Operand) (f : FFmt) (s : State) : Host.Outcome State Fault Refusal :=
  (fop1 d x (fun m a => fres (fmtOf f) m (fval f a).sqrt) s).done

/-- `FMA`: one rounding (R177). -/
def execFma (d x y z : Operand) (f : FFmt) (s : State) : Host.Outcome State Fault Refusal :=
  Eff.done do
    let t ← s.ready [x, y, z] [d] []
    let (a, b, s1) := s.read2 t x y
    let (c, s2) := s1.read1 t z
    let (v, g) := fres (fmtOf f) t.rnd ((fval f a).fma t.rnd (fval f b) (fval f c))
    return ((s2.write d v).orFlags g).advance t

/-- `FMIN` (R63). -/
def execFmin (d x y : Operand) (f : FFmt) (s : State) : Host.Outcome State Fault Refusal :=
  (fop2 d x y (fun m a b => fres (fmtOf f) m ((fval f a).minmax false (fval f b))) s).done

/-- `FMAX` (R63). -/
def execFmax (d x y : Operand) (f : FFmt) (s : State) : Host.Outcome State Fault Refusal :=
  (fop2 d x y (fun m a b => fres (fmtOf f) m ((fval f a).minmax true (fval f b))) s).done

/-- The sign bit of a format's operand replaced; nothing else changes (R60). -/
def signBit (f : FFmt) (flip : Bool) (w : Word) : Word :=
  let k := (fmtOf f).width
  let v := w.toNat % 2 ^ k
  w64 (v % 2 ^ (k - 1) + (if flip && !v.testBit (k - 1) then 2 ^ (k - 1) else 0))

/-- `FABS`: sign 0, no flag (R60). -/
def execFabs (d x : Operand) (f : FFmt) (s : State) : Host.Outcome State Fault Refusal :=
  (fop1 d x (fun _ a => (signBit f false a, 0)) s).done

/-- `FNEG`: sign inverted, no flag (R60). -/
def execFneg (d x : Operand) (f : FFmt) (s : State) : Host.Outcome State Fault Refusal :=
  (fop1 d x (fun _ a => (signBit f true a, 0)) s).done

/-- `FCEQ` (R178). -/
def execFceq (p : BitVec 5) (x y : Operand) (f : FFmt) (s : State) : Host.Outcome State Fault Refusal :=
  (fcmp p x y (fun a b => ((fval f a).eq (fval f b), cmpFlags true (fval f a) (fval f b))) s).done

/-- `FCLT` (R178). -/
def execFclt (p : BitVec 5) (x y : Operand) (f : FFmt) (s : State) : Host.Outcome State Fault Refusal :=
  (fcmp p x y (fun a b => ((fval f a).lt false (fval f b), cmpFlags false (fval f a) (fval f b))) s).done

/-- `FCLE` (R178). -/
def execFcle (p : BitVec 5) (x y : Operand) (f : FFmt) (s : State) : Host.Outcome State Fault Refusal :=
  (fcmp p x y (fun a b => ((fval f a).le (fval f b), cmpFlags false (fval f a) (fval f b))) s).done

/-- Source value and destination format of `FCVT` (R180). -/
def fcvtOf (f : FFmt) (sel : FcvtSel) (w : Word) : FV × Fmt :=
  match sel with
  | .fromF g => (fval g w, fmtOf f)
  | .toE4 => (fval f w, fmtE4)
  | .toE5 => (fval f w, fmtE5)
  | .fromE4 => (fmtE4.value (w.toNat % 256), fmtOf f)
  | .fromE5 => (fmtE5.value (w.toNat % 256), fmtOf f)

/-- `FCVT` (R180). -/
def execFcvt (d x : Operand) (f : FFmt) (sel : FcvtSel) (s : State) : Host.Outcome State Fault Refusal :=
  (fop1 d x (fun m a => fres (fcvtOf f sel a).2 m ((fcvtOf f sel a).1, 0)) s).done

/-- `FCVTI` (R65, R181). -/
def execFcvti (d x : Operand) (f : FFmt) (ty : ITy) (s : State) : Host.Outcome State Fault Refusal :=
  (fop1 d x (fun m a =>
    let b := iBounds (iTy ty).1 (iTy ty).2
    let (v, g) := (fval f a).toInt m b.1 b.2
    (BitVec.ofInt 64 v, g)) s).done

/-- `ICVTF` (R65, R181). -/
def execIcvtf (d x : Operand) (f : FFmt) (ty : ITy) (s : State) : Host.Outcome State Fault Refusal :=
  (fop1 d x (fun m a =>
    let (w, sg) := iTy ty
    fres (fmtOf f) m (FV.ofInt (if sg then sIntOf a.toNat w else (a.toNat % 2 ^ w : Nat)), 0)) s).done

/-- `FCLASS`: one bit set, no flag (R179). -/
def execFclass (d x : Operand) (f : FFmt) (s : State) : Host.Outcome State Fault Refusal :=
  (fop1 d x (fun _ a => (w64 (2 ^ (fmtOf f).classOf (a.toNat % 2 ^ (fmtOf f).width)), 0)) s).done

end Sys2Proof.Machine
end

