-- ==== Sys2Proof/Machine/Alu.lean ====
section
/-! DEFINITION. What the issuing core's ALU does between the grant and the release: the functions of the atomics (Table 9-4)
and of probabilistic counters (R96 to R98). -/

namespace Sys2Proof.Machine

/-- f of Table 9-4 on words of w bits: the new word, whether the form writes, and flags. -/
def AtomFn.apply (f : AtomFn) (w : Nat) (old x c : BitVec w) : BitVec w × Bool × BitVec 9 :=
  match f with
  | .add => (old + x, true, 0)
  | .and => (old &&& x, true, 0)
  | .or => (old ||| x, true, 0)
  | .xor => (old ^^^ x, true, 0)
  | .min => (minS old x, true, 0)
  | .max => (maxS old x, true, 0)
  | .minu => (minU old x, true, 0)
  | .maxu => (maxU old x, true, 0)
  | .swp => (x, true, 0)
  | .cas => (x, old == c, 0)
  | .incb => (old + 1, old.ult x, 0)
  | .fadd rnd =>
    let fmt := if w = 64 then fmt64 else fmt32
    let (b, g) := fmt.round rnd ((fmt.value old.toNat).add rnd (fmt.value x.toNat)).1
    (BitVec.ofNat w b, true, ((fmt.value old.toNat).add rnd (fmt.value x.toNat)).2 ||| g)

/-- The result of a form in the destination: extended with its sign in `.w`, but with zeros for `AFADD` (R193). -/
def AtomFn.result (f : AtomFn) (dbl : Bool) (old : Nat) : Word :=
  if dbl then w64 old
  else match f with
    | .fadd _ => w64 (old % 2 ^ 32)
    | _ => (BitVec.ofNat 32 old).signExtend 64

/-- One fetch-and-op: the bytes to write, if it writes, the result, and flags. -/
def atomRun (f : AtomFn) (dbl : Bool) (old : Nat) (x c : Word) : Option (List Byte) × Word × BitVec 9 :=
  if dbl then
    let (v, wr, g) := f.apply 64 (w64 old) x c
    (if wr then some (leBytes 8 v.toNat) else none, f.result true old, g)
  else
    let (v, wr, g) := f.apply 32 (BitVec.ofNat 32 old) (x.setWidth 32) (c.setWidth 32)
    (if wr then some (leBytes 4 v.toNat) else none, f.result false old, g)

/-! ## Probabilistic counters -/

/-- est(L, s) (R97). -/
def est (s : Nat) : Nat → Nat
  | 0 => 0
  | l + 1 => est s l + 2 ^ (l / 2 ^ s)

/-- The largest level from l up, of at most k more, whose estimate stays at or below a bound; `e` is est(l). -/
def topLevel (s bound : Nat) : Nat → Nat → Nat → Nat
  | 0, l, _ => l
  | k + 1, l, e =>
    let e1 := e + 2 ^ (l / 2 ^ s)
    if e1 ≤ bound then topLevel s bound k (l + 1) e1 else l

/-- Lmax for a width and base (R96, Table 4-7). -/
def lmax (wide : Bool) (s : Nat) : Nat := topLevel s (2 ^ 64 - 1) (if wide then 255 else 15) 0 0

/-- One draw (R97). -/
def draw (cds : BitVec 32) : BitVec 32 := cds * 69069 + 1

/-- n draws joined to one number, and the draw state after them (R97). -/
def draws : Nat → BitVec 32 → Nat → Nat × BitVec 32
  | 0, cds, x => (x, cds)
  | n + 1, cds, x => draws n (draw cds) (x * 2 ^ 32 + (draw cds).toNat)

/-- promote(L, s, num) with the draw state (R97). -/
def promote (l s num : Nat) (cds : BitVec 32) : Bool × BitVec 32 :=
  let k := l / 2 ^ s
  let n := if k = 0 then 1 else (k + 31) / 32
  let (x, c) := draws n cds 0
  (x < num * 2 ^ (32 * n - k), c)

/-- m trials of an add: the level, the draw state, and whether a trial met the largest level (R98). -/
def addTrials (s top : Nat) : Nat → Nat → BitVec 32 → Bool → Nat × BitVec 32 × Bool
  | 0, l, c, sat => (l, c, sat)
  | m + 1, l, c, sat =>
    if l = top then addTrials s top m l c true
    else
      let (up, c1) := promote l s 1 c
      addTrials s top m (if up then l + 1 else l) c1 sat

/-- A merge of two levels (R98). -/
def mergeLevels (s top l1 l2 : Nat) (c : BitVec 32) : Nat × BitVec 32 × Bool :=
  let t := est s l1 + est s l2
  if est s top ≤ t then (top, c, est s top < t)
  else
    let l := topLevel s t top 0 0
    if est s l < t then
      let (up, c1) := promote l s (t - est s l) c
      (if up then l + 1 else l, c1, false)
    else (l, c, false)

/-- The level of a counter in its byte (R96): a stored level above Lmax reads as Lmax. -/
def levelOf (wide hi : Bool) (byte : Nat) : Nat := if wide then byte else if hi then byte / 16 % 16 else byte % 16

/-- The byte with a counter's level replaced (R99). -/
def setLevel (wide hi : Bool) (byte l : Nat) : Nat :=
  if wide then l else if hi then byte % 16 + l % 16 * 16 else byte / 16 * 16 + l % 16

/-- What a counter instruction does: the byte to write, if any, d, the draw state and PCSAT (Table 9-5). -/
def ctrRun (f : CtrFn) (hi : Bool) (pcb : BitVec 3) (byte : Nat) (cds : BitVec 32) :
    Option Nat × Word × BitVec 32 × BitVec 9 :=
  let wide := pcb.getLsbD 0
  let s := pcb.toNat / 2
  let top := lmax wide s
  let raw := levelOf wide hi byte
  let l := if top < raw then top else raw
  match f with
  | .add m =>
    let (l1, c, sat) := addTrials s top m l cds false
    (some (setLevel wide hi byte l1), w64 l1, c, flagIf sat fPCSAT)
  | .rd => (none, w64 (est s l), cds, 0)
  | .mrg l2 =>
    let (l1, c, sat) := mergeLevels s top l (if top < l2 then top else l2) cds
    (some (setLevel wide hi byte l1), w64 l1, c, flagIf sat fPCSAT)
  | .lv => (none, w64 l, cds, 0)
  | .lvSet v => (some (setLevel wide hi byte v), w64 l, cds, 0)

end Sys2Proof.Machine
end

