-- ==== Sys2Proof/Machine/Bank.lean ====
section
/-! DEFINITION. The ordering machine's own steps (Table 6-2): arriving, performing at a bank, granting and releasing a line,
completing, and the probes of a fence (R121 to R138, R193 to R201). -/

namespace Sys2Proof.Machine

/-! ## Effects on a thread wherever it is (R61, R204, R301) -/

/-- The storage of a byte of a save block. -/
def Saved.key (x : Saved) (off : Nat) : Nat := x.lines.getD (off / 64) 0 + off % 64

/-- The lines of a block in the save area, which lies in one piece (R300). -/
def blockLines (base : Nat) : List Nat := (List.range 8).map (fun i => base + 64 * i)

/-- The SAVED record of a thread. -/
def State.savedOf? (s : State) (who : Ident) : Option Saved :=
  s.cores.findSome? (fun (_, k) => k.saved.find? (fun x => x.t.id == who))

/-- The slot of a thread issues no more in this cycle (R37, R61). -/
def State.closeSlot (s : State) (who : Ident) : State :=
  match s.placeOf? who with
  | some (c, i) => s.modSlot c i (fun sl => { sl with shutAt := some s.time.toNat })
  | none => s

/-- OR flags into a thread's `sst`, in its save block where it is SAVED; a write of `sst` in the same cycle comes before (R61). -/
def State.orSstWho (s : State) (who : Ident) (f : BitVec 9) : State :=
  let s1 := (if f = 0 then s else s.closeSlot who).modWho who (fun t => t.orSst f)
  match s1.savedOf? who with
  | none => s1
  | some x => s1.homeWrite (x.key 0) (leBytes 8 (Nat.lor (s1.rawNat (x.key 0) 8) (f.toNat * 2 ^ 31)))

/-- The operand code of a register (Table 2-1). -/
def regCode : RegName → Nat
  | .g n => n.val
  | .a n => 16 + n.val

/-- The registers g0-g15 and a0-a7. -/
def allRegs : List RegName :=
  ((List.range 16).map (fun i => RegName.g (Fin.ofNat 16 i))) ++ ((List.range 8).map (fun i => RegName.a (Fin.ofNat 8 i)))

/-- A register of a save block becomes FULL with a value (Table 19-8). -/
def State.putBlock (s : State) (x : Saved) (r : RegName) (v : Word) : State :=
  let c := regCode r
  let bits0 := BitVec.ofNat 64 (s.rawNat (x.key 208) 8)
  let bits1 := (bits0 ||| (1 <<< c)) &&& ~~~(1#64 <<< (24 + c))
  (s.homeWrite (x.key (16 + 8 * c)) (leBytes 8 v.toNat)).homeWrite (x.key 208) (leBytes 8 bits1.toNat)

/-- A register of a thread becomes FULL with a value, wherever the thread is. (DEDUCED, log 60) -/
def State.putReg (s : State) (who : Ident) (r : RegName) (v : Word) : State :=
  let s1 := match s.savedOf? who with
    | some x => s.putBlock x r v
    | none => s
  s1.modWho who (fun t => t.setCell r (.of v))

/-- The register that awaits a tag is filled, wherever the thread is (R35). -/
def State.fillWho (s : State) (who : Ident) (tag : Nat) (v : Word) : State :=
  let s1 := match s.savedOf? who with
    | some x =>
      match allRegs.find? (fun r => (x.t.cell r).pend == some tag) with
      | some r => s.putBlock x r v
      | none => s
    | none => s
  s1.modWho who (Thread.fill tag v)

/-- The block of a SAVED thread that is DROPPED takes the value of its wake, and its state becomes 3 (R30, Table 19-8). -/
def State.wakeBlock (s : State) (who : Ident) (v : Word) : State :=
  match s.savedOf? who with
  | none => s
  | some x =>
    let w := s.rawNat (x.key 0) 8
    (s.homeWrite (x.key 0) (leBytes 8 (if bits w 21 19 = 2 then w + 2 ^ 19 else w))).homeWrite (x.key 304) (leBytes 8 v.toNat)

/-- A completed access that its thread did not wait for at its instruction: the block of a SAVED thread takes its register and its flags
(R30, R61, Table 19-8). -/
def State.completeSaved (s : State) (r : Reply) (v : Word) : State :=
  match s.savedOf? r.who with
  | none => s
  | some x =>
    let s0 := if x.t.status == .dropped r.tag false then s.wakeBlock r.who v else s
    let s1 := match allRegs.find? (fun g => (x.t.cell g).pend == some r.tag) with
      | some g => s0.putBlock x g v
      | none => s0
    if r.sst = 0 then s1
    else s1.homeWrite (x.key 0) (leBytes 8 (Nat.lor (s1.rawNat (x.key 0) 8) (r.sst.toNat * 2 ^ 31)))

/-- The draw state of a thread, in its block too where it is SAVED (R97, Table 19-8). -/
def State.setCds (s : State) (who : Ident) (c : BitVec 32) : State :=
  let s1 := s.modWho who (fun t => { t with cds := c })
  match s1.savedOf? who with
  | none => s1
  | some x => s1.homeWrite (x.key 224) (leBytes 4 c.toNat)

/-- A queue's place or a latch of a SAVED core is filled in its core block (R302). (DEDUCED, log 60) -/
def State.fillPlace (s : State) (d : Dst) (tag : Nat) (v : Word) : State :=
  match d with
  | .queue c k =>
    match (s.core c).blocks.findSome? (fun b => (b.places.find? (fun x => x.2.2 == tag)).map (fun x => (b, x))) with
    | none => s
    | some (b, x) =>
      (s.homeWrite (b.base + 0x70000 + 128 * k.val + 8 * x.2.1) (leBytes 8 v.toNat)).modCore c (fun q =>
        { q with blocks := q.blocks.map (fun y => if y.prio = b.prio then { y with places := y.places.filter (fun z => z.2.2 != tag) } else y) })
  | _ => s

/-- A refused access leaves its destination as it was: no write, no post-increment (R183, R368). -/
def Thread.undo (tag : Nat) (undo : Option (Fin 8 × Word)) (t : Thread) : Thread :=
  let f := fun (c : RegCell) => if c.pend = some tag then { c with full := true, pend := none } else c
  let t1 := { t with g := t.g.map f, win := t.win.map f, a := t.a.map f
                     oar := t.oar.filter (fun o => o.tag != tag)
                     predPend := t.predPend.filter (fun p => p.2 != tag) }
  match undo with
  | some (p, v) => { t1 with a := t1.a.set p (.of v) }
  | none => t1

/-- Places from the head among the entries that are kept. -/
def keptPlaces (keep : QEntry → Bool) (q : List QEntry) (l : List Nat) : List Nat :=
  let old := (List.range q.length).filter (fun i => (q[i]?).any keep)
  (List.range old.length).filter (fun j => (old[j]?).any l.contains)

/-- A place kept in a queue for a refused access is given up. -/
def State.dropDst (s : State) (d : Dst) (tag : Nat) : State :=
  match d with
  | .queue c k => s.modCore c (fun x => { x with
      q := x.q.set k (x.q[k].filter (fun e => e != .res tag)), badQ := x.badQ.set k (keptPlaces (fun e => e != .res tag) x.q[k] x.badQ[k]) })
  | _ => s

/-! ## Arrive -/

/-- The access tables on the way of a message grant it. -/
def State.msgGranted (s : State) (m : Msg) : Bool := s.grantsTo m.core m.part m.bank m.pa m.op.rights

/-- Two messages share a path: one core sends them to the same line, or to one bank of its own scratchpad (R124, R262, R349). -/
def samePath (m n : Msg) : Bool :=
  m.core == n.core && (lineOf m.pa == lineOf n.pa || (ownBank m.bank m.core && m.bank == n.bank))

/-- A message is first on its path: no earlier one of its sender is on it (R124). -/
def firstOnPath (m : Msg) : List Msg → Bool
  | [] => true
  | x :: l => if x.tag = m.tag then true else !(samePath x m) && firstOnPath m l

/-- A message that found both fault queues full stands in its port, which takes no further request of its quad for that home (R199). -/
def State.portFull (s : State) (m : Msg) : Bool :=
  s.net.any (fun x => x.stuck && x.tag != m.tag && x.bank == m.bank && quadOf x.core == quadOf m.core)

/-- The Relaxed set's entry is acknowledged, and the bank's mask bit set (R127); a scratchpad of this module needs no bit (R128). A probe of the
bank that is under way stands for nothing behind it, so its echo is no longer waited for (R129). -/
def Thread.ack (tag : Nat) (t : Thread) : Thread :=
  match t.rlx.find? (fun e => e.tag == tag) with
  | none => t
  | some e =>
    let b := maskBank e.bank
    { t with rlx := t.rlx.filter (fun x => x.tag != tag)
             probes := t.probes.filter (fun p => p.2 != b)
             mask := if e.own || t.mask.contains b then t.mask else b :: t.mask }

/-- A reply of a message. -/
def replyOf (m : Msg) (val : Word) : Reply :=
  { tag := m.tag, who := m.who, val := val, pred := none, sst := 0, chk := none, rsv := none, trap := none, park := none, msg := m, sent := 0 }

/-- Put a reply on the return path, behind the wakes that have left before it (R349). -/
def State.reply (s : State) (r : Reply) : State := { s with replies := s.replies ++ [{ r with sent := s.nextTag }] }

/-- An access that its port or its home refuses: an ordinary one traps precisely at its own PC; a relaxed one is logged, and a load fills
its destination with 0 (R185, R368). An access table's refusal of a relaxed access waits for the thread's next fence (R270). (DEDUCED, log 28) -/
def State.refuseAt (s : State) (m : Msg) (cause : BitVec 8) : State :=
  let val := if cause = cACCESS then w64 m.va else m.off
  if m.rlx then
    let s1 := if cause = cACCESS then s.modWho m.who (fun t => { t with refused := t.refused ++ [w64 m.va] })
      else s.logRefusal m.part m.who.ctx.toNat cause m.op.operand m.va (s.logOf m.core) m.slot.val m.opc m.bytes
    s1.reply (replyOf m 0)
  else s.reply { replyOf m 0 with trap := some (cause, val, m.pc, m.undo) }

/-- A(e): the message leaves its path for the bank's FIFO; a relaxed one is acknowledged (R123, R127). An access table that refuses it
answers a relaxed one with a NACK, as its port has done for an ordinary one (R273, R368); behind a fence it arrives after the rejoin (R329); one that stands in its port goes on once a fault queue has
room (R199); an output of a leading thread leaves once its Marker thread has come to it (R324). -/
def State.arrive (s : State) (tag : Nat) : State :=
  match s.net.find? (fun m => m.tag == tag) with
  | none => s
  | some m =>
    if !firstOnPath m s.net || s.fencedFrom m.core m.bank || s.portFull m || s.pairHeld m.core m.tag then s
    else if m.stuck && !(s.queueRoom (.home m.bank) || s.queueRoom (.port (quadOf m.core))) then s
    else
      let s1 := { s with net := s.net.filter (fun x => x.tag != tag) }
      let s2 := if m.rlx && !padBank m.bank then s1.modWho m.who (Thread.ack tag) else s1
      if !m.rlx || s2.msgGranted m then { s2 with inbox := s2.inbox ++ [{ m with stuck := false }] }
      else (s2.modWho m.who (Thread.ack tag)).refuseAt m cACCESS

/-! ## Faults at a home (R125, R199, R201) -/

/-- A page that is moving away, of the context and address of a message (R201). -/
def State.movingFor? (s : State) (m : Msg) : Option Move :=
  if isSp m.pa then none else s.moveOf m.part m.who.ctx.toNat m.va

/-- The page of a parked request holds a name. -/
def State.faultHas (s : State) (f : FaultEntry) (name : Nat) : Bool :=
  match s.walk f.part f.ctx f.va with
  | .leaf _ size e _ => leafHas e (pageBytes size) name
  | _ => false

/-- A parked request waits at a home: in its fault queue, or in a port's because that was full (R199). -/
def FaultEntry.atHome (f : FaultEntry) (b : Bank) : Bool :=
  match f.unit, f.what with
  | .home h, _ => h == b
  | .port _, .access m => m.bank == b && (f.kind == .stock || f.kind == .frame || f.kind == .moving)
  | .port _, _ => f.kind == .stock || f.kind == .frame || f.kind == .moving

/-- A request parked earlier at this home holds its page's later arrivals, whoever sent it (R125). -/
def State.heldBehind (s : State) (m : Msg) : Option FaultEntry :=
  if isSp m.pa then none else s.faultQ.find? (fun f => f.atHome m.bank && s.faultHas f m.pa)

/-- The thread of an ordinary access that is parked at its home becomes DROPPED. One that is held at its instruction, or waits for its
grant, returns to it and reissues it to complete; another has gone on, and its access completes when it is performed (R199). (DEDUCED,
log 27) -/
def Thread.dropAt (m : Msg) (t : Thread) : Thread :=
  if t.oar.any (fun o => o.tag == m.tag) then
    match t.status with
    | .held g => if g = m.tag then { t with status := .dropped m.tag true, pc := m.pc } else t
    | .parked (.grant _) => { t with status := .dropped m.tag true, pc := m.pc }
    | .ready => { t with status := .dropped m.tag false }
    | .parked w => if w.retests then { t with status := .dropped m.tag false } else t
    | _ => t
  else t

/-- Park a message in its home's fault queue, or, while that is full, in its port's; with both full its port holds it (R199). The thread of
an ordinary access is DROPPED. (DEDUCED, log 27) -/
def State.parkMsg (s : State) (m : Msg) (k : FaultKind) : State :=
  let place : Option FUnit :=
    if s.queueRoom (.home m.bank) then some (.home m.bank)
    else if s.queueRoom (.port (quadOf m.core)) then some (.port (quadOf m.core)) else none
  let s1 := match place with
    | none => { s with net := { m with stuck := true } :: s.net }
    | some u => s.parkFault ⟨u, m.who.ctx.toNat, m.part, m.va, k, .access m⟩ m.core
  if m.rlx then s1 else s1.modWho m.who (Thread.dropAt m)

/-- An access of the Relaxed set has found its bank. -/
def Thread.rebank (tag : Nat) (b : Bank) (t : Thread) : Thread :=
  { t with rlx := t.rlx.map (fun e => if e.tag = tag then { e with bank := b, own := padBank b } else e)
           rlxLoads := t.rlxLoads.map (fun e => if e.1 = tag then (tag, b) else e) }

/-- A relaxed access becomes an ordinary one: it leaves the Relaxed set for the Outstanding Access register (R128). -/
def Thread.ordinary (tag : Nat) (t : Thread) : Thread :=
  { t with rlx := t.rlx.filter (fun e => e.tag != tag), oar := some ⟨tag, false, false, none⟩ }

/-! ## Release records (R133 to R135) -/

/-- Scope domains: core x, slot u lies in the domain of level k of core c, slot t; cores by logical id (R14, R135). -/
def State.inDomain (s : State) (k : Scope) (c : Nat) (t : Fin 8) (x : Nat) (u : Fin 8) : Bool :=
  match k with
  | .ln => c == x && t == u
  | .co => c == x
  | .qd => quadOf (s.physOf c) == quadOf (s.physOf x)
  | .di => c / Config.logPerDie == x / Config.logPerDie
  | .pk | .pd => true

/-- The check of an acquire at scope a of a slot of a core on the word of a byte: matched when no record stands or both domains agree (R134,
R135). -/
def State.acquireAt (s : State) (name : Nat) (a : Scope) (core : Nat) (slot : Fin 8) : Bool :=
  match s.relRec.find? (fun r => r.word == name / 8 * 8) with
  | none => true
  | some r =>
    let x := s.logOf core
    s.inDomain r.scope r.lcore r.slot x slot && s.inDomain a x slot r.lcore r.slot

/-- The check of an access that acquires. -/
def State.acquireOk (s : State) (name : Nat) (a : Scope) (m : Msg) : Bool := s.acquireAt name a m.core m.slot

/-- The acquire effect of an access that failed its check is dropped: later accesses need not wait for it (R135). -/
def State.dropAcquire (s : State) (m : Msg) : State :=
  s.modWho m.who (fun t => { t with oar := t.oar.map (fun o => if o.tag = m.tag then { o with acq := false } else o) })

/-- The acquire scope of an access (R134); the completion of an `AWAIT` acquires at `.pk` (R136). -/
def MemOp.acq : MemOp → Option Scope
  | .load _ _ a _ => a
  | .atom _ _ _ _ a _ => a
  | .rsv _ a => a
  | .await _ => some .pk
  | _ => none

/-- The word whose record an acquire reads: that of its first byte, or of GEN (R133, R136). -/
def Msg.recAt (m : Msg) : Nat :=
  match m.op with
  | .await _ => m.pa + 8
  | _ => m.pa

/-- An acquire that later accesses of its thread have passed is performed only where its check fails: nothing else is a run (R134, R135). -/
def State.looseStuck (s : State) (m : Msg) : Bool :=
  match m.op.acq with
  | none => false
  | some a => s.acquireOk m.recAt a m &&
      ((s.thread? m.who).bind (·.oar)).any (fun o => o.tag == m.tag && o.loose == some true)

/-- Flags of an acquire: SCOPEMISS where the check fails. -/
def missFlag (acq : Option Scope) (ok : Bool) : BitVec 9 := flagIf (acq.isSome && !ok) fSCOPEMISS

/-! ## Perform (R122, R125) -/

/-- Two accesses of one line keep their issue order: one thread's, and those of a core to its own scratchpad (R124, R262). -/
def Msg.ordered (m n : Msg) : Bool := m.who == n.who || (m.core == n.core && ownBank m.bank m.core)

/-- A plain access is set aside: another party holds its line, an earlier request waits for the grant of the free line, or an earlier atomic
that it may not pass is still to be performed there (R124, R125, R262). (DEDUCED, log 23) -/
def LineQ.setsAside (q : LineQ) (m : Msg) : Bool :=
  (match q.holder with | some h => h.who != m.who || !h.rsv | none => !q.queue.isEmpty) || q.queue.any (fun x => x.ordered m && x.tag < m.tag)

/-- The bytes of a loaded value (R186). -/
def loadVal (n : Nat) (sx : Bool) (b : List Byte) : Word :=
  if sx then BitVec.ofInt 64 (sIntOf (leNat b) (8 * n)) else w64 (leNat b)

/-- An access to a scratchpad of this module is acknowledged when it is performed (R128). -/
def State.ackOwn (s : State) (m : Msg) : State := if m.rlx then s.modWho m.who (Thread.ack m.tag) else s

/-- A line that is lost answers no read: the reading context is killed (R322). -/
def State.lostRead (s : State) (m : Msg) : State :=
  let k := s.storageKey m.pa m.gran
  s.lostReader k m.part m.who.ctx.toNat (s.logOf m.core) m.slot.val (keySource k)

/-- A load performed at its bank. -/
def State.performLoad (s : State) (m : Msg) (n : Nat) (sx : Bool) (acq : Option Scope) (pred : Bool) : State :=
  match s.readNamed m.pa n m.gran with
  | (none, s1) => s1.lostRead m
  | (some b, s1) =>
    let ok := acq.all (fun a => s1.acquireOk m.pa a m)
    let s2 := if ok then s1 else s1.dropAcquire m
    (s2.ackOwn m).reply { replyOf m (loadVal n sx b) with
      sst := missFlag acq ok, pred := if pred then some (s.granExists m.gran) else none }

/-- A store performed at its bank, with its release record where it is a release (R133). -/
def State.performStore (s : State) (m : Msg) (b : List Byte) (rel : Option Scope) : State :=
  let s1 := s.writeNamed m.pa m.gran b
  let s2 := match rel with
    | some sc => s1.setRel m.pa sc (s1.logOf m.core) m.slot
    | none => s1
  let s3 := s2.ackOwn m
  if m.rlx then s3 else s3.reply (replyOf m 0)

/-- The reservation of a line stands for the thread of a message. -/
def State.holdsRsv (s : State) (m : Msg) : Bool :=
  match (s.lineQ (lineOf m.pa)).holder with
  | some h => h.who == m.who && h.rsv
  | none => false

/-- `RLS` and `RLSN` at the home: written and freed where the reservation stands, and 1 returned; otherwise 0 (R194). A write that would be
a birth waits or fails as one; the reservation then still stands (R93). -/
def State.performRls (s : State) (m : Msg) (b : Option (List Byte)) (rel : Option Scope) : State :=
  if s.holdsRsv m then
    match b with
    | none => (s.freeLine (lineOf m.pa) false).reply (replyOf m 1)
    | some x =>
      match s.birthOf m.pa m.gran with
      | .stock => s.parkMsg m .stock
      | .frame => s.parkMsg m .frame
      | .pool => s.reply { replyOf m 0 with
          trap := some (cALLOCFAIL, m.off, m.pc, m.undo), rsv := some ⟨m.pa, s.canonVa m.core m.va, m.bytes, false⟩ }
      | .ok =>
        let s1 := s.writeNamed m.pa m.gran x
        let s2 := match rel with
          | some sc => s1.setRel m.pa sc (s1.logOf m.core) m.slot
          | none => s1
        (s2.freeLine (lineOf m.pa) false).reply (replyOf m 1)
  else s.reply (replyOf m 0)

/-- `WAITRS` at the home: the line is freed and the thread registered as a watcher in one event, once the waiter storage has an entry; a
reservation that was broken on the way wakes the thread at once (R108, R195). -/
def State.performWatch (s : State) (m : Msg) : State :=
  let line := lineOf m.pa
  if s.holdsRsv m then
    let s1 := s.freeLine line false
    let q := s1.lineQ line
    (s1.setLineQ { q with watch := q.watch ++ [m.who] }).reply (replyOf m 0)
  else (s.wake m.who (.inl (.watch line))).reply (replyOf m 0)

/-- An `AWAIT` that finds its own value parks, as its bank reads the word, and waits for a change of it (R87, R231). -/
def State.awaitPark (s : State) (m : Msg) (v : BitVec 32) : State :=
  match s.placeOf? m.who with
  | none => s
  | some (c, i) =>
    let s1 := s.modAt c i (fun t =>
      { Thread.undo m.tag m.undo t with pc := m.pc, status := .ready, carried := some (carryWait, v.setWidth 64) })
    (s1.dropDst m.dst m.tag).parkAt c i (.attend m.pa)

/-- An `AWAIT` completes with the generation it finds, as an acquire at `.pk` (R136, R231). -/
def State.awaitDone (s : State) (m : Msg) (gen : Nat) : State :=
  let ok := s.acquireOk m.recAt .pk m
  (if ok then s else s.dropAcquire m).reply { replyOf m (w64 gen) with sst := missFlag (some .pk) ok }

/-- `ATTN` and `AWAIT` at the word's bank (R86, R87, R230, R231): the generation is read, and for `ATTN` the word is armed;
an `AWAIT` that finds its own value parks, and one that completes acquires at `.pk` (R136). -/
def State.performAttend (s : State) (m : Msg) : State :=
  match s.readNamed m.pa 16 m.gran with
  | (none, s1) => s1.lostRead m
  | (some b, s1) =>
    let gen := leNat ((b.drop 8).take 4)
    match m.op with
    | .attn target =>
      (s1.homeWrite m.pa (leBytes 4 target.toNat ++ leBytes 4 0 ++ leBytes 4 gen ++ leBytes 4 0)).reply (replyOf m (w64 gen))
    | .await v =>
      match v with
      | some x => if gen = x.toNat then s1.awaitPark m x else s1.awaitDone m gen
      | none => s1.awaitDone m gen
    | _ => s1

/-- Place of a `DIAGST` or `DIAGLD` word: its data and check bits, raw (R279). A pair planted in a slice's cache that no read can correct lies
in the cache's copy alone, whose line counts as clean; any other is the word's one copy (R122, R321). (DEDUCED, log 31) -/
def State.performDiag (s : State) (m : Msg) : State :=
  let k := m.pa
  match m.op with
  | .diagSt data chk sc =>
    let s0 := s.refetch k 8
    let s1 :=
      if sc && eccClass (chk ^^^ ecc data) == .bad then { s0 with cacheBad := (k / 8 * 8, data, chk ^^^ ecc data) :: s0.cacheBad }
      else ({ s0 with mem := Memory.writes s0.mem k (leBytes 8 data.toNat) } : State).setSynd k (chk ^^^ ecc data)
    (((s1.clearRel k 8).wakeWatchers k 8).wakeAwaits k 8).reply (replyOf m 0)
  | .diagLd r sc =>
    let (data, synd) := match (if sc then s.cacheBad.find? (fun e => e.1 == k / 8 * 8) else none) with
      | some e => e.2
      | none => (w64 (s.rawNat k 8), s.syndAt k)
    s.reply { replyOf m data with chk := some (r, (synd ^^^ ecc data).setWidth 64) }
  | _ => s

/-- The ALU's half of a queued access between grant and release: what its release carries. -/
def State.aluHalf (s : State) (m : Msg) (b : List Byte) : Option Rel :=
  match m.op with
  | .atom f dbl x c _ _ =>
    let (wr, v, g) := atomRun f dbl (leNat b) x c
    some ⟨m, wr, v, g, none⟩
  | .red f dbl x =>
    let (wr, v, g) := atomRun f dbl (leNat b) x 0
    some ⟨m, wr, v, g, none⟩
  | .ctr f hi pcb =>
    let cds := ((s.thread? m.who).map (·.cds)).getD 0
    let (wr, v, c, g) := ctrRun f hi pcb (leNat b) cds
    some ⟨m, wr.map (leBytes 1), v, g, some c⟩
  | _ => none

/-- Order bits of an atomic: acquire and release scope. -/
def MemOp.order : MemOp → Option Scope × Option Scope
  | .atom _ _ _ _ acq rel => (acq, rel)
  | _ => (none, none)

/-- A release reaches the home: the word is written, its record set or cleared, the line freed unless its holder by
`RSV` keeps it, and the atomic completes (R132, R133, R135). A birth whose stock has emptied meanwhile sends the whole access back (R93). -/
def State.releaseRel (s : State) (r : Rel) (keep : Bool) : State :=
  let m := r.msg
  let line := lineOf m.pa
  let free := fun (s : State) => if keep then s else s.freeLine line false
  match r.bytes, s.birthOf m.pa m.gran with
  | some _, .stock => (free s).parkMsg m .stock
  | some _, .frame => (free s).parkMsg m .frame
  | some _, .pool => (free s).refuseAt m cALLOCFAIL
  | _, _ =>
    let (acq, rel) := m.op.order
    let ok := acq.all (fun a => s.acquireOk m.pa a m)
    let old := s.relRec.find? (fun x => x.word == m.pa / 8 * 8)
    let s1 := match r.bytes with
      | none => s
      | some b =>
        let s1 := s.writeNamed m.pa m.gran b
        match rel with
        | none => s1
        | some sc =>
          if ok then s1.setRel m.pa sc (s1.logOf m.core) m.slot
          else match old with
            | some x => s1.setRel m.pa x.scope x.lcore x.slot
            | none => s1
    let s2 := match r.cds with
      | some c => s1.setCds m.who c
      | none => s1
    let s3 := if ok then s2 else s2.dropAcquire m
    let s4 := (free s3).ackOwn m
    s4.reply { replyOf m (if m.op.isRed then 0 else r.val) with sst := r.sst ||| missFlag acq ok }

/-- A fetch-and-op, counter instruction or reduction of the thread that holds its line by `RSV`: performed in its turn, the line kept
(R125, R194). (DEDUCED, log 23) -/
def State.performHeld (s : State) (m : Msg) : State :=
  match s.readNamed m.pa m.bytes m.gran with
  | (none, s1) => s1.lostRead m
  | (some b, s1) =>
    match s1.aluHalf m b with
    | some r => s1.releaseRel r true
    | none => s1

/-- The home's waiter storage has no entry for a request that would take one: the request stays on its path (R108). (DEDUCED, log 93) -/
def State.unheard (s : State) (m : Msg) : Bool :=
  (m.op.queues || m.op == .watch) && !s.waiterFree m.bank

/-- A message that has found its page's home is checked and placed anew from the table, as a request that a repair sends on is, and stands at
the front of its home's FIFO (R184, R201, R316). A relaxed access that its page makes ordinary waits for the Outstanding Access register
(R128). -/
def State.placeAgain (s : State) (m : Msg) (q : Nat) (send : State → Msg → State) : State :=
  let ctx := m.who.ctx.toNat
  let wait := fun (s : State) (k : FaultKind) => s.parkFault ⟨.port q, ctx, m.part, m.va, k, .access m⟩ m.core
  let go := fun (s : State) (x : Xl) (moving : Bool) =>
    let m1 := { m with pa := x.name, cls := x.cls, gran := x.gran, bank := bankOf x.name, unchk := moving, stuck := false }
    if !m.rlx && !s.msgGranted m1 then s.refuseAt m cACCESS
    else if m.rlx && !m.op.isRed && (x.ord || modOf (nameAddr x.name) != Config.pkg) then
      if (s.thread? m.who).any (fun t => t.oar.isSome) then wait s .order
      else send (s.modWho m.who (Thread.ordinary m.tag)) { m1 with rlx := false }
    else send (s.modWho m.who (Thread.rebank m.tag m1.bank)) m1
  match s.port q m.part ctx m.va m.acc m.need with
  | (.ok x, s1) => go s1 x false
  | (.moving x, s1) => go s1 x true
  | (.fault k, s1) => wait s1 k
  | (.trap c _, s1) => (s1.modWho m.who (Thread.ack m.tag)).refuseAt m c
  | (.wait, s1) => wait s1 .order
  | (.gone, s1) => s1

/-- What its home reads for a message before it performs it (R319, R322). -/
def State.homeReadsOf (s : State) (m : Msg) : Bool × State :=
  let er := match m.op with | .erase => true | _ => false
  let wr := match m.op with | .store _ _ | .rls _ _ => true | _ => m.op.queues
  s.homeReads m.pa m.gran wr er m.part m.who.ctx.toNat (s.logOf m.core) m.slot.val

/-- An access ends its thread's reservation (R194, R195). -/
def MemOp.ends : MemOp → Bool
  | .rls _ _ | .watch => true
  | _ => false

/-- Perform a message at its bank, or move it to the line's reservation queue, behind a reservation, or to a fault queue. -/
def State.performMsg (s : State) (m : Msg) : State :=
  let line := lineOf m.pa
  let q := s.lineQ line
  match s.movingFor? m with
  | some _ =>
    -- what the holder does with a line reserved before the mark runs to its release (R201)
    if q.holder.any (fun h => h.who == m.who) && !m.op.queues && (!m.unchk || m.op.ends) then go s q else s.parkMsg m .moving
  | none =>
    if m.unchk then s.placeAgain m (quadOf m.core) (fun s m => { s with inbox := m :: s.inbox })
    else
      match s.heldBehind m with
      | some f => s.parkMsg m f.kind
      | none => if s.unheard m then { s with net := m :: s.net } else go s q
where
  /-- past the page's faults; a plain store may be a birth (R93), an atomic or `RLS` only once it writes -/
  go (s : State) (q : LineQ) : State :=
    let (sound, s) := s.homeReadsOf m
    if !sound then s else
    let line := lineOf m.pa
    if m.op.queues && q.holder.any (fun h => h.who == m.who && h.rsv) && !(q.queue.any (fun x => x.who == m.who)) then s.performHeld m
    else if m.op.queues then
      let first := q.queue.isEmpty && q.holder.isSome
      s.setLineQ { q with queue := q.queue ++ [m], waitFrom := if first then s.time.toNat else q.waitFrom }
    else if !m.op.ends && q.setsAside m then
      s.setLineQ { q with line := line, aside := q.aside ++ [m], behind := if q.holder.isNone && !q.queue.isEmpty then m.tag :: q.behind else q.behind }
    else
      match m.op with
      | .load n sx acq pred => s.performLoad m n sx acq pred.isSome
      | .store b rel =>
        match s.birthOf m.pa m.gran with
        | .stock => s.parkMsg m .stock
        | .frame => s.parkMsg m .frame
        | .pool => s.refuseAt m cALLOCFAIL
        | .ok => s.performStore m b rel
      | .erase => (s.eraseNamed m.pa m.gran).reply (replyOf m 0)
      | .rls b rel => s.performRls m b rel
      | .watch => s.performWatch m
      | .diagSt _ _ _ | .diagLd _ _ => s.performDiag m
      | .attn _ | .await _ => s.performAttend m
      | _ => s

/-- An access set aside on a free line, whose turn it is before the next grant; one that arrived on the free line behind a request is performed
after that request (R125). -/
def LineQ.nextAside (q : LineQ) : Option Msg :=
  if q.holder.isSome then none
  else q.aside.find? (fun m => (q.queue.isEmpty || !q.behind.contains m.tag) && !(q.queue.any (fun x => x.ordered m && x.tag < m.tag)))

/-- An erasure waits at its home, in the FIFO or set aside, for the reservations of its granule, and no line of it is granted (R94). -/
def State.eraseHolds (s : State) (line : Nat) : Bool :=
  let er := fun (m : Msg) => (match m.op with | .erase => true | _ => false) && m.touches line
  s.inbox.any er || s.lines.any (fun q => q.nextAside.any er)

/-- P(e) at a bank: the accesses set aside on a freed line first, then the head of its FIFO (R123, R125); one whose answer would have to leave
a fenced rectangle waits for the rejoin (R327). (DEDUCED, log 69) -/
def State.performBank (s : State) (b : Bank) : State :=
  match s.lines.find? (fun q => bankOf q.line == b && q.nextAside.any (fun m => (s.movingFor? m).isNone && !s.looseStuck m && !s.eraseWaits m && !s.fencedFrom m.core b)) with
  | some q =>
    match q.nextAside with
    | some m => (s.setLineQ { q with aside := q.aside.filter (fun x => x.tag != m.tag) }).performMsg m
    | none => s
  | none =>
    match s.nextOf b [] [] s.inbox with
    | none => s
    | some m => if s.looseStuck m || s.fencedFrom m.core b then s else { s with inbox := s.inbox.filter (fun x => x.tag != m.tag) }.performMsg m

/-! ## Grant and release (R132) -/

/-- The home grants a line to the first requester, with the current word (R132). -/
def State.grantLine (s : State) (line : Nat) : State :=
  let q := s.lineQ line
  if q.holder.isSome || q.nextAside.isSome || s.eraseHolds line then s
  else
    match q.queue with
    | [] => s
    | m :: r =>
      if (s.movingFor? m).isSome || s.looseStuck m || s.fencedFrom m.core m.bank then s
      else
      let isRsv := match m.op with | .rsv _ _ => true | _ => false
      let s1 := (s.setLineQ { q with holder := some ⟨m.who, m.tag, isRsv, s.time.toNat⟩, queue := r, behind := [], waitFrom := s.time.toNat }).noteBank
        (bankOf line) 0x0B (noteG6 line)
      match (s1.homeReads m.pa m.gran false false m.part m.who.ctx.toNat (s1.logOf m.core) m.slot.val) with
      | (false, s2) => s2
      | (true, s1) =>
      match s1.readNamed m.pa m.bytes m.gran with
      | (none, s2) => s2.lostRead m
      | (some b, s2) =>
        match m.op with
        | .rsv dbl acq =>
          let ok := acq.all (fun a => s2.acquireOk m.pa a m)
          let s3 := if ok then s2 else s2.dropAcquire m
          s3.reply { replyOf m (AtomFn.swp.result dbl (leNat b)) with
            sst := missFlag acq ok, rsv := some ⟨m.pa, s3.canonVa m.core m.va, m.bytes, false⟩ }
        | _ =>
          match s2.aluHalf m b with
          | some rel => { s2 with rels := s2.rels ++ [rel] }
          | none => s2

/-- The first release on its way to a bank (R132). -/
def State.releaseBank (s : State) (b : Bank) : State :=
  match s.rels.find? (fun r => r.msg.bank == b) with
  | none => s
  | some r =>
    if s.looseStuck r.msg || s.fencedFrom r.msg.core b then s
    else
      match ({ s with rels := s.rels.filter (fun x => x.msg.tag != r.msg.tag) } : State).homeReadsOf r.msg with
      | (true, s1) => s1.releaseRel r false
      | (false, s1) => s1

/-- The reservation that a thread holds, or is about to hold, is broken (R194). -/
def Rsv.break (r : Rsv) : Rsv := { r with broken := true }

/-- A reservation is broken: an `RSV` is recorded so in its thread, or in the grant on its way there, and a fetch-and-op asks again (R132,
R194). -/
def State.breakLine (s : State) (q : LineQ) : State :=
  match q.holder with
  | none => s
  | some h =>
    let s1 := s.freeLine q.line true
    if h.rsv then
      let s2 := s1.modWho h.who (fun t => { t with
        rsv := t.rsv.map Rsv.break, replay := t.replay.map (fun r => { r with rsv := r.rsv.map Rsv.break }) })
      { s2 with replies := s2.replies.map (fun r => if r.tag = h.tag then { r with rsv := r.rsv.map Rsv.break } else r) }
    else
      match s1.rels.find? (fun r => r.msg.tag == h.tag) with
      | none => s1
      | some r =>
        let q1 := s1.lineQ q.line
        ({ s1 with rels := s1.rels.filter (fun x => x.msg.tag != h.tag) }).setLineQ { q1 with queue := q1.queue ++ [r.msg] }

/-- The next requester has waited 64 cycles for a line that an `RSV` holds. A plain access set aside behind the reservation is no requester of
the line; the spec does not say (R125, R132). (DESIGN CHOICE, log 102) -/
def LineQ.overdue (q : LineQ) (now : Nat) : Bool := q.holder.any (·.rsv) && !q.queue.isEmpty && q.waitFrom + 64 ≤ now

/-- A reservation is broken once the next requester has waited 64 cycles (R132). -/
def State.breakWaited (s : State) (line : Nat) : State :=
  let q := s.lineQ line
  if q.overdue s.time.toNat then s.breakLine q else s

/-- A line lies on a page that has been marked MIGRATING for 64 cycles (R201). -/
def State.movingLine (s : State) (line : Nat) : Bool :=
  s.moves.any (fun v => v.shot.isNone && leafHas v.oldLeaf v.size line && v.at_ + 64 ≤ s.time.toNat)

/-- A reservation of a moving page is still held 64 cycles after the mark (R201). -/
def State.breakMoving (s : State) (line : Nat) : State :=
  let q := s.lineQ line
  if q.holder.isSome && s.movingLine line then s.breakLine q else s

/-- Every reservation whose time is up is broken (R132, R201). -/
def State.breakDue (s : State) : State :=
  s.lines.foldl (fun s q => if q.overdue s.time.toNat || (q.holder.isSome && s.movingLine q.line) then s.breakLine (s.lineQ q.line) else s) s

/-! ## Complete (R123) -/

/-- A queue entry that was kept for a tag takes its value (R186). -/
def fillQueue (tag : Nat) (v : Word) (l : List QEntry) : List QEntry :=
  l.map (fun e => match e with | .res t => if t = tag then .val v else e | .val _ => e)

/-- The destination of a completed access outside the thread: a queue's place or a latch (R186). -/
def State.fillDst (s : State) (d : Dst) (tag : Nat) (v : Word) : State :=
  match d with
  | .none | .reg => s
  | .queue c k => s.modCore c (fun x => { x with q := x.q.set k (fillQueue tag v x.q[k]), qWritten := x.qWritten.set k (some s.time.toNat) })
  | .nf c i => s.modCore c (fun x => x.setNf i v s.time.toNat)

/-- A spark's load takes the bytes that the spark holds (R117). -/
def State.overlay (s : State) (m : Msg) (v : Word) : Word :=
  match s.thread? m.who, m.op with
  | some t, .load n sx _ _ =>
    if t.held.isEmpty then v
    else
      let base := s.canonVa m.core m.va
      let b := (List.range n).zip (leBytes n v.toNat) |>.map (fun (i, x) =>
        match t.held.find? (fun h => h.1 == base + i) with
        | some h => h.2
        | none => x)
      loadVal n sx b
  | _, _ => v

/-- What a reply leaves in its thread: the register or predicate filled, flags, the reservation, and the Outstanding Access
register and the wait it ends. -/
def Thread.complete (r : Reply) (v : Word) (t : Thread) : Thread :=
  let t1 := t.fill r.tag v
  let t2 : Thread :=
    { t1 with
      oar := t1.oar.filter (fun o => o.tag != r.tag)
      rlxLoads := t1.rlxLoads.filter (fun l => l.1 != r.tag)
      rlx := t1.rlx.filter (fun e => e.tag != r.tag)
      sst := t1.sst ||| r.sst
      rsv := match r.rsv with | some x => some x | none => t1.rsv
      status := match t1.status with
        | .held g | .dropped g _ => if g = r.tag then .ready else t1.status
        | .parked (.grant _) => if r.rsv.isSome then .ready else t1.status
        | st => st }
  let t3 := match r.chk with
    | some (k, c) => t2.setG k (.of c)
    | none => t2
  let t4 := { t3 with predPend := t3.predPend.filter (fun p => p.2 != r.tag) }
  match r.pred with
  | none => t4
  | some b => match t3.predPend.find? (fun p => p.2 == r.tag) with
    | some p => t4.setP p.1 b
    | none => t4

/-- A reduction, named by its message, is done with: its copy engine operation can complete (R196). -/
def EngOp.landRed (tag : Nat) (o : EngOp) : EngOp :=
  match o.job with
  | .red m => if m.tag = tag then { o with landed := true } else o
  | _ => o

/-- The reduction of a message is done with at its core. -/
def State.landRed (s : State) (m : Msg) : State :=
  match m.op with
  | .red _ _ _ => s.modCore m.core (fun k => { k with copy := { k.copy with queue := k.copy.queue.map (EngOp.landRed m.tag) } })
  | _ => s

/-- The thread waits DROPPED at the instruction of an access (R199). -/
def Thread.awaits (tag : Nat) (t : Thread) : Bool :=
  match t.status with
  | .dropped g redo => g == tag && redo
  | _ => false

/-- The wake message of a DROPPED access: the thread is READY at its instruction, whose reissue completes with what the message carries; the
block of a SAVED one takes it (R199, R30). -/
def State.wakeDropped (s : State) (r : Reply) : State :=
  let s1 := s.modWho r.who (fun t =>
    { t with status := .ready, replay := some r, pc := r.msg.pc, oar := t.oar.filter (fun o => o.tag != r.tag) })
  let s2 := s1.wakeBlock r.who r.val
  match s2.placeOf? r.who with
  | some (c, i) => s2.noteCtx c i 0x06 (5 * 2 ^ 32) r.who.ctx
  | none => s2

/-- A reply takes its effect in its thread and at its destination: a trap precisely at its own PC, with nothing of the access left (R123,
R183, R368). -/
def State.finish (s : State) (r : Reply) : State :=
  match r.trap with
  | none =>
    let v := s.overlay r.msg r.val
    let s2 := ((if r.msg.op.isRed && r.sst != 0 then s.closeSlot r.who else s).completeSaved r v).fillPlace r.msg.dst r.tag v
    (s2.modWho r.who (Thread.complete r v)).fillDst r.msg.dst r.tag v
  | some (cause, val, pc, undo) =>
    let s2 := (s.modWho r.who (fun t => { Thread.undo r.tag undo t with rsv := match r.rsv with | some x => some x | none => t.rsv })).dropDst
      r.msg.dst r.tag
    match s2.placeOf? r.who with
    | none => s2
    | some (c, i) =>
      let s3 := s2.modAt c i (fun t => { t with pc := pc, status := .ready })
      if cause.toNat < 0x40 then s3.userTrapAt c i cause val pc else s3.supTrapAt c i cause val pc false

/-- Replies of one bank for one line reach a core in the order in which they left (R121, R124, R349). -/
def firstBack (r : Reply) : List Reply → Bool
  | [] => true
  | x :: l => if x.tag = r.tag then true else !(x.msg.core == r.msg.core && lineOf x.msg.pa == lineOf r.msg.pa) && firstBack r l

/-- The line of which a wake tells: that of a watch, of an attendance word or of a handle. -/
def Wake.line? (w : Wake) : Option Nat :=
  match w.wait with
  | .inl (.watch l) => some (lineOf l)
  | .inl (.attend pa) | .inl (.handle _ pa) => some (lineOf pa)
  | _ => none

/-- A wake goes to this core. -/
def State.wakesAt (s : State) (c : Nat) (w : Wake) : Bool := (s.placeOf? w.who).any (fun p => p.1 == c)

/-- No wake for a reply's line left for its core before it (R347, R349). -/
def State.replyNext (s : State) (r : Reply) : Bool :=
  !(s.wakes.any (fun w => decide (w.tag < r.sent) && w.line? == some (lineOf r.msg.pa) && s.wakesAt r.msg.core w))

/-- C(e): the reply reaches the thread (R123). One that waits DROPPED at its instruction, and a SAVED one that is to trap, complete as they
reissue it. -/
def State.completeReply (s : State) (r : Reply) : State :=
  if !(firstBack r s.replies && s.replyNext r) then s
  else
    let s1 := { s with replies := s.replies.filter (fun x => x.tag != r.tag) }.landRed r.msg
    if (s1.thread? r.who).any (Thread.awaits r.tag) || (r.trap.isSome && (s1.savedOf? r.who).isSome) then s1.wakeDropped r
    else
      let s2 := s1.finish r
      match s1.placeOf? r.who with
      | some (c, i) =>
        if (s1.threadAt c i).any (fun t => t.status == .dropped r.tag false) then s2.noteCtx c i 0x06 (5 * 2 ^ 32) r.who.ctx
        else if r.rsv.isSome && (s1.threadAt c i).any (fun t => match t.status with | .parked (.grant _) => true | _ => false) then
          s2.noteCtx c i 0x06 (1 * 2 ^ 32) r.who.ctx
        else s2
      | none => s2

/-- The reissue of an instruction whose access was DROPPED: it completes with what the wake carried, and its thread goes on after it (R199). -/
def State.redo (s : State) (r : Reply) : State :=
  let s1 := (s.modMe (fun t => { t with replay := none })).finish r
  if r.trap.isSome then s1 else s1.goto r.msg.next

/-! ## Probes (R129) -/

/-- A parked request of a thread is posted to another package: a request of its own, or a line of one of its engine operations. -/
def State.postedAway (s : State) (who : Ident) (f : FaultEntry) : Bool :=
  match f.what with
  | .access m => m.who == who && maskBank m.bank == podBank
  | .line c e va =>
    let k := s.core c
    let q := match e with | .mat => k.mat.queue | .vec => k.vec.queue | .copy => k.copy.queue
    q.head?.any (fun o => o.who == who) && (match s.walk f.part f.ctx va with
      | .leaf _ _ leaf _ => modOf (lfPa leaf.toNat) != Config.pkg
      | _ => false)
  | .thread _ _ _ => false

/-- Nothing ahead of a probe is left at its bank: no parked request of the home, in its fault queue or a port's, no access of its thread
set aside or still on its path after its acknowledgement; for the remote bit, no posted access of its thread to another module under way or
parked. (DEDUCED, log 22) -/
def State.probeClear (s : State) (m : Msg) : Bool :=
  if m.bank = podBank then
    !(s.net.any (fun x => x.who == m.who && maskBank x.bank == podBank)) &&
    !(s.inbox.any (fun x => x.who == m.who && x.tag != m.tag && x.bank != podBank && maskBank x.bank == podBank)) &&
    !(s.lines.any (fun q => (q.queue ++ q.aside).any (fun x => x.who == m.who && maskBank x.bank == podBank))) &&
    !(s.rels.any (fun r => r.msg.who == m.who && maskBank r.msg.bank == podBank)) &&
    !(s.faultQ.any (s.postedAway m.who))
  else
    !(s.faultQ.any (fun f => f.unit == .home m.bank || (match f.what with
      | .access x => x.who == m.who && x.bank == m.bank
      | _ => false))) &&
    !(s.net.any (fun x => x.who == m.who && x.bank == m.bank && x.rlx)) &&
    !(s.lines.any (fun q => bankOf q.line == m.bank && (q.queue ++ q.aside).any (fun x => x.who == m.who))) &&
    !(s.rels.any (fun r => r.msg.who == m.who && r.msg.bank == m.bank))

/-- A probe at the head of its bank's FIFO: the echo leaves once every earlier entry has been replayed (R129). (DEDUCED, log 22) -/
def State.probeBank (s : State) (b : Bank) : State :=
  match s.inbox.find? (fun m => m.bank == b) with
  | none => s
  | some m =>
    match m.op with
    | .probe =>
      if s.probeClear m then
        let s1 := { s with inbox := s.inbox.filter (fun x => x.tag != m.tag), echoes := s.echoes ++ [(m.tag, m.who, b)] }
        -- a probe names no address: what its record has of one is a free value (DESIGN CHOICE, log 29)
        s1.noteBank b 0x0A ((Config.freeWord (2 ^ 66 + m.tag)).toNat % 2 ^ 32)
      else s
    | _ => s

/-- An echo reaches the fencing thread: the bank's mask bit is cleared, unless an access has been acknowledged behind its probe (R129). -/
def State.echoBack (s : State) (tag : Nat) : State :=
  match s.echoes.find? (fun e => e.1 == tag) with
  | none => s
  | some (_, who, b) =>
    { s with echoes := s.echoes.filter (fun e => e.1 != tag) }.modWho who (fun t =>
      if t.probes.any (fun p => p.1 == tag) then
        { t with probes := t.probes.filter (fun p => p.1 != tag), mask := t.mask.filter (· != b) }
      else t)

/-! ## Replay (R125, R199) -/

/-- A line of a walk's tile operation goes on: its forcer, which the fault had dropped, waits for its engine again once no line of the
operation is parked (R111). -/
def State.lineBack (s : State) (c : Nat) (e : Eng) : State :=
  let k := s.core c
  let q := match e with | .mat => k.mat.queue | .vec => k.vec.queue | .copy => k.copy.queue
  match q.head? with
  | none => s
  | some o =>
    if s.faultQ.any (fun f => match f.what with | .line x y _ => x == c && y == e | _ => false) then s
    else s.modWho o.who (fun t => if t.status = .dropped o.tag false then { t with status := .engineWait o.tag } else t)

/-- A parked request goes on, checked and placed again (R184, R185, R316): one of a port enters the path of its line, one of a home stands
at the front of its FIFO. Its thread stays DROPPED until the reply (R199); a thread that waits with no request is woken to try again. -/
def State.replayOne (s : State) (f : FaultEntry) : State :=
  match f.what with
  | .line c e _ => (s.note (f.unit.source c) 0x11 f.noted).lineBack c e
  | .thread who c tag => (s.note (f.unit.source c) 0x11 f.noted).wake who (.inr tag)
  | .access m =>
    let s1 := s.note (f.unit.source m.core) 0x11 f.noted
    let front := fun (s : State) (m : Msg) => { s with inbox := m :: s.inbox }
    if f.atHome m.bank then
      match f.kind with
      | .frame => s1.placeAgain m (quadOf m.core) front
      | _ => front s1 m
    else s1.placeAgain m (quadOf m.core) (fun s m => { s with net := s.net ++ [m] })

/-- Replay, in arrival order, the parked requests that a test picks. (DEDUCED, log 27) -/
def State.replay (s : State) (p : FaultEntry → Bool) : State :=
  let l := s.faultQ.filter p
  let s1 := { s with faultQ := s.faultQ.filter (fun f => !p f) }
  let atHome := fun (f : FaultEntry) => match f.what with
    | .access m => f.atHome m.bank
    | _ => match f.unit with | .home _ => true | .port _ => false
  -- requests of a home return to the front of its FIFO in their order
  (l.filter (fun f => !atHome f)).foldl State.replayOne ((l.filter atHome).reverse.foldl State.replayOne s1)

/-- Requests that wait for the Outstanding Access register of their threads, or for the line of a table entry, are tried again (R128,
R308). -/
def State.retryOrders (s : State) : State :=
  if s.faultQ.any (fun f => f.kind == .order) then s.replay (fun f => f.kind == .order) else s

/-! ## The events -/

/-- `ARRIVE` (R123). -/
def execArrive (i : Nat) (s : State) : Host.Outcome State Fault Refusal := .next (s.arrive i)

/-- `COMPLETE` (R123). -/
def execComplete (i : Nat) (s : State) : Host.Outcome State Fault Refusal :=
  .next (match s.replies.find? (fun r => r.tag == i) with
    | some r => s.completeReply r
    | none => s)

/-- `PROBE` (R129). -/
def execProbe (b : Bank) (s : State) : Host.Outcome State Fault Refusal := .next (s.probeBank b)

/-- `ECHO` (R129). -/
def execEcho (i : Nat) (s : State) : Host.Outcome State Fault Refusal := .next (s.echoBack i)

/-- `GRANT` (R132). -/
def execGrant (line : Nat) (s : State) : Host.Outcome State Fault Refusal := .next (s.grantLine line)

/-- `RELEASE` (R132). -/
def execRelease (b : Bank) (s : State) : Host.Outcome State Fault Refusal := .next (s.releaseBank b)

/-- `RESERVATION_BREAK` (R132). -/
def execReservationBreak (line : Nat) (s : State) : Host.Outcome State Fault Refusal := .next (s.breakWaited line)

/-- `MIGRATION_RESERVATION_BREAK` (R201). -/
def execMigrationReservationBreak (line : Nat) (s : State) : Host.Outcome State Fault Refusal := .next (s.breakMoving line)

end Sys2Proof.Machine
end

