-- ==== Sys2Proof/Machine/Compare.lean ====
section
/-! DEFINITION. Compares, predicates and selection (R171 to R175). -/

namespace Sys2Proof.Machine

/-- `CEQ` (R171). -/
def execCeq (p : BitVec 5) (x y : Operand) (s : State) : Host.Outcome State Fault Refusal := (cmp2 p x y (· == ·) s).done
/-- `CNE` (R171). -/
def execCne (p : BitVec 5) (x y : Operand) (s : State) : Host.Outcome State Fault Refusal := (cmp2 p x y (· != ·) s).done
/-- `CLT`, signed (R171). -/
def execClt (p : BitVec 5) (x y : Operand) (s : State) : Host.Outcome State Fault Refusal := (cmp2 p x y BitVec.slt s).done
/-- `CLE`, signed (R171). -/
def execCle (p : BitVec 5) (x y : Operand) (s : State) : Host.Outcome State Fault Refusal := (cmp2 p x y BitVec.sle s).done
/-- `CLTU`, unsigned (R171). -/
def execCltu (p : BitVec 5) (x y : Operand) (s : State) : Host.Outcome State Fault Refusal := (cmp2 p x y BitVec.ult s).done
/-- `CLEU`, unsigned (R171). -/
def execCleu (p : BitVec 5) (x y : Operand) (s : State) : Host.Outcome State Fault Refusal := (cmp2 p x y BitVec.ule s).done

/-- A comparison with an immediate. -/
def cmpI (p : BitVec 5) (x : Operand) (k : Word) (f : Word → Word → Bool) (s : State) : Eff := cmp2 p x .zr (fun a _ => f a k) s

/-- `CEQI`, sign-extended immediate (R171). -/
def execCeqi (p : BitVec 5) (x : Operand) (imm : BitVec 27) (s : State) : Host.Outcome State Fault Refusal :=
  (cmpI p x (imm.signExtend 64) (· == ·) s).done
/-- `CLTI`, signed (R171). -/
def execClti (p : BitVec 5) (x : Operand) (imm : BitVec 27) (s : State) : Host.Outcome State Fault Refusal :=
  (cmpI p x (imm.signExtend 64) BitVec.slt s).done
/-- `CLTUI`, unsigned, zero-extended immediate (R171). -/
def execCltui (p : BitVec 5) (x : Operand) (imm : BitVec 27) (s : State) : Host.Outcome State Fault Refusal :=
  (cmpI p x (imm.setWidth 64) BitVec.ult s).done

/-- A predicate computed from two predicates, each inverted or not (R172). -/
def predOp (d x y : BitVec 5) (nx ny : Bool) (f : Bool → Bool → Bool) (s : State) : Eff := do
  let t ← s.ready [] [] [d, x, y]
  return (s.modMe (fun u => u.setP d (f (t.p x != nx) (t.p y != ny)))).advance t

/-- `PAND` (R172). -/
def execPand (d x y : BitVec 5) (nx ny : Bool) (s : State) : Host.Outcome State Fault Refusal := (predOp d x y nx ny and s).done
/-- `POR` (R172). -/
def execPor (d x y : BitVec 5) (nx ny : Bool) (s : State) : Host.Outcome State Fault Refusal := (predOp d x y nx ny or s).done
/-- `PXOR` (R172). -/
def execPxor (d x y : BitVec 5) (nx ny : Bool) (s : State) : Host.Outcome State Fault Refusal := (predOp d x y nx ny xor s).done
/-- `PNOT` (R172). -/
def execPnot (d x : BitVec 5) (s : State) : Host.Outcome State Fault Refusal :=
  Eff.done do
    let t ← s.ready [] [] [d, x]
    return (s.modMe (fun u => u.setP d (!t.p x))).advance t

/-- Every predicate number: `PGET` and `PSET` name them all (R188). -/
def allPreds : List (BitVec 5) := (List.range 32).map (BitVec.ofNat 5)

/-- `SEL`: reads sa and then sb and takes one by the predicate (R175). -/
def execSel (d x y : Operand) (p : BitVec 5) (s : State) : Host.Outcome State Fault Refusal :=
  Eff.done do
    let t ← s.ready [x, y] [d] [p]
    let (a, b, s1) := s.read2 t x y
    return (s1.write d (if t.p p then a else b)).advance t

/-- `PGET`: the predicate word (R173). -/
def execPget (d : Operand) (s : State) : Host.Outcome State Fault Refusal :=
  Eff.done do
    let t ← s.ready [] [d] allPreds
    return (s.write d ((t.pw ||| 1).setWidth 64)).advance t

/-- `PSET`: predicates 1 to 31 from the source; p0 keeps reading 1 (R173). -/
def execPset (x : Operand) (s : State) : Host.Outcome State Fault Refusal :=
  Eff.done do
    let t ← s.ready [x] [] allPreds
    let (v, s1) := s.read1 t x
    return (s1.modMe (fun u => { u with pw := v.setWidth 32 ||| 1 })).advance t

/-- `TFULL`: the full/empty bit of a register, without parking on it (R174). -/
def execTfull (p : BitVec 5) (r : RegName) (s : State) : Host.Outcome State Fault Refusal :=
  Eff.done do
    let t ← s.ready [] [] [p]
    return (s.modMe (fun u => u.setP p (!(t.cell r).blocksRead))).advance t

end Sys2Proof.Machine
end

