-- ==== Sys2Proof/Machine/Tile.lean ====
section
/-! DEFINITION. Arithmetic on elements and tiles: vector operations (R208 to R213), the fixed-order reductions (R76), coded FP8
tiles (R67 to R71) and the matrix product (R72 to R75). -/

namespace Sys2Proof.Machine

/-! ## Elements -/

/-- Bytes of an element (R203). -/
def eBytes : VFmt → Nat
  | .f32 | .i32 => 4
  | .f16 | .bf16 | .i16 => 2
  | .i8 | .e4 | .e5 => 1

/-- The floating format of an element format, if it is one. -/
def vFloat : VFmt → Option Fmt
  | .f32 => some fmt32
  | .f16 => some fmt16
  | .bf16 => some fmtB16
  | .e4 => some fmtE4
  | .e5 => some fmtE5
  | .i32 | .i16 | .i8 => none

/-- The elements of a byte string, whose unread bytes have no value: an element with such a byte has none (R89). -/
def elemsOf (e : Nat) : Nat → List (Option Byte) → List (Option Nat)
  | 0, _ => []
  | n + 1, b =>
    let x := b.take e
    (if x.all (·.isSome) then some (leNat (x.map (·.getD 0))) else none) :: elemsOf e n (b.drop e)

/-- The bytes of elements. -/
def bytesOf (e : Nat) (l : List Nat) : List Byte := (l.map (leBytes e)).flatten

/-- The low w bits of an integer. -/
def wrapI (w : Nat) (v : Int) : Nat := (v % (2 ^ w : Int)).toNat

/-- A floating element operation: FP8 is widened to FP32, computed there under the mode, and narrowed once (R66, R208). -/
def floatOp (fmt : Fmt) (mode : BitVec 3) (r : FR) : Nat × BitVec 9 :=
  match fmt.kind with
  | .ieee =>
    let (b, g) := fmt.round mode r.1
    (b, r.2 ||| g)
  | _ =>
    let (b, g) := fmt32.round mode r.1
    let (c, h) := fmt.round mode (fmt32.value b)
    (c, r.2 ||| g ||| h)

/-- One element conversion (Table 10-3). An FP8 element of biased exponent 0 that is written in its own format, by `VCVT` or as `VUNPK` and
`TCVT` decode it, keeps its fraction bits, as Table 10-3's copy does (R66, R106, R215). (DESIGN CHOICE, log 86) -/
def convElem (src dst : VFmt) (mode : BitVec 3) (x : Nat) : Nat × BitVec 9 :=
  match vFloat src, vFloat dst with
  | some a, some b =>
    if src = dst then
      match a.value x with
      | .nan sig => (a.qnan, flagIf sig fNV)
      | _ => (x, 0)
    else b.round mode (a.value x)
  | some a, none =>
    let w := 8 * eBytes dst
    let (v, g) := (a.value x).toInt mode (iBounds w true).1 (iBounds w true).2
    (wrapI w v, g)
  | none, some b => b.round mode (FV.ofInt (sIntOf x (8 * eBytes src)))
  | none, none =>
    let w := 8 * eBytes dst
    let v := sIntOf x (8 * eBytes src)
    (wrapI w (satI v w), flagIf (satI v w != v) fSAT)

/-- A mask element. -/
def maskElem (w : Nat) (b : Bool) : Nat := if b then 2 ^ w - 1 else 0

/-- An elementwise operation in a floating format (Table 10-2, R209). -/
def elemFloat (op : ElemOp) (fmt : Fmt) (mode : BitVec 3) (x y z : Nat) : Nat × BitVec 9 :=
  let w := fmt.width
  let a := fmt.value x
  let b := fmt.value y
  match op with
  | .add => floatOp fmt mode (a.add mode b)
  | .sub => floatOp fmt mode (a.add mode b.neg)
  | .mul => floatOp fmt mode (a.mul b)
  | .fma => floatOp fmt mode (a.fma mode b (fmt.value z))
  | .min => floatOp fmt mode (a.minmax false b)
  | .max => floatOp fmt mode (a.minmax true b)
  | .abs => (x % 2 ^ (w - 1), 0)
  | .neg => (Nat.xor x (2 ^ (w - 1)), 0)
  | .div => floatOp fmt mode (a.div b)
  | .sqrt => floatOp fmt mode a.sqrt
  | .rsq => floatOp fmt mode a.rsqrt
  | .exp2 => floatOp fmt mode a.exp2
  | .ceq => (maskElem w (a.eq b), cmpFlags true a b)
  | .clt => (maskElem w (a.lt false b), cmpFlags false a b)
  | .sel => (if z != 0 then x else y, 0)
  | _ => (x, 0)

/-- An elementwise operation in an integer format of w bits (Table 10-2, R209). -/
def elemInt (op : ElemOp) (w : Nat) (x y z : Nat) : Nat × BitVec 9 :=
  let a := sIntOf x w
  let b := sIntOf y w
  let sh := y % w
  match op with
  | .add => (wrapI w (a + b), 0)
  | .sub => (wrapI w (a - b), 0)
  | .mul => (wrapI w (a * b), 0)
  | .fma => (wrapI w (a * b + sIntOf z w), 0)
  | .min => (if a ≤ b then x else y, 0)
  | .max => (if b ≤ a then x else y, 0)
  | .abs => (wrapI w (satI a.natAbs w), flagIf (satI a.natAbs w != a.natAbs) fSAT)
  | .neg => (wrapI w (satI (-a) w), flagIf (satI (-a) w != -a) fSAT)
  | .and => (Nat.land x y, 0)
  | .or => (Nat.lor x y, 0)
  | .xor => (Nat.xor x y, 0)
  | .shl => (x * 2 ^ sh % 2 ^ w, 0)
  | .shr => (x / 2 ^ sh, 0)
  | .sra => (wrapI w (a / 2 ^ sh), 0)
  | .ceq => (maskElem w (a == b), 0)
  | .clt => (maskElem w (a < b), 0)
  | .sel => (if z != 0 then x else y, 0)
  | _ => (x, 0)

/-- Element i of an elementwise operation (R208 to R213). -/
def elemRun (op : ElemOp) (f : VFmt) (mode : BitVec 3) (i x y z : Nat) : Nat × BitVec 9 :=
  match op with
  | .mov => (x, 0)
  | .cvt src => convElem src f mode x
  | .iota =>
    match vFloat f with
    | some fmt => fmt.round mode (FV.ofInt i)
    | none => (i % 2 ^ (8 * eBytes f), 0)
  | _ =>
    match vFloat f with
    | some fmt => elemFloat op fmt mode x y z
    | none => elemInt op (8 * eBytes f) x y z

/-- Patterns with the flags of the operations that made them. -/
def runAll (l : List (Nat × BitVec 9)) : List Nat × BitVec 9 := (l.map (·.1), l.foldl (fun g x => g ||| x.2) 0)

/-! ## Reductions in a fixed order (R76) -/

/-- Which combination a reduction makes. -/
inductive Fold where
  | sum | max | ssq
deriving DecidableEq, Repr

/-- Combine a partial with a further element or partial, each a pattern of the format kept. -/
def foldStep (k : Fold) (f : VFmt) (mode : BitVec 3) (p x : Nat) : Nat × BitVec 9 :=
  match k with
  | .max => elemRun .max f mode 0 p x 0
  | _ => elemRun .add f mode 0 p x 0

/-- The partial of one lane from its elements in index order. -/
def lanePartial (k : Fold) (f : VFmt) (mode : BitVec 3) : List Nat → Option Nat → BitVec 9 → Option Nat × BitVec 9
  | [], p, g => (p, g)
  | x :: r, none, g =>
    match k with
    | .ssq => let (v, h) := elemRun .mul f mode 0 x x 0; lanePartial k f mode r (some v) (g ||| h)
    | _ => lanePartial k f mode r (some x) g
  | x :: r, some p, g =>
    match k with
    | .ssq => let (v, h) := elemRun .fma f mode 0 x x p; lanePartial k f mode r (some v) (g ||| h)
    | _ => let (v, h) := foldStep k f mode p x; lanePartial k f mode r (some v) (g ||| h)

/-- Combine neighbouring lanes; an empty one yields the other. -/
def treeLevel (k : Fold) (f : VFmt) (mode : BitVec 3) : List (Option Nat) → BitVec 9 → List (Option Nat) × BitVec 9
  | a :: b :: r, g =>
    let (c, h) : Option Nat × BitVec 9 :=
      match a, b with
      | some x, some y => let (v, h) := foldStep k f mode x y; (some v, h)
      | some x, none => (some x, 0)
      | none, y => (y, 0)
    let (l, g1) := treeLevel k f mode r (g ||| h)
    (c :: l, g1)
  | l, g => (l, g)

/-- Every 16th element from the j-th. -/
def lane (xs : List Nat) (j : Nat) : List Nat :=
  (List.range ((xs.length + 15 - j) / 16)).map (fun i => xs.getD (j + 16 * i) 0)

/-- The result over elements kept in format f: nothing where there are none. -/
def foldTree (k : Fold) (f : VFmt) (mode : BitVec 3) (xs : List Nat) : Option Nat × BitVec 9 :=
  let lanes := (List.range 16).map (fun j => lanePartial k f mode (lane xs j) none 0)
  let g0 := lanes.foldl (fun g l => g ||| l.2) 0
  let (l1, g1) := treeLevel k f mode (lanes.map (·.1)) g0
  let (l2, g2) := treeLevel k f mode l1 g1
  let (l3, g3) := treeLevel k f mode l2 g2
  let (l4, g4) := treeLevel k f mode l3 g3
  (l4.headD none, g4)

/-- A reduction of a format's elements: FP8 partials are kept in FP32; a NaN result is canonical; the empty result (R76,
R60). -/
def foldRun (k : Fold) (f : VFmt) (mode : BitVec 3) (xs : List Nat) : Nat × BitVec 9 :=
  let w := 8 * eBytes f
  match vFloat f with
  | none =>
    match foldTree k f mode xs with
    | (some v, g) => (v, g)
    | (none, g) => (if k = .max then 2 ^ (w - 1) else 0, g)
  | some fmt =>
    match fmt.kind with
    | .ieee =>
      match foldTree k f mode xs with
      | (none, g) => (if k = .max then fmt.infty true else 0, g)
      | (some v, g) =>
        match fmt.value v with
        | .nan sig => (fmt.qnan, g ||| flagIf sig fNV)
        | _ => (v, g)
    | kd =>
      let ws := xs.map (fun x => fmt32.round mode (fmt.value x))
      let g0 := ws.foldl (fun g x => g ||| x.2) 0
      match foldTree k .f32 mode (ws.map (·.1)) with
      | (none, g) => (if k = .max then (if kd = .e4 then fmtE4.largest true else fmt.infty true) else 0, g0 ||| g)
      | (some v, g) =>
        let (r, h) := fmt.round mode (fmt32.value v)
        (r, g0 ||| g ||| h)

/-! ## Coded tiles (R67 to R71) -/

/-- Fraction bits of a coded element format: 0 E4M3, 1 E5M2. -/
def efFrac (ef : Nat) : Nat := if ef = 0 then 3 else 2
/-- Width of a raw value (R68). -/
def efRaw (ef : Nat) : Nat := if ef = 0 then 4 else 3
/-- Exponent bits k (R69). -/
def efExp (ef : Nat) : Nat := if ef = 0 then 4 else 5

/-- The bits of bytes, bit 0 of byte 0 first (R68). -/
def bitsOf (b : List Byte) : List Bool := (b.map (fun x => (List.range 8).map x.getLsbD)).flatten

/-- n bits of a number, the least significant first. -/
def lsbFirst (n v : Nat) : List Bool := (List.range n).map v.testBit
/-- n bits of a number, the most significant first. -/
def msbFirst (n v : Nat) : List Bool := (lsbFirst n v).reverse

/-- The number of bits read least significant first. -/
def lsbNat : List Bool → Nat
  | [] => 0
  | b :: r => b.toNat + 2 * lsbNat r
/-- The number of bits read most significant first. -/
def msbNat (l : List Bool) : Nat := lsbNat l.reverse

/-- Bytes that hold a bit stream, padded with zero bits, of n bits (R68). -/
def packBits (l : List Bool) : List Byte :=
  (List.range ((l.length + 7) / 8)).map (fun i => BitVec.ofNat 8 (lsbNat ((l.drop (8 * i)).take 8)))

/-- Total length of a tile by its header word. -/
def ctLen (h : Nat) : Nat := bits h 41 30

/-- One token (Table 3-7): table, exponent bits, base and raw value; the exponent and the bits left. -/
def token (t k b raw : Nat) (l : List Bool) : Option (Nat × List Bool) :=
  let num := fun (n : Nat) (r : List Bool) => if r.length < n then none else some (msbNat (r.take n), r.drop n)
  match t with
  | 0 => num k l
  | 1 =>
    match l with
    | false :: r => some (b % 2 ^ k, r)
    | true :: false :: r => some ((b + 1) % 2 ^ k, r)
    | true :: true :: false :: r => some ((b + 2) % 2 ^ k, r)
    | true :: true :: true :: r => num k r
    | _ => none
  | 2 =>
    match l with
    | false :: r => (num 2 r).map (fun p => ((b + p.1) % 2 ^ k, p.2))
    | true :: r => num k r
    | _ => none
  | _ =>
    match l with
    | false :: r => if raw = 0 then some (0, r) else none
    | true :: false :: r =>
      (num 2 r).bind (fun p => let e := (b + p.1) % 2 ^ k; if e = 0 then none else some (e, p.2))
    | true :: true :: r => num k r
    | _ => none

/-- The exponents of a row's tokens and how many bits they took. -/
def tokens (t k b : Nat) : List Nat → List Bool → Nat → Option (List Nat × Nat)
  | [], _, n => some ([], n)
  | raw :: r, l, n =>
    (token t k b raw l).bind (fun p => (tokens t k b r p.2 (n + (l.length - p.2.length))).map (fun q => (p.1 :: q.1, q.2)))

/-- Decode blocks (R68 to R70): element patterns in row order, where they end exactly with the bytes. -/
def blocks (ef cols : Nat) : Nat → List Byte → Option (List Nat)
  | 0, l => if l.isEmpty then some [] else none
  | _ + 1, [] => none
  | n + 1, h :: l =>
    let k := efExp ef
    let w := efRaw ef
    let t := h.toNat / 64
    let b := h.toNat / 2 % 32
    let rawLen := (cols * w + 7) / 8
    let rawBits := bitsOf (l.take rawLen)
    let raws := (List.range cols).map (fun j => lsbNat ((rawBits.drop (w * j)).take w))
    if h.getLsbD 0 || (ef = 0 && 15 < b) || l.length < rawLen || (rawBits.drop (cols * w)).any id then none
    else
      let rest := l.drop rawLen
      -- no table spends more than 8 bits on a token
      match tokens t k b raws (bitsOf (rest.take cols)) 0 with
      | none => none
      | some (es, used) =>
        let len := (used + 7) / 8
        if ((bitsOf (rest.take len)).drop used).any id then none
        else
          let vals := (List.range cols).map (fun j =>
            let raw := raws.getD j 0
            let f := efFrac ef
            raw / 2 ^ f * 2 ^ 7 + es.getD j 0 * 2 ^ f + raw % 2 ^ f)
          (blocks ef cols n (rest.drop len)).map (vals ++ ·)

/-- Decode a coded tile of exactly LEN bytes: element format, rows, columns, patterns; nothing where it is malformed (R70). -/
def decodeTile (b : List Byte) : Option (Nat × Nat × Nat × List Nat) :=
  let h := leNat (b.take 8)
  let ef := bits h 55 52
  let rows := bits h 51 47 + 1
  let cols := bits h 46 42 + 1
  let len := ctLen h
  if bits h 63 56 != 0xC8 || 1 < ef || bits h 29 0 != 0 || len < 9 || b.length != len then none
  else (blocks ef cols rows (b.drop 8)).map (fun l => (ef, rows, cols, l))

/-- The token of an exponent by the first matching row of its table (Table 3-7). -/
def encToken (t k b e raw : Nat) : List Bool :=
  let d := (e + 2 ^ k - b) % 2 ^ k
  match t with
  | 0 => msbFirst k e
  | 1 => if d = 0 then [false] else if d = 1 then [true, false] else if d = 2 then [true, true, false]
         else true :: true :: true :: msbFirst k e
  | 2 => if d ≤ 3 then false :: msbFirst 2 d else true :: msbFirst k e
  | _ => if e = 0 && raw = 0 then [false] else if d ≤ 3 && e != 0 then true :: false :: msbFirst 2 d
         else true :: true :: msbFirst k e

/-- The most frequent nonzero exponent, the smallest on ties, 0 if there is none (R71). -/
def rowBase (k : Nat) (es : List Nat) : Nat :=
  ((List.range (2 ^ k)).foldl (fun best e =>
    if e = 0 then best
    else
      let n := (es.filter (· == e)).length
      if best.2 < n then (e, n) else best) (0, 0)).1

/-- The block of a row (R71). -/
def encBlock (ef : Nat) (row : List Nat) : List Byte :=
  let k := efExp ef
  let f := efFrac ef
  let es := row.map (fun x => x / 2 ^ f % 2 ^ k)
  let raws := row.map (fun x => x / 2 ^ 7 % 2 * 2 ^ f + x % 2 ^ f)
  let b := rowBase k es
  let raw := packBits (raws.map (lsbFirst (efRaw ef))).flatten
  let toks := fun (t : Nat) => packBits ((es.zip raws).map (fun p => encToken t k b p.1 p.2)).flatten
  let best := [1, 2, 3].foldl (fun (best : Nat × List Byte) t =>
    let c := toks t
    if c.length < best.2.length then (t, c) else best) (0, toks 0)
  BitVec.ofNat 8 (best.1 * 64 + b * 2) :: (raw ++ best.2)

/-- The rows of a list of elements. -/
def rowsOf (cols : Nat) : Nat → List Nat → List (List Nat)
  | 0, _ => []
  | n + 1, l => l.take cols :: rowsOf cols n (l.drop cols)

/-- Encode a coded tile (R67, R71); a pattern of exponent 0 is written with fraction 0 (R214). -/
def encodeTile (ef rows cols : Nat) (vals : List Nat) : List Byte :=
  let clean := vals.map (fun x => if x / 2 ^ efFrac ef % 2 ^ efExp ef = 0 then x / 2 ^ 7 * 2 ^ 7 else x)
  let body := ((rowsOf cols rows clean).map (encBlock ef)).flatten
  let h := 0xC8 * 2 ^ 56 + ef * 2 ^ 52 + (rows - 1) * 2 ^ 47 + (cols - 1) * 2 ^ 42 + (8 + body.length) * 2 ^ 30
  leBytes 8 h ++ body

/-- The length of a tile under T0, which no table choice exceeds (R214). -/
def t0Len (ef rows cols : Nat) : Nat := 8 + rows * (1 + (cols * efRaw ef + 7) / 8 + (cols * efExp ef + 7) / 8)

/-- Decoded patterns as their format reads them. -/
def efFmt (ef : Nat) : Fmt := if ef = 0 then fmtE4 else fmtE5
/-- The plain format of a coded element format. -/
def efV (ef : Nat) : VFmt := if ef = 0 then .e4 else .e5

/-! ## The matrix product (R72 to R74) -/

/-- The exponent of the unit in which every finite value of a format is an integer. -/
def Fmt.unit (f : Fmt) : Int := 1 - (f.bias : Int) - f.fw

/-- What the terms of a sum have been: their exact sum in a fixed unit, the infinities met, a NaN, flags. (DEDUCED, log 38) -/
structure Dot where
  sum : Int
  pos : Bool
  neg : Bool
  nan : Bool
  fl  : BitVec 9
deriving DecidableEq, Repr

/-- One product added (R72). (DEDUCED, log 38) -/
def Dot.step (q : Int) (d : Dot) (a b : FV) : Dot :=
  let (p, g) := a.mul b
  let d := { d with fl := d.fl ||| g }
  match p with
  | .nan _ => { d with nan := true }
  | .inf n => if n then { d with neg := true } else { d with pos := true }
  | .num n m e _ => if m = 0 then d else { d with sum := d.sum + atUnit n m e q }

/-- The sum of a row times a column. -/
def dotRow (q : Int) : List FV → List FV → Dot → Dot
  | a :: r, b :: c, d => dotRow q r c (d.step q a b)
  | _, _, d => d

/-- S as a value: infinities of both signs are invalid, and a zero is +0 (R72). -/
def Dot.value (q : Int) (d : Dot) : FR :=
  if d.pos && d.neg then (.nan false, d.fl ||| fNV)
  else if d.nan then (.nan false, d.fl)
  else if d.pos then (.inf false, d.fl)
  else if d.neg then (.inf true, d.fl)
  else (.num (d.sum < 0) d.sum.natAbs q false, d.fl)

/-- The columns of a 32 × 32 tile, or its rows where B is transposed (R72). -/
def columns {α : Type} [Inhabited α] (tb : Bool) (b : List α) : List (List α) :=
  let v := b.toArray
  (List.range 32).map (fun j => (List.range 32).map (fun k => v.getD (if tb then 32 * j + k else 32 * k + j) default))

/-- The rows of a 32 × 32 tile. -/
def tileRows {α : Type} (a : List α) : List (List α) :=
  (List.range 32).map (fun i => (a.drop (32 * i)).take 32)

/-- One accumulator element (R73): t = sA × sB × S exactly, one rounding under RNE, economy. -/
def mmaElem (q : Int) (sc : FR) (eco : Bool) (acc : Nat) (d : Dot) : Nat × BitVec 9 :=
  let (s, g) := d.value q
  let (t, h) : FR :=
    match s, sc.1 with
    | .num _ 0 _ _, .num _ _ _ _ => (.num false 0 0 false, 0)
    | _, c => c.mul s
  let (u, k) := (fmt32.value acc).add 0 t
  let (v, r) := fmt32.round 0 u
  let v1 := if eco && v / 2 ^ 23 % 256 != 255 then v / 4 * 4 else v
  (v1, (g ||| h ||| k ||| r ||| sc.2) &&& (fNV ||| fOF))

/-- The product of two tiles of a floating input format onto accumulator words (R72, R73). -/
def mmaFloat (fmt : Fmt) (tb eco : Bool) (sA sB : Nat) (acc a b : List Nat) : List Nat × BitVec 9 :=
  let q := 2 * fmt.unit
  let sc := (fmt32.value sA).mul (fmt32.value sB)
  let cols := columns (α := Nat) tb b |>.map (fun c => c.map fmt.value)
  runAll (((tileRows (a.map fmt.value)).zip (tileRows acc)).map (fun (r, o) =>
    (cols.zip o).map (fun (c, x) => mmaElem q sc eco x (dotRow q r c ⟨0, false, false, false, 0⟩)))).flatten

/-- The product of two INT8 tiles (R74). -/
def mmaInt (tb : Bool) (acc a b : List Nat) : List Nat × BitVec 9 :=
  let cols := columns (α := Nat) tb b |>.map (fun c => c.map (sIntOf · 8))
  runAll (((tileRows (a.map (sIntOf · 8))).zip (tileRows acc)).map (fun (r, o) =>
    (cols.zip o).map (fun (c, x) =>
      let v := sIntOf x 32 + ((r.zip c).map (fun (p : Int × Int) => p.1 * p.2)).sum
      (wrapI 32 (satI v 32), flagIf (satI v 32 != v) fSAT)))).flatten

/-! ## Tile operations of a walk (R106) -/

/-- The element format of a tile format code; coded tiles hold plain FP8 elements (Table 5-3). -/
def tileV (code : Nat) : VFmt :=
  match code with
  | 0 => .f32
  | 1 => .f16
  | 2 => .bf16
  | 3 => .i32
  | 4 => .i16
  | 5 => .i8
  | 6 | 8 => .e4
  | _ => .e5

/-- The tile format is a coded one. -/
def isCoded (code : Nat) : Bool := code == 8 || code == 9

/-- The elements of a walk operation's result where its operands fit it (Table 5-5). -/
def runTile (t : TileJob) (a b : List Nat) (sA sB : Nat) : List Nat × BitVec 9 :=
  let f := tileV t.afmt
  let pair := fun (op : ElemOp) => runAll ((a.zip b).map (fun p => elemRun op f 0 0 p.1 p.2 0))
  match t.op with
  | 0 => pair .add
  | 1 => pair .sub
  | 2 => pair .mul
  | 3 => pair .max
  | 4 =>
    let tb := t.mode.getLsbD 9
    let zero := List.replicate 1024 0
    let (acc, g) := if t.afmt = 5 then mmaInt tb zero a b
      else mmaFloat ((vFloat f).getD fmt32) tb (t.mode.getLsbD 8) sA sB zero a b
    if t.rfmt = 0 || t.rfmt = 3 then (acc, g)
    else
      let (r, h) := runAll (acc.map (convElem .f32 (tileV t.rfmt) 0))
      (r, g ||| h)
  | 5 => runAll (a.map (convElem f (tileV t.rfmt) 0))
  | 6 => runAll (a.map (fun x => elemRun .mul f 0 0 x (b.headD 0) 0))
  | _ => runAll ((rowsOf t.acols t.arows a).map (foldRun .sum f 0))

/-- The bytes of a tile of a format from its element patterns. -/
def tileBytes (code rows cols : Nat) (l : List Nat) : List Byte :=
  if isCoded code then encodeTile (code - 8) rows cols l else bytesOf (eBytes (tileV code)) l

/-- The elements of a walk operation's result from those of its operands, under RNE (Table 5-5). (DESIGN CHOICE, log 21) -/
def tileRun (t : TileJob) (a b : List Nat) (sA sB : Nat) : List Nat × BitVec 9 :=
  match t.free with
  | some n =>
    ((List.range (t.rows * t.cols)).map (fun i => (Config.freeElem n i).toNat % 2 ^ (8 * eBytes (tileV t.rfmt))),
      (Config.freeElem n (t.rows * t.cols)).setWidth 9)
  | none => runTile t a b sA sB

end Sys2Proof.Machine
end

