-- ==== Sys2Proof/Machine/Engine.lean ====
section
/-! DEFINITION. The engines of a core (R100, R101, R131, R137, R202 to R206, R221 to R225, R237): issue, the plan of an
operation, and what its lines compute. -/

namespace Sys2Proof.Machine

/-! ## Engines and counters -/

/-- An engine of a core. -/
def Core.engine (k : Core) : Eng → Engine
  | .mat => k.mat
  | .vec => k.vec
  | .copy => k.copy

/-- Change an engine of a core. -/
def Core.modEngine (k : Core) (e : Eng) (f : Engine → Engine) : Core :=
  match e with
  | .mat => { k with mat := f k.mat }
  | .vec => { k with vec := f k.vec }
  | .copy => { k with copy := f k.copy }

/-- The running operation of an engine, or the next one to run. -/
def State.engHead (s : State) (c : Nat) (e : Eng) : Option EngOp := ((s.core c).engine e).queue.head?

/-- Change the operation at the head of an engine's queue. -/
def State.modOp (s : State) (c : Nat) (e : Eng) (f : EngOp → EngOp) : State :=
  s.modCore c (fun k => k.modEngine e (fun x => { x with queue := match x.queue with | [] => [] | o :: r => f o :: r }))

/-- Code of an engine in a Diary record (Table 22-2). -/
def engCode : Eng → Nat
  | .mat => 0
  | .vec => 1
  | .copy => 2

/-- A counter rises by one, with its outstanding operations (R233). -/
def Core.raiseCC (k : Core) (c : BitVec 3) : Core :=
  let x := k.cc[c.toFin]
  { k with cc := k.cc.set c.toFin ⟨x.val + 1, x.out + 1⟩ }

/-- A counter falls by one; at 0 it stays (R233). -/
def Core.lowerCC (k : Core) (c : BitVec 3) : Core :=
  let x := k.cc[c.toFin]
  { k with cc := k.cc.set c.toFin ⟨if x.val = 0 then 0 else x.val - 1, x.out - 1⟩ }

/-! ## Accumulators (R222) -/

/-- The 1,024 words of an accumulator. -/
def Core.accWords (k : Core) (t : BitVec 4) : List Nat :=
  ((k.acc.filter (fun p => p.1 / 1024 == t.toNat)).foldl
    (fun (a : Array Nat) p => a.setIfInBounds (p.1 % 1024) p.2.toNat) (Array.replicate 1024 0)).toList

/-- Write the words of an accumulator, with fresh check bits. -/
def Core.setAcc (k : Core) (t : BitVec 4) (w : List Nat) : Core :=
  let n := t.toNat
  let new := (List.range 1024).zip w |>.filterMap (fun (i, x) => if x = 0 then none else some (1024 * n + i, BitVec.ofNat 32 x))
  { k with
    acc := k.acc.filter (fun p => p.1 / 1024 < n) ++ new ++ k.acc.filter (fun p => n < p.1 / 1024)
    accSynd := k.accSynd.filter (fun p => p.1 / 512 != n) }

/-- The words of an accumulator as an engine reads them: corrected, or nothing where a word pair is uncorrectable and is
consumed (R319, R320). -/
def State.readAcc (s : State) (c : Nat) (t : BitVec 4) : Option (List Nat) × State :=
  let mine := (s.core c).accSynd.filter (fun p => p.1 / 512 == t.toNat)
  if mine.any (fun p => eccClass p.2 == .bad) then (none, s.consume c)
  else
    let w := (s.core c).accWords t
    let fixed := mine.foldl (fun (w : List Nat) p =>
      match eccClass p.2 with
      | .data i => w.modify (p.1 % 512 * 2 + i / 32) (fun x => Nat.xor x (2 ^ (i % 32)))
      | _ => w) w
    if mine.isEmpty then (some w, s)
    else
      let s1 := mine.foldl (fun s p => s.note (.core c) 0x12 (3 * 2 ^ 38 + p.1 * 2)) s
      (some fixed, s1.modCore c (fun k => k.setAcc t fixed))

/-! ## Streams (R203, R204, Table 11-1) -/

/-- Where a stream may lie: global memory or the own scratchpad; an `MMA` operand in the quad; anywhere; a scratchpad of the
quad; an attendance word. -/
inductive Reach where
  | own | quad | any | quadSp | att
deriving DecidableEq, Repr

/-- A stream of an engine instruction: pointer, offset, bytes, alignment, whether it is a destination, and its reach. -/
structure Stream where
  p     : Fin 8
  off   : Word
  n     : Nat
  align : Nat
  dst   : Bool
  reach : Reach
deriving DecidableEq, Repr

/-- The device address of a stream. -/
def Thread.streamVa (t : Thread) (x : Stream) : Nat := t.segs[x.p].base.toNat + x.off.toNat

/-- The rights a stream needs (R204); an attendance pointer is checked for its bounds only. -/
def Stream.need (x : Stream) : Need :=
  match x.reach with
  | .att => ⟨false, false, false⟩
  | _ => if x.dst then needW else needR

/-- Where a range lies, wholly within one row of Table 4-1. -/
def State.rangeSpace (s : State) (core va n : Nat) : Option Space :=
  match s.spaceOf core va with
  | some .glob => if va + n ≤ 0x800000000000 then some .glob else none
  | some (.sp m c off) => if off + n ≤ Config.spBytes then some (.sp m c off) else none
  | none => none

/-- The cause by which the place of a stream is refused (R204 step 6, R224, R229, R85). -/
def State.placeFault (s : State) (t : Thread) (x : Stream) : Option (BitVec 8) :=
  let core := s.cur.core
  match s.rangeSpace core (t.streamVa x) x.n with
  | none => some (if x.reach = .quad then cMMAREACH else cSEGV)
  | some .glob =>
    match x.reach with
    | .own | .any => none
    | .quad => some cMMAREACH
    | .quadSp | .att => some cSEGV
  | some (.sp m c _) =>
    let here := m == Config.pkg
    match x.reach with
    | .own => if here && c == core then none else some cSPLIT
    | .quad => if here && quadOf c == quadOf core then none else some cMMAREACH
    | .quadSp => if here && quadOf c == quadOf core then none else some cSEGV
    | .att => if here then none else some cSEGV
    | .any => none

/-- A scratchpad stream, other than a copy's, reaches below `xb` (R204 step 7). -/
def State.belowXb (s : State) (t : Thread) (x : Stream) : Bool :=
  match x.reach, s.spaceOf s.cur.core (t.streamVa x) with
  | .own, some (.sp _ c off) | .quad, some (.sp _ c off) => off < (s.core c).xb.toNat
  | _, _ => false

/-- Steps 4 to 7 of R204, each for every stream before the next: the cause and value of the first failure. -/
def State.streamFault (s : State) (t : Thread) (xs : List Stream) : Option (BitVec 8 × Word) :=
  let live := xs.filter (fun x => x.n != 0)
  match live.find? (fun x => !(t.segs[x.p]).grants x.off.toNat x.n x.need) with
  | some x => some (cSEGV, x.off)
  | none =>
    match live.find? (fun x => t.streamVa x % x.align != 0) with
    | some x => some (cMISALIGN, x.off)
    | none =>
      match live.findSome? (fun x => (s.placeFault t x).map (fun c => (c, x.off))) with
      | some r => some r
      | none =>
        match live.find? (fun x => s.belowXb t x) with
        | some x => some (cEXECONLY, x.off)
        | none => none

/-- The ranges that streams register, sources or destinations (R101, R237). -/
def State.streamRanges (s : State) (t : Thread) (xs : List Stream) (dst : Bool) : List Range :=
  (xs.filter (fun x => x.n != 0 && x.dst == dst && x.reach != .att && x.reach != .quadSp)).map
    (fun x => ⟨s.canonVa s.cur.core (t.streamVa x), x.n⟩)

/-- What an engine instruction asks for. -/
structure EngReq where
  eng    : Eng
  opc    : Nat
  job    : Job
  ec     : ECtl
  vl     : Nat
  xs     : List Stream
  /-- destination ranges besides those of the streams (`CPYM`) -/
  extra  : List Range
  /-- pointers with the values their post-increments give, where the amount is known at issue -/
  posts  : List (Fin 8 × Word)
  scaled : List (Fin 8 × Word × Nat)
  count  : Option (Fin 16)
  late   : Option (Fin 8)
  /-- entries of the Hall Pass table that the operation takes while it runs -/
  more   : Nat
  att    : Option Nat

/-- A request with the fields that most instructions leave empty. -/
def EngReq.basic (eng : Eng) (opc : Nat) (job : Job) (ec : ECtl) (vl : Nat) (xs : List Stream)
    (posts : List (Fin 8 × Word)) : EngReq :=
  { eng := eng, opc := opc, job := job, ec := ec, vl := vl, xs := xs, extra := [], posts := posts, scaled := []
    count := none, late := none, more := 0, att := none }

/-- An operation of another engine of the core whose ranges forbid the issue: an overlap with a destination in it (R101). -/
def Core.engConflict (k : Core) (e : Eng) (srcs dsts : List Range) : Bool :=
  let others := (if e = .mat then [] else k.mat.queue) ++ (if e = .vec then [] else k.vec.queue) ++
    (if e = .copy then [] else k.copy.queue)
  others.any (fun o => o.dsts.any (fun r => srcs.any r.meets || dsts.any r.meets) || o.srcs.any (fun r => dsts.any r.meets))

/-- Entries of the Hall Pass table in use (R101). -/
def Core.hallUse (k : Core) : Nat := (k.engQueue.map (fun o => o.srcs.length + o.dsts.length + o.more)).sum

/-- The length or shape register of a copy. -/
def Job.shape : Job → Word
  | .cpy _ _ n | .cpym _ _ n _ => w64 n
  | .cpy2 _ _ v => v
  | _ => 0

/-- An operation with its fields at issue. -/
def engOpOf (t : Thread) (slot : Fin 8) (tag enc : Nat) (r : EngReq) (srcs dsts : List Range) : EngOp :=
  { tag := tag, who := t.id, slot := slot, part := t.part, opc := r.opc, pc := t.pc, enc := enc, shape := r.job.shape, job := r.job, rnd := t.rnd, vl := r.vl
    segs := t.segs, cnt := some r.ec.cnt, wait := r.ec.wait, srcs := srcs, dsts := dsts, more := if r.vl = 0 then 0 else r.more, att := r.att, started := false
    landed := false, ordered := false, units := [], flags := 0, trap := none, move := none
    outs := if r.ec.wait then r.posts.map (fun p => (RegName.a p.1, p.2)) else []
    scaled := r.scaled, count := r.count, late := r.late.map (fun p => (p, t.av p)), skip := [], logged := [], granted := [] }

/-- What an engine instruction waits for in its thread: nothing may be outstanding (R131); an acquire whose effect is to be dropped holds it
back no longer (R135). -/
def Thread.engWait (t : Thread) : Bool := !t.rlx.isEmpty || t.oar.any (fun o => !o.acq || o.alone || o.loose.isNone)

/-- The issue of an engine operation (R204, R221): `s` is the state before its sources were read and `base` after. -/
def State.engIssue (s base : State) (t : Thread) (r : EngReq) : Eff := do
  if t.engWait then stop s (.park .issue)
  match base.streamFault t r.xs with
  | some (c, v) => stop base (.trap c v)
  | none =>
    let k := s.myCore
    let srcs := base.streamRanges t r.xs false
    let dsts := base.streamRanges t r.xs true ++ r.extra
    if k.engConflict r.eng srcs dsts || 16 < k.hallUse + srcs.length + dsts.length + (if r.vl = 0 then 0 else r.more) then stop s (.park .issue)
    else if 2 ≤ (k.engine r.eng).queue.length then stop s (.park .issue)
    else if k.cc[r.ec.cnt.toFin].val = 65535 then stop s (.park (.counter r.ec.cnt))
    else
      let s1 ← base.sideEffect t
      let c := s.cur.core
      let tag := s1.nextTag
      let h := (s.myLine t).slot (pcIdx t.pc)
      let o := engOpOf t s.cur.slot tag (h.1 % 2 ^ 16 + h.2 % 2 ^ 32 * 2 ^ 16) r srcs dsts
      let s2 := (s1.modCore c (fun k => (k.modEngine r.eng (fun x => { x with queue := x.queue ++ [o] })).raiseCC r.ec.cnt)).note
        (.core c) 0x07 (engCode r.eng * 2 ^ 38 + s.cur.slot.val * 2 ^ 35 + r.opc * 2 ^ 26 + r.ec.cnt.toNat * 2 ^ 23)
      let s3 := s2.modMe (fun u =>
        let u1 := { u with engOps := u.engOps ++ [tag], oar := u.oar.map (fun o => { o with loose := some true }) }
        let u2 := if r.ec.wait then u1 else r.posts.foldl (fun (u : Thread) p => { u with a := u.a.set p.1 (.of p.2) }) u1
        match r.late with
        | some p => { u2 with a := u2.a.set p { u2.a[p] with full := false, pend := some tag } }
        | none => u2)
      let s4 := ({ s3 with nextTag := tag + 1 } : State).advance t
      return if r.ec.wait then s4.modMe (fun u => { u with status := .engineWait tag }) else s4

/-! ## Lines -/

/-- The pieces of n bytes at a device address, one for each 64-byte line (R137). -/
def pieces (va n : Nat) : List (Nat × Nat) :=
  if n = 0 then []
  else (List.range ((va + n - 1) / 64 - va / 64 + 1)).map (fun i =>
    let lo := if i = 0 then va else (va / 64 + i) * 64
    let hi := if va + n ≤ (va / 64 + i + 1) * 64 then va + n else (va / 64 + i + 1) * 64
    (lo, hi - lo))

/-- The reads of a stream's bytes. -/
def readsOf (str va n : Nat) : List LineRead := (pieces va n).map (fun p => ⟨str, p.1, p.2, false, none⟩)

/-- The writes of consecutive bytes; a line with a byte that has no value is left unwritten (R89). -/
def writesOf (va : Nat) (b : List (Option Byte)) (att : Option Nat) : List LineWrite :=
  (pieces va b.length).filterMap (fun p =>
    let x := (b.drop (p.1 - va)).take p.2
    if x.all (·.isSome) then some ⟨p.1, x.map (·.getD 0), att, false⟩ else none)

/-- The writes of bytes that all have values. -/
def fullWrites (va : Nat) (b : List Byte) : List LineWrite := writesOf va (b.map some) none

/-- The bytes of a stream of a unit whose lines have been read. -/
def EUnit.bytes (u : EUnit) (str : Nat) : List (Option Byte) :=
  ((u.reads.filter (fun r => r.str == str)).map (fun r =>
    match r.got with
    | some (some b) => b.map some
    | _ => List.replicate r.n none)).flatten

/-- All bytes of a stream, unless a line of it was refused. -/
def EUnit.all (u : EUnit) (str : Nat) : Option (List Byte) :=
  let b := u.bytes str
  if b.all (·.isSome) then some (b.map (·.getD 0)) else none

/-- A unit that starts with these reads. -/
def unitOf (key : Nat) (reads : List LineRead) : EUnit := ⟨key, reads, 0, false, [], []⟩

/-! ## Elementwise steps (R206) -/

/-- Element bytes of a source. -/
def ESrc.bytes : ESrc → Nat
  | .strm _ f => eBytes f
  | .scal _ => 1

/-- Elements in a step (R206): E is the largest element size among the streams. -/
def stepElems (f : VFmt) (xs : List ESrc) : Nat := 64 / (xs.foldl (fun e x => if e < x.bytes then x.bytes else e) (eBytes f))

/-- The reads of step k. -/
def elemReads (f : VFmt) (xs : List ESrc) (n k : Nat) : List LineRead :=
  let g := stepElems f xs
  let m := if n - k * g < g then n - k * g else g
  ((List.range xs.length).zip xs).flatMap (fun (j, x) =>
    match x with
    | .strm va h => readsOf j (va + k * g * eBytes h) (m * eBytes h)
    | .scal _ => [])

/-- Element i of a source in a step of m elements. -/
def srcElems (u : EUnit) (j m w : Nat) : Option ESrc → List (Option Nat)
  | some (.strm _ h) => elemsOf (eBytes h) m (u.bytes j)
  | some (.scal v) => List.replicate m (some (v.toNat % 2 ^ w))
  | none => List.replicate m (some 0)

/-- The destination elements of step k, those with a refused source byte having none, and the flags (R206, R208, R89). -/
def elemStep (op : ElemOp) (f : VFmt) (xs : List ESrc) (mode : BitVec 3) (n : Nat) (u : EUnit) :
    List (Option Nat) × BitVec 9 :=
  let g := stepElems f xs
  let m := if n - u.key * g < g then n - u.key * g else g
  let w := 8 * eBytes f
  let x := srcElems u 0 m w xs[0]?
  let y := srcElems u 1 m w xs[1]?
  let z := srcElems u 2 m w xs[2]?
  let r := (List.range m).map (fun i =>
    match x.getD i none, y.getD i none, z.getD i none with
    | some a, some b, some c => let p := elemRun op f mode (u.key * g + i) a b c; (some p.1, p.2)
    | _, _, _ => (none, 0))
  (r.map (·.1), r.foldl (fun g p => g ||| p.2) 0)

/-- The bytes of elements, some without a value. -/
def optBytes (e : Nat) (l : List (Option Nat)) : List (Option Byte) :=
  l.flatMap (fun x => match x with | some v => (leBytes e v).map some | none => List.replicate e none)

/-- The bytes of a coded tile in the line of its header, which is read first and once (R215, R224). -/
def headBytes (va : Nat) : Nat := 64 - va % 64

/-- The reads of a coded tile of len bytes beyond its first line. -/
def restReads (str va len : Nat) : List LineRead :=
  if len ≤ headBytes va then [] else readsOf str (va + headBytes va) (len - headBytes va)

/-! ## The plan of an operation -/

/-- A copy whose destination lies above an overlapping source goes from the highest line down (R227). -/
def State.copiesDown (s : State) (c d x n : Nat) : Bool :=
  let a := s.canonVa c d
  let b := s.canonVa c x
  b < a && a < b + n

/-- The units of an operation as it starts. -/
def State.planOf (s : State) (c : Nat) (o : EngOp) : List EUnit :=
  match o.job with
  | .elem _ f _ xs =>
    let g := stepElems f xs
    (List.range ((o.vl + g - 1) / g)).map (fun k => unitOf k (elemReads f xs o.vl k))
  | .fold _ f _ x => [unitOf 0 (readsOf 0 x (o.vl * eBytes f))]
  | .pack _ src rows cols _ x => [unitOf 0 (readsOf 0 x (rows * cols * eBytes src))]
  | .unpk _ _ x _ _ => [unitOf 0 (readsOf 0 x (headBytes x))]
  | .trn f _ x => [unitOf 0 (readsOf 0 x (1024 * eBytes f))]
  | .cmpr f _ x y => [unitOf 0 (readsOf 0 x (o.vl * eBytes f) ++ readsOf 1 y (o.vl * eBytes f))]
  | .gath _ _ _ _ _ y => [unitOf 0 (readsOf 0 y (o.vl * 4))]
  | .scat f _ _ x y => [unitOf 0 (readsOf 0 y (o.vl * 4) ++ readsOf 1 x (o.vl * eBytes f))]
  | .mma _ x y m sclp =>
    let n := fun (a : Nat) => match m.fmt with | .c4 | .c5 => headBytes a | .f16 | .bf16 => 2048 | .i8 => 1024
    let scale := if m.scale = 0 then [] else (readsOf 2 (sclp + 8 * m.scale.toNat) 8).map (fun r => { r with ld := true })
    [unitOf 0 (readsOf 0 x (n x) ++ readsOf 1 y (n y) ++ scale)]
  | .mzero _ | .msta _ _ _ _ | .mstc _ _ _ | .madd _ _ _ | .mrssq _ _ => [unitOf 0 []]
  | .mlda _ x => [unitOf 0 (readsOf 0 x 4096)]
  | .mscal _ x => [unitOf 0 (readsOf 0 x 128)]
  | .cpy d x n =>
    let l := pieces d n
    let us := ((List.range l.length).zip l).map (fun (i, p) => unitOf i (readsOf 0 (x + (p.1 - d)) p.2))
    if s.copiesDown c d x n then us.reverse else us
  | .cpy2 _ x v =>
    let rows := bits v.toNat 63 48
    let w := bits v.toNat 47 32
    if w = 0 then [] else (List.range rows).map (fun r => unitOf r (readsOf 0 (x + r * bits v.toNat 31 16) w))
  | .cpym off x n _ =>
    let l := pieces off n
    ((List.range l.length).zip l).map (fun (i, p) => unitOf i (readsOf 0 (x + (p.1 - off)) p.2))
  | .depo _ | .red _ => []
  | .tile t =>
    let n := fun (fmt rows cols va : Nat) => if isCoded fmt then headBytes va else rows * cols * eBytes (tileV fmt)
    let scale := if t.op = 4 && t.mode.setWidth 8 != 0#8
      then (readsOf 2 (t.sclp + 8 * (t.mode.toNat % 256)) 8).map (fun r => { r with ld := true }) else []
    [unitOf 0 (readsOf 0 t.aaddr (n t.afmt t.arows t.acols t.aaddr) ++
      (if !t.two then [] else readsOf 1 t.baddr (n t.bfmt t.brows t.bcols t.baddr)) ++ scale)]

/-- Operations whose units, and the lines of a unit, are performed in order (R137). -/
def State.inOrder (s : State) (c : Nat) (o : EngOp) : Bool :=
  match o.job with
  | .elem _ _ _ _ | .cpy2 _ _ _ | .scat _ _ _ _ _ => true
  | .cpy d x n =>
    let a := s.canonVa c d
    let b := s.canonVa c x
    a < b + n && b < a + n
  | _ => false

/-- The destination lines that are known before any unit has read. (DEDUCED, log 37) -/
def EngOp.dstLines (o : EngOp) : List (Nat × Nat) :=
  match o.job with
  | .elem _ f d _ => pieces d (o.vl * eBytes f)
  | .cpy d _ n => pieces d n
  | .cpy2 d _ v => (List.range (bits v.toNat 63 48)).flatMap (fun r => pieces (d + r * bits v.toNat 15 0) (bits v.toNat 47 32))
  | _ => []

/-! ## What a unit does once its lines are read -/

/-- What comes next: more reads, or writes with flags; a trap; where the thread must go; the value of the pending pointer; the
count; ranges to register in place of the sources or beside the destinations. -/
structure UOut where
  reads  : List LineRead
  writes : List LineWrite
  flags  : BitVec 9
  trap   : Option (BitVec 8 × Word)
  move   : Option Nat
  late   : Option Word
  count  : Option Nat
  srcs   : Option (List Range)
  dsts   : List Range

/-- Nothing more to do. -/
def UOut.none : UOut :=
  { reads := [], writes := [], flags := 0, trap := Option.none, move := Option.none, late := Option.none, count := Option.none
    srcs := Option.none, dsts := [] }

/-- The two Diary records of a malformed tile (R70, R335). -/
def State.noteTile (s : State) (c : Nat) (o : EngOp) (va : Nat) : State :=
  s.notes (.core c) [(0x19, paySlot o.slot + va / 8 % 2 ^ 37), (0x1B, paySlot o.slot + o.who.ctx.toNat * 2 ^ 8 + va / 2 ^ 40 % 256)]

/-- The value of a pointer after a coded tile of LEN bytes. -/
def afterTile (o : EngOp) (len : Nat) : Option Word := o.late.map (fun p => p.2 + w64 ((len + 7) / 8 * 8))

/-- Where one gathered or scattered element lies: a failed check, another core's scratchpad in this package or another, or its device
address (R218). -/
inductive Elem where
  | fail (cause : BitVec 8)
  | split (core : Nat) (here : Bool) (va : Nat)
  | at_ (va : Nat)
deriving DecidableEq, Repr

/-- The check of one element of e bytes at an offset of a captured segment: segment, map, execute-only bound, then alignment; R218 names the three
causes and no order. (DESIGN CHOICE, log 104) -/
def State.elemAt (s : State) (c : Nat) (o : EngOp) (p : Fin 8) (off : Word) (e : Nat) (need : Need) : Elem :=
  let g := o.segs[p]
  let va := g.base.toNat + off.toNat
  if !g.grants off.toNat e need then .fail cSEGV
  else
    match s.rangeSpace c va e with
    | none => .fail cSEGV
    | some .glob => if va % e != 0 then .fail cMISALIGN else .at_ va
    | some (.sp m k sOff) =>
      if m = Config.pkg && sOff < (s.core k).xb.toNat then .fail cEXECONLY
      else if va % e != 0 then .fail cMISALIGN
      else if m = Config.pkg && k = c then .at_ va
      else .split k (m == Config.pkg) va

/-- Offsets of the elements of a gather or scatter: base + sext(index) × e, modulo 2^64 (R218). -/
def elemOffs (base : Word) (e n : Nat) (idx : List Byte) : List Word :=
  (elemsOf 4 n (idx.map some)).map (fun x => base + BitVec.ofInt 64 (sIntOf (x.getD 0) 32 * e))

/-- Check elements in ascending order: every segment, map, execute-only and alignment check before any placement, and the
first failure decides; the addresses where all pass (R218). -/
def State.elemsAt (s : State) (c : Nat) (o : EngOp) (p : Fin 8) (offs : List Word) (e : Nat) (need : Need) :
    (BitVec 8 × Word) ⊕ List Nat :=
  let l := offs.map (fun x => (x, s.elemAt c o p x e need))
  match l.findSome? (fun x => match x.2 with | .fail k => some (k, x.1) | _ => none) with
  | some r => .inl r
  | none =>
    match l.findSome? (fun x => match x.2 with | .split _ _ _ => some (cSPLIT, x.1) | _ => none) with
    | some r => .inl r
    | none => .inr (l.map (fun x => match x.2 with | .at_ va => va | _ => 0))

/-- The address of an element that may be part of a first-fault prefix: it passes every check, and neither its port nor its home refuses it
or faults on it; a port that waits for the line of a table entry does neither (R219). -/
def State.firstFaultOk (s : State) (c : Nat) (o : EngOp) (x : Elem) : Option Nat :=
  match x with
  | .at_ va =>
    match s.spaceOf c va with
    | some .glob =>
      match s.port (quadOf c) o.part o.who.ctx.toNat va .vec needR with
      | (.ok x, _) => if s.faultQ.any (fun f => f.atHome (bankOf x.name) && s.faultHas f x.name) then none else some va
      | (.wait, _) => some va
      | _ => none
    | _ => some va
  | _ => none

/-- The leading elements that have addresses. -/
def prefixOf : List (Option Nat) → List Nat
  | some v :: r => v :: prefixOf r
  | _ => []

/-- The span from the lowest to the highest element address (R218, R220). (DEDUCED, log 41) -/
def State.spanOf (s : State) (c e : Nat) (l : List Nat) : List Range :=
  match l.map (s.canonVa c) with
  | [] => []
  | x :: r =>
    let lo := r.foldl (fun a b => if b < a then b else a) x
    let hi := r.foldl (fun a b => if a < b then b else a) x
    [⟨lo, hi + e - lo⟩]

/-- Reads of elements, one for each. -/
def elemReadsAt (e : Nat) (l : List Nat) : List LineRead := l.map (fun va => ⟨3, va, e, false, none⟩)

/-- The gathered result from the elements read (R218, R219). -/
def gathWrites (d e : Nat) (u : EUnit) : List LineWrite := writesOf d (u.bytes 3) none |> fun l => if e = 0 then [] else l

/-- A gather once its indices are read. A redundant thread does not migrate to the core of element 0 of a first-fault gather and reads it
there (R325). (DEDUCED, log 41) -/
def State.gathNext (s : State) (c : Nat) (o : EngOp) (f : VFmt) (first : Bool) (p : Fin 8) (base : Word) (idx : List Byte)
    (lead : Bool) : UOut :=
  let e := eBytes f
  let offs := elemOffs base e o.vl idx
  if !first then
    match s.elemsAt c o p offs e needR with
    | .inl r => { UOut.none with trap := some r }
    | .inr l => { UOut.none with reads := elemReadsAt e l, srcs := some (o.srcs ++ s.spanOf c e l) }
  else
    let es := offs.map (fun x => s.elemAt c o p x e needR)
    -- element 0 waits for its repair and traps on its refusal; the others end the prefix
    let go := fun (va : Nat) (r : List Elem) =>
      let l := va :: prefixOf (r.map (s.firstFaultOk c o))
      { UOut.none with reads := elemReadsAt e l, srcs := some (o.srcs ++ s.spanOf c e l), count := some l.length }
    match es, offs with
    | .fail k :: _, off :: _ => { UOut.none with trap := some (k, off) }
    | .split k here va :: r, off :: _ =>
      if !here then { UOut.none with trap := some (cSPLIT, off) }
      else if lead then go va r
      else { UOut.none with move := some (s.logOf k) }
    | .at_ va :: r, _ => go va r
    | _, _ => { UOut.none with count := some 0 }

/-- The operand of an `MMA` or tile operation from its bytes: patterns, or malformed (R70, R224). -/
def codedVals (ef rows cols : Nat) (b : List Byte) : Option (List Nat) :=
  match decodeTile b with
  | some (f, r, c, l) => if f = ef && r = rows && c = cols then some l else none
  | none => none

/-- The words of a byte string. -/
def wordsIn (e : Nat) (b : List Byte) : List Nat := (elemsOf e (b.length / e) (b.map some)).map (·.getD 0)

/-- The length that a header gives. -/
def lenOf (h : List Byte) : Nat := ctLen (leNat h)

/-- The bytes that a header lets its reader fetch, the header among them. -/
def fetchLen (h : List Byte) : Nat := if lenOf h < 8 then 8 else lenOf h

/-- The product of an `MMA` whose operands and scales are known (R72 to R74). -/
def mmaRun (m : MmaCtl) (acc a b : List Nat) (sA sB : Nat) : List Nat × BitVec 9 :=
  match m.fmt with
  | .c4 => mmaFloat fmtE4 m.tb m.eco sA sB acc a b
  | .c5 => mmaFloat fmtE5 m.tb m.eco sA sB acc a b
  | .f16 => mmaFloat fmt16 m.tb m.eco sA sB acc a b
  | .bf16 => mmaFloat fmtB16 m.tb m.eco sA sB acc a b
  | .i8 => mmaInt m.tb acc a b

/-- The two scales of a scale entry, or 1.0 where none is named (R73). -/
def scalesOf (named : Bool) (b : List Byte) : Nat × Nat :=
  if named then (leNat (b.take 4), leNat ((b.drop 4).take 4)) else (0x3F800000, 0x3F800000)

/-- An `MMA` once lines are read: the first lines of coded operands with their lengths, then the product (R224, R225). Where both operands
are malformed the first is reported, with one pair of records; the spec does not say which. (DESIGN CHOICE, log 94) -/
def State.mmaNext (s : State) (c : Nat) (o : EngOp) (u : EUnit) (k : BitVec 4) (x y : Nat) (m : MmaCtl) : UOut × State :=
  let coded := match m.fmt with | .c4 | .c5 => true | _ => false
  let ef := match m.fmt with | .c5 => 1 | _ => 0
  let e := match m.fmt with | .i8 => 1 | _ => 2
  match u.all 0, u.all 1, u.all 2 with
  | some a, some b, some sc =>
    let la := fetchLen a
    let lb := fetchLen b
    let rest := if coded && u.phase = 0 then restReads 3 x la ++ restReads 4 y lb else []
    let out : UOut := { UOut.none with srcs := if coded then some [⟨s.canonVa c x, la⟩, ⟨s.canonVa c y, lb⟩] else none }
    if !rest.isEmpty then ({ out with reads := rest }, s)
    else
      match u.all 3, u.all 4 with
      | some ra, some rb =>
        let va := if coded then codedVals ef 32 32 ((a ++ ra).take la) else some (wordsIn e a)
        let vb := if coded then codedVals ef 32 32 ((b ++ rb).take lb) else some (wordsIn e b)
        match va, vb with
        | some va, some vb =>
          match s.readAcc c k with
          | (none, s1) => (out, s1)
          | (some acc, s1) =>
            let (sA, sB) := scalesOf (m.scale != 0) sc
            let (w, g) := mmaRun m acc va vb sA sB
            ({ out with flags := g }, s1.modCore c (fun q => q.setAcc k w))
        | _, _ =>
          let bad := if va.isNone then x else y
          if o.wait then ({ out with trap := some (cILLEGAL, w64 bad) }, s)
          else ({ out with flags := fNV },
            (s.modCore c (fun q => q.setAcc k (List.replicate 1024 fmt32.qnan))).noteTile c o bad)
      | _, _ => (out, s)
  | _, _, _ => (UOut.none, s)

/-- An accumulator instruction, once its stream, if any, is read (Table 11-3). -/
def State.accNext (s : State) (c : Nat) (o : EngOp) (u : EUnit) : UOut × State :=
  let withAcc := fun (k : BitVec 4) (f : List Nat → State → UOut × State) =>
    match s.readAcc c k with
    | (none, s1) => (UOut.none, s1)
    | (some w, s1) => f w s1
  let put := fun (k : BitVec 4) (r : List Nat × BitVec 9) (s : State) =>
    (({ UOut.none with flags := r.2 } : UOut), s.modCore c (fun q => q.setAcc k r.1))
  match o.job with
  | .mzero k => put k (List.replicate 1024 0, 0) s
  | .mlda k _ =>
    match u.all 0 with
    | some b => put k (wordsIn 4 b, 0) s
    | none => (UOut.none, s)
  | .msta k x f int =>
    withAcc k (fun w s1 =>
      let (l, g) := runAll (w.map (fun v => if int then convElem .i32 f o.rnd v else convElem .f32 f o.rnd v))
      ({ UOut.none with writes := fullWrites x (bytesOf (eBytes f) l), flags := g }, s1))
  | .mstc k x e5 =>
    withAcc k (fun w s1 =>
      let (l, g) := runAll (w.map (convElem .f32 (if e5 then .e5 else .e4) o.rnd))
      let b := encodeTile e5.toNat 32 32 l
      ({ UOut.none with writes := fullWrites x b, flags := g, late := afterTile o b.length }, s1))
  | .madd k src int =>
    withAcc k (fun a s1 =>
      match s1.readAcc c src with
      | (none, s2) => (UOut.none, s2)
      | (some b, s2) =>
        put k (runAll ((a.zip b).map (fun p =>
          if int then
            let v := sIntOf p.1 32 + sIntOf p.2 32
            (wrapI 32 (satI v 32), flagIf (satI v 32 != v) fSAT)
          else elemRun .add .f32 0 0 p.1 p.2 0))) s2)
  | .mscal k _ =>
    match u.all 0 with
    | some b =>
      withAcc k (fun w s1 =>
        let v := wordsIn 4 b
        put k (runAll ((List.range 1024).zip w |>.map (fun p => elemRun .mul .f32 0 0 p.2 (v.getD (p.1 / 32) 0) 0))) s1)
    | none => (UOut.none, s)
  | .mrssq k x =>
    withAcc k (fun w s1 =>
      let (l, g) := runAll ((rowsOf 32 32 w).map (foldRun .ssq .f32 o.rnd))
      ({ UOut.none with writes := fullWrites x (bytesOf 4 l), flags := g }, s1))
  | _ => (UOut.none, s)

/-- The tile operation of a walk, once lines are read (R106, R111). Of two malformed operands the first is reported; the spec does not say
which. (DESIGN CHOICE, log 94) -/
def tileNext (u : EUnit) (t : TileJob) : UOut :=
  let two := t.two
  match u.all 0, u.all 1, u.all 2 with
  | some a, some b, some sc =>
    let rest := if u.phase != 0 then [] else (if isCoded t.afmt then restReads 3 t.aaddr (fetchLen a) else []) ++
      (if two && isCoded t.bfmt then restReads 4 t.baddr (fetchLen b) else [])
    if !rest.isEmpty then { UOut.none with reads := rest }
    else
      match u.all 3, u.all 4 with
      | some ra, some rb =>
        let va := if isCoded t.afmt then codedVals (t.afmt - 8) t.arows t.acols ((a ++ ra).take (fetchLen a))
          else some (wordsIn (eBytes (tileV t.afmt)) a)
        let vb := if two && isCoded t.bfmt then codedVals (t.bfmt - 8) t.brows t.bcols ((b ++ rb).take (fetchLen b))
          else some (wordsIn (eBytes (tileV t.bfmt)) b)
        match va, vb with
        | some va, some vb =>
          let (sA, sB) := scalesOf (t.mode.setWidth 8 != 0#8) sc
          let (l, g) := tileRun t va vb sA sB
          { UOut.none with writes := fullWrites t.place (tileBytes t.rfmt t.rows t.cols l), flags := g }
        | none, _ => { UOut.none with trap := some (cILLEGAL, w64 t.aaddr) }
        | _, none => { UOut.none with trap := some (cILLEGAL, w64 t.baddr) }
      | _, _ => UOut.none
  | _, _, _ => UOut.none

/-- The writes of one destination piece of a copy. -/
def cpyWrites (d : Nat) (b : List (Option Byte)) (att : Option Nat) : List LineWrite := writesOf d b att

/-- What a unit does next, once all its reads are in. A pending pointer whose tile's length a refused line leaves unknown takes its value at
issue, whether or not the operation waits; the spec says so of a trap only (R204). (DESIGN CHOICE, log 104) -/
def State.engNext (s : State) (c : Nat) (o : EngOp) (u : EUnit) : UOut × State :=
  let lead := ((s.thread? o.who).map (·.lead)).getD false
  match o.job with
  | .elem op f d xs =>
    let e := eBytes f
    let (l, g) := elemStep op f xs o.rnd o.vl u
    let w := writesOf (d + u.key * stepElems f xs * e) (optBytes e l) none
    ({ UOut.none with writes := w.filter (fun x => !(o.skip.contains (lineOf x.va))), flags := g }, s)
  | .fold mx f d _ =>
    match u.all 0 with
    | some b =>
      let (v, g) := foldRun (if mx then .max else .sum) f o.rnd (wordsIn (eBytes f) b)
      ({ UOut.none with writes := fullWrites d (leBytes (eBytes f) v), flags := g }, s)
    | none => (UOut.none, s)
  | .pack f src rows cols d _ =>
    match u.all 0 with
    | some b =>
      let xs := wordsIn (eBytes src) b
      let (l, g) := if src = f then (xs, 0) else runAll (xs.map (convElem src f o.rnd))
      let t := encodeTile (if f = .e4 then 0 else 1) rows cols l
      ({ UOut.none with writes := fullWrites d t, flags := g, late := afterTile o t.length }, s)
    | none => ({ UOut.none with late := o.late.map (·.2) }, s)
  | .unpk f d x p off =>
    match u.all 0 with
    | none => ({ UOut.none with late := o.late.map (·.2) }, s)
    | some h =>
      let len := lenOf h
      let inside := 8 < len && (o.segs[p]).grants off.toNat len needR && (s.rangeSpace c x len).isSome
      let rest := if u.phase = 0 && inside then restReads 3 x len else []
      let src := if inside then some [⟨s.canonVa c x, len⟩] else none
      if !rest.isEmpty then ({ UOut.none with reads := rest, late := afterTile o len, srcs := src }, s)
      else
        match u.all 3 with
        | none => (UOut.none, s)
        | some b =>
          match (if inside then decodeTile ((h ++ b).take len) else none) with
          | some (ef, _, _, l) =>
            if l.length = o.vl then
              let (r, g) := runAll (l.map (convElem (efV ef) f o.rnd))
              ({ UOut.none with writes := fullWrites d (bytesOf (eBytes f) r), flags := g, late := afterTile o len, srcs := src }, s)
            else unpkBad s f d x len
          | none => unpkBad s f d x len
  | .trn f d _ =>
    match u.all 0 with
    | some b =>
      let e := eBytes f
      let v := (wordsIn e b).toArray
      ({ UOut.none with writes := fullWrites d (bytesOf e ((List.range 1024).map (fun i => v.getD (i % 32 * 32 + i / 32) 0))) }, s)
    | none => (UOut.none, s)
  | .cmpr f d _ _ =>
    match u.all 0, u.all 1 with
    | some b, some m =>
      let e := eBytes f
      let l := ((wordsIn e b).zip (wordsIn e m)).filterMap (fun p => if p.2 = 0 then none else some p.1)
      ({ UOut.none with writes := fullWrites d (bytesOf e l), count := some l.length }, s)
    | _, _ => (UOut.none, s)
  | .gath f first d p base _ =>
    match u.all 0 with
    | some idx => if u.phase = 0 then (s.gathNext c o f first p base idx lead, s) else
        ({ UOut.none with writes := gathWrites d (eBytes f) u }, s)
    | none => (UOut.none, s)
  | .scat f p base _ _ =>
    match u.all 0, u.all 1 with
    | some idx, some data =>
      let e := eBytes f
      match s.elemsAt c o p (elemOffs base e o.vl idx) e needW with
      | .inl r => ({ UOut.none with trap := some r }, s)
      | .inr l =>
        let w := ((List.range l.length).zip l).map (fun (i, va) => (⟨va, (data.drop (i * e)).take e, none, false⟩ : LineWrite))
        ({ UOut.none with writes := w, dsts := s.spanOf c e l }, s)
    | _, _ => (UOut.none, s)
  | .mma k x y m _ => s.mmaNext c o u k x y m
  | .mzero _ | .mlda _ _ | .msta _ _ _ _ | .mstc _ _ _ | .madd _ _ _ | .mscal _ _ | .mrssq _ _ => s.accNext c o u
  | .cpy d _ n =>
    match (pieces d n)[u.key]? with
    | some p => ({ UOut.none with writes := cpyWrites p.1 (u.bytes 0) o.att }, s)
    | none => (UOut.none, s)
  | .cpy2 d _ v => ({ UOut.none with writes := cpyWrites (d + u.key * bits v.toNat 15 0) (u.bytes 0) o.att }, s)
  | .cpym off _ n cores =>
    match (pieces off n)[u.key]? with
    | some p =>
      -- o.att holds the attendance word's offset in each named core
      ({ UOut.none with writes := cores.flatMap (fun k =>
          cpyWrites (s.aperture k p.1) (u.bytes 0) (o.att.map (fun a => spKey Config.pkg k (a % 2 ^ 19)))) }, s)
    | none => (UOut.none, s)
  | .depo _ | .red _ => (UOut.none, s)
  | .tile t => (tileNext u t, s)
where
  /-- a malformed tile under `VUNPK` (R70, R215) -/
  unpkBad (s : State) (f : VFmt) (d x len : Nat) : UOut × State :=
    if o.wait then ({ UOut.none with trap := some (cILLEGAL, w64 x) }, s)
    else
      let nan := ((vFloat f).map (·.qnan)).getD 0
      ({ UOut.none with writes := fullWrites d (bytesOf (eBytes f) (List.replicate o.vl nan)), flags := fNV
                        late := afterTile o len }, s.noteTile c o x)

end Sys2Proof.Machine
end

