-- ==== Sys2Proof/Machine/EngRun.lean ====
section
/-! DEFINITION. The running of engine operations (R89, R131, R137, R196, R205, R221, R225): their start, their line events,
the replay of an `MMA`, and their completion. -/

namespace Sys2Proof.Machine

/-! ## Where a line stands -/

/-- What stands in the way of a line event, or the storage it is performed at. -/
inductive LineAt where
  | ok (name : Nat) (g : Gran)
  | refused (cause : BitVec 8)
  | fault (u : FUnit) (k : FaultKind)
  /-- an earlier access, a reservation, a parked request or a fence goes first -/
  | wait
  /-- its context is killed and the line cannot be performed: it is given up -/
  | gone
deriving DecidableEq, Repr

/-- The operation of Table 4-5 that a line is; the scale of an `MMA` is an operand of it, refused by class as one (R225). A walk's tiles have the
reach of the copy engine (R111), and are held to its row: R107 names ordinary and sparse-existence pages and scratchpads, and no row.
(DESIGN CHOICE, log 104) -/
def Job.kind (ld : Bool) : Job → AccKind
  | .cpy _ _ _ | .cpy2 _ _ _ | .cpym _ _ _ _ | .tile _ => if ld then .load else .copy
  | _ => .vec

/-- A walk's tile operation (R111). -/
def Job.isTile : Job → Bool
  | .tile _ => true
  | _ => false

/-- The port's part of a line: a walk's tile lies at or above `xb` (R111), a global line is translated on its own (R205). -/
def State.engPort (s : State) (c : Nat) (o : EngOp) (va : Nat) (w ld : Bool) : LineAt × State :=
  let ctx := o.who.ctx.toNat
  match s.spaceOf c va with
  | none => (.refused cSEGV, s)
  | some (.sp m k off) =>
    if o.job.isTile && m = Config.pkg && off < (s.core k).xb.toNat then (.refused cEXECONLY, s)
    else (.ok (spKey m k off) none, s)
  | some .glob =>
    match s.port (quadOf c) o.part ctx va (o.job.kind ld) (if w then needW else needR) with
    | (.ok x, s1) => (.ok x.name x.gran, s1)
    | (.trap k _, s1) =>
      -- a waiting operation has made its checks before its first write
      match o.granted.find? (fun x => x.va == va && x.wr == w) with
      | some x => (.ok x.name x.gran, s1)
      | none => (.refused k, s1)
    | (.fault k, s1) => (if (s.ctx o.part ctx).killed then .gone else .fault (.port (quadOf c)) k, s1)
    | (.moving x, s1) => (if (s.ctx o.part ctx).killed then .gone else .fault (.home (bankOf x.name)) .moving, s1)
    | (.wait, s1) => (.wait, s1)
    | (.gone, s1) => (.gone, s1)

/-- An earlier parked request of its page at the home holds a line back, whoever sent it (R125). (DEDUCED, log 44) -/
def State.homeHolds (s : State) (name : Nat) : Bool :=
  !isSp name && s.faultQ.any (fun f => f.atHome (bankOf name) && s.faultHas f name)

/-- Where a line event stands now. -/
def State.engLine (s : State) (c : Nat) (o : EngOp) (va : Nat) (w ld : Bool) : LineAt × State :=
  match s.engPort c o va w ld with
  | (.ok name g, s1) =>
    let b := bankOf name
    if s1.fencedFrom c b || s1.lineAhead c o.who (lineOf name) then (.wait, s1)
    else if !s1.grantsTo c o.part b name (if w then 2 else 1) then (.refused cACCESS, s1)
    else if s1.homeHolds name then (.wait, s1)
    else
      let killed := (s1.ctx o.part o.who.ctx.toNat).killed
      match s1.homeReads name g w false o.part o.who.ctx.toNat (s1.logOf c) o.slot.val with
      | (false, s1) => (.gone, s1)
      | (true, s1) =>
      match if w then s1.birthOf name g else .ok with
      | .ok => (.ok name g, s1)
      | .pool => (.refused cALLOCFAIL, s1)
      | .stock => (.fault (.home b) .stock, s1)
      | .frame => (if killed then .gone else .fault (.home b) .frame, s1)
  | r => r

/-! ## Refusals and faults -/

/-- An operation that waits for its thread, whose refusals trap (R89, R205). -/
def EngOp.traps (o : EngOp) : Bool := o.wait || o.job.isTile

/-- The device address that names a refused line of a walk: its tile's (R111). -/
def TileJob.tileOf (t : TileJob) (str : Option Nat) (va : Nat) : Nat :=
  match str with
  | none => t.place
  | some 0 | some 3 => t.aaddr
  | some 1 | some 4 => t.baddr
  | some _ => va

/-- `xval` of a refused line: its device address, which is that of the first byte of it that the operation touches, not of its 64-byte line;
the spec does not say which (R111, R205). (DESIGN CHOICE, log 95) -/
def EngOp.refusedAt (o : EngOp) (str : Option Nat) (va : Nat) : Word :=
  match o.job with
  | .tile t => w64 (t.tileOf str va)
  | _ => w64 va

/-- A refused line: of several that access tables refuse, the record that the fence delivers names the last; the spec does not say which
(DESIGN CHOICE, log 104). An access table's refusal is an event record and stops the context at its next fence (R270); an operation
that waits traps; of any other the reduction log takes one entry for each line (R89, R93, R198). (DEDUCED, log 44) -/
def State.denyLine (s : State) (c : Nat) (e : Eng) (o : EngOp) (str : Option Nat) (va : Nat) (cause : BitVec 8) : State :=
  let ctx := o.who.ctx.toNat
  let key := (lineOf va, cause.toNat)
  if (s.ctx o.part ctx).killed then s
  else if cause = cACCESS then
    if o.logged.contains key then s
    else
      ((s.postEvent o.part cACCESS ctx (s.logOf c) o.slot.val va).modCtx o.part ctx
        (fun x => { x with access := some (w64 va) })).modOp c e (fun o => { o with logged := key :: o.logged })
  else if o.traps && (cause != cALLOCFAIL || o.job.isTile) then
    s.modOp c e (fun o => if o.trap.isSome then o else { o with trap := some (cause, o.refusedAt str va) })
  else if o.logged.contains key then s
  else
    (s.logRefusal o.part ctx cause 0 va (s.logOf c) o.slot.val o.opc 0).modOp c e
      (fun o => { o with logged := key :: o.logged })

/-- A line meets a memory-side fault: it waits in a fault queue, a running `MMA` is to be replayed, and the forcer of a walk is dropped until
the repair (R111, R199, R225). (DEDUCED, log 39) -/
def State.parkLine (s : State) (c : Nat) (e : Eng) (o : EngOp) (va : Nat) (u : FUnit) (k : FaultKind) : State :=
  let s1 := match o.job with
    | .mma _ _ _ _ _ => s.modCore c (fun x => x.modEngine e (fun x => { x with retry := true }))
    | _ => s
  if s1.faultQ.any (fun f => f.what == .line c e va) then s1
  else
    let place : Option FUnit :=
      if s1.queueRoom u then some u else if s1.queueRoom (.port (quadOf c)) then some (.port (quadOf c)) else none
    match place with
    | none => s1
    | some u =>
      let s2 := s1.parkFault ⟨u, o.who.ctx.toNat, o.part, va, k, .line c e va⟩ c
      if o.job.isTile then
        s2.modWho o.who (fun t => if t.status = .engineWait o.tag then { t with status := .dropped o.tag false } else t)
      else s2

/-- A line written to another package sets the remote bit of its thread's mask as it leaves (R127, R128). -/
def State.aimAway (s : State) (o : EngOp) (b : Bank) : State :=
  if maskBank b != podBank then s
  else s.modWho o.who (fun t =>
    { t with mask := if t.mask.contains podBank then t.mask else podBank :: t.mask, probes := t.probes.filter (fun p => p.2 != podBank) })

/-- A line of this operation is parked. (DEDUCED, log 39) -/
def State.lineParked (s : State) (c : Nat) (e : Eng) (va : Nat) : Bool :=
  s.faultQ.any (fun f => f.what == .line c e va)

/-- Translate lines before anything is written: refusals trap, faults are parked; true where every line goes on, each as it has been translated
here (R205). -/
def State.translateAll (s : State) (c : Nat) (e : Eng) (o : EngOp) (l : List (Option Nat × Nat × Bool × Bool)) :
    Bool × State :=
  let (ok, got, s1) := l.foldl (fun (r : Bool × List LineName × State) x =>
    match r.2.2.engPort c o x.2.1 x.2.2.1 x.2.2.2 with
    | (.ok name g, s1) => (r.1, ⟨x.2.1, x.2.2.1, name, g⟩ :: r.2.1, s1)
    | (.gone, s1) => (r.1, r.2.1, s1)
    | (.wait, s1) => (false, r.2.1, s1)
    | (.refused k, s1) => (r.1, r.2.1, s1.denyLine c e o x.1 x.2.1 k)
    | (.fault u k, s1) => (false, r.2.1, s1.parkLine c e o x.2.1 u k)) (true, [], s)
  (ok, if ok then s1.modOp c e (fun o => { o with granted := got ++ o.granted }) else s1)

/-! ## Taking up a unit -/

/-- An earlier operation of another engine of the core overlaps ranges that become known, so that they are registered only once it has
completed (R101). -/
def Core.spanConflict (k : Core) (e : Eng) (tag : Nat) (srcs dsts : List Range) : Bool :=
  let others := (if e = .mat then [] else k.mat.queue) ++ (if e = .vec then [] else k.vec.queue) ++
    (if e = .copy then [] else k.copy.queue)
  others.any (fun o => o.tag < tag &&
    (o.dsts.any (fun r => srcs.any r.meets || dsts.any r.meets) || o.srcs.any (fun r => dsts.any r.meets)))

/-- The registers that a count gives: itself, and the pointers that it moves (R217, R219). -/
def EngOp.counted (o : EngOp) (n : Nat) (r : Fin 16) : List (RegName × Word) :=
  (RegName.g r, w64 n) :: o.scaled.map (fun p => (RegName.a p.1, p.2.1 + w64 (n * p.2.2)))

/-- Every line of a unit has been read: more lines, or its writes with what they leave (R137). A gather or scatter whose span,
and a coded tile whose length, is known only now waits for an earlier operation of another engine that overlaps it (R101, R215, R218).
(DEDUCED, log 41) -/
def State.takeUp (s : State) (c : Nat) (e : Eng) (ui : Nat) : State :=
  match s.engHead c e with
  | none => s
  | some o =>
    match o.units[ui]? with
    | none => s
    | some u =>
      if u.loaded || u.reads.any (fun r => r.got.isNone) then s
      else
        let (x, s1) := s.engNext c o u
        if (0 < o.more || x.srcs.isSome) && (s.core c).spanConflict e o.tag (x.srcs.getD []) x.dsts then s else
        let u1 : EUnit :=
          if x.reads.isEmpty then { u with loaded := true, phase := u.phase + 1, writes := x.writes.filter (fun w => !(u.gone.contains w.va)) }
          else { u with reads := u.reads ++ x.reads, phase := u.phase + 1 }
        let counted := match x.count, o.count with
          | some n, some r => o.counted n r
          | _, _ => []
        let late := match x.late, o.late with
          | some w, some p => if o.wait then [(RegName.a p.1, w)] else []
          | _, _ => []
        let s2 := s1.modOp c e (fun o =>
          { o with units := o.units.set ui u1
                   flags := o.flags ||| x.flags
                   trap := if o.trap.isSome then o.trap else x.trap
                   move := x.move
                   outs := o.outs ++ counted ++ late
                   srcs := x.srcs.getD o.srcs
                   dsts := o.dsts ++ x.dsts
                   more := 0 })
        match x.late with
        | some w => if o.wait then s2 else s2.fillWho o.who o.tag w
        | none => s2

/-- A unit has nothing left to do. -/
def EUnit.finished (u : EUnit) : Bool := u.loaded && u.writes.all (fun w => w.done)

/-- Every unit has nothing left to do, or the operation traps or moves its thread. -/
def EngOp.finished (o : EngOp) : Bool :=
  o.started && (o.trap.isSome || o.move.isSome ||
    (match o.job with
    | .depo _ | .red _ => o.landed
    | _ => o.units.all (fun u => u.finished)))

/-! ## Start -/

/-- The destination lines of an elementwise operation that depend on a source line refused now (R89). (DEDUCED, log 37) -/
def State.skipLines (s : State) (c : Nat) (o : EngOp) (units : List EUnit) : List Nat × State :=
  match o.job with
  | .elem op f d xs =>
    units.foldl (fun (r : List Nat × State) u =>
      let p := u.reads.foldl (fun (p : List LineRead × State) x =>
        match p.2.engPort c o x.va false x.ld with
        | (.refused _, s1) => (p.1 ++ [{ x with got := some none }], s1)
        | (_, s1) => (p.1 ++ [{ x with got := some (some (List.replicate x.n 0)) }], s1)) ([], r.2)
      let base := d + u.key * stepElems f xs * eBytes f
      let b := optBytes (eBytes f) (elemStep op f xs o.rnd o.vl { u with reads := p.1 }).1
      let bad := ((List.range b.length).zip b).filterMap (fun x => if x.2.isNone then some (lineOf (base + x.1)) else none)
      (r.1 ++ bad.eraseDups, p.2)) ([], s)
  | _ => ([], s)

/-- A reduction leaves its copy engine as a relaxed access of its thread (R196). -/
def State.startRed (s : State) (c : Nat) (o : EngOp) (m : Msg) : Host.Outcome State Fault Refusal :=
  let ctx := o.who.ctx.toNat
  let go := fun (s : State) => s.modOp c .copy (fun o => { o with started := true })
  let send := fun (s : State) (name cls : Nat) (g : Gran) (moving : Bool) =>
    let s1 := (go s).modWho m.who (Thread.rebank m.tag (bankOf name))
    { s1 with net := s1.net ++ [{ m with pa := name, cls := cls, bank := bankOf name, gran := g, unchk := moving }] }
  match s.spaceOf c m.va with
  | none => .next ((go s).refuseAt m cSEGV)
  | some (.sp p k off) => .next (send s (spKey p k off) 5 none false)
  | some .glob =>
    match s.port (quadOf c) o.part ctx m.va .red needWA with
    | (.ok x, s1) => .next (send s1 x.name x.cls x.gran false)
    | (.moving x, s1) => .next (send s1 x.name x.cls x.gran true)
    | (.wait, s1) => .next s1
    | (.gone, s1) => .next ((go s1).refuseAt m cSEGV)
    | (.trap k _, s1) => .next (((go s1).modWho m.who (Thread.ack m.tag)).refuseAt m k)
    | (.fault k, s1) =>
      if (s.ctx o.part ctx).killed then .next ((go s1).refuseAt m cSEGV)
      else if s1.queueRoom (.port (quadOf c)) then
        .next ((go s1).parkFault ⟨.port (quadOf c), ctx, o.part, m.va, k, .access m⟩ c)
      else .next s1

/-- Start the operation at the head of an engine's queue (R131, R137, R205, R221); that of a leading thread once its Marker thread has come to
it (R324). -/
def State.engStart (s : State) (c : Nat) (e : Eng) : Host.Outcome State Fault Refusal :=
  match s.engHead c e with
  | none => .next s
  | some o =>
    if o.started || (s.core c).stopped || s.pairHeld c o.tag then .next s
    else
      match o.job with
      | .depo d =>
        .next { (s.modOp c e (fun o => { o with started := true })) with
          deps := s.deps ++ [{ d with tag := s.nextTag, src := some (c, o.tag) }], nextTag := s.nextTag + 1 }
      | .red m => s.startRed c o m
      | _ =>
        let units := s.planOf c o
        let many := match o.job with | .elem _ _ _ _ | .cpy _ _ _ | .cpy2 _ _ _ | .cpym _ _ _ _ => true | _ => false
        let (ok, s1) :=
          if many && o.wait then
            s.translateAll c e o (units.flatMap (fun u => u.reads.map (fun r => (some r.str, r.va, false, r.ld))) ++
              o.dstLines.map (fun p => (none, p.1, true, false)))
          else (true, s)
        if !ok then .next s1
        else
          let (skip, s2) := if o.wait then ([], s1) else s1.skipLines c o units
          let ord := s2.inOrder c o
          let go := fun (s : State) => (List.range units.length).foldl (fun s i => s.takeUp c e i)
            (s.modOp c e (fun o => { o with started := true, units := units, ordered := ord, skip := skip }))
          match o.job with
          | .mma k _ _ _ _ =>
            -- the shadow is a read of the accumulator: corrected, or consumed (R319, R320, R321)
            match s2.readAcc c k with
            | (none, s3) => .next s3
            | (some w, s3) => .next (go (s3.modCore c (fun x => x.modEngine e (fun y =>
                { y with shadow := some (k.toNat, w.map (BitVec.ofNat 32)), retry := false }))))
          | _ => .next (go s2)

/-! ## Line events -/

/-- Change the j-th element that a test picks. -/
def setPick {α : Type} (p : α → Bool) (f : α → α) : Nat → List α → List α
  | _, [] => []
  | j, x :: l =>
    if p x then (match j with | 0 => f x :: l | j + 1 => x :: setPick p f j l)
    else x :: setPick p f j l

/-- Change a unit of the running operation. -/
def State.modUnit (s : State) (c : Nat) (e : Eng) (ui : Nat) (f : EUnit → EUnit) : State :=
  s.modOp c e (fun o => { o with units := o.units.modify ui f })

/-- A first-fault gather (R219). -/
def Job.firstFault : Job → Bool
  | .gath _ first _ _ _ _ => first
  | _ => false

/-- The number of the element that the j-th read still to be made is. -/
def EUnit.elemPos (u : EUnit) (j : Nat) : Option Nat :=
  ((((List.range u.reads.length).zip u.reads).filter (fun x => x.2.got.isNone))[j]?).map (fun x =>
    ((u.reads.take x.1).filter (fun r => r.str == 3)).length)

/-- A first-fault gather ends before an element, which is refused or faults as it is read: nothing beyond is read, and the count is that of the
elements kept (R219). -/
def State.cutGather (s : State) (c : Nat) (e : Eng) (ui n : Nat) : State :=
  s.modOp c e (fun o =>
    { o with
      units := o.units.modify ui (fun u => { u with reads := u.reads.take ((u.reads.filter (fun r => r.str != 3)).length + n) })
      outs := (o.count.map (o.counted n)).getD [] })

/-- A line is read; with the last one of its unit the unit is taken up. -/
def State.lineRead (s : State) (c : Nat) (e : Eng) (o : EngOp) (ui j : Nat) (r : LineRead) :
    Host.Outcome State Fault Refusal :=
  let put := fun (s : State) (v : Option (List Byte)) =>
    (s.modUnit c e ui (fun u => { u with
      reads := setPick (fun x => x.got.isNone) (fun x => { x with got := some v }) j u.reads })).takeUp c e ui
  -- the elements that `GATHF` keeps where this one, not its first, is refused or faults
  let kept := if o.job.firstFault && r.str = 3 then ((o.units[ui]?).bind (fun u => u.elemPos j)).filter (0 < ·) else none
  match s.engLine c o r.va false r.ld with
  | (.ok name g, s1) =>
    match s1.readNamed name r.n g with
    | (some b, s2) => .next (put s2 (some b))
    | (none, s2) =>
      let k := s2.storageKey name g
      .next (put (s2.lostReader k o.part o.who.ctx.toNat (s2.logOf c) o.slot.val (keySource k)) none)
  | (.refused k, s1) =>
    .next (match kept with
      | some n => (s1.cutGather c e ui n).takeUp c e ui
      | none => put (s1.denyLine c e o (some r.str) r.va k) none)
  | (.fault u k, s1) =>
    .next (match kept with
      | some n => (s1.cutGather c e ui n).takeUp c e ui
      | none => s1.parkLine c e o r.va u k)
  | (.wait, s1) =>
    -- a fence's NACK stops a running MMA, which is replayed after the rejoin (R225, R329)
    let nack := match o.job, s1.engPort c o r.va false r.ld with
      | .mma _ _ _ _ _, (.ok name _, _) => s1.fencedFrom c (bankOf name)
      | _, _ => false
    .next (if nack then s1.modCore c (fun x => x.modEngine e (fun x => { x with retry := true })) else s1)
  | (.gone, s1) => .next (put s1 none)

/-- A line is written, in one event, and its arrival sent to its attendance word (R86, R137). -/
def State.lineWrite (s : State) (c : Nat) (e : Eng) (o : EngOp) (ui j : Nat) (w : LineWrite) : State :=
  let put := fun (s : State) =>
    s.modUnit c e ui (fun u => { u with writes := setPick (fun x => !x.done) (fun x => { x with done := true }) j u.writes })
  let first := o.traps && o.units.all (fun u => u.writes.all (fun x => !x.done))
  let writes := (o.units.flatMap (fun u => u.writes)).map (fun x => (none, x.va, true, false))
  let (ok, s0) := if first then s.translateAll c e o writes else (true, s)
  if !ok || (s0.engHead c e).any (fun o => o.trap.isSome) then s0
  else
    match s0.engLine c o w.va true false with
    | (.ok name g, s1) =>
      let s2 := put ((s1.writeNamed name g w.bytes).aimAway o (bankOf name))
      match w.att with
      | some k => { s2 with arrivals := s2.arrivals ++ [⟨s2.nextTag, k, w.bytes.length, o.tag, o.who, s2.logOf c, o.slot⟩]
                            nextTag := s2.nextTag + 1 }
      | none => s2
    | (.refused k, s1) => put (s1.denyLine c e o none w.va k)
    | (.fault u k, s1) => (match u with | .home b => s1.aimAway o b | .port _ => s1).parkLine c e o w.va u k
    | (.wait, s1) => s1
    | (.gone, s1) => put s1

/-- The element writes of a `SCAT` are performed in order; the lines of a step or of a row have none among themselves (R137). -/
def Job.oneByOne : Job → Bool
  | .scat _ _ _ _ _ => true
  | _ => false

/-- One line event: line j of those that unit ui has still to read or write; units and writes that have an order are
performed in it (R137). -/
def State.performLine (s : State) (c : Nat) (e : Eng) (ui j : Nat) : Host.Outcome State Fault Refusal :=
  match s.engHead c e with
  | none => .next s
  | some o =>
    if !o.started || o.finished || ((s.core c).engine e).retry || (s.core c).stopped then .next s
    else
      match o.units[ui]? with
      | none => .next s
      | some u =>
        if o.ordered && o.units.findIdx? (fun u => !u.finished) != some ui then .next s
        else if !u.loaded then
          if u.reads.all (fun r => r.got.isSome) then .next (s.takeUp c e ui) else
          match (u.reads.filter (fun r => r.got.isNone))[j]? with
          | none => .next s
          | some r => if s.lineParked c e r.va then .next s else s.lineRead c e o ui j r
        else if o.job.oneByOne && j != 0 then .next s
        else
          match (u.writes.filter (fun w => !w.done))[j]? with
          | none => .next s
          | some w => .next (if s.lineParked c e w.va then s else s.lineWrite c e o ui j w)

/-! ## Replay of an `MMA` (R225, R323) -/

/-- The accumulator comes back from the shadow and the whole operation is performed again, once nothing of it is parked or
behind a fence. -/
def State.mmaReplay (s : State) (c : Nat) : State :=
  match s.engHead c .mat with
  | none => s
  | some o =>
    let k := s.core c
    if !k.mat.retry || k.stopped || s.faultQ.any (fun f => match f.what with | .line x .mat _ => x == c | _ => false) then s
    else if o.units.any (fun u => u.reads.any (fun r =>
        match s.engPort c o r.va false r.ld with
        | (.ok name _, _) => s.fencedFrom c (bankOf name)
        | _ => false)) then s
    else
      let s1 := s.modCore c (fun k => match k.mat.shadow with
        | some (a, w) => k.setAcc (BitVec.ofNat 4 a) (w.map BitVec.toNat)
        | none => k)
      let s2 := s1.modOp c .mat (fun o => { o with units := s1.planOf c o, flags := 0, trap := none })
      s2.modCore c (fun k => k.modEngine .mat (fun x => { x with retry := false }))

/-! ## Completion -/

/-- An operation of a thread that has ended is complete: a marker whose last operation it was lowers its counter (R234, R284). -/
def State.ownerlessDone (s : State) (tag : Nat) : State :=
  if s.ownerless.isEmpty then s
  else
    let left := s.ownerless.map (fun m => (m.1, m.2.1, m.2.2.filter (· != tag)))
    (left.filter (fun m => m.2.2.isEmpty)).foldl (fun s m => s.modCore m.1 (fun k => k.lowerCC m.2.1))
      { s with ownerless := left.filter (fun m => !m.2.2.isEmpty) }

/-- A completed operation no longer counts for its thread's `EFENCE`, `HALT` and markers; a marker whose last operation it
was lowers its counter (R234, R236). -/
def State.threadOpDone (s : State) (who : Ident) (tag : Nat) : State :=
  let s := s.ownerlessDone tag
  match s.thread? who with
  | none => s
  | some t =>
    let left := t.markers.map (fun m => (m.1, m.2.1, m.2.2.filter (· != tag)))
    let done := left.filter (fun m => m.2.2.isEmpty)
    let s1 := s.modWho who (fun t =>
      { t with engOps := t.engOps.filter (· != tag), markers := left.filter (fun m => !m.2.2.isEmpty) })
    let s2 := done.foldl (fun s m => s.modCore m.1 (fun k => k.lowerCC m.2.1)) s1
    -- an `EFENCE` waits under a tag that names no operation
    s2.modWho who (fun t =>
      match t.status with
      | .engineWait w => if w != tag && t.engOps.isEmpty && !(s.cores.any (fun (_, k) => k.engQueue.any (fun o => o.tag == w)))
          then { t with status := .ready } else t
      | _ => t)

/-- The operation leaves its engine: its Hall Passes drop, its counter falls, its flags reach its thread (R61, R100, R137). -/
def State.retireOp (s : State) (c : Nat) (e : Eng) (o : EngOp) : State :=
  let s1 := s.modCore c (fun k => k.modEngine e (fun x => { queue := x.queue.tail, shadow := none, retry := false, again := [] }))
  let s2 := { s1 with faultQ := s1.faultQ.filter (fun f => match f.what with | .line x y _ => !(x == c && y == e) | _ => true) }
  let s3 := match o.cnt with
    | some k => s2.modCore c (fun x => x.lowerCC k)
    | none => s2
  let s4 := s3.note (.core c) 0x08 (engCode e * 2 ^ 38 + o.slot.val * 2 ^ 35 + o.opc * 2 ^ 26 +
    (match o.cnt with | some k => k.toNat | none => 0) * 2 ^ 23)
  ((if o.trap.isSome then s4 else s4.orSstWho o.who o.flags).threadOpDone o.who o.tag)

/-- A waiting thread goes on: the registers of its operation are written and it is READY (R204, R217, R219). -/
def State.wakeWaiting (s : State) (o : EngOp) : State :=
  let s1 := o.outs.foldl (fun s p => s.putReg o.who p.1 p.2) s
  let s2 := match s1.savedOf? o.who with
    | some x => if x.t.status = Status.engineWait o.tag then
        let w := s1.rawNat (x.key 0) 8
        s1.homeWrite (x.key 0) (leBytes 8 (w - bits w 21 19 * 2 ^ 19)) else s1
    | none => s1
  s2.modWho o.who (fun t => if t.status = Status.engineWait o.tag then { t with status := .ready } else t)

/-- A waiting thread takes the trap of its operation at the instruction that issued it (R205). -/
def State.trapWaiting (s : State) (o : EngOp) (cause : BitVec 8) (val : Word) : State :=
  match s.placeOf? o.who with
  | none => s
  | some (c, i) => (s.modAt c i (fun t => { t with pc := o.pc, status := .ready })).userTrapAt c i cause val o.pc

/-- `GATHF` sends its thread to the core of element 0, where it reissues (R219). -/
def State.moveWaiting (s : State) (o : EngOp) (dest : Nat) : State :=
  match s.placeOf? o.who with
  | none => s
  | some (c, i) =>
    let s1 := { (s.modAt c i (fun t => { t with pc := o.pc, status := .ready })) with cur := ⟨c, i⟩ }
    { (s1.leaveFor dest) with cur := s.cur }

/-- The pointer that a trap leaves pending takes its value at issue (R204). -/
def State.lateBack (s : State) (o : EngOp) : State :=
  match o.late with
  | some p => s.fillWho o.who o.tag p.2
  | none => s

/-- Completion of an operation that is no walk's (R137, R205, R221). -/
def State.engFinish (s : State) (c : Nat) (e : Eng) (o : EngOp) : State :=
  let s1 := (s.retireOp c e o).lateBack o
  match o.trap, o.move with
  | some (k, v), _ => s1.trapWaiting o k v
  | none, some d => s1.moveWaiting o d
  | none, none => if o.wait then s1.wakeWaiting o else s1

/-- The counter of an operation that completes is read as it falls: its parity is checked (R320, R321). -/
def State.counterSound (s : State) (c : Nat) (o : EngOp) : Bool :=
  o.cnt.all (fun k => (s.checkStore c (.cc k.toFin)).isSome)

/-- The events. -/
def execEngineOpStart (core : Nat) (e : Eng) (s : State) : Host.Outcome State Fault Refusal :=
  match s.engHead core e with
  | none => .next s
  | some o =>
    match s.checkStore core (.eng o.tag) with
    | none => .next (s.consume core)
    | some s1 => s1.engStart core e

/-- `PERFORM`: the head of a bank's FIFO, or a line event of a running engine operation (R123, R137). -/
def execPerform (t : PerfTarget) (s : State) : Host.Outcome State Fault Refusal :=
  match t with
  | .bank b => .next (s.performBank b)
  | .line c e u j => s.performLine c e u j

/-- `MMA_REPLAY` (R225). -/
def execMmaReplay (core : Nat) (s : State) : Host.Outcome State Fault Refusal := .next (s.mmaReplay core)

/-- The home and the pool of the granule at a device address of a context. -/
def State.poolAt (s : State) (part ctx va : Nat) : Option (Bank × Nat) :=
  match s.walk part ctx va with
  | .leaf base _ e _ =>
    let x := s.place? va base e
    x.gran.map (fun g => (bankOf x.name, g.2.1))
  | _ => none

/-- `STOCK_REFILL`: the refill of an empty stock by which parked births wait, once no other holds the line of the pool's header; they are
replayed (R93, R314). -/
def execStockRefill (i : Nat) (s : State) : Host.Outcome State Fault Refusal :=
  .next (match (s.faultQ.filter (fun f => f.kind == .stock))[i]? with
    | none => s
    | some f =>
      let pool : Option (Bank × Nat) :=
        match f.what with
        | .access m => m.gran.map (fun g => (m.bank, g.2.1))
        | .line _ _ _ | .thread _ _ _ => s.poolAt f.part f.ctx f.va
      let (ok, s1) := match pool with
        | some (b, p) =>
          if !(s.stockOf b p).isEmpty then (true, s)
          else if !s.poolFree p then (false, s)
          else
            match (s.refillWords p).find? (fun w => !s.sound w 8) with
            -- the pool's word is lost: the context that would be born into dies (R322)
            | some w => (false, s.audit w 8 f.part f.ctx 0 0)
            | none => (true, s.refill b p)
        | none => (true, s)
      if !ok then s1 else s1.replay (fun x => x.kind == .stock && x.unit == f.unit && x.part == f.part && x.ctx == f.ctx &&
        s1.samePage f.part f.ctx f.va x.va))

end Sys2Proof.Machine
end

