-- ==== Sys2Proof/Machine/Vector.lean ====
section
/-! DEFINITION. Vector, conversion and gather instructions (R202 to R220). -/

namespace Sys2Proof.Machine

/-- A stream of n bytes named by a pointer (R203). -/
def Thread.strm (t : Thread) (p : Fin 8) (n align : Nat) (dst : Bool) (reach : Reach) : Stream :=
  ⟨p, t.av p, n, align, dst, reach⟩

/-- The post-increment of a stream by n bytes (R204). (DEDUCED, log 36) -/
def Thread.post (t : Thread) (x : Strm) (n : Nat) : List (Fin 8 × Word) :=
  if x.inc then [(x.p, t.av x.p + w64 n)] else []

/-- The device address of a pointer. -/
def Thread.ptrVa (t : Thread) (p : Fin 8) : Nat := t.segs[p].base.toNat + (t.av p).toNat

/-- The registers a vector source is read from. -/
def VSrc.operand : VSrc → Operand
  | .strm x => .a x.p
  | .scal g => .g g

/-- An elementwise instruction over vl elements: sources of element format sf, destination of format f (R204, R206).
(DEDUCED, log 36) -/
def State.elemIssue (s : State) (opc : Nat) (op : ElemOp) (f sf : VFmt) (e : ECtl) (d : Strm) (xs : List VSrc) : Eff := do
  let t ← s.ready (xs.map VSrc.operand ++ [.a d.p]) [] []
  let n := t.vl.toNat
  let srcs := xs.map (fun x => match x with
    | .strm x => ESrc.strm (t.ptrVa x.p) sf
    | .scal g => ESrc.scal (t.gv g))
  let streams := xs.filterMap (fun x => match x with
    | .strm x => some (t.strm x.p (n * eBytes sf) (eBytes sf) false .own)
    | .scal _ => none)
  let posts := xs.flatMap (fun x => match x with
    | .strm x => t.post x (n * eBytes sf)
    | .scal _ => [])
  s.engIssue s t (EngReq.basic .vec opc (.elem op f (t.ptrVa d.p) srcs) e n
    (streams ++ [t.strm d.p (n * eBytes f) (eBytes f) true .own]) (posts ++ t.post d (n * eBytes f)))

/-- `VADD` (Table 10-2). -/
def execVadd (f : VFmt) (e : ECtl) (d x : Strm) (y : VSrc) (s : State) : Host.Outcome State Fault Refusal :=
  (s.elemIssue 0x100 .add f f e d [.strm x, y]).done
/-- `VSUB` (Table 10-2). -/
def execVsub (f : VFmt) (e : ECtl) (d x : Strm) (y : VSrc) (s : State) : Host.Outcome State Fault Refusal :=
  (s.elemIssue 0x101 .sub f f e d [.strm x, y]).done
/-- `VMUL` (Table 10-2). -/
def execVmul (f : VFmt) (e : ECtl) (d x : Strm) (y : VSrc) (s : State) : Host.Outcome State Fault Refusal :=
  (s.elemIssue 0x102 .mul f f e d [.strm x, y]).done
/-- `VFMA` (Table 10-2). -/
def execVfma (f : VFmt) (e : ECtl) (d x : Strm) (y : VSrc) (z : Strm) (s : State) : Host.Outcome State Fault Refusal :=
  (s.elemIssue 0x103 .fma f f e d [.strm x, y, .strm z]).done
/-- `VMIN` (Table 10-2). -/
def execVmin (f : VFmt) (e : ECtl) (d x : Strm) (y : VSrc) (s : State) : Host.Outcome State Fault Refusal :=
  (s.elemIssue 0x104 .min f f e d [.strm x, y]).done
/-- `VMAX` (Table 10-2). -/
def execVmax (f : VFmt) (e : ECtl) (d x : Strm) (y : VSrc) (s : State) : Host.Outcome State Fault Refusal :=
  (s.elemIssue 0x105 .max f f e d [.strm x, y]).done
/-- `VABS` (Table 10-2). -/
def execVabs (f : VFmt) (e : ECtl) (d x : Strm) (s : State) : Host.Outcome State Fault Refusal :=
  (s.elemIssue 0x106 .abs f f e d [.strm x]).done
/-- `VNEG` (Table 10-2). -/
def execVneg (f : VFmt) (e : ECtl) (d x : Strm) (s : State) : Host.Outcome State Fault Refusal :=
  (s.elemIssue 0x107 .neg f f e d [.strm x]).done
/-- `VDIV` (Table 10-2). -/
def execVdiv (f : VFmt) (e : ECtl) (d x : Strm) (y : VSrc) (s : State) : Host.Outcome State Fault Refusal :=
  (s.elemIssue 0x108 .div f f e d [.strm x, y]).done
/-- `VSQRT` (Table 10-2). -/
def execVsqrt (f : VFmt) (e : ECtl) (d x : Strm) (s : State) : Host.Outcome State Fault Refusal :=
  (s.elemIssue 0x109 .sqrt f f e d [.strm x]).done
/-- `VRSQ` (Table 10-2). -/
def execVrsq (f : VFmt) (e : ECtl) (d x : Strm) (s : State) : Host.Outcome State Fault Refusal :=
  (s.elemIssue 0x10A .rsq f f e d [.strm x]).done
/-- `VEXP2` (Table 10-2). -/
def execVexp2 (f : VFmt) (e : ECtl) (d x : Strm) (s : State) : Host.Outcome State Fault Refusal :=
  (s.elemIssue 0x10B .exp2 f f e d [.strm x]).done
/-- `VAND` (Table 10-2). -/
def execVand (f : VFmt) (e : ECtl) (d x : Strm) (y : VSrc) (s : State) : Host.Outcome State Fault Refusal :=
  (s.elemIssue 0x10C .and f f e d [.strm x, y]).done
/-- `VOR` (Table 10-2). -/
def execVor (f : VFmt) (e : ECtl) (d x : Strm) (y : VSrc) (s : State) : Host.Outcome State Fault Refusal :=
  (s.elemIssue 0x10D .or f f e d [.strm x, y]).done
/-- `VXOR` (Table 10-2). -/
def execVxor (f : VFmt) (e : ECtl) (d x : Strm) (y : VSrc) (s : State) : Host.Outcome State Fault Refusal :=
  (s.elemIssue 0x10E .xor f f e d [.strm x, y]).done
/-- `VSHL` (Table 10-2). -/
def execVshl (f : VFmt) (e : ECtl) (d x : Strm) (y : VSrc) (s : State) : Host.Outcome State Fault Refusal :=
  (s.elemIssue 0x10F .shl f f e d [.strm x, y]).done
/-- `VSHR` (Table 10-2). -/
def execVshr (f : VFmt) (e : ECtl) (d x : Strm) (y : VSrc) (s : State) : Host.Outcome State Fault Refusal :=
  (s.elemIssue 0x110 .shr f f e d [.strm x, y]).done
/-- `VSRA` (Table 10-2). -/
def execVsra (f : VFmt) (e : ECtl) (d x : Strm) (y : VSrc) (s : State) : Host.Outcome State Fault Refusal :=
  (s.elemIssue 0x111 .sra f f e d [.strm x, y]).done
/-- `VCEQ` (R209). -/
def execVceq (f : VFmt) (e : ECtl) (d x : Strm) (y : VSrc) (s : State) : Host.Outcome State Fault Refusal :=
  (s.elemIssue 0x112 .ceq f f e d [.strm x, y]).done
/-- `VCLT` (R209). -/
def execVclt (f : VFmt) (e : ECtl) (d x : Strm) (y : VSrc) (s : State) : Host.Outcome State Fault Refusal :=
  (s.elemIssue 0x113 .clt f f e d [.strm x, y]).done
/-- `VSEL` (R209). -/
def execVsel (f : VFmt) (e : ECtl) (d x : Strm) (y : VSrc) (z : Strm) (s : State) : Host.Outcome State Fault Refusal :=
  (s.elemIssue 0x114 .sel f f e d [.strm x, y, .strm z]).done
/-- `VIOTA` (R211). -/
def execViota (f : VFmt) (e : ECtl) (d : Strm) (s : State) : Host.Outcome State Fault Refusal :=
  (s.elemIssue 0x117 .iota f f e d []).done
/-- `VSET` (R211). -/
def execVset (f : VFmt) (e : ECtl) (d : Strm) (y : Fin 16) (s : State) : Host.Outcome State Fault Refusal :=
  (s.elemIssue 0x118 .mov f f e d [.scal y]).done
/-- `VMOV` (R211). -/
def execVmov (f : VFmt) (e : ECtl) (d x : Strm) (s : State) : Host.Outcome State Fault Refusal :=
  (s.elemIssue 0x120 .mov f f e d [.strm x]).done

/-- `VCVT`: the source format is in a register, and any other value traps with it (R213). -/
def execVcvt (f : VFmt) (e : ECtl) (d x : Strm) (y : Fin 16) (s : State) : Host.Outcome State Fault Refusal :=
  Eff.done do
    let t ← s.ready [.a x.p, .g y, .a d.p] [] []
    match VFmt.ofCode? (t.gv y).toNat with
    | none => stop s (.trap cILLEGAL (t.gv y))
    | some sf => s.elemIssue 0x121 (.cvt sf) f sf e d [.strm x]

/-- `VRSUM` and `VRMAX`: vl elements to one (R210). -/
def State.foldIssue (s : State) (opc : Nat) (max : Bool) (f : VFmt) (e : ECtl) (d x : Strm) : Eff := do
  let t ← s.ready [.a x.p, .a d.p] [] []
  let n := t.vl.toNat
  let b := eBytes f
  s.engIssue s t (EngReq.basic .vec opc (.fold max f (t.ptrVa d.p) (t.ptrVa x.p)) e n
    [t.strm x.p (n * b) b false .own, t.strm d.p b b true .own] (t.post x (n * b) ++ t.post d b))

/-- `VRSUM` (R210). -/
def execVrsum (f : VFmt) (e : ECtl) (d x : Strm) (s : State) : Host.Outcome State Fault Refusal :=
  (s.foldIssue 0x115 false f e d x).done
/-- `VRMAX` (R210). -/
def execVrmax (f : VFmt) (e : ECtl) (d x : Strm) (s : State) : Host.Outcome State Fault Refusal :=
  (s.foldIssue 0x116 true f e d x).done

/-- `VPACK`: the shape register of Table 10-4, the T0 length at issue, and d pending until the tile is encoded (R214). -/
def execVpack (f : VFmt) (e : ECtl) (d x : Strm) (y : Fin 16) (s : State) : Host.Outcome State Fault Refusal :=
  Eff.done do
    let t ← s.ready [.a x.p, .g y, .a d.p] [] []
    let v := (t.gv y).toNat
    let src := (VFmt.ofCode? (v % 8)).getD .i32
    if 2 ^ 15 ≤ v || bits v 4 3 != 0 || !src.isFloat then stop s (.trap cILLEGAL (t.gv y))
    else
      let rows := bits v 9 5 + 1
      let cols := bits v 14 10 + 1
      let n := rows * cols * eBytes src
      s.engIssue s t { EngReq.basic .vec 0x122 (.pack f src rows cols (t.ptrVa d.p) (t.ptrVa x.p)) e t.vl.toNat
          [t.strm x.p n (eBytes src) false .own, t.strm d.p (t0Len (if f = .e4 then 0 else 1) rows cols) 8 true .own] (t.post x n) with
        late := if d.inc then some d.p else none }

/-- `VUNPK`: the header at issue, the rest once it is read; sa pending until then (R215). -/
def execVunpk (f : VFmt) (e : ECtl) (d x : Strm) (s : State) : Host.Outcome State Fault Refusal :=
  Eff.done do
    let t ← s.ready [.a x.p, .a d.p] [] []
    let n := t.vl.toNat
    let b := eBytes f
    s.engIssue s t { EngReq.basic .vec 0x123 (.unpk f (t.ptrVa d.p) (t.ptrVa x.p) x.p (t.av x.p)) e n
        [t.strm x.p 8 8 false .own, t.strm d.p (n * b) b true .own] (t.post d (n * b)) with
      late := if x.inc && !(d.inc && d.p = x.p) then some x.p else none }

/-- `VTRN`: 32 × 32 elements; overlapping ranges trap with d's offset (R216). -/
def execVtrn (f : VFmt) (e : ECtl) (d x : Strm) (s : State) : Host.Outcome State Fault Refusal :=
  Eff.done do
    let t ← s.ready [.a x.p, .a d.p] [] []
    let b := eBytes f
    let c := s.cur.core
    let rx : Range := ⟨s.canonVa c (t.ptrVa x.p), 1024 * b⟩
    let rd : Range := ⟨s.canonVa c (t.ptrVa d.p), 1024 * b⟩
    if rx.meets rd then stop s (.trap cILLEGAL (t.av d.p))
    else s.engIssue s t (EngReq.basic .vec 0x128 (.trn f (t.ptrVa d.p) (t.ptrVa x.p)) e 1024
      [t.strm x.p (1024 * b) b false .own, t.strm d.p (1024 * b) b true .own]
      (t.post x (1024 * b) ++ t.post d (1024 * b)))

/-- `VCMPR`: the chosen elements close up at d, their number to a register; d is sa itself or apart from both (R217). -/
def execVcmpr (f : VFmt) (e : ECtl) (d x y : Strm) (n : Fin 16) (s : State) : Host.Outcome State Fault Refusal :=
  Eff.done do
    let t ← s.ready [.a x.p, .a y.p, .a d.p] [.g n] []
    let b := eBytes f
    let k := t.vl.toNat
    let at_ := fun (p : Fin 8) => (⟨s.canonVa s.cur.core (t.ptrVa p), k * b⟩ : Range)
    let bad := ((at_ d.p).meets (at_ x.p) && (at_ d.p).lo != (at_ x.p).lo) || (at_ d.p).meets (at_ y.p)
    if bad then illegal s t
    else s.engIssue s t { EngReq.basic .vec 0x129 (.cmpr f (t.ptrVa d.p) (t.ptrVa x.p) (t.ptrVa y.p)) e k
        [t.strm x.p (k * b) b false .own, t.strm y.p (k * b) b false .own, t.strm d.p (k * b) b true .own]
        (t.post x (k * b) ++ t.post y (k * b)) with
      scaled := if d.inc then [(d.p, t.av d.p, b)] else [], count := some n }

/-- `GATH`: an index stream and a destination; the span of the elements is registered once they are known (R218). -/
def execGath (f : VFmt) (e : ECtl) (d : Strm) (x : Fin 8) (y : Strm) (s : State) : Host.Outcome State Fault Refusal :=
  Eff.done do
    let t ← s.ready [.a x, .a y.p, .a d.p] [] []
    let b := eBytes f
    let k := t.vl.toNat
    s.engIssue s t { EngReq.basic .vec 0x124 (.gath f false (t.ptrVa d.p) x (t.av x) (t.ptrVa y.p)) e k
        [t.strm y.p (k * 4) 4 false .own, t.strm d.p (k * b) b true .own] (t.post y (k * 4) ++ t.post d (k * b)) with
      more := 1 }

/-- `GATHF`: the first-fault form; its count goes to a register and moves both pointers (R219). -/
def execGathf (f : VFmt) (e : ECtl) (d : Strm) (x : Fin 8) (y : Strm) (n : Fin 16) (s : State) :
    Host.Outcome State Fault Refusal :=
  Eff.done do
    let t ← s.ready [.a x, .a y.p, .a d.p] [.g n] []
    let b := eBytes f
    let k := t.vl.toNat
    s.engIssue s t { EngReq.basic .vec 0x125 (.gath f true (t.ptrVa d.p) x (t.av x) (t.ptrVa y.p)) e k
        [t.strm y.p (k * 4) 4 false .own, t.strm d.p (k * b) b true .own] [] with
      scaled := (if y.inc then [(y.p, t.av y.p, 4)] else []) ++ (if d.inc then [(d.p, t.av d.p, b)] else [])
      count := some n, more := 1 }

/-- `SCAT`: data and index streams; the span of the elements is registered as a destination (R220). -/
def execScat (f : VFmt) (e : ECtl) (d : Fin 8) (x y : Strm) (s : State) : Host.Outcome State Fault Refusal :=
  Eff.done do
    let t ← s.ready [.a x.p, .a y.p, .a d] [] []
    let b := eBytes f
    let k := t.vl.toNat
    s.engIssue s t { EngReq.basic .vec 0x126 (.scat f d (t.av d) (t.ptrVa x.p) (t.ptrVa y.p)) e k
        [t.strm x.p (k * b) b false .own, t.strm y.p (k * 4) 4 false .own] (t.post x (k * b) ++ t.post y (k * 4)) with
      more := 1 }

/-- `VLEN`: vl is the source, at most 1,024, and so is d (R212). -/
def execVlen (d x : Operand) (s : State) : Host.Outcome State Fault Refusal :=
  Eff.done do
    let t ← s.ready [x] [d] []
    let (v, s1) := s.read1 t x
    let n := if v.toNat < 1024 then v.toNat else 1024
    return ((s1.modMe (fun t => { t with vl := BitVec.ofNat 11 n })).write d (w64 n)).advance t

end Sys2Proof.Machine
end

