-- ==== Sys2Proof/Machine/Matrix.lean ====
section
/-! DEFINITION. Matrix engine instructions (R221 to R226). -/

namespace Sys2Proof.Machine

/-- `MMA`: two tiles of the quad's scratchpads (R224); a scale or economy under `.i8` is illegal (R73, R74). -/
def execMma (k : BitVec 4) (x y : Fin 8) (o : MmaCtl) (s : State) : Host.Outcome State Fault Refusal :=
  Eff.done do
    s.limit (o.fmt == .i8 && (o.eco || o.scale != 0))
    let t ← s.ready [.a x, .a y] [] []
    let (n, align) := match o.fmt with
      | .c4 | .c5 => (4096, 8)
      | .f16 | .bf16 => (2048, 64)
      | .i8 => (1024, 64)
    s.engIssue s t (EngReq.basic .mat 0x140 (.mma k (t.ptrVa x) (t.ptrVa y) o t.sclp.toNat) o.ec 0
      [t.strm x n align false .quad, t.strm y n align false .quad] [])

/-- `MZERO` (Table 11-3). -/
def execMzero (k : BitVec 4) (e : ECtl) (s : State) : Host.Outcome State Fault Refusal :=
  Eff.done do
    let t ← s.ready [] [] []
    s.engIssue s t (EngReq.basic .mat 0x141 (.mzero k) e 0 [] [])

/-- `MLDA` (Table 11-3). -/
def execMlda (k : BitVec 4) (x : Strm) (_int : Bool) (e : ECtl) (s : State) : Host.Outcome State Fault Refusal :=
  Eff.done do
    let t ← s.ready [.a x.p] [] []
    s.engIssue s t (EngReq.basic .mat 0x142 (.mlda k (t.ptrVa x.p)) e 0 [t.strm x.p 4096 4 false .own] (t.post x 4096))

/-- `MSTA`: with an integer accumulator only an integer format is legal (Table 11-3, R223). -/
def execMsta (k : BitVec 4) (x : Strm) (f : VFmt) (int : Bool) (e : ECtl) (s : State) : Host.Outcome State Fault Refusal :=
  Eff.done do
    s.limit (int && f.isFloat)
    let t ← s.ready [.a x.p] [] []
    let n := 1024 * eBytes f
    s.engIssue s t (EngReq.basic .mat 0x143 (.msta k (t.ptrVa x.p) f int) e 0 [t.strm x.p n 4 true .own] (t.post x n))

/-- `MSTC`: a coded tile; sa pending until it is encoded (Table 11-3). (DEDUCED, log 42) -/
def execMstc (k : BitVec 4) (x : Strm) (e5 : Bool) (e : ECtl) (s : State) : Host.Outcome State Fault Refusal :=
  Eff.done do
    let t ← s.ready [.a x.p] [] []
    s.engIssue s t { EngReq.basic .mat 0x144 (.mstc k (t.ptrVa x.p) e5) e 0 [t.strm x.p 1064 8 true .own] [] with
      late := if x.inc then some x.p else none }

/-- `MADD` (Table 11-3). -/
def execMadd (k src : BitVec 4) (int : Bool) (e : ECtl) (s : State) : Host.Outcome State Fault Refusal :=
  Eff.done do
    let t ← s.ready [] [] []
    s.engIssue s t (EngReq.basic .mat 0x145 (.madd k src int) e 0 [] [])

/-- `MSCAL` (Table 11-3). -/
def execMscal (k : BitVec 4) (x : Strm) (e : ECtl) (s : State) : Host.Outcome State Fault Refusal :=
  Eff.done do
    let t ← s.ready [.a x.p] [] []
    s.engIssue s t (EngReq.basic .mat 0x146 (.mscal k (t.ptrVa x.p)) e 0 [t.strm x.p 128 4 false .own] (t.post x 128))

/-- `MRSSQ` (Table 11-3). -/
def execMrssq (k : BitVec 4) (x : Strm) (e : ECtl) (s : State) : Host.Outcome State Fault Refusal :=
  Eff.done do
    let t ← s.ready [.a x.p] [] []
    s.engIssue s t (EngReq.basic .mat 0x147 (.mrssq k (t.ptrVa x.p)) e 0 [t.strm x.p 128 4 true .own] (t.post x 128))

end Sys2Proof.Machine
end

