-- ==== Sys2Proof/Machine/Memory.lean ====
section
/-! DEFINITION. Loads, stores, the `RLX` prefix, fences, atomics, reservations and counter instructions (R151, R129, R186 to
R197). -/

namespace Sys2Proof.Machine

/-- Bytes and sign extension of a load size (R186). -/
def sizeOf : Size → Nat × Bool
  | .b => (1, false)
  | .h => (2, false)
  | .w => (4, false)
  | .d => (8, false)
  | .bs => (1, true)
  | .hs => (2, true)
  | .ws => (4, true)

/-- Bytes of a store size (R186). -/
def stBytes : StSize → Nat
  | .b => 1
  | .h => 2
  | .w => 4
  | .d => 8

/-- An access with the fields that most share. -/
def Access.basic (opc : Nat) (p : Fin 8) (off : Word) (n : Nat) (op : MemOp) (dst : Operand) : Access :=
  { opc := opc, p := p, off := off, n := n, align := n, kind := .load, need := needR, hall := some false, rlx := false
    pre := false, op := op, dst := dst, inc := false, pred := none, acq := false, side := false, alone := false, unchk := false }

/-! ## Loads and stores -/

/-- A load into d (R186, R187). -/
def State.load (s : State) (opc : Nat) (d : Operand) (p : Fin 8) (sz : Size) (off : Word) (inc rlx pre : Bool)
    (kind : AccKind) : Eff := do
  let t ← s.ready [.a p] [d] []
  let (n, sx) := sizeOf sz
  s.access s t { Access.basic opc p off n (.load n sx none none) d with kind := kind, rlx := rlx, pre := pre, inc := inc }

/-- A store of d (R186, R187). -/
def State.storeOp (s : State) (opc : Nat) (x : Operand) (p : Fin 8) (sz : StSize) (off : Word) (inc rlx pre : Bool)
    (rel : Option Scope) : Eff := do
  let t ← s.ready [.a p, x] [] []
  let sd ← (match rel with
    | some sc => s.beginDrain t sc
    | none => pure s)
  let (v, s1) := sd.read1 t x
  let n := stBytes sz
  s.access s1 t { Access.basic opc p off n (.store (leBytes n v.toNat) rel) .zr with
    kind := if pre then .rlx else .store, need := needW, hall := some true, rlx := rlx, pre := pre, inc := inc, side := true }

/-- `LD` (R186). -/
def execLd (d : Operand) (p : Fin 8) (sz : Size) (off : BitVec 24) (s : State) : Host.Outcome State Fault Refusal :=
  (s.load 0x0A0 d p sz (off.signExtend 64) false false false .load).done

/-- `LDPI`: the pointer moves by the size; it may not be the destination (R186). -/
def execLdpi (d : Operand) (p : Fin 8) (sz : Size) (s : State) : Host.Outcome State Fault Refusal :=
  Eff.done do
    s.limit (d == .a p)
    s.load 0x0A1 d p sz 0 true false false .load

/-- `ST` (R186). -/
def execSt (x : Operand) (p : Fin 8) (sz : StSize) (off : BitVec 24) (s : State) : Host.Outcome State Fault Refusal :=
  (s.storeOp 0x0A2 x p sz (off.signExtend 64) false false false none).done

/-- `STPI` (R186). -/
def execStpi (x : Operand) (p : Fin 8) (sz : StSize) (s : State) : Host.Outcome State Fault Refusal :=
  (s.storeOp 0x0A3 x p sz 0 true false false none).done

/-- `LDA`: a relaxed load (R187). -/
def execLda (d : RegName) (p : Fin 8) (sz : Size) (off : BitVec 24) (s : State) : Host.Outcome State Fault Refusal :=
  (s.load 0x0A4 d.op p sz (off.signExtend 64) false true false .load).done

/-- `LDX`: a load whose predicate says whether the granule exists (R188). -/
def execLdx (d : Operand) (p : Fin 8) (sz : Size) (pr : BitVec 5) (off : BitVec 29) (s : State) :
    Host.Outcome State Fault Refusal :=
  Eff.done do
    let t ← s.ready [.a p] [d] [pr]
    let (n, sx) := sizeOf sz
    s.access s t { Access.basic 0x0A5 p (off.signExtend 64) n (.load n sx none (some pr)) d with kind := .ldx, pred := some pr }

/-- `ERASE` of the granule at the pointer (R189). -/
def execErase (p : Fin 8) (s : State) : Host.Outcome State Fault Refusal :=
  Eff.done do
    let t ← s.ready [.a p] [] []
    s.access s t { Access.basic 0x0A6 p 0 4096 .erase .zr with
      kind := .erase, need := needW, hall := some true, side := true }

/-- `LDAQ`: a load that is an acquire (R190). -/
def execLdaq (d : Operand) (p : Fin 8) (sz : Size) (sc : Scope) (off : BitVec 32) (s : State) :
    Host.Outcome State Fault Refusal :=
  Eff.done do
    let t ← s.ready [.a p] [d] []
    let (n, sx) := sizeOf sz
    s.access s t { Access.basic 0x0A8 p (off.signExtend 64) n (.load n sx (some sc) none) d with acq := true }

/-- `STREL`: a store that is a release, after its drain (R190, R133). -/
def execStrel (x : Operand) (p : Fin 8) (sz : StSize) (sc : Scope) (off : BitVec 32) (s : State) :
    Host.Outcome State Fault Refusal :=
  (s.storeOp 0x0A9 x p sz (off.signExtend 64) false false false (some sc)).done

/-- `PREF`: the checks up to step 8, and no visible state (R191). -/
def execPref (p : Fin 8) (sz : Size) (off : BitVec 24) (s : State) : Host.Outcome State Fault Refusal :=
  Eff.done do
    let t ← s.ready [.a p] [] []
    let (n, sx) := sizeOf sz
    let _ ← s.locate s t { Access.basic 0x0AA p (off.signExtend 64) n (.load n sx none none) .zr with kind := .pref, hall := none }
    return s.advance t

/-- A fence of a drained extent: entries of the reduction log that no fence has reported yet are reported as `REDLOG`, then the thread's own
relaxed accesses that an access table refused, and an engine line's access violation, as `ACCESS` (R129, R270, Table 18-1). -/
def State.fenceEnd (s : State) (t : Thread) : Eff :=
  let ctx := t.id.ctx.toNat
  let c := s.ctx t.part ctx
  if c.logDone < c.logN then
    stop (s.modCtx t.part ctx (fun c => { c with logDone := c.logN })) (.sup cREDLOG (w64 c.logN))
  else
    match t.refused, c.access with
    | v :: r, _ => stop (s.modMe (fun t => { t with refused := r })) (.sup cACCESS v)
    | [], some v => stop (s.modCtx t.part ctx (fun c => { c with access := none })) (.sup cACCESS v)
    | [], none => return s.advance t

/-- `FENCE` (R129). -/
def execFence (sc : Scope) (s : State) : Host.Outcome State Fault Refusal :=
  Eff.done do
    let t ← s.ready [] [] []
    let s1 ← s.beginDrain t sc
    s1.fenceEnd t

/-- `RLX`: with the load or store after it in the line it is one relaxed access under its own PC (R151). (DEDUCED, log 14) -/
def execRlx (s : State) : Host.Outcome State Fault Refusal :=
  Eff.done do
    let t ← s.ready [] [] []
    let l := s.myLine t
    let i := pcIdx t.pc
    if l.hcnt ≤ i then illegal s t
    else
      let (head, tail) := l.slot (i + 1)
      let opc := head / 32 % 512
      if opc < 0x0A0 || 0x0A3 < opc then illegal s t
      else
        match decode head tail with
        | .ok (.ld d p sz off) =>
          match d with
          | .g _ | .a _ => s.load 0x0A0 d p sz (off.signExtend 64) false true true .rlx
          | _ => stop s (.trap cILLEGAL (encVal (head, tail)))
        | .ok (.ldpi d p sz) =>
          match d with
          | .g _ | .a _ =>
            if d == .a p then stop s (.trap cILLEGAL (encVal (head, tail)))
            else s.load 0x0A1 d p sz 0 true true true .rlx
          | _ => stop s (.trap cILLEGAL (encVal (head, tail)))
        | .ok (.st x p sz off) => s.storeOp 0x0A2 x p sz (off.signExtend 64) false true true none
        | .ok (.stpi x p sz) => s.storeOp 0x0A3 x p sz 0 true true true none
        | _ => stop s (.trap cILLEGAL (encVal (head, tail)))

/-! ## Atomics (R192 to R195) -/

/-- Bytes of an atomic's word. -/
def atomBytes (dbl : Bool) : Nat := if dbl then 8 else 4

/-- Scope of an order bit that is set. -/
def orderOf (bit : Bool) (sc : Scope) : Option Scope := if bit then some sc else none

/-- The access of an atomic (R192). -/
def atomAccess (opc : Nat) (d : Operand) (p : Fin 8) (o : AtomCtl) (op : MemOp) : Access :=
  { Access.basic opc p (o.off.signExtend 64) (atomBytes o.dbl) op d with
    kind := .rmw, need := needWA, hall := some true, acq := o.acq, side := true }

/-- The drain of an atomic that is a release (R133, R192). -/
def State.atomDrain (s : State) (t : Thread) (o : AtomCtl) : Except (StopKind × State) State :=
  if o.rel then s.beginDrain t o.sc else .ok s

/-- A fetch-and-op (R193). -/
def State.fetchOp (s : State) (opc : Nat) (d : Operand) (p : Fin 8) (x : Operand) (o : AtomCtl) (f : Thread → AtomFn) : Eff := do
  let t ← s.ready [.a p, x] [d] []
  let sd ← s.atomDrain t o
  let (v, s1) := sd.read1 t x
  s.access s1 t (atomAccess opc d p o (.atom (f t) o.dbl v 0 (orderOf o.acq o.sc) (orderOf o.rel o.sc)))

/-- `AADD` (Table 9-4). -/
def execAadd (d : Operand) (p : Fin 8) (x : Operand) (o : AtomCtl) (s : State) : Host.Outcome State Fault Refusal :=
  (s.fetchOp 0x0C4 d p x o (fun _ => .add)).done
/-- `AAND` (Table 9-4). -/
def execAand (d : Operand) (p : Fin 8) (x : Operand) (o : AtomCtl) (s : State) : Host.Outcome State Fault Refusal :=
  (s.fetchOp 0x0C5 d p x o (fun _ => .and)).done
/-- `AOR` (Table 9-4). -/
def execAor (d : Operand) (p : Fin 8) (x : Operand) (o : AtomCtl) (s : State) : Host.Outcome State Fault Refusal :=
  (s.fetchOp 0x0C6 d p x o (fun _ => .or)).done
/-- `AXOR` (Table 9-4). -/
def execAxor (d : Operand) (p : Fin 8) (x : Operand) (o : AtomCtl) (s : State) : Host.Outcome State Fault Refusal :=
  (s.fetchOp 0x0C7 d p x o (fun _ => .xor)).done
/-- `AMIN` (Table 9-4). -/
def execAmin (d : Operand) (p : Fin 8) (x : Operand) (o : AtomCtl) (s : State) : Host.Outcome State Fault Refusal :=
  (s.fetchOp 0x0C8 d p x o (fun _ => .min)).done
/-- `AMAX` (Table 9-4). -/
def execAmax (d : Operand) (p : Fin 8) (x : Operand) (o : AtomCtl) (s : State) : Host.Outcome State Fault Refusal :=
  (s.fetchOp 0x0C9 d p x o (fun _ => .max)).done
/-- `AMINU` (Table 9-4). -/
def execAminu (d : Operand) (p : Fin 8) (x : Operand) (o : AtomCtl) (s : State) : Host.Outcome State Fault Refusal :=
  (s.fetchOp 0x0CA d p x o (fun _ => .minu)).done
/-- `AMAXU` (Table 9-4). -/
def execAmaxu (d : Operand) (p : Fin 8) (x : Operand) (o : AtomCtl) (s : State) : Host.Outcome State Fault Refusal :=
  (s.fetchOp 0x0CB d p x o (fun _ => .maxu)).done
/-- `ASWP` (Table 9-4). -/
def execAswp (d : Operand) (p : Fin 8) (x : Operand) (o : AtomCtl) (s : State) : Host.Outcome State Fault Refusal :=
  (s.fetchOp 0x0CC d p x o (fun _ => .swp)).done
/-- `AINCB`: the bound in x (Table 9-4). -/
def execAincb (d : Operand) (p : Fin 8) (x : Operand) (o : AtomCtl) (s : State) : Host.Outcome State Fault Refusal :=
  (s.fetchOp 0x0CE d p x o (fun _ => .incb)).done
/-- `AFADD` under the thread's `rnd` (Table 9-4). -/
def execAfadd (d : Operand) (p : Fin 8) (x : Operand) (o : AtomCtl) (s : State) : Host.Outcome State Fault Refusal :=
  (s.fetchOp 0x0CF d p x o (fun t => .fadd t.rnd)).done

/-- `CAS`: d is comparand and destination (R193). -/
def execCas (d : RegName) (p : Fin 8) (x : Operand) (o : AtomCtl) (s : State) : Host.Outcome State Fault Refusal :=
  Eff.done do
    let t ← s.ready [.a p, x, d.op] [d.op] []
    let sd ← s.atomDrain t o
    let (v, s1) := sd.read1 t x
    s.access s1 t (atomAccess 0x0CD d.op p o
      (.atom .cas o.dbl v (t.cell d).val (orderOf o.acq o.sc) (orderOf o.rel o.sc)))

/-- A thread whose access has just been sent waits for a grant or a watch; one that was parked at a port is DROPPED. -/
def State.awaitIt (s : State) (w : Wait) : State :=
  match s.me with
  | some t =>
    match t.status with
    | .dropped _ _ => s
    | _ => s.park w
  | none => s

/-- `RSV`: illegal while a reservation is recorded; otherwise the request, and the thread parks until granted (R194). -/
def execRsv (d : Operand) (p : Fin 8) (o : AtomCtl) (s : State) : Host.Outcome State Fault Refusal :=
  Eff.done do
    s.limit o.rel
    let t ← s.ready [.a p] [d] []
    if t.rsv.isSome then illegal s t
    else
      let a := atomAccess 0x0C0 d p o (.rsv o.dbl (orderOf o.acq o.sc))
      let s1 ← s.access s t a
      return s1.awaitIt (.grant (lineOf (t.segs[p].base.toNat + (a.o t).toNat)))

/-- `RLS` and `RLSN` (R194): illegal with no reservation or another address or width; a broken one gives 0 with no access;
a held one is released at its home, and the state is none from here on. -/
def State.releaseRsv (s base : State) (t : Thread) (a : Access) : Eff :=
  match t.rsv with
  | none => illegal base t
  | some r =>
    if t.accWait false then stop s (.park .issue)
    else do
      let (va, _) ← s.locate base t a
      if s.canonVa s.cur.core va != r.va || a.n != r.bytes then illegal base t
      else if r.broken then
        return ((base.modMe (fun u => { u with rsv := none, visible := true })).write a.dst 0).advance t
      else
        let s1 ← s.access base t a
        return s1.modMe (fun u => { u with rsv := none })

/-- `RLS`: writes its data where the reservation still stands (R194). -/
def execRls (d : Operand) (p : Fin 8) (x : Operand) (o : AtomCtl) (s : State) : Host.Outcome State Fault Refusal :=
  Eff.done do
    s.limit o.acq
    let t ← s.ready [.a p, x] [d] []
    let sd ← s.atomDrain t o
    let (v, s1) := sd.read1 t x
    s.releaseRsv s1 t (atomAccess 0x0C1 d p o (.rls (some (leBytes (atomBytes o.dbl) v.toNat)) (orderOf o.rel o.sc)))

/-- `RLSN`: releases with no write (R194). -/
def execRlsn (d : Operand) (p : Fin 8) (o : AtomCtl) (s : State) : Host.Outcome State Fault Refusal :=
  Eff.done do
    s.limit o.acq
    let t ← s.ready [.a p] [d] []
    let sd ← s.atomDrain t o
    s.releaseRsv sd t (atomAccess 0x0C2 d p o (.rls none (orderOf o.rel o.sc)))

/-- `WAITRS`: the line is given back and watched in one event at its home; the thread resumes after it (R195). -/
def execWaitrs (s : State) : Host.Outcome State Fault Refusal :=
  Eff.done do
    let t ← s.ready [] [] []
    match t.rsv with
    | none => illegal s t
    | some r =>
      if r.broken then illegal s t
      else if t.oar.isSome then stop s (.park .issue)
      else
        let s1 ← s.sideEffect t
        let tag := s.nextTag
        let m : Msg :=
          { tag := tag, who := t.id, part := t.part, core := s.cur.core, slot := s.cur.slot, opc := 0x0C3, pc := t.pc, next := s.succ t, off := 0
            va := r.va, pa := r.pa, bytes := r.bytes, acc := .rmw, need := needWA, cls := 0, bank := bankOf r.pa, op := .watch
            rlx := false, unchk := false, stuck := false, dst := .none, undo := none, gran := none }
        let s2 := s1.modMe (fun u => { u with rsv := none, oar := some ⟨tag, false, false, none⟩, pc := s.succ t })
        return ({ s2 with net := s2.net ++ [m], nextTag := tag + 1 } : State).park (.watch (lineOf r.pa))

/-! ## Counter instructions (R197) -/

/-- The nibble bit has no meaning with 8-bit counters, whatever the sources hold (R149, R183, R197). -/
def State.nibble (s : State) (hi : Bool) : Except (StopKind × State) Unit := s.limit (hi && s.me.any (fun t => t.pcb.getLsbD 0))

/-- A counter access of one byte (R197). -/
def State.counter (s base : State) (t : Thread) (opc : Nat) (d : Operand) (p : Fin 8) (off : Word) (hi : Bool)
    (f : CtrFn) (writes : Bool) : Eff :=
  s.access base t { Access.basic opc p off 1 (.ctr f hi t.pcb) d with
    kind := .ctr, need := if writes then needWA else needR, hall := some writes, side := true }

/-- `PCADD`: a count above 255 traps with the count (R197). -/
def execPcadd (d : Operand) (p : Fin 8) (x : Operand) (hi : Bool) (off : BitVec 16) (s : State) :
    Host.Outcome State Fault Refusal :=
  Eff.done do
    s.nibble hi
    let t ← s.ready [.a p, x] [d] []
    let (m, s1) := s.read1 t x
    if 255 < m.toNat then stop s1 (.trap cILLEGAL m)
    else s.counter s1 t 0x0D4 d p (off.signExtend 64) hi (.add m.toNat) true

/-- `PCRD`: the estimate (R197). -/
def execPcrd (d : Operand) (p : Fin 8) (hi : Bool) (s : State) : Host.Outcome State Fault Refusal :=
  Eff.done do
    s.nibble hi
    let t ← s.ready [.a p] [d] []
    s.counter s t 0x0D5 d p 0 hi .rd false

/-- `PCMRG`: the merge with a level (R197). -/
def execPcmrg (d : Operand) (p : Fin 8) (x : Fin 16) (hi : Bool) (s : State) : Host.Outcome State Fault Refusal :=
  Eff.done do
    s.nibble hi
    let t ← s.ready [.a p, .g x] [d] []
    s.counter s t 0x0D6 d p 0 hi (.mrg (t.gv x).toNat) true

/-- `PCLV`: the level (R197). -/
def execPclv (d : Operand) (p : Fin 8) (hi : Bool) (s : State) : Host.Outcome State Fault Refusal :=
  Eff.done do
    s.nibble hi
    let t ← s.ready [.a p] [d] []
    s.counter s t 0x0D7 d p 0 hi .lv false

/-- `PCLV.set`: a level above 2^width − 1 traps with the value (R197). -/
def execPclvSet (d : Operand) (p : Fin 8) (x : Operand) (hi : Bool) (s : State) : Host.Outcome State Fault Refusal :=
  Eff.done do
    s.nibble hi
    let t ← s.ready [.a p, x] [d] []
    let (v, s1) := s.read1 t x
    if (if t.pcb.getLsbD 0 then 255 else 15) < v.toNat then stop s1 (.trap cILLEGAL v)
    else s.counter s1 t 0x0D7 d p 0 hi (.lvSet v.toNat) true

end Sys2Proof.Machine
end

