-- ==== Sys2Proof/Machine/Copy.lean ====
section
/-! DEFINITION. Copies, attendance words, deposits, completion counters and reductions (R86, R196, R227 to R236). -/

namespace Sys2Proof.Machine

/-! ## Copies -/

/-- The attendance stream of a copy (R85). (DEDUCED, log 35) -/
def Thread.attStrm (t : Thread) : Option (Fin 8) → List Stream
  | some p => [t.strm p 16 16 false .att]
  | none => []

/-- The memory key of a copy's attendance word, where its pointer names a scratchpad. (DEDUCED, log 35) -/
def State.attKey (s : State) (t : Thread) (a : Option (Fin 8)) : Option Nat :=
  a.bind (fun p => match s.spaceOf s.cur.core (t.ptrVa p) with
    | some (.sp m c off) => some (spKey m c off)
    | _ => none)

/-- `CPY` (R227). -/
def execCpy (d x : Strm) (n : Fin 16) (att : Option (Fin 8)) (e : ECtl) (s : State) : Host.Outcome State Fault Refusal :=
  Eff.done do
    let t ← s.ready ([.a x.p, .g n] ++ att.toList.map Operand.a ++ [.a d.p]) [] []
    let v := t.gv n
    let k := v.toNat
    if 2 ^ 24 < k then stop s (.trap cILLEGAL v)
    else s.engIssue s t { EngReq.basic .copy 0x160 (.cpy (t.ptrVa d.p) (t.ptrVa x.p) k) e 0
        ([t.strm x.p k 1 false .any] ++ t.attStrm att ++ [t.strm d.p k 1 true .any]) (t.post x k ++ t.post d k) with
      att := s.attKey t att }

/-- `CPY2`: the shape register of Table 11-4 (R228). (DEDUCED, log 42) -/
def execCpy2 (d x : Strm) (n : Fin 16) (att : Option (Fin 8)) (e : ECtl) (s : State) : Host.Outcome State Fault Refusal :=
  Eff.done do
    let t ← s.ready ([.a x.p, .g n] ++ att.toList.map Operand.a ++ [.a d.p]) [] []
    let v := (t.gv n).toNat
    let rows := bits v 63 48
    let w := bits v 47 32
    let span := fun (stride : Nat) => if rows = 0 || w = 0 then 0 else (rows - 1) * stride + w
    s.engIssue s t { EngReq.basic .copy 0x161 (.cpy2 (t.ptrVa d.p) (t.ptrVa x.p) (t.gv n)) e 0
        ([t.strm x.p (span (bits v 31 16)) 1 false .any] ++ t.attStrm att ++ [t.strm d.p (span (bits v 15 0)) 1 true .any])
        (t.post x (rows * bits v 31 16) ++ t.post d (rows * bits v 15 0)) with
      att := s.attKey t att }

/-- The physical cores of the quad that a mask names and that hold a logical index (R229). -/
def State.quadNamed (s : State) (m : BitVec 4) : List Nat :=
  (List.range 4).filterMap (fun i =>
    let c := quadOf s.cur.core * 4 + i
    if m.getLsbD i && (s.logOf? c).isSome then some c else none)

/-- `CPYM`: the same offset of each named core of the quad; a mask of 0 is illegal (R223, R229). -/
def execCpym (d x : Strm) (n : Fin 16) (att : Option (Fin 8)) (e : ECtl) (m : BitVec 4) (s : State) :
    Host.Outcome State Fault Refusal :=
  Eff.done do
    s.limit (m == 0)
    let t ← s.ready ([.a x.p, .g n] ++ att.toList.map Operand.a ++ [.a d.p]) [] []
    let v := t.gv n
    let k := v.toNat
    if 2 ^ 24 < k then stop s (.trap cILLEGAL v)
    else
      let off := match s.spaceOf s.cur.core (t.ptrVa d.p) with
        | some (.sp _ _ o) => o
        | _ => 0
      let cores := s.quadNamed m
      s.engIssue s t { EngReq.basic .copy 0x162 (.cpym off (t.ptrVa x.p) (if cores.isEmpty then 0 else k) cores) e 0
          ([t.strm x.p k 1 false .any] ++ t.attStrm att ++ [t.strm d.p k 1 true .quadSp]) (t.post x k ++ t.post d k) with
        att := s.attKey t att
        extra := if k = 0 then [] else cores.map (fun c => ⟨s.aperture c off, k⟩) }

/-! ## Attendance words (R86, R230, R231) -/

/-- An attendance access: a scratchpad word of 16 bytes, on the thread's core or, by migration, there. -/
def State.attend (s base : State) (t : Thread) (opc : Nat) (d : Operand) (p : Fin 8) (op : MemOp) (write : Bool) : Eff := do
  let a : Access := { Access.basic opc p 0 16 op d with
    kind := if write then .store else .load, need := if write then needW else needR, hall := some write
    acq := !write, side := write }
  if t.accWait false then stop s (.park .issue)
  -- these checks come before that of the Hall Passes
  match ← s.locate base t { a with hall := none } with
  | (_, .glob) => stop base (.trap cSEGV (a.o t))
  | _ => s.access base t a

/-- `ATTN` arms a word and returns its generation (R230). -/
def execAttn (d : Operand) (p : Fin 8) (x : Operand) (s : State) : Host.Outcome State Fault Refusal :=
  Eff.done do
    let t ← s.ready [.a p, x] [d] []
    let (v, s1) := s.read1 t x
    s.attend s1 t 0x163 d p (.attn (v.setWidth 32)) true

/-- `AWAIT` waits for another generation than its source; nothing after it issues before it completes. One that has parked has read its
source already, and one that a change has woken completes with the generation it finds (R87, R231). -/
def execAwait (d : Operand) (p : Fin 8) (x : Operand) (s : State) : Host.Outcome State Fault Refusal :=
  Eff.done do
    let again := ((s.me.bind (·.carried)).filter (fun c => c.1 = carryWait || c.1 = carryWoken))
    let t ← s.ready (if again.isSome then [.a p] else [.a p, x]) [d] []
    let (v, base) : Option (BitVec 32) × State := match again with
      | some c => (if c.1 = carryWait then some (c.2.setWidth 32) else none, s)
      | none => (some ((s.peek t x).setWidth 32), s.pop x)
    let s1 ← s.attend base t 0x164 d p (.await v) false
    return s1.modMe (fun u => { u with status := .held s.nextTag, carried := none })

/-- The effect of b bytes on an attendance word: TARGET, COUNT and GEN (R86). -/
def attendCount (target count gen b : Nat) : Nat × Nat :=
  let n := (count + b) % 2 ^ 32
  if target = 0 then (n, gen) else (n % target, (gen + n / target) % 2 ^ 32)

/-- An arrival may not be performed on a line yet: an earlier access stands in the bank's FIFO, as a store of the same cycle does, or the line is
reserved or asked for (R87, R125). -/
def State.arrivalWaits (s : State) (line : Nat) : Bool :=
  let q := s.lineQ line
  s.fifoAhead line || q.holder.isSome || !q.queue.isEmpty || !q.aside.isEmpty

/-- `ATTENDANCE_ARRIVAL`: the word's bank counts a line's bytes, once no fence stands before its core and nothing that arrived earlier is ahead of it; a match is a completion signal of the party whose copy it counts (R86, R87, R136). -/
def execAttendanceArrival (i : Nat) (s : State) : Host.Outcome State Fault Refusal :=
  .next (match s.arrivals.find? (fun a => a.tag == i) with
    | none => s
    | some a =>
      let s1 := { s with arrivals := s.arrivals.filter (fun x => x.tag != i) }
      let (_, core, _) := spOf a.pa
      if s.fenced core || s.arrivalWaits (lineOf a.pa) then s
      else
        let gen := s1.goodNat (a.pa + 8) 4
        let r := attendCount (s1.goodNat a.pa 4) (s1.goodNat (a.pa + 4) 4) gen a.n
        if r.2 = gen then s1.homeWrite (a.pa + 4) (leBytes 4 r.1)
        else
          match s.signalWait a.who with
          | some s2 => s2
          | none => (s1.homeWrite (a.pa + 4) (leBytes 4 r.1 ++ leBytes 4 r.2 ++ leBytes 4 0)).setRel (a.pa + 8) .pk a.lcore a.slot)

/-! ## Deposits (R232) -/

/-- `DEPO`: a target word outside Table 11-5 traps with it. (DEDUCED, log 40) -/
def execDepo (x y : Operand) (e : ECtl) (s : State) : Host.Outcome State Fault Refusal :=
  Eff.done do
    let t ← s.ready [x, y] [] []
    let (w, v, s1) := s.read2 t x y
    let n := w.toNat
    if 2 ^ 20 ≤ n || 23 < bits n 19 15 || 3967 < bits n 11 0 then stop s1 (.trap cILLEGAL w)
    else
      let dep : Deposit :=
        { tag := 0, who := none, lcore := bits n 11 0, slot := Fin.ofNat 8 (bits n 14 12), code := bits n 19 15, val := v
          src := none, part := t.part, ctx := t.id.ctx.toNat }
      s.engIssue s1 t (EngReq.basic .copy 0x165 (.depo dep) e 0 [] [])

/-! ## Completion counters (R233 to R236) -/

/-- `CCINC`: a marker on a counter; with nothing outstanding it rises and falls at once (R234). (DEDUCED, log 43) -/
def execCcinc (c : BitVec 3) (s : State) : Host.Outcome State Fault Refusal :=
  Eff.done do
    let t ← s.ready [] [] []
    if t.engOps.isEmpty then return s.advance t
    else if 4 ≤ t.markers.length then stop s (.park .issue)
    else if s.myCore.cc[c.toFin].val = 65535 then stop s (.park (.counter c))
    else
      return ((s.modCore s.cur.core (fun k => k.raiseCC c)).modMe (fun u =>
        { u with markers := u.markers ++ [(s.cur.core, c, u.engOps)] })).advance t

/-- `WAITLT`: parks until the counter of this core is below the threshold; a threshold of 0 is illegal (R235, R223). -/
def execWaitlt (c : BitVec 3) (n : BitVec 6) (s : State) : Host.Outcome State Fault Refusal :=
  Eff.done do
    let t ← s.ready [] [] []
    if n = 0 then illegal s t
    else if s.myCore.cc[c.toFin].val.toNat < n.toNat then return s.advance t
    else stop s (.park (.counter c))

/-- `EFENCE`: ENGINE-WAIT until every engine operation of the thread has completed (R236). -/
def execEfence (s : State) : Host.Outcome State Fault Refusal :=
  Eff.done do
    let t ← s.ready [] [] []
    if t.engOps.isEmpty then return s.advance t
    else return { ((s.advance t).modMe (fun u => { u with status := .engineWait s.nextTag })) with nextTag := s.nextTag + 1 }

/-! ## Reductions (R196) -/

/-- Steps 4 to 9 of R183 for a reduction, which never moves its thread (R80). (DEDUCED, log 34) -/
def State.locateRed (s base : State) (t : Thread) (a : Access) : Except (StopKind × State) Nat :=
  let o := (a.o t).toNat
  let va := t.segs[a.p].base.toNat + o
  let trap := fun (c : BitVec 8) => stop base (.trap c (a.o t))
  if !(t.segs[a.p]).grants o a.n a.need then trap cSEGV
  else if va % a.align != 0 then trap cMISALIGN
  else
    match s.spaceOf s.cur.core va with
    | none => trap cSEGV
    | some (.sp m c off) =>
      if m = Config.pkg && off < (s.core c).xb.toNat then trap cEXECONLY
      else if s.hallHit s.cur.core va a.n true then trap cHALLPASS else .ok va
    | some .glob => if s.hallHit s.cur.core va a.n true then trap cHALLPASS else .ok va

/-- The bank that a reduction will reach, as far as it is known at issue (R127). (DEDUCED, log 34) -/
def State.redBank (s : State) (t : Thread) (va : Nat) : Bank :=
  match s.spaceOf s.cur.core va with
  | some (.sp m c off) => bankOf (spKey m c off)
  | _ =>
    match s.port (quadOf s.cur.core) t.part t.id.ctx.toNat va .red needWA with
    | (.ok x, _) | (.moving x, _) => bankOf x.name
    | _ => bankOf va

/-- A reduction: a copy engine operation that is a relaxed access (R196). -/
def State.redIssue (s : State) (opc : Nat) (f : Thread → AtomFn) (c : BitVec 3) (p : Fin 8) (x : Operand) (dbl : Bool)
    (off : BitVec 16) : Eff := do
  let t ← s.ready [.a p, x] [] []
  if t.engWait then stop s (.park .issue)
  let (v, s1) := s.read1 t x
  let a : Access := { Access.basic opc p (off.signExtend 64) (if dbl then 8 else 4) (.red (f t) dbl v) .zr with
    kind := .red, need := needWA }
  let va ← s.locateRed s1 t a
  let b := s.redBank t va
  let m : Msg :=
    { tag := s.nextTag, who := t.id, part := t.part, core := s.cur.core, slot := s.cur.slot, opc := opc, pc := t.pc, next := s.succ t
      off := a.o t, va := va, pa := va, bytes := a.n, acc := .red, need := needWA, cls := 0, bank := b, op := a.op, rlx := true
      unchk := false, stuck := false, dst := .none, undo := none, gran := none }
  let s2 ← s.engIssue s1 t (EngReq.basic .copy opc (.red m) ⟨false, c⟩ 0 [] [])
  return s2.modMe (fun u => { u with rlx := u.rlx ++ [⟨m.tag, b, padBank b⟩] })

/-- `REDADD` (R196). -/
def execRedadd (c : BitVec 3) (p : Fin 8) (x : Operand) (dbl : Bool) (off : BitVec 16) (s : State) :
    Host.Outcome State Fault Refusal := (s.redIssue 0x0D0 (fun _ => .add) c p x dbl off).done
/-- `REDMIN`, signed (R196). -/
def execRedmin (c : BitVec 3) (p : Fin 8) (x : Operand) (dbl : Bool) (off : BitVec 16) (s : State) :
    Host.Outcome State Fault Refusal := (s.redIssue 0x0D1 (fun _ => .min) c p x dbl off).done
/-- `REDMAX`, signed (R196). -/
def execRedmax (c : BitVec 3) (p : Fin 8) (x : Operand) (dbl : Bool) (off : BitVec 16) (s : State) :
    Host.Outcome State Fault Refusal := (s.redIssue 0x0D2 (fun _ => .max) c p x dbl off).done
/-- `REDFADD` with the rounding mode at issue (R45, R196). -/
def execRedfadd (c : BitVec 3) (p : Fin 8) (x : Operand) (dbl : Bool) (off : BitVec 16) (s : State) :
    Host.Outcome State Fault Refusal := (s.redIssue 0x0D3 (fun t => .fadd t.rnd) c p x dbl off).done

end Sys2Proof.Machine
end

