-- ==== Sys2Proof/Machine/Csr.lean ====
section
/-! DEFINITION. Segments and control and status registers (R49 to R55, R274, R276). -/

namespace Sys2Proof.Machine

/-! ## Segments (R55) -/

/-- `SEGRD`: a field of a segment, zero-extended (R55). -/
def execSegrd (d : Operand) (k : Fin 8) (f : SegField) (s : State) : Host.Outcome State Fault Refusal :=
  Eff.done do
    let t ← s.ready [] [d] []
    let g := t.segs[k]
    let v : Word := match f with
      | .base => g.base.setWidth 64
      | .limit => g.limit.setWidth 64
      | .rights => w64 (g.r.toNat + 2 * g.w.toNat + 4 * g.a.toNat)
    return (s.write d v).advance t

/-- `SEGNW`: a narrower segment, marked dirty and written to the segment save block (R50, R55). (DEDUCED, log 15) -/
def execSegnw (k : Fin 8) (x y : Operand) (keep : BitVec 3) (s : State) : Host.Outcome State Fault Refusal :=
  Eff.done do
    let t ← s.ready [x, y] [] []
    let (a, b, s1) := s.read2 t x y
    let g := t.segs[k]
    if g.limit.toNat < a.toNat || g.limit.toNat < a.toNat + b.toNat then stop s1 (.trap cSEGV a)
    else
      let n : Seg :=
        { base := g.base + a.setWidth 48, limit := b.setWidth 40
          r := g.r && keep.getLsbD 0, w := g.w && keep.getLsbD 1, a := g.a && keep.getLsbD 2 }
      let bit := 1#8 <<< k.val
      let s2 := s1.modMe (fun u =>
        { u with segs := u.segs.set k n, dirty := u.dirty ||| bit, supDirty := if u.mode then u.supDirty ||| bit else u.supDirty })
      return (s2.homeWrite (s2.segSlot t k.val) (leBytes 16 n.toNat)).advance t

/-! ## User CSRs (Table 2-4) -/

/-- The value of a user CSR as the issuing thread reads it; none for a number outside Table 2-4. -/
def State.userCsr (s : State) (t : Thread) (n : Nat) : Option Word :=
  let c := s.cur.core
  match n with
  | 0x000 => some (t.rnd.setWidth 64)
  | 0x001 => some (t.vl.setWidth 64)
  | 0x002 => some (t.sst.setWidth 64)
  | 0x003 => some (t.pcb.setWidth 64)
  | 0x004 => some (t.cds.setWidth 64)
  | 0x008 => some t.fmtp
  | 0x009 => some t.sclp
  | 0x00A => some (t.sbud.setWidth 64)
  | 0x00B => some (w64 (s.ctx t.part t.id.ctx.toNat).suse)
  | 0x010 => some t.xcause
  | 0x011 => some t.xval
  | 0x012 => some t.xpc
  | 0x013 => some t.xh
  | 0x014 => some t.ovh
  | 0x018 => some s.myCore.xb
  | 0x019 => some t.wsb
  | 0x01A => some t.wsl
  | 0x01B => some t.wsp
  | 0x01C => some (w64 s.myCore.strict.toNat)
  | 0x030 => some (w64 s.cur.slot.val)
  | 0x031 => some (w64 (s.logOf c))
  | 0x032 => some (w64 (c % 512 / 4))
  | 0x033 => some (w64 (coreDie c))
  | 0x034 => some (w64 Config.pkg)
  | 0x035 => some (t.id.hcore.setWidth 64)
  | 0x036 => some (s.myCore.itag.setWidth 64)
  | 0x038 => some s.time
  | n => if 0x020 ≤ n && n < 0x028 then some (s.myCore.cc[Fin.ofNat 8 (n - 0x020)].val.setWidth 64) else none

/-- A user CSR that user code may write, in the fields it has (R3, Table 2-4); a counter with operations outstanding keeps its
value and CCWR is set (R54, R233). Any other number is left alone. -/
def State.setUserCsr (s : State) (n : Nat) (v : Word) : State :=
  match n with
  | 0x000 => s.modMe (fun t => { t with rnd := v.setWidth 3 })
  | 0x001 => s.modMe (fun t => { t with vl := BitVec.ofNat 11 (if v.toNat < 1024 then v.toNat else 1024) })
  | 0x002 => s.modMe (fun t => { t with sst := v.setWidth 9 })
  | 0x003 => s.modMe (fun t => { t with pcb := v.setWidth 3 })
  | 0x004 => s.modMe (fun t => { t with cds := v.setWidth 32 })
  | 0x010 => s.modMe (fun t => { t with xcause := v })
  | 0x011 => s.modMe (fun t => { t with xval := v })
  | 0x012 => s.modMe (fun t => { t with xpc := v })
  | 0x013 => s.modMe (fun t => { t with xh := v })
  | 0x014 => s.modMe (fun t => { t with ovh := v })
  | n =>
    if 0x020 ≤ n && n < 0x028 then
      let k := Fin.ofNat 8 (n - 0x020)
      if s.myCore.cc[k].out != 0 then s.orFlags fCCWR
      else s.modCore s.cur.core (fun c => { c with cc := c.cc.set k ⟨v.setWidth 16, 0⟩, marks := c.marks.filter (fun m => m.1 != .cc k) })
    else s

/-- What a CSR instruction makes of the old value and its source (R54). -/
inductive CsrOp where
  | r | w | set | clr
deriving DecidableEq, Repr

/-- The new value (R54). -/
def CsrOp.new : CsrOp → Word → Word → Word
  | .r, old, _ => old
  | .w, _, x => x
  | .set, old, x => old ||| x
  | .clr, old, x => old &&& ~~~x

/-- A CSR instruction (R51, R54). -/
def State.csrOp (s : State) (op : CsrOp) (d x : Operand) (n : BitVec 12) : Eff := do
  let n := n.toNat
  if 0x800 ≤ n && n < 0xC00 then
    let t ← s.ready [] [] []
    if t.mode then illegal s t else stop s (.sup cPRIV (s.encHere t))
  else
    s.limit (s.me.any (fun (t : Thread) => (s.userCsr t n).isNone))
    let t ← s.ready (if op = .r then [] else [x]) [d] []
    match s.userCsr t n with
    | none => illegal s t
    | some old =>
      if t.badCsr.contains n then stop s .consume
      let (v, s1) := if op = .r then (0, s) else s.read1 t x
      let new := op.new old v
      if n = 0 && 4 < (new.setWidth 3 : BitVec 3).toNat then illegal s1 t
      else
        let s2 := if op = .r then s1 else s1.setUserCsr n new
        return (s2.write d old).advance t

/-- `CSRR` (R54). -/
def execCsrr (d : Operand) (n : BitVec 12) (s : State) : Host.Outcome State Fault Refusal := (s.csrOp .r d .zr n).done
/-- `CSRW` (R54). -/
def execCsrw (d x : Operand) (n : BitVec 12) (s : State) : Host.Outcome State Fault Refusal := (s.csrOp .w d x n).done
/-- `CSRSET` (R54). -/
def execCsrset (d x : Operand) (n : BitVec 12) (s : State) : Host.Outcome State Fault Refusal := (s.csrOp .set d x n).done
/-- `CSRCLR` (R54). -/
def execCsrclr (d x : Operand) (n : BitVec 12) (s : State) : Host.Outcome State Fault Refusal := (s.csrOp .clr d x n).done

/-! ## Supervisor CSRs (Table 18-3) -/

/-- The value of a supervisor CSR; none for a number outside Table 18-3. -/
def State.supCsr (s : State) (t : Thread) (n : Nat) : Option Word :=
  match n with
  | 0x800 => some (w64 (t.mode.toNat + 2 * t.pmode.toNat + 4 * t.hdlr.toNat))
  | 0x801 => some t.scause
  | 0x802 => some t.sval
  | 0x803 => some t.spc
  | 0x804 => some t.sh
  | 0x805 => some t.sscr
  | 0x808 => some (t.id.ctx.setWidth 64)
  | 0x809 => some (w64 t.part)
  | 0x80A => some (w64 (entGen (s.centry t.part t.id.ctx.toNat)))
  | 0x810 => some (s.partn t.part).ctab
  | 0x811 => some (s.partn t.part).evq
  | 0x818 => some s.myCore.csave
  | 0x820 => some (s.ctx t.part t.id.ctx.toNat).ptroot
  | _ => none

/-- A physical address has 52 bits (R309); bits 63:52 of a register that holds one are zero, as those of `ptroot` are. (DESIGN CHOICE, log 16) -/
def physWord (v : Word) : Word := v &&& 0x000FFFFFFFFFFFFF

/-- A supervisor CSR, or a user CSR that only `SCSRW` writes (R274); bits 63:52 and 11:0 of `ptroot` are zero (R307); the window-stack bounds
belong to the home slot.
(DESIGN CHOICE, log 16) -/
def State.setSupCsr (s : State) (t : Thread) (n : Nat) (v : Word) : State :=
  match n with
  | 0x800 => s.modMe (fun t => { t with pmode := v.getLsbD 1 })
  | 0x801 => s.modMe (fun t => { t with scause := v })
  | 0x802 => s.modMe (fun t => { t with sval := v })
  | 0x803 => s.modMe (fun t => { t with spc := v })
  | 0x804 => s.modMe (fun t => { t with sh := v })
  | 0x805 => s.modMe (fun t => { t with sscr := v })
  | 0x810 => s.modPart t.part (fun p => { p with ctab := physWord v })
  | 0x811 => s.modPart t.part (fun p => { p with evq := physWord v })
  | 0x818 => s.modCore s.cur.core (fun k => { k with csave := physWord v })
  | 0x820 => s.modCtx t.part t.id.ctx.toNat (fun c => { c with ptroot := v &&& 0x000FFFFFFFFFF000 })
  | 0x008 => s.modMe (fun t => { t with fmtp := v })
  | 0x009 => s.modMe (fun t => { t with sclp := v })
  | 0x00A => s.modMe (fun t => { t with sbud := v.setWidth 32 })
  | 0x018 => s.modCore s.cur.core (fun k => { k with xb := v })
  | 0x019 => (s.modSlot (s.homeOf t) t.id.hslot (fun sl => { sl with wsb := v })).modMe (fun t => { t with wsb := v })
  | 0x01A => (s.modSlot (s.homeOf t) t.id.hslot (fun sl => { sl with wsl := v })).modMe (fun t => { t with wsl := v })
  | n => s.setUserCsr n v

/-- The access table that guards the control functions of a die: its CSR window grants CFG to a partition (R273, log 20). -/
def State.cfgOk (s : State) (die part : Nat) : Bool := (s.rights 2 die part).getLsbD 4

/-- An invalidation by the issuing thread goes to every port of the package, and the thread waits for their acknowledgements (R278). -/
def State.sendInval {α : Type} (s : State) (t : Thread) (page : Option (Nat × Nat)) (whole : Bool) : Except (StopKind × State) α :=
  let v : Inval := ⟨s.nextTag, some t.id, t.id.ctx.toNat, t.part, page, whole, List.range 1024⟩
  stop { s with invals := s.invals ++ [v], nextTag := s.nextTag + 1 } (.park (.remote s.nextTag))

/-- Every port has acknowledged the invalidation of the issuing thread, which goes on (R278). -/
def State.invalDone (s : State) : Bool := s.me.any (fun t => t.carried.any (fun c => c.1 == 9))

/-- `SCSRR` and `SCSRW` (R274, R276). A write of `ptroot` drains, sets the root, and goes on once every port has dropped the entries of the
context (R278, R307). -/
def State.scsrOp (s : State) (w : Bool) (d x : Operand) (n : BitVec 12) : Eff := do
  let n := n.toNat
  let again := w && n = 0x820 && s.invalDone
  s.limit (s.me.any (fun (t : Thread) => t.mode && ((s.supCsr t n).orElse (fun _ => s.userCsr t n)).isNone))
  let t ← s.ready (if w && !again then [x] else []) (if again then [] else [d]) []
  s.privileged t
  if again then return (s.modMe (fun t => { t with carried := none })).advance t
  match (s.supCsr t n).orElse (fun _ => s.userCsr t n) with
  | none => illegal s t
  | some old =>
    if t.badCsr.contains n then stop s .consume
    if !w then return (s.write d old).advance t
    else do
      if n = 0x820 then s.drainOr t .pk
      let (v, s1) := s.read1 t x
      if n = 0 && 4 < (v.setWidth 3 : BitVec 3).toNat then illegal s1 t
      else if (n = 0x810 || n = 0x811) && !s.cfgOk (coreDie s.cur.core) t.part then stop s1 (.sup cACCESS (w64 n))
      else if n = 0x820 then ((s1.setSupCsr t n v).write d old).sendInval t none false
      else return ((s1.setSupCsr t n v).write d old).advance t

/-- `SCSRR` (R276). -/
def execScsrr (d : Operand) (n : BitVec 12) (s : State) : Host.Outcome State Fault Refusal := (s.scsrOp false d .zr n).done
/-- `SCSRW` (R276). -/
def execScsrw (d x : Operand) (n : BitVec 12) (s : State) : Host.Outcome State Fault Refusal := (s.scsrOp true d x n).done

end Sys2Proof.Machine
end

