-- ==== Sys2Proof/Machine/Block.lean ====
section
/-! DEFINITION. The 512-byte thread block of Table 19-8, which `CTXSV`, `CTXLD`, pre-emption and hold frames share (R114,
R277, R301). -/

namespace Sys2Proof.Machine

/-- A field of n bytes at an offset. -/
def blockField (b : List Byte) (off n : Nat) : Nat := leNat ((b.drop off).take n)

/-- One bit for each register of Table 2-1's codes 0-23. -/
def regBits (t : Thread) (f : RegCell → Bool) : Nat :=
  (allRegs.map (fun r => if f (t.cell r) then 2 ^ regCode r else 0)).sum

/-- The role of a thread of a launch; 0 for any other unit. -/
def Thread.role (t : Thread) : Nat :=
  match t.kind with
  | .launch _ r _ => r.toNat
  | _ => 0

/-- The code of `sstat` (Table 18-3). -/
def Thread.sstat (t : Thread) : Nat := t.mode.toNat + 2 * t.pmode.toNat + 4 * t.hdlr.toNat

/-- The words of a thread's block, from byte 0 to byte 375. -/
def State.blockWords (s : State) (t : Thread) (rq : List Word) (st : Nat) (val : Word) : List Nat :=
  [ t.pc.toNat % 2 ^ 19 + st * 2 ^ 19 + t.mode.toNat * 2 ^ 22 + t.pmode.toNat * 2 ^ 23 + rq.length * 2 ^ 24 + t.role * 2 ^ 29 +
      t.sst.toNat * 2 ^ 31 + t.id.inc.toNat * 2 ^ 40,
    t.pw.toNat ] ++
  (allRegs.map (fun r => (t.cell r).val.toNat)) ++
  [ regBits t (·.full) + regBits t (·.pend.isSome) * 2 ^ 24,
    t.rnd.toNat + t.vl.toNat * 2 ^ 3 + t.pcb.toNat * 2 ^ 14 + t.dirty.toNat * 2 ^ 17 + t.tag.toNat * 2 ^ 25 +
      t.id.hcore.toNat * 2 ^ 41 + t.id.hslot.val * 2 ^ 53 + t.prio % 4 * 2 ^ 56,
    t.cds.toNat + t.sbud.toNat * 2 ^ 32,
    t.fmtp.toNat, t.sclp.toNat,
    t.xh.toNat, t.ovh.toNat, t.xcause.toNat, t.xval.toNat, t.xpc.toNat, t.wsp.toNat,
    (match t.rsv with
      | none => 0
      | some r => r.va % 2 ^ 48 + (if r.bytes = 8 then 2 ^ 48 else 0) + (if r.broken then 2 else 1) * 2 ^ 49),
    val.toNat,
    t.id.ctx.toNat + entGen (s.centry t.part t.id.ctx.toNat) * 2 ^ 12 + t.markers.length * 2 ^ 44,
    t.sstat, t.scause.toNat, t.sval.toNat, t.spc.toNat, t.sh.toNat, t.sscr.toNat,
    ((rq.drop 16).headD 0).toNat ]

/-- The block of a thread: its state code, and the value that a received wake carries (Table 19-8). -/
def State.blockOf (s : State) (t : Thread) (rq : List Word) (st : Nat) (val : Word) : List Byte :=
  ((s.blockWords t rq st val).map (leBytes 8)).flatten ++ List.replicate 8 0 ++
  ((List.range 16).map (fun i => leBytes 8 (rq.getD i 0).toNat)).flatten

/-- A register as a block gives it: a pending one awaits what the thread's own record says. -/
def blockCell (b : List Byte) (old : Thread) (r : RegName) : RegCell :=
  let c := regCode r
  let m := blockField b 208 8
  ⟨w64 (blockField b (16 + 8 * c) 8), m.testBit c, if m.testBit (24 + c) then (old.cell r).pend else none, false⟩

/-- The architectural state of a block over a thread's own record: everything that Table 19-8 holds but its identity and
priority. -/
def Thread.ofBlock (b : List Byte) (t : Thread) : Thread :=
  let w0 := blockField b 0 8
  let w27 := blockField b 216 8
  let st := blockField b 320 8
  let t1 := allRegs.foldl (fun (u : Thread) r => u.setCell r (blockCell b t r)) t
  { t1 with
    pc := w64 (w0 % 2 ^ 19), sst := BitVec.ofNat 9 (bits w0 39 31), pw := BitVec.ofNat 32 (blockField b 8 8)
    rnd := BitVec.ofNat 3 w27, vl := BitVec.ofNat 11 (bits w27 13 3), pcb := BitVec.ofNat 3 (bits w27 16 14)
    dirty := BitVec.ofNat 8 (bits w27 24 17), supDirty := BitVec.ofNat 8 (bits w27 24 17) &&& t.supDirty, tag := BitVec.ofNat 16 (bits w27 40 25)
    cds := BitVec.ofNat 32 (blockField b 224 4), sbud := BitVec.ofNat 32 (blockField b 228 4)
    fmtp := w64 (blockField b 232 8), sclp := w64 (blockField b 240 8)
    xh := w64 (blockField b 248 8), ovh := w64 (blockField b 256 8), xcause := w64 (blockField b 264 8)
    xval := w64 (blockField b 272 8), xpc := w64 (blockField b 280 8), wsp := w64 (blockField b 288 8)
    mode := st.testBit 0, pmode := st.testBit 1, hdlr := st.testBit 2
    scause := w64 (blockField b 328 8), sval := w64 (blockField b 336 8), spc := w64 (blockField b 344 8)
    sh := w64 (blockField b 352 8), sscr := w64 (blockField b 360 8) }

/-- The receive queue that a block holds. -/
def blockRq (b : List Byte) : List Word :=
  let n := bits (blockField b 0 8) 28 24
  ((List.range 16).map (fun i => w64 (blockField b (384 + 8 * i) 8))).take n ++
    (if 16 < n then [w64 (blockField b 368 8)] else [])

end Sys2Proof.Machine
end

