-- ==== Sys2Proof/Machine/Force.lean ====
section
/-! DEFINITION. Tile handles: their checks, claims, walks and evaluations, and the instructions that create, test and force them
(R102 to R119, R240 to R251). A walk makes one step at each turn of its thread, whose PC stays at the instruction. -/

namespace Sys2Proof.Machine

/-! ## Where a handle lies (R240) -/

/-- Wait for the repair of a page that an instruction meets at issue; it is issued again afterwards (R199). -/
def State.waitRepair {α : Type} (s : State) (t : Thread) (va : Nat) (u : FUnit) (k : FaultKind) :
    Except (StopKind × State) α :=
  let c := s.cur.core
  let place : Option FUnit :=
    if s.queueRoom u then some u else if s.queueRoom (.port (quadOf c)) then some (.port (quadOf c)) else none
  match place with
  | none => stop s (.park .issue)
  | some u =>
    let tag := s.nextTag
    let s1 := ({ s with nextTag := tag + 1 } : State).parkFault ⟨u, t.id.ctx.toNat, t.part, va, k, .thread t.id c tag⟩ c
    stop (s1.modMe (fun t => { t with status := .dropped tag true })) .asIs

/-- The earlier parked request that holds a request of its page at its home (R125). -/
def State.homeHeld (s : State) (name : Nat) : Option FaultKind :=
  if isSp name then none else (s.faultQ.find? (fun f => f.atHome (bankOf name) && s.faultHas f name)).map (·.kind)

/-- The name of a device address that an instruction reads or writes at issue, past its page's checks; a trap has the value
given (R184, R240). -/
def State.issueName (s : State) (t : Thread) (va : Nat) (k : AccKind) (need : Need) (xval : Word) :
    Except (StopKind × State) (Nat × Gran × State) :=
  match s.spaceOf s.cur.core va with
  | none => stop s (.trap cSEGV xval)
  | some (.sp m c off) =>
    if k.allowed none && (m = Config.pkg || k != .handle) then .ok (spKey m c off, none, s) else stop s (.trap cCLASS xval)
  | some .glob =>
    let q := quadOf s.cur.core
    match s.port q t.part t.id.ctx.toNat va k need with
    | (.trap c _, _) => stop s (.trap c xval)
    | (.wait, s1) => stop s1 (.park .issue)
    | (.gone, s1) => stop s1 .asIs
    | (.moving x, s1) => s1.waitRepair t va (.home (bankOf x.name)) .moving
    | (.fault f, s1) => s1.waitRepair t va (.port q) f
    | (.ok x, s1) =>
      match s1.homeHeld x.name with
      | some f => s1.waitRepair t va (.home (bankOf x.name)) f
      | none => .ok (x.name, x.gran, s1)

/-- Bytes that an instruction reads at issue at a storage place that the access tables grant, once no earlier access is ahead
of them and no other party holds the line (R122, R124, R125, R273). (DEDUCED, log 52) -/
def State.issueRead (s : State) (t : Thread) (va name n : Nat) (g : Gran) : Except (StopKind × State) (List Byte × State) :=
  if !s.grantsTo s.cur.core t.part (bankOf name) name 1 then stop s (.sup cACCESS (w64 va))
  else if s.lineAhead s.cur.core t.id (lineOf name) then stop s (.park .issue)
  else
    match s.homeReads name g false false t.part t.id.ctx.toNat (s.logOf s.cur.core) s.cur.slot.val with
    | (false, s1) => stop s1 .asIs
    | (true, s) =>
    match s.readNamed name n g with
    | (some b, s1) => .ok (b, s1)
    | (none, s1) =>
      let k := s1.storageKey name g
      stop (s1.lostReader k t.part t.id.ctx.toNat (s1.logOf s.cur.core) s.cur.slot.val (keySource k)) .asIs

/-- A handle word read in one event at its home (R113). -/
def State.handleWord (s : State) (t : Thread) (va name : Nat) : Except (StopKind × State) (Nat × State) := do
  let (b, s1) ← s.issueRead t va name 8 none
  return (leNat b, s1)

/-- The handle of a pointer operand: its device address and place (R240 steps 4 to 7). -/
def State.handlePtr (s : State) (t : Thread) (p : Fin 8) (need : Need) : Except (StopKind × State) (Nat × Nat × State) := do
  let o := t.av p
  let va := t.segs[p].base.toNat + o.toNat
  if !(t.segs[p]).grants o.toNat 8 need then stop s (.trap cSEGV o)
  else if va % 8 != 0 then stop s (.trap cMISALIGN o)
  else
    let (name, _, s1) ← s.issueName t va .handle need o
    return (va, name, s1)

/-- The check of a tile or placement operand: n bytes with the right, aligned, in global memory or a scratchpad of the package;
its device address (R240 steps 4 to 6). -/
def State.tilePtr (s : State) (t : Thread) (p : Fin 8) (n align : Nat) (need : Need) : Except (StopKind × State) Nat :=
  let o := t.av p
  let va := t.segs[p].base.toNat + o.toNat
  if !(t.segs[p]).grants o.toNat n need then stop s (.trap cSEGV o)
  else if va % align != 0 then stop s (.trap cMISALIGN o)
  else
    match s.rangeSpace s.cur.core va n with
    | none => stop s (.trap cSEGV o)
    | some .glob => .ok va
    | some (.sp m _ _) => if m = Config.pkg then .ok va else stop s (.trap cCLASS o)

/-- The wait of R240 step 3. -/
def State.oarEmpty (s : State) (t : Thread) : Except (StopKind × State) Unit :=
  if t.oar.isSome then stop s (.park .issue) else .ok ()

/-- Alignment of a tile of a format (R104). -/
def tileAlign (fmt : Nat) : Nat := if isCoded fmt then 8 else eBytes (tileV fmt)

/-- A handle word breaks Table 5-2 (R103). -/
def hBroken (w : Nat) : Bool :=
  9 < hFmt w || (hState w == 1 && bits w 47 32 != 0) ||
  (hState w == 3 && (bits w 47 8 != 0 || (w % 256 != 1 && w % 256 != 2)))

/-- The code of a tile format (Table 5-3). -/
def TFmt.code : TFmt → Nat
  | .f32 => 0
  | .f16 => 1
  | .bf16 => 2
  | .i32 => 3
  | .i16 => 4
  | .i8 => 5
  | .e4 => 6
  | .e5 => 7
  | .c4 => 8
  | .c5 => 9

/-! ## Cells (R105, R118) -/

/-- The storage key of a context's cell. -/
def State.cellAt (s : State) (t : Thread) (idx : Nat) : Nat := s.cellKey t.part t.id.ctx.toNat idx

/-- The fields of a cell as a number of 512 bits (Table 5-4). -/
structure Cell where
  op    : Nat
  rfmt  : Nat
  mode  : Nat
  entry : Nat
  opa   : Nat
  opb   : Nat
  opc   : Nat
  place : Nat
  fmtp  : Nat
  sclp  : Nat
deriving DecidableEq, Repr

/-- Read the fields of a cell (Table 5-4). -/
def Cell.ofNat (v : Nat) : Cell :=
  { op := bits v 4 0, rfmt := bits v 8 5, mode := bits v 18 9, entry := bits v 111 64, opa := bits v 175 128
    opb := bits v 239 192, opc := bits v 303 256, place := bits v 367 320, fmtp := bits v 431 384, sclp := bits v 495 448 }

/-- The bytes of a cell of a context; `fmtp` and `sclp` give their low 48 bits, and the bits above are zero (Table 5-4). -/
def Cell.toBytes (c : Cell) (ctx : Nat) : List Byte :=
  leBytes 64 (c.op + c.rfmt * 2 ^ 5 + c.mode * 2 ^ 9 + ctx * 2 ^ 32 + c.entry * 2 ^ 64 + c.opa * 2 ^ 128 + c.opb * 2 ^ 192 +
    c.opc * 2 ^ 256 + c.place * 2 ^ 320 + c.fmtp % 2 ^ 48 * 2 ^ 384 + c.sclp % 2 ^ 48 * 2 ^ 448)

/-- The context's arena grants a cell while `suse` is below the thread's budget and the arena's size (R118, R271): the one with the lowest
free index; the spec does not say which. (DESIGN CHOICE, log 96) -/
def State.allocCell (s : State) (t : Thread) : Option Nat :=
  let x := s.ctx t.part t.id.ctx.toNat
  let cells := bits (s.centry t.part t.id.ctx.toNat) 159 128
  if t.sbud.toNat ≤ x.suse || cells ≤ x.suse then none
  else (List.range cells).find? (fun i => !x.cells.contains i)

/-- A cell is taken and written, where its slice and the edge routers on the way grant the partition W (R118, R273, R350). -/
def State.takeCell (s : State) (t : Thread) (idx : Nat) (c : Cell) : Eff :=
  let k := s.cellAt t idx
  if !s.grantsTo s.cur.core t.part (bankOf k) k 2 then stop s (.sup cACCESS (w64 k))
  else .ok ((s.modCtx t.part t.id.ctx.toNat (fun x => { x with cells := idx :: x.cells, suse := x.suse + 1 })).homeWrite
    k (c.toBytes t.id.ctx.toNat))

/-- A spark for a handle goes into a core's pool of 32, or is discarded (R25). -/
def State.putSpark (s : State) (c ctx va : Nat) : State :=
  s.modCore c (fun k => if k.sparks.length < 32 then { k with sparks := k.sparks ++ [(ctx, va)] } else k)

/-! ## Walks (R109 to R112, R117) -/

/-- offset(o) of R111 for a handle of a walk that began at a pointer of this segment base (R265). -/
def walkOff (base va : Nat) : Word := w64 va - w64 base

/-- A force traps at a handle: with a forcing frame of its own above it the thread is unwound (R111). (DEDUCED, log 48) -/
def State.forceTrap {α : Type} (s : State) (t : Thread) (c : BitVec 8) (v : Word) : Except (StopKind × State) α :=
  if (t.walk.map (·.frames)).getD [] = [] then stop (s.modMe (fun t => { t with walk := none })) (.trap c v)
  else stop (s.unwind t.id) (.trap c v)

/-- The thread is unwound and a trap is taken (R110, R111). (DEDUCED, log 48) -/
def State.walkTrap {α : Type} (s : State) (t : Thread) (c : BitVec 8) (v : Word) : Except (StopKind × State) α :=
  stop (s.unwind t.id) (.trap c v)

/-- The priority of a spark: that of the first of the forces that wait on its claims, or below 3 (R25, R117). -/
def State.sparkPrio (s : State) (who : Ident) : State :=
  let ps := (s.claims.filter (fun c => c.claimant == some (who, true))).flatMap (fun c => c.waiters.map (fun w =>
    match w with
    | .thread _ p _ => p
    | .task d => ((s.desc? d).map (·.prio.toNat)).getD 3))
  s.modWho who (fun t => { t with prio := ps.foldl (fun a b => if b < a then b else a) 4 })

/-- A restartable task is squashed: its evaluations and claims are given up, its descriptor waits for one more event, and its
slot is free (R24, R112). -/
def State.squash (s : State) (t : Thread) (desc : Nat) : State :=
  (((s.dropClaims t.id).dropWaits t.id).modDesc desc (Desc.squash 1)).vacate t.id

/-- A force meets an EVALUATING handle of another claimant: it waits (R108, R112). -/
def State.waitHandle {α : Type} (s : State) (t : Thread) (va name : Nat) : Except (StopKind × State) α :=
  let b := bankOf name
  let add := fun (s : State) (w : Waiter) =>
    let s1 := { s with claims := s.claims.map (fun (c : Claim) =>
      -- a thread that reissues its force while it is still listed keeps its place
      let listed := c.waiters.any (fun x => match x, w with | .thread a _ _, .thread b _ _ => a == b | _, _ => false)
      if c.pa = name && !listed then { c with waiters := c.waiters ++ [w] } else c) }
    match s1.claimant? name with
    | some (x, true) => s1.sparkPrio x
    | _ => s1
  match t.kind, t.visible with
  | .spark _, _ => stop (s.abandon t) .asIs
  | k, v =>
    if !s.waiterFree b then stop s (.park (.retry va name (s.time.toNat + 64)))
    else
      match k, v with
      | .task d, false => stop (add (s.squash t d) (.task d)) .asIs
      | _, _ => stop (add s (.thread t.id t.prio va)) (.park (.handle va name))

/-- A claim with its forcing frame (R108, R109): the trap of a frame that would pass `wsl` comes first. -/
def State.walkClaim (s : State) (t : Thread) (va name : Nat) : Eff :=
  let w : Walk := t.walk.getD ⟨[], [], none, false, none, none⟩
  let base := t.wsp.toNat
  let spark := match t.kind with | .spark _ => true | _ => false
  if t.wsl.toNat < base + 16 then stop (s.unwind t.id) (.sup cWINDOW t.wsp)
  else if (s.claimOf? name).isNone && !s.waiterFree (bankOf name) then stop s (.park (.retry va name (s.time.toNat + 64)))
  else
    let s1 := s.claim name (bankOf name) t.part t.id spark t.prio
    let idx := ((s1.claimOf? name).map (·.idx)).getD 0
    let s2 := s1.homeWrite (s1.stackKey t base) (leBytes 8 (va % 2 ^ 48) ++ leBytes 8 idx)
    let s3 := s2.modMe (fun t =>
      { t with wsp := t.wsp + 16, status := .ready, walk := some { w with frames := ⟨va, name, idx, 0, base, []⟩ :: w.frames } })
    .ok (if spark then s3.sparkPrio t.id else s3)

/-- One event of a force at a handle's home: its VALUE word, or a step of the walk (R111). -/
def State.forceEvent (s : State) (t : Thread) (va name base : Nat) : Except (StopKind × State) (Nat × State) := do
  let (w, s1) ← s.handleWord t va name
  let off := walkOff base va
  if hBroken w then s1.forceTrap t cILLEGAL off
  else
    match hState w with
    | 0 => return (w, s1)
    | 3 => s1.forceTrap t cPOISON off
    | 2 =>
      if (s1.claimant? name).any (fun x => x.1 == t.id) then s1.walkTrap t cSELFDEP off
      else s1.waitHandle t va name
    | _ =>
      match s1.walkClaim t va name with
      | .ok s2 => stop s2 .asIs
      | .error e => .error e

/-- The innermost forcing frame of the issuing thread goes on to its next operand; the frame in the window stack holds its number, 0 to 2
(R109). -/
def State.nextFrame (s : State) (words : List Nat) : State :=
  match s.me.bind (fun t => (t.walk.bind (·.frames.head?)).map (fun f => (t, f))) with
  | none => s
  | some (t, f) =>
    let n := f.nextOp + 1
    let s1 := if n < 3 then s.homeWrite (s.stackKey t f.base) (leBytes 8 (f.va % 2 ^ 48 + n * 2 ^ 48)) else s
    s1.modMe (fun t => { t with status := .ready, walk := t.walk.map (fun w =>
      { w with frames := { f with nextOp := n, words := f.words ++ words } :: w.frames.tail }) })

/-- Pop the innermost forcing frame (R109). -/
def State.popFrame (s : State) (f : ForceFrame) : State :=
  s.modMe (fun t => { t with wsp := w64 f.base, status := .ready, walk := t.walk.map (fun w =>
    { w with frames := w.frames.tail, done := false, busy := none }) })

/-! ## The operation of a cell (R106, R111) -/

/-- The result format, rows and columns that Table 5-5 gives an operation on operand words, if it accepts them. -/
def tileResult (op mode : Nat) (res : Option Nat) (ws : List Nat) : Option (Nat × Nat × Nat) :=
  let a := ws.headD 0
  let fa := hFmt a
  let r := res.getD fa
  let sh := fun (w : Nat) => (hRows w, hCols w)
  let same := fun (b : Nat) => hFmt b == fa && sh b == sh a
  let ok : Bool × Nat × Nat :=
    match op, ws with
    | 0, [_, b] | 1, [_, b] | 2, [_, b] | 3, [_, b] => (r == fa && same b, sh a)
    | 4, [_, b] =>
      (sh a == (32, 32) && same b && [1, 2, 5, 8, 9].contains fa &&
        (if fa = 5 then r == 3 && mode == 0 else r ≤ 2 && (res.isSome || fa ≤ 2)), (32, 32))
    | 5, [_] => (true, sh a)
    | 6, [_, b] => (r == fa && hFmt b == fa && sh b == (1, 1), sh a)
    | 7, [_] => (r == fa, (hRows a, 1))
    | _, _ => (false, (0, 0))
  if ok.1 && ws.all (fun w => hFmt w ≤ 9) && r ≤ 9 then some (r, ok.2.1, ok.2.2) else none

/-- The engine job of a cell's operation on VALUE words. -/
def tileJobOf (c : Cell) (rows cols : Nat) (ws : List Nat) (tag : Nat) : TileJob :=
  let a := ws.headD 0
  let b := ws.getD 1 0
  let two := 2 ≤ ws.length
  { op := c.op, mode := BitVec.ofNat 10 c.mode, rfmt := c.rfmt, rows := rows, cols := cols, place := c.place
    afmt := hFmt a, arows := hRows a, acols := hCols a, aaddr := hLow a
    bfmt := if two then hFmt b else 0, brows := if two then hRows b else 1, bcols := if two then hCols b else 1
    baddr := if two then hLow b else 0, two := two, sclp := c.sclp
    free := if tileResult c.op c.mode (some c.rfmt) ws == some (c.rfmt, rows, cols) then none else some tag }

/-- The ranges that a walk's operation registers: its operand tiles and its placement (R101, R111). -/
def State.tileRanges (s : State) (j : TileJob) : List Range × List Range :=
  let r := fun (va n : Nat) => (⟨s.canonVa s.cur.core va, n⟩ : Range)
  (r j.aaddr (placeBytes j.afmt j.arows j.acols) :: (if j.two then [r j.baddr (placeBytes j.bfmt j.brows j.bcols)] else []),
    [r j.place (placeBytes j.rfmt j.rows j.cols)])

/-- Start the operation of the innermost frame, or of a strict `SUSP`, as a waiting operation: TMMA on the matrix engine, any
other on the vector engine (R101, R111, R131, R221). -/
def State.walkCompute (s : State) (t : Thread) (opc : Nat) (j : Nat → TileJob) : Eff :=
  let k := s.myCore
  let tag := s.nextTag
  let job := j tag
  let e : Eng := if job.op = 4 then .mat else .vec
  let (srcs, dsts) := s.tileRanges job
  if t.oar.isSome || !t.rlx.isEmpty then stop s (.park .issue)
  else if k.engConflict e srcs dsts || 16 < k.hallUse + srcs.length + dsts.length then stop s (.park .issue)
  else if 2 ≤ (k.engine e).queue.length then stop s (.park .issue)
  else
    let o : EngOp :=
      { tag := tag, who := t.id, slot := s.cur.slot, part := t.part, opc := opc, pc := t.pc, enc := 0, shape := 0, job := .tile job, rnd := 0, vl := 0
        segs := t.segs, cnt := none, wait := true, srcs := srcs, dsts := dsts, att := none, started := false, landed := false
        more := 0, ordered := false, units := [], flags := 0, trap := none, move := none, outs := [], scaled := [], count := none
        late := none, skip := [], logged := [], granted := [] }
    let s1 := (s.modCore s.cur.core (fun k => k.modEngine e (fun x => { x with queue := x.queue ++ [o] }))).note
      (.core s.cur.core) 0x07 (engCode e * 2 ^ 38 + s.cur.slot.val * 2 ^ 35 + opc * 2 ^ 26)
    .ok { (s1.modMe (fun t => { t with status := .engineWait tag, walk := t.walk.map (fun w => { w with busy := some tag }) })) with
      nextTag := tag + 1 }

/-! ## `APPLY` evaluations (R114) -/

/-- Some register or predicate of the thread awaits a result. -/
def Thread.anyPend (t : Thread) : Bool :=
  !t.predPend.isEmpty || (allRegs.any (fun r => (t.cell r).pend.isSome)) || t.resident.any (fun r => winPending r.win)

/-- The program of an `APPLY` handle starts in the claimant's slot, above a hold frame that keeps the claimant's state; a register of it that
fails its parity check is consumed as it is kept (R321).
(DEDUCED, log 49) -/
def State.startApply (s : State) (t : Thread) (c : Cell) : Eff :=
  let base := t.wsp.toNat
  if t.anyPend then stop s (.park .issue)
  else if t.unsound || !(s.slot s.cur.core s.cur.slot).badRq.isEmpty then stop s .consume
  else if t.wsl.toNat < base + 512 then stop (s.unwind t.id) (.sup cWINDOW t.wsp)
  else
    match s.checkTarget s.cur.core (w64 c.entry) with
    | some (k, v) => s.walkTrap t k v
    | none =>
      let s1 := t.resident.foldr (fun r s => s.homeWrite (s.stackKey t r.base) (winBytes r.win)) s
      let rq := (s1.slot s.cur.core s.cur.slot).rq
      let s2 := s1.homeWrite (s1.stackKey t base) (s1.blockOf t rq 0 0)
      let e := s2.centry t.part t.id.ctx.toNat
      let sup := entSupv e
      let segs := s2.segSet t.part t.id.ctx.toNat sup
      .ok (s2.modMe (fun t =>
        { (Thread.fresh t.id t.part t.kind t.prio t.tag (w64 c.entry) sup segs t.wsb t.wsl t.xh t.ovh t.sh) with
          g := freshWin.set 0 (.of (w64 c.opa)), cds := t.cds, sbud := t.sbud, sscr := t.sscr
          fmtp := w64 c.fmtp, sclp := w64 c.sclp, wsp := w64 (base + 512)
          visible := t.visible, oar := t.oar, rlx := t.rlx, rlxLoads := t.rlxLoads, mask := t.mask, probes := t.probes
          rsv := t.rsv, engOps := t.engOps, markers := t.markers, spare := t.spare, pending := t.pending
          lead := t.lead, drew := t.drew, refused := t.refused, holds := ⟨base, t.walk, t.segs, none, t.held⟩ :: t.holds }))

/-- The task that evaluates an `APPLY` handle has halted: the claimant's state comes back from the hold frame, with the task's
flags, and its walk goes on at its own instruction; where its frames were discarded meanwhile, from the beginning (R110, R114 step 5, R319).
(DEDUCED, log 49) -/
def State.endApply (s : State) (t : Thread) : State :=
  match t.holds with
  | [] => s
  | h :: rest =>
    let k := s.stackKey t h.base
    let s0 := s.audit k 512 t.part t.id.ctx.toNat (s.logOf s.cur.core) s.cur.slot.val
    if !s.sound k 512 then s0
    else
    let b := s0.raw k 512
    let s1 := s0.modMe (fun t =>
      let u := Thread.ofBlock b { t with resident := [], segs := h.segs, predPend := [] }
      { u with sst := u.sst ||| t.sst, holds := rest, held := h.held, status := .ready, wsp := (h.cut.map w64).getD u.wsp
               walk := h.walk.map (fun w => { w with done := !w.frames.isEmpty }) })
    match s1.me with
    | some u => if u.mode then s1 else s1.saveSegs u
    | none => s1

/-! ## One step of a walk (R111) -/

/-- Where an operand handle of a walk lies: class 3, whatever its page's rights (R116, R240 step 6). -/
def State.operandName (s : State) (t : Thread) (va base : Nat) : Except (StopKind × State) (Nat × State) :=
  match s.issueName t va .handle ⟨false, false, false⟩ (walkOff base va) with
  | .ok (name, _, s1) => .ok (name, s1)
  | .error (.trap c v, s1) => s1.walkTrap t c v
  | .error e => .error e

/-- The claim's cell cannot be read: the handle becomes POISON 0x02, its cell is retired, and the forcer traps (R111, R115). -/
def State.badCell {α : Type} (s : State) (t : Thread) (f : ForceFrame) (cell base : Nat) : Except (StopKind × State) α :=
  let s1 := s.loseLine (s.cellAt t cell)
  let s2 := (s1.poison f.pa 2).modCtx t.part t.id.ctx.toNat (fun x => { x with retired := cell :: x.retired })
  s2.walkTrap t cPOISON (walkOff base f.va)

/-- The operand that a frame walks next: 0 to 2, absent ones skipped (R111). -/
def Cell.operand (c : Cell) : Nat → Nat
  | 0 => c.opa
  | 1 => c.opb
  | _ => c.opc

/-- One step of the walk at its innermost frame. (DEDUCED, log 47) -/
def State.walkStep (s : State) (t : Thread) (w : Walk) (f : ForceFrame) (opc base : Nat) : Eff :=
  match w.failed with
  | some (c, v) => s.walkTrap t c v
  | none =>
    let idx := ((s.claimOf? f.pa).map (·.cell)).getD 0
    let key := s.cellAt t idx
    let mine := (s.claimant? f.pa).any (fun x => x.1 == t.id)
    if !mine then .ok (s.popFrame f)
    else if !s.grantsTo s.cur.core t.part (bankOf key) key 1 then stop (s.unwind t.id) (.sup cACCESS (w64 key))
    else if s.badAt key 64 || s.isLost key then s.badCell t f idx base
    else
      let s := s.correctNoted key 64
      let c := Cell.ofNat (s.rawNat key 64)
      if c.op = 31 then
        -- the program has halted and the handle is still EVALUATING, or it is to start
        if w.done then s.walkTrap t cILLEGAL (walkOff base f.va) else s.startApply t c
      else if f.nextOp < 3 then
        let o := c.operand f.nextOp
        if o = 0 then .ok (s.nextFrame [])
        else do
          let (name, s1) ← s.operandName t o base
          let (v, s2) ← s1.forceEvent t o name base
          return s2.nextFrame [v]
      else if w.done then do
        -- fill(h): one event at home(h), a release at `.pk` after its drain (R111, R136)
        s.drainOr t .pk
        let s1 := s.fillHandle f.pa t.part t.id.ctx.toNat c.rfmt c.place (s.logOf s.cur.core) s.cur.slot
        let s2 := (s1.popFrame f).modMe (fun t => { t with visible := true })
        return (match t.kind with | .spark _ => s2.sparkPrio t.id | _ => s2)
      else
        let h := s.rawNat f.pa 8
        s.walkCompute t opc (tileJobOf c (hRows h) (hCols h) f.words)

/-- A step of the walk that an instruction has begun, if it has: nothing is left of it once its last frame is popped.
(DEDUCED, log 47) -/
def State.walkOn (s : State) (t : Thread) (opc base : Nat) : Except (StopKind × State) Unit :=
  match t.walk with
  | none => .ok ()
  | some w =>
    match w.frames with
    | [] => .ok ()
    | f :: _ =>
      match s.walkStep t w f opc base with
      | .ok s1 => stop s1 .asIs
      | .error e => .error e

/-! ## The instructions -/

/-- A word that reads VALUE is an acquire at `.pk` of the issuing slot (R136, R241). -/
def State.acquireHandle (s : State) (name : Nat) : State :=
  if s.acquireAt name .pk s.cur.core s.cur.slot then s else s.orFlags fSCOPEMISS

/-- `FORCE` (R246): the VALUE word, once the walk has nothing left to do. -/
def execForce (d : Operand) (p : Fin 8) (s : State) : Host.Outcome State Fault Refusal :=
  Eff.done do
    let t ← s.ready [.a p] [d] []
    s.oarEmpty t
    let base := t.segs[p].base.toNat
    s.walkOn t 0x182 base
    let (va, name, s1) ← s.handlePtr t p needR
    let (w, s2) ← s1.forceEvent t va name base
    return (((s2.modMe (fun t => { t with walk := none })).acquireHandle name).write d (w64 w)).advance t

/-- `HTEST`: the word and whether it is VALUE, in one event (R247). -/
def execHtest (d : Operand) (p : Fin 8) (pr : BitVec 5) (s : State) : Host.Outcome State Fault Refusal :=
  Eff.done do
    let t ← s.ready [.a p] [d] [pr]
    s.oarEmpty t
    let (va, name, s1) ← s.handlePtr t p needR
    let (w, s2) ← s1.handleWord t va name
    let s3 := if hState w = 0 then s2.acquireHandle name else s2
    return ((s3.write d (w64 w)).modMe (fun t => t.setP pr (hState w == 0))).advance t

/-- `SPARK`: the address goes into the core's pool of 32, or is discarded (R25, R248). Its segment must grant R, as for `FORCE`; R116 names no
right for it. (DESIGN CHOICE, log 103) -/
def execSpark (p : Fin 8) (s : State) : Host.Outcome State Fault Refusal :=
  Eff.done do
    let t ← s.ready [.a p] [] []
    s.oarEmpty t
    let o := t.av p
    let va := t.segs[p].base.toNat + o.toNat
    if !(t.segs[p]).grants o.toNat 8 needR then stop s (.trap cSEGV o)
    else if va % 8 != 0 then stop s (.trap cMISALIGN o)
    else return (s.putSpark s.cur.core t.id.ctx.toNat va).advance t

/-- The final write of a handle word is refused where the target is SUSPENDED or EVALUATING, with no effect (Table 5-6). -/
def State.handleOpen (s : State) (t : Thread) (va name : Nat) (xval : Word) : Eff := do
  if !s.grantsTo s.cur.core t.part (bankOf name) name 2 then stop s (.sup cACCESS (w64 va))
  let (w, s1) ← s.handleWord t va name
  if hState w = 1 || hState w = 2 then stop s1 (.trap cILLEGAL xval) else return s1

/-- The handle word itself, a release at `.pk` (R241). -/
def State.handlePut (s : State) (name v : Nat) : State := s.homeWriteRel name (leBytes 8 v) .pk (s.logOf s.cur.core) s.cur.slot

/-- The final write of a handle word, in one event at its home. -/
def State.handleWrite (s : State) (t : Thread) (va name : Nat) (v : Nat) (xval : Word) : Eff := do
  let s1 ← s.handleOpen t va name xval
  return s1.handlePut name v

/-- A granted `SUSP` or `APPLY`: its target is tested, its cell taken and written, and the word written (R243, R244). -/
def State.suspend (s : State) (t : Thread) (va name idx : Nat) (c : Cell) (rows cols : Nat) (xval : Word) : Eff := do
  let s1 ← s.handleOpen t va name xval
  let s2 ← s1.takeCell t idx c
  return (s2.handlePut name (2 ^ 62 + c.rfmt * 2 ^ 58 + (rows - 1) * 2 ^ 53 + (cols - 1) * 2 ^ 48 + idx)).shown

/-- `HVAL`: a VALUE handle for a tile in memory (R245). -/
def execHval (d x : Fin 8) (sh : TShape) (s : State) : Host.Outcome State Fault Refusal :=
  Eff.done do
    let t ← s.ready [.a d, .a x] [] []
    s.oarEmpty t
    let (va, name, s1) ← s.handlePtr t d needW
    let fmt := TFmt.code sh.fmt
    let rows := sh.rows.toNat + 1
    let cols := sh.cols.toNat + 1
    let tile ← s1.tilePtr t x (if isCoded fmt then 8 else placeBytes fmt rows cols) (tileAlign fmt) needR
    s1.drainOr t .pk
    s1.noSpark t
    let s2 ← s1.handleWrite t va name (hValue fmt rows cols tile) (t.av d)
    return s2.shown.advance t

/-- The fields of f17 that a tile operation puts into its cell: OP and MODE (Tables 5-4, 12-2). -/
def TileOp.cell : TileOp → Nat × Nat
  | .tadd => (0, 0)
  | .tsub => (1, 0)
  | .tmul => (2, 0)
  | .tmax => (3, 0)
  | .tmma tb eco sc => (4, sc.toNat + eco.toNat * 2 ^ 8 + tb.toNat * 2 ^ 9)
  | .tcvt => (5, 0)
  | .tscal => (6, 0)
  | .trowsum => (7, 0)

/-- A tile operation of two operands (Table 5-5). -/
def TileOp.two : TileOp → Bool
  | .tcvt | .trowsum => false
  | _ => true

/-- A strict `SUSP` (R118): each operand handle is forced, the operation computed into the placement, and VALUE written.
(DEDUCED, log 51) -/
def State.strictSusp (s : State) (t : Thread) (w : Walk) (d x : Fin 8) (y : Option (Fin 8)) (c : Cell)
    (j : Nat × Nat × Nat × Nat) : Eff := do
  match w.failed with
  | some (k, v) => s.walkTrap t k v
  | none =>
    let ops := x :: y.toList
    let (rfmt, rows, cols, place) := j
    match ops[w.words.length]? with
    | some p =>
      let base := t.segs[p].base.toNat
      s.walkOn t 0x180 base
      let (va, name, s1) ← s.handlePtr t p needR
      let (v, s2) ← s1.forceEvent t va name base
      return s2.modMe (fun t => { t with status := .ready, walk := t.walk.map (fun w => { w with words := w.words ++ [v] }) })
    | none =>
      if !w.done then s.walkCompute t 0x180 (tileJobOf { c with rfmt := rfmt, place := place } rows cols w.words)
      else do
        s.drainOr t .pk
        let s0 := s.modMe (fun t => { t with walk := none })
        let (va, name, s1) ← s0.handlePtr t d needW
        let s2 ← s1.handleWrite t va name (hValue rfmt rows cols place) (t.av d)
        return s2.shown.advance t

/-- `SUSP` (R243): a SUSPENDED handle whose cell describes one tile operation, or, where no cell is granted, the strict form.
(DEDUCED, log 51) -/
def execSusp (d x : Fin 8) (y : Option (Fin 8)) (pl : Fin 8) (op : TileOp) (res : Option TFmt) (s : State) :
    Host.Outcome State Fault Refusal :=
  Eff.done do
    -- a form that does not fit the operation is refused by its encoding (R149, R243)
    s.limit (TileOp.two op != y.isSome)
    let t ← s.ready ([.a d, .a x] ++ y.toList.map Operand.a ++ [.a pl]) [] []
    s.oarEmpty t
    let addr := fun (p : Fin 8) => t.segs[p].base.toNat + (t.av p).toNat
    let c : Cell :=
      { op := (TileOp.cell op).1, rfmt := 0, mode := (TileOp.cell op).2, entry := 0, opa := addr x, opb := (y.map addr).getD 0, opc := 0
        place := 0, fmtp := t.fmtp.toNat, sclp := t.sclp.toNat }
    match t.walk.bind (fun w => w.strict.map (fun j => (w, j))) with
    | some (w, j) => s.strictSusp t w d x y c j
    | none =>
      let (va, name, s1) ← s.handlePtr t d needW
      let (xa, xn, s2) ← s1.handlePtr t x needR
      let (ya, yn, s3) ← match y with
        | some p => s2.handlePtr t p needR
        | none => .ok (0, 0, s2)
      s3.drainOr t .pk
      let (wa, s4) ← s3.handleWord t xa xn
      let (ws, s5) ← match y with
        | some _ => (s4.handleWord t ya yn).map (fun r => ([wa, r.1], r.2))
        | none => .ok ([wa], s4)
      match tileResult c.op c.mode (res.map TFmt.code) ws with
      | none => stop s5 (.trap cILLEGAL (t.av d))
      | some (rfmt, rows, cols) =>
        let place ← s5.tilePtr t pl (placeBytes rfmt rows cols) (tileAlign rfmt) needW
        s5.noSpark t
        match s5.allocCell t with
        | none =>
          return s5.modMe (fun t =>
            { t with status := .ready, walk := some ⟨[], [], none, false, some (rfmt, rows, cols, place), none⟩ })
        | some idx =>
          let s6 ← s5.suspend t va name idx { c with rfmt := rfmt, place := place } rows cols (t.av d)
          return s6.advance t

/-- The check of an entry PC at `APPLY` and `TASK` (R244). -/
def State.entryOk (s : State) (e : Word) : Except (StopKind × State) Unit :=
  if e.getLsbD 0 || pcIdx e == 0 then stop s (.trap cILLEGAL_TARGET e) else .ok ()

/-- The task queue of a core at a priority has room for a thread's descriptor: 64 entries, and the reserve entry for a thread to
which Roll Call gave it (R299, R305). -/
def State.taskRoom (s : State) (t : Thread) (core prio : Nat) : Bool :=
  let k := s.core core
  k.taskCount prio < 64 || (t.spare && !(k.taskSpare[Fin.ofNat 4 prio]))

/-- The priority that an issuer gives its tasks; a spark's is below 3 and issues none. -/
def Thread.taskPrio (t : Thread) : Nat := if t.prio < 3 then t.prio else 3

/-- A descriptor of the issuing thread, with its entry and argument block (Table 19-6). -/
def State.descOf (s : State) (t : Thread) (entry : Word) (args : Nat) : Desc :=
  { num := s.nextTag, itag := s.myCore.itag, origin := BitVec.ofNat 12 (s.logOf s.cur.core), sbud := t.sbud, cds := t.cds
    handle := 0, sclp := t.sclp.setWidth 48, fmtp := t.fmtp.setWidth 48, restart := 0, args := BitVec.ofNat 48 args, depc := 0
    applyt := false, state := 1, prio := BitVec.ofNat 2 t.taskPrio, ctx := t.id.ctx, entry := entry.setWidth 19
    redun := match t.kind with | .launch q _ _ => if t.lead then some q.toNat else none | .task n => (s.desc? n).bind (·.redun) | .spark _ => none }

/-- A descriptor takes its entry in the issuing core's queue (R299). -/
def State.enqueue (s : State) (d : Desc) : State :=
  { ((s.modMe (fun t => { t with spare := false })).modCore s.cur.core (fun k =>
      let p := Fin.ofNat 4 d.prio.toNat
      { k with tasks := k.tasks ++ [d], taskSpare := k.taskSpare.set p (k.taskSpare[p] || 64 ≤ k.taskCount p.val) })) with
    nextTag := s.nextTag + 1 }

/-- `APPLY` (R244): a SUSPENDED handle with OP 31, and a task that forces it; one that is refused a cell traps with its encoding (R118,
R149). -/
def execApply (d : Fin 8) (entry : Fin 16) (arg pl : Fin 8) (sh : TShape) (s : State) : Host.Outcome State Fault Refusal :=
  Eff.done do
    let t ← s.ready [.a d, .g entry, .a arg, .a pl] [] []
    s.oarEmpty t
    let fmt := TFmt.code sh.fmt
    let rows := sh.rows.toNat + 1
    let cols := sh.cols.toNat + 1
    let e := t.gv entry
    let (va, name, s1) ← s.handlePtr t d needW
    let args ← s1.tilePtr t arg 1 1 needR
    let place ← s1.tilePtr t pl (placeBytes fmt rows cols) (tileAlign fmt) needW
    s1.entryOk e
    if !s1.taskRoom t s.cur.core t.taskPrio then stop s1 (.park .task)
    s1.drainOr t .pk
    s1.noSpark t
    match s1.allocCell t with
    | none => illegal s1 t
    | some idx =>
      let c : Cell := { op := 31, rfmt := fmt, mode := 0, entry := e.toNat % 2 ^ 48, opa := args, opb := 0, opc := 0
                        place := place, fmtp := t.fmtp.toNat, sclp := t.sclp.toNat }
      let s4 ← s1.suspend t va name idx c rows cols (t.av d)
      return (s4.enqueue { s4.descOf t e args with handle := BitVec.ofNat 48 va, applyt := true }).advance t

/-- The lines that a spark's held bytes occupy, each with its bytes. (DEDUCED, log 52) -/
def heldRuns (l : List (Nat × Byte)) : List (Nat × Byte) := l.mergeSort (fun a b => a.1 ≤ b.1)

/-- A spark commits its held stores before its fill (R117): each byte is written at its home; a byte that may not be written
abandons the spark. (DEDUCED, log 52) -/
def State.commitHeld (s : State) (t : Thread) : Eff :=
  (heldRuns t.held).foldlM (fun (s : State) x => do
    let (name, g, s1) ← s.issueName t x.1 .store needW (w64 x.1)
    let q := s1.lineQ (lineOf name)
    if q.holder.any (fun h => h.who != t.id || !h.rsv) then stop s1 (.park .issue)
    else if !s1.grantsTo s.cur.core t.part (bankOf name) name 2 then stop (s1.abandon t) .asIs
    else
      match s1.homeReads name g true false t.part t.id.ctx.toNat (s1.logOf s.cur.core) s.cur.slot.val with
      | (false, s2) => stop s2 .asIs
      | (true, s1) =>
      match s1.birthOf name g with
      | .ok => return s1.writeNamed name g [x.2]
      | .pool => stop (s1.abandon t) .asIs
      | .stock => s1.waitRepair t x.1 (.home (bankOf name)) .stock
      | .frame => s1.waitRepair t x.1 (.home (bankOf name)) .frame) s

/-- `HFILL`: fill(h) for the handle whose evaluation the slot's innermost hold frame runs (R249). -/
def execHfill (p : Fin 8) (s : State) : Host.Outcome State Fault Refusal :=
  Eff.done do
    let t ← s.ready [.a p] [] []
    s.oarEmpty t
    let (va, name, s1) ← s.handlePtr t p needW
    let own := (t.holds.head?.bind (·.walk)).bind (·.frames.head?)
    let mine := own.any (fun f => f.pa == name) && (s1.claimant? name).any (fun x => x.1 == t.id)
    if !mine then stop s1 (.trap cILLEGAL (t.av p))
    s1.drainOr t .pk
    if !s1.grantsTo s.cur.core t.part (bankOf name) name 2 then stop s1 (.sup cACCESS (w64 va))
    let s2 ← s1.commitHeld t
    let cell := ((s2.claimOf? name).map (·.cell)).getD 0
    let c := Cell.ofNat (s2.goodNat (s2.cellAt t cell) 64)
    let s3 := s2.fillHandle name t.part t.id.ctx.toNat c.rfmt c.place (s2.logOf s.cur.core) s.cur.slot
    let s4 := s3.modMe (fun t => { t with visible := true, held := [] })
    return (match t.kind with | .spark _ => s4.sparkPrio t.id | _ => s4).advance t

/-- One dependence of a new task, in one event at its handle's home: a SUSPENDED or EVALUATING handle lists the descriptor, with a spark for a
SUSPENDED one (R251). -/
def State.depend (s : State) (t : Thread) (num : Nat) (va name : Nat) : Eff :=
  match s.readNamed name 8 none with
  | (none, s1) =>
    stop (s1.lostReader name t.part t.id.ctx.toNat (s1.logOf s.cur.core) s.cur.slot.val (keySource name)) .asIs
  | (some b, s) =>
    let w := leNat b
    .ok (
      if hState w = 1 || hState w = 2 then
        let c : Claim := (s.claimOf? name).getD ⟨s.freeIdx, name, bankOf name, w % 2 ^ 32, none, t.prio, t.part, [], []⟩
        let s1 := s.setClaim { c with deps := c.deps ++ [num] }
        if hState w = 1 then s1.putSpark s.cur.core t.id.ctx.toNat va else s1
      else s.modDesc num (fun d => { d with depc := d.depc - 1 }))

/-- The check of an argument block of k words, which a thread of another core's scratchpad goes there to read (R80, R83, R183, R251); of
one with no word only the address is checked. The spec asks for no alignment of the block, and any is taken. (DESIGN CHOICE, log 103) -/
def State.argBlock (s : State) (t : Thread) (p : Fin 8) (k : Nat) : Except (StopKind × State) Nat :=
  if k = 0 then s.tilePtr t p 1 1 needR
  else do
    let (va, _) ← s.locate s t { Access.basic 0x187 p 0 (8 * k) (.load 8 false none none) .zr with align := 1 }
    if (s.rangeSpace s.cur.core va (8 * k)).isNone then stop s (.trap cSEGV (t.av p)) else return va

/-- `TASK` (R251). -/
def execTask (entry : Fin 16) (arg : Fin 8) (n : Fin 16) (s : State) : Host.Outcome State Fault Refusal :=
  Eff.done do
    let t ← s.ready [.g entry, .a arg, .g n] [] []
    let e := t.gv entry
    let k := (t.gv n).toNat
    if 8 < k then stop s (.trap cILLEGAL (t.gv n))
    s.oarEmpty t
    s.entryOk e
    let args ← s.argBlock t arg k
    if !s.taskRoom t s.cur.core t.taskPrio then stop s (.park .task)
    s.drainOr t .pk
    -- the words of the argument block, then every handle's page, before any registration
    let (b, s1) ← (List.range (8 * k)).foldlM (fun (r : List Byte × State) i => do
      let (name, g, s1) ← r.2.issueName t (args + i) .load needR (t.av arg)
      let (x, s2) ← s1.issueRead t (args + i) name 1 g
      return (r.1 ++ x, s2)) ([], s)
    let vas := (List.range k).map (fun i => leNat ((b.drop (8 * i)).take 8))
    let (hs, s2) ← vas.foldlM (fun (r : List (Nat × Nat) × State) va => do
      if va % 8 != 0 then stop r.2 (.trap cMISALIGN (w64 va))
      let (name, _, s1) ← r.2.issueName t va .handle needR (w64 va)
      if !s1.grantsTo s.cur.core t.part (bankOf name) name 1 then stop s1 (.sup cACCESS (w64 va))
      return (r.1 ++ [(va, name)], s1)) ([], s1)
    if hs.any (fun h => s2.lineAhead s.cur.core t.id (lineOf h.2)) then stop s2 (.park .issue)
    if hs.any (fun h => !s2.waiterFree (bankOf h.2)) then stop s2 (.park (.retry args 0 (s.time.toNat + 64)))
    let s3 ← s2.sideEffect t
    let d := { s3.descOf t e args with depc := BitVec.ofNat 16 (k + 1), state := 0 }
    let s4 ← hs.foldlM (fun s h => s.depend t d.num h.1 h.2) (s3.enqueue d)
    return (s4.modDesc d.num Desc.lower).advance t

/-! ## The units that force without an instruction (R25, R244) -/

/-- The handle that a spark, or a task made by `APPLY`, forces at its turn while it runs no program. -/
def State.autoHandle? (s : State) (t : Thread) : Option Nat :=
  if !t.holds.isEmpty then none
  else
    match t.kind with
    | .spark va => some va
    | .task num =>
      match s.desc? num with
      | some d => if d.applyt && t.pc == d.entry.setWidth 64 then some d.handle.toNat else none
      | none => none
    | .launch _ _ _ => none

/-- The port of a spark's core makes it wait at the line of a table entry: no trap, fault or refusal (R125, R248). -/
def State.portWaits (s : State) (t : Thread) (va : Nat) : Bool :=
  s.spaceOf s.cur.core va == some .glob && (s.port (quadOf s.cur.core) t.part t.id.ctx.toNat va .handle needR).1 == .wait

/-- A turn of such a unit: it claims its handle where it is SUSPENDED, walks, and ends (R117, R244). No instruction and no pointer stands behind
it, and the spec gives no base for its traps: `xval` is the device address of the handle. (DESIGN CHOICE, log 103) -/
def State.autoForce (s : State) (t : Thread) (va : Nat) : Eff := do
  s.walkOn t 0x182 0
  match t.walk with
  | some _ => return s.retire t
  | none =>
    let spark := match t.kind with | .spark _ => true | _ => false
    match s.issueName t va .handle needR (w64 va) with
    | .error e =>
      if spark && !s.portWaits t va && (e.2.thread? t.id).isSome then stop (s.abandon t) .asIs else .error e
    | .ok (name, _, s1) =>
      let (w, s2) ← s1.handleWord t va name
      if hState w != 1 then return s2.retire t
      else if hBroken w then (if spark then return s2.abandon t else s2.walkTrap t cILLEGAL (w64 va))
      else s2.walkClaim t va name

/-! ## Events -/

/-- `CLAIM_RETRY`: a claim or wait that a home refused is tried again after 64 cycles (R108). -/
def execClaimRetry (core : Nat) (slot : Fin 8) (s : State) : Host.Outcome State Fault Refusal :=
  .next (match s.threadAt core slot with
    | none => s
    | some t =>
      match t.status with
      | .parked (.retry va pa due) =>
        if due ≤ s.time.toNat then s.modAt core slot (fun t => { t with status := .parked (.retry va pa 0) }) else s
      | _ => s)

/-- A walk's tile operation is complete: its thread goes on with its fill, or with the trap the operation met (R111). -/
def State.tileDone (s : State) (c : Nat) (e : Eng) (o : EngOp) : State :=
  (s.retireOp c e o).modWho o.who (fun t =>
    { t with
      status := if t.status = Status.engineWait o.tag || t.status = .dropped o.tag false then .ready else t.status
      walk := t.walk.map (fun w => if w.busy = some o.tag then { w with busy := none, done := true, failed := o.trap } else w) })

/-- `ENGINE_OP_COMPLETE`: the running operation of an engine has nothing left to do (R137, R205). One whose trap is for a SAVED
thread completes once the thread is back. -/
def execEngineOpComplete (core : Nat) (e : Eng) (s : State) : Host.Outcome State Fault Refusal :=
  .next (match s.engHead core e with
    | none => s
    | some o =>
      if !o.finished then s
      else if !s.counterSound core o then s.consume core
      else if o.job.isTile then s.tileDone core e o
      else if (o.trap.isSome || o.move.isSome) && (s.savedOf? o.who).isSome then s
      else s.engFinish core e o)

end Sys2Proof.Machine
end

