-- ==== Sys2Proof/Machine/Tasks.lean ====
section
/-! DEFINITION. Halting, draws and steals, moving, messages, barriers, reductions and the launch from a core (R162, R20, R21,
R252 to R260), with the events that answer them. -/

namespace Sys2Proof.Machine

/-! ## Halting (R162) -/

/-- `HALT`: the thread drains, waits in ENGINE-WAIT for its engine operations, drops its reservation and is HALTED; in an
`APPLY` evaluation the halt ends the evaluation. -/
def execHalt (s : State) : Host.Outcome State Fault Refusal :=
  Eff.done do
    let t ← s.ready [] [] []
    s.drainOr t .pd
    if !t.engOps.isEmpty then
      return { (s.modMe (fun u => { u with status := .engineWait s.nextTag })) with nextTag := s.nextTag + 1 }
    else
      let s1 := s.dropRsv t.id
      return (if t.holds.isEmpty then s1.retire t else
        match s1.me with
        | some u => s1.endApply u
        | none => s1)

/-! ## Range units (R20, R21, R252, R253) -/

/-- The launch that an instruction needs: a task has none and traps `ILLEGAL` with value 0 (R252, R257). -/
def State.needLaunch (s : State) (t : Thread) : Except (StopKind × State) (BitVec 32) := do
  s.noSpark t
  match t.kind with
  | .launch q _ _ => if t.holds.isEmpty then return q else stop s (.trap cILLEGAL 0)
  | _ => stop s (.trap cILLEGAL 0)

/-- The range unit of a launch on a physical core. -/
def State.rangeOf? (s : State) (core part seq : Nat) : Option RangeUnit :=
  (s.core core).ranges.find? (fun r => r.part == part && r.seq == seq)

/-- Set the remaining range of a unit. -/
def State.setRange (s : State) (core part seq lo hi : Nat) : State :=
  s.modCore core (fun k => { k with ranges := k.ranges.map (fun (r : RangeUnit) =>
    if r.part = part && r.seq = seq then { r with lo := lo, hi := hi } else r) })

/-- The logical cores of a rectangle, in ascending order (R17). -/
def rectLogs (r : Nat × Nat × Nat × Nat) : List Nat :=
  (List.range Config.logCores).filter (fun l =>
    r.2.2.1 ≤ l / Config.logPerDie && l / Config.logPerDie ≤ r.2.2.2 && r.1 ≤ l % Config.logPerDie && l % Config.logPerDie ≤ r.2.1)

/-- Cores in the order in which a unit tries them: its quad, then its die, then its package, and at each level in ascending
logical id from just above its own, with wrap-round (R21). -/
def State.tryOrder (s : State) (own : Nat) (cores : List Nat) : List Nat :=
  let l := cores.filter (own < ·) ++ cores.filter (· < own)
  let quad := fun (x : Nat) => quadOf (s.physOf x) == quadOf (s.physOf own)
  let die := fun (x : Nat) => x / Config.logPerDie == own / Config.logPerDie
  l.filter quad ++ l.filter (fun x => !quad x && die x) ++ l.filter (fun x => !quad x && !die x)

/-- The victims of a steal by a unit (R21). -/
def State.victims (s : State) (core : Nat) (r : RangeUnit) : List Nat := s.tryOrder (s.logOf core) (rectLogs r.rect)

/-- A draw that is answered: an index, or exhaustion (R252). -/
def State.drawn (s : State) (d : Operand) (pr : BitVec 5) (i : Option Word) : State :=
  (s.write d (i.getD (BitVec.allOnes 64))).modMe (fun t =>
    { t.setP pr i.isSome with carried := none })

/-- An index is handed out to a thread (R31). -/
def State.handOut (s : State) (who : Ident) (i : Nat) : State := s.modWho who (fun t => { t with drew := i :: t.drew })

/-- Draw from a unit that holds an index. -/
def State.drawFrom (s : State) (core part seq : Nat) : Option Nat × State :=
  match s.rangeOf? core part seq with
  | some r => if r.lo < r.hi then (some r.lo, s.setRange core part seq (r.lo + 1) r.hi) else (none, s)
  | none => (none, s)

/-- A thread asks a unit's steal for an index: it joins the one under way, or starts one; with no core to steal from it is
exhausted. (DEDUCED, log 55) -/
def State.askSteal (s : State) (core part seq : Nat) (who : Ident) : Option Nat × State :=
  match s.steals.find? (fun x => x.thief == core && x.part == part && x.seq == seq) with
  | some x =>
    let add := fun (l : List Ident) => if l.contains who then l else l ++ [who]
    (some x.tag, { s with steals := s.steals.map (fun (y : Steal) => if y.tag = x.tag then { y with who := add y.who } else y) })
  | none =>
    match (s.rangeOf? core part seq).map (s.victims core) with
    | some (v :: l) =>
      (some s.nextTag, { s with steals := s.steals ++ [⟨s.nextTag, [who], part, seq, core, v, l, none⟩], nextTag := s.nextTag + 1 })
    | _ => (none, s)

/-- A request of a thread away from its home core waits at the sender while the range unit there lies behind a fence (R29, R329). -/
def State.unitOpen (s : State) (core : Nat) : Except (StopKind × State) Unit :=
  if core != s.cur.core && s.fenced core then stop s (.park .issue) else .ok ()

/-- `NEXT` (R252). -/
def execNext (d : Operand) (pr : BitVec 5) (s : State) : Host.Outcome State Fault Refusal :=
  Eff.done do
    let t ← s.ready [] [d] [pr]
    let q ← s.needLaunch t
    match t.carried with
    | some (0, i) => return (s.drawn d pr (some i)).advance t
    | some (1, _) => return (s.drawn d pr none).advance t
    | _ =>
      let core := s.homeOf t
      s.unitOpen core
      let s ← s.useStore core (.range t.part q.toNat)
      match s.drawFrom core t.part q.toNat with
      | (some i, s1) => return ((s1.handOut t.id i).drawn d pr (some (w64 (i % 2 ^ 32)))).advance t
      | (none, s1) =>
        match s1.askSteal core t.part q.toNat t.id with
        | (some tag, s2) => stop s2 (.park (.next tag))
        | (none, s2) => return (s2.drawn d pr none).advance t

/-- `RANGE`: the remaining range, unchanged (R253). -/
def execRange (d : Operand) (s : State) : Host.Outcome State Fault Refusal :=
  Eff.done do
    let t ← s.ready [] [d] []
    let q ← s.needLaunch t
    s.unitOpen (s.homeOf t)
    let s ← s.useStore (s.homeOf t) (.range t.part q.toNat)
    let v := match s.rangeOf? (s.homeOf t) t.part q.toNat with
      | some r => r.hi % 2 ^ 32 * 2 ^ 32 + r.lo % 2 ^ 32
      | none => 0
    return (s.write d (w64 v)).advance t

/-- `STEAL_REQUEST`: the victim's unit answers (R21). -/
def execStealRequest (i : Nat) (s : State) : Host.Outcome State Fault Refusal :=
  .next (match s.steals.find? (fun x => x.tag == i && x.reply.isNone) with
    | none => s
    | some x =>
      let core := s.physOf x.victim
      if s.fenced core then s
      else
        let say := fun (s : State) (r : Option (Nat × Nat)) =>
          { s with steals := s.steals.map (fun (y : Steal) => if y.tag = i then { y with reply := some r } else y) }
        if (s.core core).scan.isSome then say s none
        else match s.checkStore core (.range x.part x.seq), s.rangeOf? core x.part x.seq with
        | none, _ => s.consume core
        | some s, none => say s none
        | some s, some r =>
          let m := r.hi - r.lo
          if m < 2 then say s none
          else
            let keep := r.lo + (m + 1) / 2
            say (s.setRange core x.part x.seq r.lo keep) (some (keep, r.hi)))

/-- A waiting `NEXT` is answered: an index (0) or exhaustion (1). (DEDUCED, log 55) -/
def State.answerNext (s : State) (tag : Nat) (who : Ident) (k : Nat) (v : Word) : State :=
  (s.modWho who (fun t => { t with carried := some (k, v) })).wake who (.inl (.next tag))

/-- The threads that wait for a unit draw from it in their order while it holds indices; those left ask again. -/
def State.serveNext (s : State) (x : Steal) : List Ident → State
  | [] => { s with steals := s.steals.filter (fun y => y.tag != x.tag) }
  | w :: l =>
    match s.drawFrom x.thief x.part x.seq with
    | (some i, s1) => ((s1.handOut w i).answerNext x.tag w 0 (w64 (i % 2 ^ 32))).serveNext x l
    | (none, s1) =>
      match (s1.rangeOf? x.thief x.part x.seq).map (s1.victims x.thief) with
      | some (v :: r) =>
        { s1 with steals := s1.steals.map (fun (y : Steal) =>
            if y.tag = x.tag then { y with who := w :: l, victim := v, left := r, reply := none } else y) }
      | _ => (s1.answerNext x.tag w 1 0).serveNext x l

/-- `STEAL_REPLY`: the range reaches the thief's unit; after a failure it tries the next victim, and after the last one the thread
that asked first is told of exhaustion (R21). -/
def execStealReply (i : Nat) (s : State) : Host.Outcome State Fault Refusal :=
  .next (match s.steals.find? (fun x => x.tag == i) with
    | none => s
    | some x =>
      if s.fenced x.thief then s
      else
        match x.reply with
        | none => s
        | some (some (lo, hi)) =>
          match s.rangeOf? x.thief x.part x.seq with
          | none => { s with steals := s.steals.filter (fun y => y.tag != i) }
          | some _ => (s.setRange x.thief x.part x.seq lo hi).serveNext x x.who
        | some none =>
          match x.left with
          | v :: l => { s with steals := s.steals.map (fun (y : Steal) =>
              if y.tag = i then { y with victim := v, left := l, reply := none } else y) }
          | [] =>
            match x.who with
            | [] => { s with steals := s.steals.filter (fun y => y.tag != i) }
            | w :: l => (s.answerNext i w 1 0).serveNext x l)

/-! ## Moving (R254) -/

/-- Move to a logical core: at the destination the instruction is complete (R254); a redundant thread does not move (R325). -/
def State.moveTo (s : State) (t : Thread) (dest : Nat) : Eff := do
  s.noSpark t
  if t.lead then stop s (.trap cILLEGAL 0)
  else if s.physOf dest = s.cur.core then return s.advance t
  else stop s (.migrate dest)

/-- `MIG`; a core of another partition is refused with `ACCESS` (R254, R272). (DESIGN CHOICE, log 97) -/
def execMig (x : Fin 16) (s : State) : Host.Outcome State Fault Refusal :=
  Eff.done do
    let t ← s.ready [.g x] [] []
    if !t.lead && Config.logCores ≤ (t.gv x).toNat then stop s (.trap cILLEGAL (t.gv x))
    s.moveTo t (t.gv x).toNat

/-- `HOME` (R254). -/
def execHome (s : State) : Host.Outcome State Fault Refusal :=
  Eff.done do
    let t ← s.ready [] [] []
    s.moveTo t t.id.hcore.toNat

/-! ## Messages and queues (R40, R255, R256) -/

/-- `SEND`: a message to a receive queue; the sender parks until it is accepted or discarded, and has read its sources by then (R34, R255). -/
def execSend (d : Operand) (x : Fin 16) (y : Operand) (s : State) : Host.Outcome State Fault Refusal :=
  Eff.done do
    let answer := s.me.bind (fun t => (t.carried.filter (fun c => c.1 = 3)).map (·.2))
    let sent := s.me.bind (fun t => s.sends.find? (fun m => m.who == t.id))
    let t ← s.ready (if answer.isSome || sent.isSome then [] else [.g x, y]) [d] []
    match answer, sent with
    | some r, _ => return (s.modMe (fun t => { t with carried := none, spare := false }) |>.write d r).advance t
    | none, some m => stop s (.park (.send m.lcore m.slot))
    | none, none =>
      let n := (t.gv x).toNat
      let slot := Fin.ofNat 8 (bits n 14 12)
      let core := bits n 11 0
      let s0 := s.pop y
      if 2 ^ 15 ≤ n || Config.logCores ≤ core then stop s0 (.trap cILLEGAL (t.gv x))
      else
        let s1 ← s0.sideEffect t
        let m : SendMsg := ⟨s.nextTag, t.id, t.part, core, slot, s.peek t y, s.cur.core, false⟩
        stop { s1 with sends := s1.sends ++ [m], nextTag := s.nextTag + 1 } (.park (.send core slot))

/-- A message is done with: its sender's instruction takes the answer. -/
def State.endSend (s : State) (m : SendMsg) (v : Word) : State :=
  { (s.modWho m.who (fun t => { t with carried := some (3, v) })) with sends := s.sends.filter (fun x => x.tag != m.tag) }

/-- Nothing that a core sent to a logical core before this is on the migration channel: threads, deposits and messages that it carries keep
their order (R347, R349). An output that waits for a Marker thread has not been sent (R324), and a message that found its queue full waits at
its target (R255). -/
def State.chanFirst (s : State) (src dst tag : Nat) : Bool :=
  !(s.migs.any (fun m => decide (m.tag < tag) && m.src == src && m.dest == dst)) &&
  !(s.deps.any (fun d => decide (d.tag < tag) && d.who.isNone && d.lcore == dst && d.src.any (fun x => x.1 == src))) &&
  !(s.sends.any (fun m => decide (m.tag < tag) && !m.there && m.src == src && m.lcore == dst && !s.pairHeld src m.tag))

/-- `MESSAGE_ARRIVAL`: accepted into the queue of a slot whose thread, or whose thread away by migration, is of the sender's
context; a full queue keeps it waiting, unless the Spare Desk takes it; otherwise it is discarded (R255, R305). -/
def execMessageArrival (i : Nat) (s : State) : Host.Outcome State Fault Refusal :=
  .next (match s.sends.find? (fun m => m.tag == i) with
    | none => s
    | some m =>
      let core := s.physOf m.lcore
      if s.fenced core || s.pairHeld m.src m.tag || !(m.there || s.chanFirst m.src m.lcore m.tag) then s
      else
        let sl := s.slot core m.slot
        let mine := match sl.occ with
          | .thread u => u.part == m.part && u.id.ctx == m.who.ctx
          | .away w _ p _ => p == m.part && w.ctx == m.who.ctx
          | _ => false
        if !mine then (s.noteCtx core m.slot 0x18 (2 ^ 36) m.who.ctx).endSend m 0
        else if sl.rq.length < 16 then
          (s.modSlot core m.slot (fun sl => { sl with rq := sl.rq ++ [m.val] })).endSend m 1
        else if !sl.rqSpare && ((s.thread? m.who).map (·.spare)).getD false then
          (s.modSlot core m.slot (fun sl => { sl with rq := sl.rq ++ [m.val], rqSpare := true })).endSend m 1
        else { s with sends := s.sends.map (fun x => if x.tag = m.tag then { x with there := true } else x) })

/-- `QCNT`: the entries that a queue holds; nothing pops and nothing parks (R256). (DEDUCED, log 53) -/
def execQcnt (d : Operand) (q : QSel) (s : State) : Host.Outcome State Fault Refusal :=
  Eff.done do
    let t ← s.ready [] [d] []
    let n := match q with
      | .q k => ((s.myCore.q[k]).filter (fun e => match e with | .val _ => true | .res _ => false)).length
      | .rq => (s.myCore.slots[s.cur.slot]).rq.length
    return (s.write d (w64 n)).advance t

/-! ## Barriers (R257) -/

/-- The unit of a scope level in which a physical core lies, by number (R13, R14). -/
def unitNo (sc : Scope) (core : Nat) : Nat :=
  match sc with
  | .ln | .co => core
  | .qd => quadOf core
  | .di => coreDie core
  | .pk | .pd => 0

/-- The live threads of a launch, wherever they are: with the physical core that is their home. -/
def State.launchThreads (s : State) (part : Nat) (seq : BitVec 32) : List (Ident × Nat) :=
  ((s.cores.flatMap (fun (_, k) => (k.threads.map (·.2)) ++ k.saved.map (·.t) ++ k.migBuf.map (·.1))) ++ s.migs.map (·.t)).filterMap
    (fun t => match t.kind with
      | .launch q _ _ => if t.part == part && q == seq then some (t.id, s.homeOf t) else none
      | _ => none)

/-- `BAR` (R257); one at `.ln` completes where its thread is, away from its home core too, which the spec does not say. (DEDUCED, log 54;
DESIGN CHOICE, log 103) -/
def execBar (sc : Scope) (s : State) : Host.Outcome State Fault Refusal :=
  Eff.done do
    let t ← s.ready [] [] []
    let q ← s.needLaunch t
    if sc = .ln then return s.advance t
    else if s.cur.core != s.homeOf t then stop s (.migrate t.id.hcore.toNat)
    else
      match t.carried with
      | some (4, _) => return (s.modMe (fun t => { t with carried := none })).advance t
      | _ =>
        match s.bars.find? (fun g => g.members.contains t.id) with
        | some g => stop s (.park (.bar g.id))
        | none =>
          s.drainOr t sc
          let u := unitNo sc s.cur.core
          match s.bars.find? (fun g => g.part == t.part && g.seq == q && g.scope == sc && g.unit == u) with
          | some g =>
            let bars := s.bars.map (fun (x : BarGroup) => if x.id = g.id then { x with members := x.members ++ [t.id], lastAt := s.time.toNat } else x)
            stop { s with bars := bars } (.park (.bar g.id))
          | none =>
            stop { s with bars := s.bars ++ [⟨s.nextTag, t.part, q, sc, u, [t.id], s.time.toNat⟩], nextTag := s.nextTag + 1 }
              (.park (.bar s.nextTag))

/-- The members of a barrier go on behind their `BAR`: each is READY at once, or its wake message is on its way; one that is SAVED completes
as it is restored (R29, R257, R263). -/
def State.barWake (s : State) (i : Nat) (l : List Ident) (now : Bool) : State :=
  l.foldl (fun s w =>
    match s.placeOf? w with
    | some (c, j) =>
      let s1 := s.modAt c j (fun t => { t with pc := succPc (s.lineAt c (pcBase t.pc).toNat) t.pc })
      if now then s1.wakeAt c j else s1.wake w (.inl (.bar i))
    | none => (s.modWho w (fun t => { t with carried := some (4, 0) })).wake w (.inl (.bar i))) s

/-- A barrier of a core in strict mode completes in this cycle: the first after that of its last arrival in which the turn counter is at 7
(R263). -/
def State.barDue (s : State) (g : BarGroup) : Bool := (s.core g.unit).strictTurn s.time.toNat == 7 && g.lastAt < s.time.toNat

/-- `BARRIER_COMPLETE`: every live member of the unit has arrived (R257); in strict mode a core's barrier completes at turn 7, after
the cycle of the last arrival, and no member issues in that cycle (R263). -/
def execBarrierComplete (i : Nat) (s : State) : Host.Outcome State Fault Refusal :=
  .next (match s.bars.find? (fun g => g.id == i) with
    | none => s
    | some g =>
      let live := (s.launchThreads g.part g.seq).filter (fun x => unitNo g.scope x.2 == g.unit)
      let k := s.core g.unit
      if !live.all (fun x => g.members.contains x.1) then s
      else if g.scope = .co && k.strict then
        let seven := g.members.any (fun w => s.placeOf? w == some (g.unit, 7))
        if !s.barDue g then s
        else ({ s with bars := s.bars.filter (fun x => x.id != i) }.barWake i g.members true).modCore g.unit
          (fun k => if seven then { k with issuedAt := some s.time.toNat } else k)
      else { s with bars := s.bars.filter (fun x => x.id != i) }.barWake i g.members false)

/-! ## Network reductions (R258, R259) -/

/-- The identity of an operation (Table 12-5). -/
def rednIdentity : RednOp → Word
  | .add | .or | .xor | .fadd => 0
  | .min => 0x7FFFFFFFFFFFFFFF
  | .max => 0x8000000000000000
  | .and => BitVec.allOnes 64
  | .fmax => 0xFFF0000000000000

/-- One step of a reduction, with its flags (Table 12-5). -/
def rednStep (op : RednOp) (x y : Word) : Word × BitVec 9 :=
  match op with
  | .add => (x + y, 0)
  | .min => (if x.sle y then x else y, 0)
  | .max => (if x.sle y then y else x, 0)
  | .and => (x &&& y, 0)
  | .or => (x ||| y, 0)
  | .xor => (x ^^^ y, 0)
  | .fadd => fres fmt64 0 (FV.add 0 (fmt64.value x.toNat) (fmt64.value y.toNat))
  | .fmax => fres fmt64 0 (FV.minmax true (fmt64.value x.toNat) (fmt64.value y.toNat))

/-- The result of a group: its operands in ascending order of core and slot, from the first (R258). -/
def rednFold (op : RednOp) : List Word → Word × BitVec 9
  | [] => (rednIdentity op, 0)
  | x :: l => l.foldl (fun (r : Word × BitVec 9) y =>
      let p := rednStep op r.1 y
      (p.1, r.2 ||| p.2)) (x, 0)

/-- Live members of a unit: the context's threads whose current core lies in it, and its SAVED threads homed there (R259). -/
def State.liveIn (s : State) (part ctx : Nat) (sc : Scope) (u : Nat) : Nat :=
  (s.cores.map (fun (c, k) =>
    if unitNo sc c != u then 0
    else ((k.threads.map (·.2) ++ k.saved.map (·.t)).filter (fun t => t.part == part && t.id.ctx.toNat == ctx)).length)).sum

/-- `REDN` (R258, R259). -/
def execRedn (d : Operand) (x n : Fin 16) (op : RednOp) (sc : Scope) (s : State) : Host.Outcome State Fault Refusal :=
  Eff.done do
    s.limit (sc == .ln)
    let t ← s.ready [.g x, .g n] [d] [31]
    let take := fun (s : State) (v : Word) (p : Bool) =>
      ((s.write d v).modMe (fun t => { t.setP 31 p with carried := none })).advance t
    match t.carried with
    | some (2, v) => return take s v true
    | some (10, v) => stop s (.trap cREDCOUNT v)
    | _ =>
      match s.redns.find? (fun g => g.members.any (fun m => m.1 == t.id)) with
      | some g => stop s (.park (.redn g.id))
      | none =>
        let k := (t.gv n).toNat
        let u := unitNo sc s.cur.core
        let ctx := t.id.ctx.toNat
        if 1 < k && s.liveIn t.part ctx sc u < k then stop s (.trap cREDCOUNT (t.gv n))
        else
          s.drainOr t sc
          -- a full group of the unit completes before another forms (R351)
          if 1 < k && s.redns.any (fun g => g.part == t.part && g.ctx == ctx && g.scope == sc && g.unit == u && g.op == op &&
              g.count ≤ g.members.length) then stop s (.park .issue)
          let s1 ← s.sideEffect t
          if k = 0 then return take s1 (rednIdentity op) false
          else if k = 1 then return take s1 (t.gv x) true
          else
            let me := (t.id, s.logOf s.cur.core * 8 + s.cur.slot.val, t.gv x)
            match s1.redns.find? (fun g => g.part == t.part && g.ctx == ctx && g.scope == sc && g.unit == u && g.op == op &&
                g.count == k && g.members.length < k) with
            | some g =>
              let redns := s1.redns.map (fun (y : RednGroup) => if y.id = g.id then { y with members := y.members ++ [me] } else y)
              stop { s1 with redns := redns } (.park (.redn g.id))
            | none =>
              stop { s1 with redns := s1.redns ++ [⟨s1.nextTag, t.part, ctx, sc, u, op, k, [me]⟩], nextTag := s1.nextTag + 1 }
                (.park (.redn s1.nextTag))

/-- `REDUCTION_COMPLETE`: a group holds its count of members (R258). -/
def execReductionComplete (i : Nat) (s : State) : Host.Outcome State Fault Refusal :=
  .next (match s.redns.find? (fun g => g.id == i) with
    | none => s
    | some g =>
      if g.members.length < g.count then s
      else
        let l := g.members.mergeSort (fun a b => a.2.1 ≤ b.2.1)
        let (v, f) := rednFold g.op (l.map (fun m => m.2.2))
        let s1 := g.members.foldl (fun s m =>
          ((s.modWho m.1 (fun t => { t with carried := some (2, v) })).orSstWho m.1 f).wake m.1 (.inl (.redn i))) s
        { s1 with redns := s1.redns.filter (fun x => x.id != i) })

/-! ## Launch from a core (R260, R292, R293) -/

/-- The next launch sequence number of a partition: 0 for its first record, then one more each time (R293). (DESIGN CHOICE, log 46) -/
def State.newSeq (s : State) (part : Nat) : BitVec 32 × State :=
  let q := match (s.partn part).seq with | some n => n + 1 | none => 0
  (q, s.modPart part (fun p => { p with seq := some q }))

/-- `LAUNCH` (R260). -/
def execLaunch (d : Operand) (p : Fin 8) (s : State) : Host.Outcome State Fault Refusal :=
  Eff.done do
    let t ← s.ready [.a p] [d] []
    s.oarEmpty t
    let a : Access := { Access.basic 0x1A6 p 0 64 (.load 8 false none none) .zr with align := 64, hall := some false }
    let (va, _) ← s.locate s t a
    let (name, g, s1) ← s.issueName t va .load needR (t.av p)
    s1.drainOr t .pk
    let (b, s2) ← s1.issueRead t va name 64 g
    let w := leNat b
    if bits w 30 19 != t.id.ctx.toNat then stop s2 (.trap cILLEGAL (w64 (bits w 30 19)))
    let die := coreDie s.cur.core
    if 16 ≤ (s2.devQ.filter (fun x => x.1 == die)).length then stop s2 (.park .launch)
    let s3 ← s2.sideEffect t
    let (q, s4) := s3.newSeq t.part
    let prio := if bits w 32 31 < t.prio then (if t.prio < 3 then t.prio else 3) else bits w 32 31
    let v := w - bits w 32 31 * 2 ^ 31 + prio * 2 ^ 31
    let r : DevRec := ⟨t.part, q, leBytes 64 v, s.logOf s.cur.core, s.cur.slot⟩
    return (({ s4 with devQ := s4.devQ ++ [(die, r)] } : State).write d (q.setWidth 64)).advance t

end Sys2Proof.Machine
end

