-- ==== Sys2Proof/Machine/Save.lean ====
section
/-! DEFINITION. Saving pre-empted threads and cores, and restoring them (R30, R131, R300 to R303). -/

namespace Sys2Proof.Machine

/-! ## Places in the save area (Table 19-7) -/

/-- The priority under which a thread is saved, 1 to 3; a spark's counts with 3. -/
def savePrio (prio : Nat) : Nat := if prio < 1 then 1 else if prio < 3 then prio else 3

/-- The block of a thread in its home core's save area. -/
def State.blockAddr (s : State) (t : Thread) : Nat :=
  (s.core (s.homeOf t)).csave.toNat + 512 * (8 * (savePrio t.prio - 1) + t.id.hslot.val)

/-- The core block of a priority. -/
def State.coreBlockAddr (s : State) (core p : Nat) : Nat := (s.core core).csave.toNat + 0x3000 + 0x71000 * (p - 1)

/-- Copy n bytes between storage places, with their check bits, as writes at their home (R122, R133, R195). -/
def State.copyMem (s : State) (src dst n : Nat) : State :=
  let synd := (s.synd.filter (fun p => !(dst ≤ p.1 && p.1 < dst + n))) ++
    ((s.synd.filter (fun p => src ≤ p.1 && p.1 < src + n)).map (fun p => (p.1 - src + dst, p.2)))
  let s1 := { s with mem := Memory.copyRange s.mem src dst n, synd := synd }
  ((s1.clearRel dst n).clearLost dst n).wakeWatchers dst n

/-! ## Saving a thread (R30, R131, R301) -/

/-- A copy operation of a copy engine (R30). -/
def Job.isCopy : Job → Bool
  | .cpy _ _ _ | .cpy2 _ _ _ | .cpym _ _ _ _ => true
  | _ => false

/-- A copy of the thread that waits in a core block (R302). -/
def Core.ckptHas (k : Core) (tag : Nat) : Bool := k.blocks.any (fun b => b.copies.any (fun o => o.tag == tag))

/-- The operation of another unit that the thread's instruction asked for has ended, and the instruction is to complete with what it brought
(R30, R353). -/
def Thread.answered (t : Thread) : Bool := t.carried.any (fun x => 6 ≤ x.1 && x.1 ≤ 9)

/-- The state code of a saved thread; none while it is at no boundary at which it may be saved: it completes a held access, an
engine operation, with that of its walk among them, or an operation of another unit first (R30). One whose wake message has come and that
has not reissued its instruction has code 3 (Table 19-8). (DEDUCED, log 60) -/
def Thread.saveCode (t : Thread) (k : Core) : Option Nat :=
  match t.status with
  | .ready => if t.oar.isSome || t.answered then none else some (if t.replay.isSome then 3 else 0)
  | .parked (.remote _) => none
  | .parked _ => if t.oar.isSome then none else some 1
  | .dropped tag _ => if t.oar.all (fun o => o.tag == tag) && !t.walk.any (fun w => w.busy == some tag) then some 2 else none
  | .engineWait tag => if k.ckptHas tag then some 4 else none
  | .held _ => none

/-- The Marker thread has passed through everything its leading thread has done (R324). (DEDUCED, log 62) -/
def State.markerClear (s : State) (c : Nat) (i : Fin 8) (t : Thread) : Bool :=
  !t.lead || (s.slot c (i + 4)).trail.isEmpty

/-- A pre-emption breaks the reservation that a thread took with `RSV` (R194). -/
def State.breakHeld (s : State) (who : Ident) : State :=
  (s.lines.filter (fun q => match q.holder with | some h => h.who == who && h.rsv | none => false)).foldl State.breakLine s

/-- Save a thread in a block: its older windows are spilled, its block is written, and its slot and its home slot are free (R301).
A window with a pending register stays with the thread's own record. -/
def State.saveInto (s : State) (t : Thread) (code : Nat) (lines : List Nat) (manual : Bool) : State :=
  let home := s.homeOf t
  let s1 := (t.resident.filter (fun r => !winPending r.win)).foldr
    (fun r s => s.homeWrite (s.stackKey t r.base) (winBytes r.win)) s
  let s2 := s1.breakHeld t.id
  let u := (s2.thread? t.id).getD t
  let hs := s2.slot home t.id.hslot
  let b := s2.blockOf u hs.rq code ((u.replay.map (·.val)).getD 0)
  let s3 := ((List.range 8).zip lines).foldl (fun s x => s.homeWrite x.2 ((b.drop (64 * x.1)).take 64)) s2
  let s4 := (s3.vacate t.id).modSlot home t.id.hslot (fun sl => { sl with rq := [], badRq := [], rqSpare := false })
  let kept : Thread :=
    { u with resident := u.resident.filter (fun r => winPending r.win), pending := none
             status := match u.status with | .parked (.watch l) => .parked (.watch l) | .parked _ => .ready | st => st }
  s4.modCore home (fun k => { k with saved := k.saved ++ [⟨kept, lines, manual, hs.rq, hs.rqSpare⟩] })

/-- Save a thread in its block of the save area (R300). -/
def State.saveThread (s : State) (t : Thread) (code : Nat) : State := s.saveInto t code (blockLines (s.blockAddr t)) false

/-- Every slice that holds a part of a save area's piece grants the partition a right (R273, R300). -/
def State.areaGrants (s : State) (part base n : Nat) (mask : BitVec 8) : Bool :=
  (List.range (n / 64)).all (fun i => s.grants (bankOf (base + 64 * i)) part mask)

/-- An entry of a thread's receive queue, which its block takes, fails its parity check (R320, R321). -/
def State.badRecv (s : State) (t : Thread) : Bool := !(s.slot (s.homeOf t) t.id.hslot).badRq.isEmpty

/-- The block of a thread in its save area is not in use, and its slices let the hardware write it (R273, R300). -/
def State.blockOpen (s : State) (t : Thread) : Bool :=
  !(s.core (s.homeOf t)).saved.any (fun x => x.lines == blockLines (s.blockAddr t)) && s.areaGrants t.part (s.blockAddr t) 512 2

/-- Take a thread one step nearer to its save: probes for its drain, or the save itself (R131). A block that is not open is waited for.
(DEDUCED, log 87) -/
def State.preemptAt (s : State) (c : Nat) (i : Fin 8) : State :=
  match s.threadAt c i with
  | none => s
  | some t =>
    match t.saveCode (s.core c) with
    | none => s.sendProbes t c i .pd
    | some code =>
      if !t.drained c .pd then s.sendProbes { t with oar := none } c i .pd
      else
        if t.unsound || s.badRecv t then s.consume c else if !s.blockOpen t || !s.markerClear c i t then s else s.saveThread t code

/-! ## Checkpoints of copies (R30, R302) -/

/-- Bytes of a unit already written. -/
def EUnit.written (u : EUnit) : Nat := ((u.writes.filter (·.done)).map (fun w => w.bytes.length)).sum

/-- A copy stands at a 64-byte destination boundary: every unit is written or untouched, but for lines of the row that `CPY2`
is in. -/
def EngOp.atBoundary (o : EngOp) : Bool :=
  let rows := match o.job with | .cpy2 _ _ _ => true | _ => false
  match o.units.dropWhile (·.finished) with
  | [] => !o.started
  | u :: r => (rows || u.written = 0) && r.all (fun u => u.written = 0)

/-- The copy as it resumes: the lines not yet written, to be read again. -/
def EngOp.rest (o : EngOp) : EngOp :=
  { o with units := (o.units.dropWhile (·.finished)).map (fun u =>
      { u with reads := u.reads.map (fun r => { r with got := none }), phase := 0, loaded := false, writes := []
               gone := u.gone ++ (u.writes.filter (·.done)).map (·.va) }) }

/-- Source and destination of the next byte, and the word of bytes 24-31. -/
def EngOp.progress (s : State) (c : Nat) (o : EngOp) : Nat × Nat × Nat :=
  let rest := o.units.dropWhile (·.finished)
  let left := rest.length
  match o.job with
  | .cpy d x n =>
    let total := (pieces d n).length
    let fin := if o.started then total - left else 0
    let size := fun (k : Nat) => (((pieces d n).take k).map (·.2)).sum
    -- a run from the highest line down has the lowest lines left, and its next line is the last of them
    if s.copiesDown c d x n then (x + size (left - 1), d + size (left - 1), if o.started then size left else n)
    else (x + size fin, d + size fin, n - size fin)
  | .cpy2 d x v =>
    let w := bits v.toNat 47 32
    let rows := bits v.toNat 63 48
    let r := if o.started then rows - left else 0
    let part := match rest with
      | u :: _ => u.written + ((pieces (d + u.key * bits v.toNat 15 0) w).filter (fun p => u.gone.contains p.1) |>.map (·.2)).sum
      | [] => 0
    (x + r * bits v.toNat 31 16 + part, d + r * bits v.toNat 15 0 + part, (rows - r) * 2 ^ 48 + (w - part) * 2 ^ 32)
  | .cpym off x n _ =>
    let total := (pieces off n).length
    let fin := if o.started then total - left else 0
    let bytes := (((pieces off n).take fin).map (·.2)).sum
    (x + bytes, s.aperture c off + bytes, n - bytes)
  | _ => (0, 0, 0)

/-- The record of a checkpointed copy (R302). -/
def EngOp.ckptBytes (s : State) (c : Nat) (o : EngOp) : List Byte :=
  let p := o.progress s c
  let att := match o.att with
    | none => 0
    | some k => if isSp k then let (m, core, off) := spOf k
        0x800000000000 + m * 2 ^ 31 + s.logOf core * 2 ^ 19 + off else s.aperture c k
  leBytes 8 o.enc ++ leBytes 8 p.1 ++ leBytes 8 p.2.1 ++ leBytes 8 p.2.2 ++ leBytes 8 o.shape.toNat ++ leBytes 8 att ++
  leBytes 8 (o.slot.val + (match o.cnt with | some k => k.toNat | none => 0) * 2 ^ 3 + o.wait.toNat * 2 ^ 6 + o.who.inc.toNat * 2 ^ 7) ++
  leBytes 8 0

/-- A copy at a boundary leaves the head of the copy engine for the core block of a priority (R302). -/
def State.checkpoint (s : State) (c p : Nat) : State :=
  match s.engHead c .copy with
  | none => s
  | some o =>
    if !o.job.isCopy || !o.atBoundary || o.trap.isSome then s
    else
      let s1 := s.modCore c (fun k =>
        { k with copy := { k.copy with queue := k.copy.queue.tail }
                 blocks := k.blocks.map (fun b => if b.prio = p then { b with copies := b.copies ++ [o.rest] } else b) })
      { s1 with faultQ := s1.faultQ.filter (fun f => match f.what with | .line x .copy _ => x != c | _ => true) }

/-! ## Core blocks (R302) -/

/-- The bytes of a core's queues in its block: a place kept for a result is 0 until the result comes. -/
def queueBytes (q : List QEntry) : List Byte :=
  (q.map (fun e => match e with | .val w => leBytes 8 w.toNat | .res _ => leBytes 8 0)).flatten

/-- The places of a queue that are kept for results. (DEDUCED, log 53) -/
def queuePlaces (k : Core) : List (Fin 4 × Nat × Nat) :=
  ([0, 1, 2, 3] : List (Fin 4)).flatMap (fun n =>
    ((List.range (k.q[n]).length).zip k.q[n]).filterMap (fun (i, e) => match e with | .res t => some (n, i, t) | .val _ => none))

/-- Write what a core block holds past its scratchpad and accumulators. -/
def State.writeBlockRest (s : State) (c base : Nat) (copies : List EngOp) : State :=
  let k := s.core c
  let qs := ([0, 1, 2, 3] : List (Fin 4))
  let s1 := qs.foldl (fun s n => s.homeWrite (base + 0x70000 + 128 * n.val) (queueBytes k.q[n])) s
  let s2 := s1.homeWrite (base + 0x70200) ((qs.map (fun n => BitVec.ofNat 8 (k.q[n]).length)) ++
    (qs.map (fun n => BitVec.ofNat 8 (k.qSpare[n]).toNat)))
  let s3 := s2.homeWrite (base + 0x70240) ((allSlots.map (fun i => leBytes 8 (k.slots[i]).nf.toNat)).flatten)
  let s4 := s3.homeWrite (base + 0x70280) ((allSlots.map (fun i => leBytes 2 (k.cc[i]).val.toNat)).flatten)
  let s5 := s4.homeWrite (base + 0x70290) ((allSlots.map (fun i => leBytes 2 (k.cc[i]).out)).flatten)
  let s6 := s5.homeWrite (base + 0x702A0) (leBytes 8 k.xb.toNat ++ leBytes 8 k.itag.toNat)
  let s7 := s6.homeWrite (base + 0x70300) ((((k.sparks.map (fun (x : Nat × Nat) => x.2)) ++ List.replicate (32 - k.sparks.length) 0).map (leBytes 8)).flatten)
  let s8 := s7.homeWrite (base + 0x70400) ((copies.map (fun o => o.ckptBytes s c)).flatten)
  s8.homeWrite (base + 0x70480) [BitVec.ofNat 8 copies.length]

/-- The engines of a core have nothing left but what is checkpointed. -/
def Core.engIdle (k : Core) : Bool := k.mat.queue.isEmpty && k.vec.queue.isEmpty && k.copy.queue.isEmpty

/-- What a core's save reads of it, as it leaves the core: the accumulators, whose words that cannot be corrected are consumed, and the
scratchpad, where they are lost lines (R319 to R322); `none` where it is sound. (DEDUCED, log 59) -/
def State.coreUnsound (s : State) (c : Nat) (b : CoreBlock) : Option State :=
  let k := s.core c
  let sp := spKey Config.pkg c 0
  if k.badQ.any (!·.isEmpty) || k.slots.any (·.badNf) || k.accSynd.any (fun p => eccClass p.2 == .bad) || k.soundCounters.length != k.marks.length then some (s.consume c)
  else if s.sound sp Config.spBytes then none
  else some (s.audit sp Config.spBytes (s.partOf c) b.ctx (s.logOf c) 0)

/-- The words of a core that its save reads are corrected (R319). -/
def State.coreCorrected (s : State) (c : Nat) : State :=
  (List.range 16).foldl (fun s i => (s.readAcc c (BitVec.ofNat 4 i)).2) (s.correctNoted (spKey Config.pkg c 0) Config.spBytes)

/-- Write the core block of a priority; then the counters are 0, and the accumulators +0 where another context comes (R302).
(DEDUCED, log 59) -/
def State.saveCore (s : State) (c p : Nat) (other : Bool) : State :=
  let base := s.coreBlockAddr c p
  let copies := ((s.core c).blocks.filter (fun b => b.prio == p)).flatMap (·.copies)
  let s0 := s.coreCorrected c
  let s1 := s0.copyMem (spKey Config.pkg c 0) base Config.spBytes
  let s2 := (List.range 16).foldl (fun s i =>
    s.homeWrite (base + 0x60000 + 4096 * i) (((s.core c).accWords (BitVec.ofNat 4 i)).map (leBytes 4)).flatten) s1
  (s2.writeBlockRest c base copies).modCore c (fun k =>
    { k with
      blocks := k.blocks.map (fun b => if b.prio = p then { b with sparks := k.sparks.map (·.1), places := queuePlaces k } else b)
      acc := if other then [] else k.acc
      accSynd := if other then [] else k.accSynd
      cc := Vector.replicate 8 ⟨0, 0⟩, marks := k.soundCounters })

/-- Bytes of a core block (Table 19-7). -/
def coreBlockBytes : Nat := 0x71000

/-- Restore a core block: its state comes back, and its copies return to the copy engine in their order (R303). (DEDUCED, log 59) -/
def State.restoreCore (s : State) (c : Nat) (b : CoreBlock) : State :=
  let base := b.base
  let s1 := s.copyMem base (spKey Config.pkg c 0) Config.spBytes
  let w := fun (off n : Nat) => s.rawNat (base + off) n
  let queue := fun (n : Fin 4) => (List.range (w (0x70200 + n.val) 1)).map (fun i =>
    match b.places.find? (fun x => x.1 == n && x.2.1 == i) with
    | some x => QEntry.res x.2.2
    | none => QEntry.val (w64 (w (0x70000 + 128 * n.val + 8 * i) 8)))
  let s2 := (List.range 16).foldl (fun s i =>
    let l := (List.range 1024).map (fun j => w (0x60000 + 4096 * i + 4 * j) 4)
    s.modCore c (fun k => k.setAcc (BitVec.ofNat 4 i) l)) s1
  s2.modCore c (fun k =>
    { k with
      q := Vector.ofFn queue
      badQ := Vector.replicate 4 []
      qSpare := Vector.ofFn (fun n : Fin 4 => w (0x70204 + n.val) 1 != 0)
      slots := Vector.ofFn (fun i : Fin 8 => { k.slots[i] with nf := w64 (w (0x70240 + 8 * i.val) 8), badNf := false })
      cc := Vector.ofFn (fun i : Fin 8 => ⟨BitVec.ofNat 16 (w (0x70280 + 2 * i.val) 2), w (0x70290 + 2 * i.val) 2⟩)
      marks := k.soundCounters
      xb := w64 (w 0x702A0 8), itag := BitVec.ofNat 16 (w 0x702A8 8)
      sparks := ((List.range b.sparks.length).zip b.sparks).map (fun (i, x) => (x, w (0x70300 + 8 * i) 8))
      copy := { k.copy with queue := k.copy.queue ++ b.copies }
      blocks := k.blocks.filter (fun x => x.prio != b.prio)
      lastCtx := (k.lastCtx.map (fun x => (x.1, b.ctx))) })

/-! ## Restoring a thread (R303) -/

/-- An arrival or a restore whose image tag is not the core's traps `OVERLAY` at the thread's PC (R84, R296). -/
def State.tagCheck (s : State) (c : Nat) (i : Fin 8) : State :=
  match s.threadAt c i with
  | none => s
  | some t =>
    if t.tag = (s.core c).itag then s
    else s.userTrapAt c i cOVERLAY ((1#64 <<< 63) ||| t.tag.setWidth 64) t.pc

/-- The segments that a core takes for a thread that comes to it (R50, R267). -/
def State.segsFor (s : State) (t : Thread) : Vector Seg 8 :=
  s.segsOf t t.mode

/-- What the reading of the segments of a thread that comes to a core leaves behind. -/
def State.segsAudit (s : State) (t : Thread) : State :=
  s.segsOfAudit t t.mode

/-- A SAVED thread comes back from its block to its home slot: READY, or still DROPPED, or waiting on its copy; one whose wake came while it
was SAVED reissues its instruction with the value that the block has kept (R303). -/
def State.restoreThread (s : State) (c : Nat) (x : Saved) : State :=
  let b := x.lines.flatMap (fun l => s.raw l 64)
  let code := bits (blockField b 0 8) 21 19
  let i := x.t.id.hslot
  let st : Status := match code, x.t.status with
    | 2, .dropped g r => .dropped g r
    | 4, .engineWait g => .engineWait g
    | 1, .parked (.watch l) => .parked (.watch l)
    | _, _ => .ready
  let t := { Thread.ofBlock b x.t with status := st, replay := x.t.replay.map (fun (r : Reply) => { r with val := w64 (blockField b 304 8) }) }
  let t := { t with segs := s.segsFor t }
  let s1 := s.modCore c (fun k =>
    { k with saved := k.saved.filter (fun y => y.t.id != x.t.id), lastCtx := some (t.part, t.id.ctx.toNat) })
  let s2 := s1.modSlot c i (fun sl => { sl with occ := .thread t, left := none, rq := blockRq b, rqSpare := x.rqSpare, badRq := [] })
  let s3 := if t.lead then s2.setOcc c (i + 4) (.marker t) else s2
  (s3.segsAudit t).tagCheck c i

/-- What reading the lines of a save block leaves behind: their corrections, or the end of the context (R319, R322). -/
def State.blockAudit (s : State) (c : Nat) (x : Saved) : State :=
  match x.lines.find? (fun l => !s.sound l 64) with
  | some l => s.audit l 64 x.t.part x.t.id.ctx.toNat (s.logOf c) x.t.id.hslot.val
  | none => x.lines.foldl (fun s l => s.correctNoted l 64) s

/-- The priority of a slot's occupant; a slot that a launch has reserved has none yet (R303). -/
def occPrio : Occ → Option Nat
  | .free | .marker _ | .launch _ _ => none
  | .thread t => some t.prio
  | .away _ p _ _ => some p

/-- The priority under which a SAVED thread is restored: a spark that a claim has promoted counts with its new one (R108, R303). -/
def Saved.rank (x : Saved) : Nat := savePrio x.t.prio

/-- The core block that must be restored before a SAVED thread: that of its context, the smallest priority number first (R302, R303). -/
def Core.blockFor (k : Core) (x : Saved) : Option CoreBlock :=
  let l := k.blocks.filter (fun b => b.ctx == x.t.id.ctx.toNat)
  l.find? (fun b => l.all (fun y => b.prio ≤ y.prio))

/-- A SAVED thread may be restored now: its home slot, and that of its Marker thread, is free, neither occupied nor reserved, and no occupant of the core has a lower
priority number (R303); a thread that `CTXSV` saved waits for its `CTXLD` (R277). -/
def State.restorable (s : State) (c : Nat) (x : Saved) : Bool :=
  let k := s.core c
  !x.manual && (k.slots[x.t.id.hslot]).occ.isFree && (!x.t.lead || (k.slots[x.t.id.hslot + 4]).occ.isFree) &&
  !allSlots.any (fun i => (occPrio (k.slots[i]).occ).any (fun p => p < x.rank))

/-- The SAVED thread that the core restores next, with the core block that goes first: of those that may be restored the lowest priority
number, and in it the lowest slot (R26, R303). -/
def State.nextRestore (s : State) (c : Nat) : Option (Saved × Option CoreBlock) :=
  let l := (s.core c).saved.filter (s.restorable c)
  let key := fun (x : Saved) => 8 * x.rank + x.t.id.hslot.val
  (l.find? (fun x => l.all (fun y => key x ≤ key y))).map (fun x => (x, (s.core c).blockFor x))

/-- Some slot of the core is occupied or reserved. -/
def Core.anyOcc (k : Core) : Bool := allSlots.any (fun i => !(k.slots[i]).occ.isFree)

end Sys2Proof.Machine
end

