-- ==== Sys2Proof/Machine/Place.lean ====
section
/-! DEFINITION. What reaches a core from outside and what fills its slots: wakes (R29), deposits (R36, R37, R232), migrating
threads (R26, R28, R84), tasks and their theft (R23), sparks (R25) and restores (R303). -/

namespace Sys2Proof.Machine

/-! ## Wakes (R29) -/

/-- A SAVED thread's wake: the wait is over when the thread is back (R30). -/
def State.wakeSaved (s : State) (w : Wake) : State :=
  match s.savedOf? w.who with
  | none => s
  | some x =>
    let hit : Bool := match w.wait, x.t.status with
      | .inl a, .parked b => a == b
      | .inr g, .dropped h _ => g == h
      | _, _ => false
    if !hit then s
    else
      let b := s.rawNat (x.key 0) 8
      let b1 := b - bits b 21 19 * 2 ^ 19 + (match w.wait with | .inr _ => 3 | .inl _ => 0) * 2 ^ 19
      (s.homeWrite (x.key 0) (leBytes 8 b1)).modWho w.who (fun t => { t with status := .ready })

/-- What a wake leaves for the reissue: an `AWAIT` that a change has woken completes with the generation that it then finds (R231). -/
def Thread.woken (w : Wait ⊕ Nat) (t : Thread) : Thread :=
  match w with
  | .inl (.attend _) => { t with carried := some (carryWoken, 0) }
  | _ => t

/-- No wake and no reply for a wake's line left for its core before it (R347, R349). -/
def State.wakeNext (s : State) (w : Wake) (c : Nat) : Bool :=
  w.line?.all (fun l =>
    !(s.wakes.any (fun x => decide (x.tag < w.tag) && x.line? == some l && s.wakesAt c x)) &&
    !(s.replies.any (fun r => decide (r.sent ≤ w.tag) && lineOf r.msg.pa == l && r.msg.core == c)))

/-- `WAKE_MESSAGE`: the thread is READY if it still waits for this; behind a fence the message waits (R29, R330), as it does behind what was
sent for its line before it (R349). -/
def execWakeMessage (i : Nat) (s : State) : Host.Outcome State Fault Refusal :=
  .next (match s.wakes.find? (fun w => w.tag == i) with
    | none => s
    | some w =>
      let s1 := { s with wakes := s.wakes.filter (fun x => x.tag != i) }
      match s.placeOf? w.who with
      | none => s1.wakeSaved w
      | some (c, j) =>
        if s.fenced c || !s.wakeNext w c then s
        else
          match s.threadAt c j with
          | none => s1
          | some t =>
            let hit : Bool := match w.wait with
              | .inl x => t.status.waits x
              | .inr g => (match t.status with | .dropped h _ => g == h | _ => false)
            if hit then (s1.wakeAt c j).modAt c j (Thread.woken w.wait) else s1)

/-! ## Deposits (R36, R37, R232) -/

/-- The register of an operand code (Table 2-1). -/
def regOfCode (n : Nat) : RegName :=
  if n < 16 then .g (Fin.ofNat 16 n) else .a (Fin.ofNat 8 (n - 16))

/-- A deposit is done with: its operation can complete (R232). (DEDUCED, log 40) -/
def State.endDeposit (s : State) (d : Deposit) : State :=
  match d.src with
  | none => s
  | some (c, tag) => s.modCore c (fun k => { k with copy := { k.copy with queue := k.copy.queue.map (fun (o : EngOp) =>
      if o.tag = tag then { o with landed := true } else o) } })

/-- A deposit is discarded, with a record at the target core (R36, R232). -/
def State.dropDeposit (s : State) (d : Deposit) (c : Nat) : State :=
  (s.noteCtx c d.slot 0x18 0 (BitVec.ofNat 12 d.ctx)).endDeposit d

/-- Where a deposit stands. -/
inductive DepAt where
  /-- its thread is in this slot -/
  | here (c : Nat) (i : Fin 8) (who : Ident)
  /-- it follows a thread that is on its way or SAVED -/
  | waits (who : Ident)
  | discard
deriving DecidableEq, Repr

/-- The thread that a deposit is for: the occupant of its slot, which must be of the sender's context, or the thread that the deposit
follows. A slot that its thread has left by migration redirects to that thread until another takes the slot, whose own the deposits then are:
the spec lets R28 redirect and R232 discard, and does not say how long a slot left so keeps the thread (R28, R36, R232). (DESIGN CHOICE,
log 98) -/
def State.depAt (s : State) (d : Deposit) : DepAt :=
  let follow := fun (w : Ident) =>
    match s.placeOf? w with
    | some (c, i) => DepAt.here c i w
    | none => if (s.thread? w).isSome then .waits w else .discard
  match d.who with
  | some w => follow w
  | none =>
    match (s.slot (s.physOf d.lcore) d.slot).occ with
    | .thread t => if t.part = d.part && t.id.ctx.toNat = d.ctx then .here (s.physOf d.lcore) d.slot t.id else .discard
    | .away w _ p _ => if p = d.part && w.ctx.toNat = d.ctx then follow w else .discard
    | .free =>
      match (s.slot (s.physOf d.lcore) d.slot).left with
      | some w => if (s.thread? w).any (fun t => t.part = d.part && w.ctx.toNat = d.ctx) then follow w else .discard
      | none => .discard
    | _ => .discard

/-- `DEPOSIT_ARRIVAL`: it takes one of the four entries of its thread's core, or waits on the network (R36), in its sender's order (R349);
one that follows a thread has left that order. -/
def execDepositArrival (i : Nat) (s : State) : Host.Outcome State Fault Refusal :=
  .next (match s.deps.find? (fun d => d.tag == i) with
    | none => s
    | some d =>
      let out := { s with deps := s.deps.filter (fun x => x.tag != i) }
      if d.who.isNone && !(d.src.all (fun x => s.chanFirst x.1 d.lcore d.tag)) then s
      else
      match s.depAt d with
      | .discard => if s.fenced (s.physOf d.lcore) then s else out.dropDeposit d (s.physOf d.lcore)
      | .waits w => { s with deps := s.deps.map (fun (x : Deposit) => if x.tag = i then { x with who := some w } else x) }
      | .here c j w =>
        if s.fenced c || 4 ≤ (s.core c).depBuf.length then s
        else out.modCore c (fun k => { k with depBuf := k.depBuf ++ [{ d with who := some w, slot := j }] }))

/-- No earlier entry of the buffer is for the same register of the same thread (R36). -/
def firstFor (d : Deposit) : List Deposit → Bool
  | [] => true
  | x :: l => if x.tag = d.tag then true else !(x.who == d.who && x.code == d.code) && firstFor d l

/-- A buffered deposit lands in a register that is EMPTY and not pending; it follows a thread that has left,
and is discarded where the thread is HALTED (R36, R28). -/
def State.landDeposit (s : State) (core i : Nat) : State :=
  match (s.core core).depBuf.find? (fun d => d.tag == i) with
    | none => s
    | some d =>
      if s.fenced core || !firstFor d (s.core core).depBuf then s
      else
        let out := s.modCore core (fun k => { k with depBuf := k.depBuf.filter (fun x => x.tag != i) })
        if (s.checkStore core (.dep d.tag)).isNone then s.consume core
        else
        match s.depAt d with
        | .discard => out.dropDeposit d core
        | .waits _ => { out with deps := out.deps ++ [d] }
        | .here c j _ =>
          if c != core then { out with deps := out.deps ++ [d] }
          else
            match s.threadAt c j with
            | none => s
            | some t =>
              let r := regOfCode d.code
              let x := t.cell r
              if x.full || x.pend.isSome || t.emptied == some (d.code, s.time.toNat) then s
              else ((out.modAt c j (fun t => t.setCell r (.of d.val))).modSlot c j (fun sl => { sl with shutAt := some s.time.toNat })).endDeposit d

/-- `DEPOSIT_LAND`: an entry of a deposit buffer is tried, as it is in every cycle (R36, R37). -/
def execDepositLand (core i : Nat) (s : State) : Host.Outcome State Fault Refusal := .next (s.landDeposit core i)

/-! ## Contexts of a core (R26, R295) -/

/-- The context that an occupant or a reservation brings. -/
def State.occCtx (s : State) : Occ → Option (Nat × Nat)
  | .free | .marker _ => none
  | .thread t => some (t.part, t.id.ctx.toNat)
  | .away w _ p _ => some (p, w.ctx.toNat)
  | .launch p q => (s.launches.find? (fun l => l.part == p && l.seq.toNat == q)).map (fun l => (p, l.r.ctx.toNat))

/-- The context of a core's slots. -/
def State.slotsCtx (s : State) (c : Nat) : Option (Nat × Nat) :=
  allSlots.findSome? (fun i => s.occCtx (s.slot c i).occ)

/-- The one context whose tasks and sparks a core places: that of its slots, or, where they are all free and no SAVED thread is
homed there, the last that ran a thread on it (R26). -/
def State.workCtx (s : State) (c : Nat) : Option (Nat × Nat) :=
  let k := s.core c
  if k.anyOcc then s.slotsCtx c else if k.saved.all (·.manual) then k.lastCtx else none

/-- A core block is to be restored next: nothing new comes before it (R303). -/
def State.blockNext (s : State) (c : Nat) : Bool := (s.nextRestore c).any (fun x => x.2.isSome)

/-- A core takes no placement: it is stopped, under test, or behind a fence (R80, R282, R327). (DEDUCED, log 61) -/
def State.shut (s : State) (c : Nat) : Bool := (s.core c).stopped || (s.core c).scan.isSome || s.fenced c

/-! ## Migrating threads (R26, R28, R84) -/

/-- A migrating thread takes a slot: its segments are those of the context and of its save block (R50); a tag mismatch traps.
(DEDUCED, log 61) -/
def State.placeMig (s : State) (c : Nat) (i : Fin 8) (t : Thread) (src : Nat) : State :=
  let u := { t with segs := s.segsFor t }
  let s1 := (s.setOcc c i (.thread u)).modCore c (fun k => { k with lastCtx := some (t.part, t.id.ctx.toNat) })
  ((s1.segsAudit t).noteCtx c i 0x04 (src * 2 ^ 20) t.id.ctx).tagCheck c i

/-- `MIGRATION_ARRIVAL`: to its home slot, or to the inbound buffer of four, in its sender's order (R26, R349). -/
def execMigrationArrival (i : Nat) (s : State) : Host.Outcome State Fault Refusal :=
  .next (match s.migs.find? (fun m => m.tag == i) with
    | none => s
    | some m =>
      let c := s.physOf m.dest
      if s.shut c || s.migDropped m || !s.chanFirst m.src m.dest m.tag then s
      else
        let out := { s with migs := s.migs.filter (fun x => x.tag != i) }
        let home := match (s.slot c m.t.id.hslot).occ with
          | .away w _ _ _ => w == m.t.id && c == s.homeOf m.t
          | _ => false
        if home then out.placeMig c m.t.id.hslot m.t (s.logOf m.src)
        else if 4 ≤ (s.core c).migBuf.length then s
        else out.modCore c (fun k => { k with migBuf := k.migBuf ++ [(m.t, s.logOf m.src)] }))

/-! ## Tasks and sparks (R23, R25, R26) -/

/-- The core runs the launch of a redundant task in redundant mode (R325). -/
def Core.runsRedun (k : Core) (part seq : Nat) : Bool :=
  k.threads.any (fun x => x.2.lead && x.2.part == part && (match x.2.kind with | .launch q _ _ => q.toNat == seq | _ => false))

/-- A descriptor that a core may start: eligible, of the core's context and image tag (R23, R26). -/
def State.startable (s : State) (c : Nat) (d : Desc) : Bool :=
  let k := s.core c
  match s.workCtx c with
  | none => false
  | some (p, x) =>
    d.state == 1 && d.ctx.toNat == x && p == s.partOf c && d.itag == k.itag &&
    (match d.redun with | none => true | some q => k.runsRedun p q)

/-- The eligible task that a core starts first: priority 0 to 3, and each queue in order (R26). -/
def State.nextTask (s : State) (c : Nat) : Option Desc :=
  ([0, 1, 2, 3] : List Nat).findSome? (fun p => (s.core c).tasks.find? (fun d => d.prio.toNat == p && s.startable c d))

/-- A task finds a place in this slot: a redundant one runs as a pair in slots s and s + 4 (R325). -/
def State.taskFits (s : State) (c : Nat) (i : Fin 8) (d : Desc) : Bool :=
  d.redun.isNone || (i.val < 4 && (s.slot c (i + 4)).occ.isFree)

/-- The eligible task that goes first into a slot. -/
def State.taskFor (s : State) (c : Nat) (i : Fin 8) : Option Desc :=
  ([0, 1, 2, 3] : List Nat).findSome? (fun p => (s.core c).tasks.find? (fun d => d.prio.toNat == p && s.startable c d && s.taskFits c i d))

/-- Start a task in a slot (R23, R299); a redundant one runs as a pair in slots s and s + 4 (R325). -/
def State.startTask (s : State) (c : Nat) (i : Fin 8) (d : Desc) : State :=
  let s1 := s.modDesc d.num (fun x => { x with state := 2 })
  let s2 := s1.place c i (fun s =>
    let t := s.startThread c i (s.partOf c) d.ctx (.task d.num) d.prio.toNat (d.entry.setWidth 64)
    { t with g := t.g.set 0 (.of (d.args.setWidth 64)), cds := d.cds, sbud := d.sbud, fmtp := d.fmtp.setWidth 64
             sclp := d.sclp.setWidth 64, lead := d.redun.isSome })
  match d.redun, s2.threadAt c i with
  | some _, some t => s2.setOcc c (i + 4) (.marker t)
  | _, _ => s2

/-- Start a spark in a slot: below priority 3, with g0 = 0 (R25). R23 takes a task's `cds`, `sbud`, `fmtp` and `sclp` from its
descriptor, and a spark has none: they start at 0. (DESIGN CHOICE, log 100) -/
def State.startSpark (s : State) (c : Nat) (i : Fin 8) (ctx va : Nat) : State :=
  s.place c i (fun s => s.startThread c i (s.partOf c) (BitVec.ofNat 12 ctx) (.spark va) 4 0)

/-- The pool without its first spark of a handle and context. -/
def dropSpark (x : Nat × Nat) : List (Nat × Nat) → List (Nat × Nat)
  | [] => []
  | y :: l => if y = x then l else y :: dropSpark x l

/-- A SAVED thread is restored once its block can be read: its slices grant R, and no line of it is lost (R273, R303, R322). -/
def State.restoreSlot (s : State) (core : Nat) (x : Saved) : State :=
  if !x.lines.all (fun l => s.grants (bankOf l) x.t.part 1) then s
  else
    let s1 := s.blockAudit core x
    if s1.savedOf? x.t.id == some x then s1.restoreThread core x else s1

/-- A core block is restored, and with it the thread if its slot is the one that is filled (R303). -/
def State.restoreBlock (s : State) (core : Nat) (b : CoreBlock) (x : Saved) (slot : Fin 8) : State :=
  if !s.areaGrants (s.partOf core) b.base coreBlockBytes 1 then s
  else
    let s1 := s.audit b.base coreBlockBytes (s.partOf core) b.ctx (s.logOf core) 0
    if s1.savedOf? x.t.id != some x then s1
    else
      let s2 := s1.restoreCore core b
      if x.t.id.hslot = slot then s2.restoreSlot core x else s2

/-- `SLOT_FILL` (R26): a restore, a migrating thread, an eligible task, a spark. -/
def execSlotFill (core : Nat) (slot : Fin 8) (s : State) : Host.Outcome State Fault Refusal :=
  .next (
    let k := s.core core
    if s.shut core || !(s.slot core slot).occ.isFree then s
    else
      match s.nextRestore core with
      | some (x, some b) => if !k.anyOcc && k.engIdle then s.restoreBlock core b x slot else s
      | some (x, none) =>
        if x.t.id.hslot = slot then s.restoreSlot core x
        -- an earlier one goes first where the slot has a SAVED thread of its own
        else if k.saved.any (fun y => y.t.id.hslot == slot && s.restorable core y) then s
        else fill s
      | none => fill s)
where
  /-- items 3 to 5 of R26 -/
  fill (s : State) : State :=
    let k := s.core core
    match k.migBuf.find? (fun x => match s.slotsCtx core with | none => true | some y => y == (x.1.part, x.1.id.ctx.toNat)) with
    | some (t, src) =>
      match s.checkStore core (.mig t.id.hcore t.id.hslot t.id.inc) with
      | none => s.consume core
      | some s =>
      (s.modCore core (fun k => { k with migBuf := k.migBuf.filter (fun x => x.1.id != t.id) })).placeMig core slot t src
    | none =>
      match s.taskFor core slot with
      | some d =>
        match s.checkStore core (.task d.num) with
        | none => s.consume core
        | some s => s.startTask core slot d
      | none =>
        match s.workCtx core with
        | none => s
        | some (_, x) =>
          match k.sparks.find? (fun y => y.1 == x) with
          | none => s
          | some y => (s.modCore core (fun k => { k with sparks := dropSpark y k.sparks })).startSpark core slot y.1 y.2

/-- `TASK_STEAL` (R23): a core with a free slot and no task to start takes the oldest task that it may place from the first core
of the search order that has one. -/
def execTaskSteal (thief victim : Nat) (s : State) : Host.Outcome State Fault Refusal :=
  .next (
    let k := s.core thief
    let from_ := fun (c : Nat) => if s.shut c || s.partOf c != s.partOf thief then none else (s.core c).tasks.find? (s.startable thief)
    let free := allSlots.any (fun i => (k.slots[i]).occ.isFree)
    if s.shut thief || !free || (s.nextTask thief).isSome || s.blockNext thief || thief = victim then s
    else
      let order := (s.tryOrder (s.logOf thief) (List.range Config.logCores)).map s.physOf
      match order.find? (fun c => (s.cores.any (fun x => x.1 == c)) && (from_ c).isSome), from_ victim with
      | some c, some d =>
        if c != victim || 64 ≤ k.taskCount d.prio.toNat then s
        else
          match s.checkStore victim (.task d.num) with
          | none => s.consume victim
          | some s =>
          (s.modCore victim (fun k => k.keepTasks (fun x => x.num != d.num))).modCore thief (fun k => { k with tasks := k.tasks ++ [d] })
      | _, _ => s)

end Sys2Proof.Machine
end

