-- ==== Sys2Proof/Machine/Kinds.lean ====
section
/-! DEFINITION. What an instruction uses beside its operands: CSRs whose parity is checked and the Hall Pass table (R320), and what the
store comparator and the load-value queue of a redundant pair hold of it (R324). -/

namespace Sys2Proof

/-! ## Kinds of instructions -/

/-- An instruction of the vector engine. -/
def Instr.isVector : Instr → Bool
  | .vadd .. | .vsub .. | .vmul .. | .vfma .. | .vmin .. | .vmax .. | .vabs .. | .vneg .. | .vdiv .. | .vsqrt .. | .vrsq .. | .vexp2 .. => true
  | .vand .. | .vor .. | .vxor .. | .vshl .. | .vshr .. | .vsra .. | .vceq .. | .vclt .. | .vsel .. | .vrsum .. | .vrmax .. | .viota .. => true
  | .vset .. | .vmov .. | .vcvt .. | .vpack .. | .vunpk .. | .gath .. | .gathf .. | .scat .. | .vtrn .. | .vcmpr .. => true
  | _ => false

/-- An instruction of the matrix engine. -/
def Instr.isMatrix : Instr → Bool
  | .mma .. | .mzero .. | .mlda .. | .msta .. | .mstc .. | .madd .. | .mscal .. | .mrssq .. => true
  | _ => false

/-- An instruction of the copy engine. -/
def Instr.isCopy : Instr → Bool
  | .cpy .. | .cpy2 .. | .cpym .. | .depo .. | .redadd .. | .redmin .. | .redmax .. | .redfadd .. => true
  | _ => false

/-- A fetch-and-op. -/
def Instr.isAtomic : Instr → Bool
  | .aadd .. | .aand .. | .aor .. | .axor .. | .amin .. | .amax .. | .aminu .. | .amaxu .. | .aswp .. | .cas .. | .aincb .. | .afadd .. => true
  | _ => false

/-- A counter instruction. -/
def Instr.isCounter : Instr → Bool
  | .pcadd .. | .pcrd .. | .pcmrg .. | .pclv .. | .pclvSet .. => true
  | _ => false

/-- A load. -/
def Instr.isLoad : Instr → Bool
  | .ld .. | .ldpi .. | .lda .. | .ldx .. | .ldaq .. | .rsv .. => true
  | _ => false

/-- A store. -/
def Instr.isStore : Instr → Bool
  | .st .. | .stpi .. | .erase .. | .strel .. | .rls .. | .rlsn .. => true
  | _ => false

/-- The thread's CSRs that an instruction uses without naming them (Table 2-4). (DEDUCED, log 74) -/
def Instr.csrsUsed (i : Instr) : List Nat :=
  if i.isVector then [0x000, 0x001]
  else if i.isMatrix then [0x000, 0x009]
  else if i.isCounter then [0x003, 0x004]
  else
    match i with
    | .fadd .. | .fsub .. | .fmul .. | .fdiv .. | .fsqrt .. | .fma .. | .fcvt .. | .fcvti .. | .icvtf .. | .afadd .. | .redfadd .. => [0x000]
    | .susp .. | .apply .. => [0x008, 0x009, 0x00A]
    | .force .. => [0x00A]
    | .task .. => [0x004, 0x008, 0x009, 0x00A]
    | .xret => [0x010, 0x011, 0x012]
    | .sret => [0x803]
    | _ => []

/-- The completion counters of its core that an instruction reads: the one that it raises, or the CSR that it names (R51, R233 to R235). -/
def Instr.countersRead : Instr → List (Fin 8)
  | .vadd _ e _ _ _ | .vsub _ e _ _ _ | .vmul _ e _ _ _ | .vfma _ e _ _ _ _ | .vmin _ e _ _ _ | .vmax _ e _ _ _ | .vabs _ e _ _ |
    .vneg _ e _ _ | .vdiv _ e _ _ _ | .vsqrt _ e _ _ | .vrsq _ e _ _ | .vexp2 _ e _ _ | .vand _ e _ _ _ | .vor _ e _ _ _ |
    .vxor _ e _ _ _ | .vshl _ e _ _ _ | .vshr _ e _ _ _ | .vsra _ e _ _ _ | .vceq _ e _ _ _ | .vclt _ e _ _ _ | .vsel _ e _ _ _ _ |
    .vrsum _ e _ _ | .vrmax _ e _ _ | .viota _ e _ | .vset _ e _ _ | .vmov _ e _ _ | .vcvt _ e _ _ _ | .vpack _ e _ _ _ | .vunpk _ e _ _ |
    .gath _ e _ _ _ | .gathf _ e _ _ _ _ | .scat _ e _ _ _ | .vtrn _ e _ _ | .vcmpr _ e _ _ _ _ | .mzero _ e | .mlda _ _ _ e |
    .msta _ _ _ _ e | .mstc _ _ _ e | .madd _ _ _ e | .mscal _ _ e | .mrssq _ _ e | .depo _ _ e => [e.cnt.toFin]
  | .mma _ _ _ o => [o.ec.cnt.toFin]
  | .redadd c _ _ _ _ | .redmin c _ _ _ _ | .redmax c _ _ _ _ | .redfadd c _ _ _ _ | .ccinc c | .waitlt c _ => [c.toFin]
  | .csrr _ n | .csrw _ _ n | .csrset _ _ n | .csrclr _ _ n | .scsrr _ n | .scsrw _ _ n =>
    if 0x020 ≤ n.toNat && n.toNat < 0x028 then [Fin.ofNat 8 (n.toNat - 0x020)] else []
  | _ => []

/-- An instruction whose ranges are held against the Hall Pass table (R101). -/
def Instr.usesHall (i : Instr) : Bool :=
  i.isVector || i.isMatrix || i.isCopy || i.isAtomic || i.isCounter || i.isLoad || i.isStore

/-- An output: what leaves the core waits in the store comparator, 16 entries, for the Marker thread's matching entry. -/
def Instr.isOutput (i : Instr) : Bool :=
  i.isStore || i.isAtomic || i.isCounter || i.isVector || i.isMatrix || i.isCopy ||
  (match i with
    | .attn .. | .susp .. | .apply .. | .hval .. | .hfill .. | .task .. | .send .. | .launch .. | .halt | .ret => true
    | _ => false)

/-- An output that takes its effect as it issues, and the end of the pair: the leading thread waits there for its Marker thread. (DEDUCED,
log 62) -/
def Instr.outNow : Instr → Bool
  | .susp .. | .apply .. | .hval .. | .hfill .. | .task .. | .launch .. | .halt | .ret => true
  | _ => false

/-- The value that an instruction reads from outside its thread's registers, apart from what it pops (R324). -/
def Instr.inputs (i : Instr) : Nat :=
  if i.isLoad || i.isAtomic || i.isCounter then 1
  else
    match i with
    | .force .. | .htest .. | .csrr .. | .csrw .. | .csrset .. | .csrclr .. | .scsrr .. | .scsrw .. | .next .. | .range .. | .redn .. => 1
    | .attn .. | .await .. | .send .. | .qcnt .. | .launch .. | .rls .. | .rlsn .. => 1
    | .diagld .. | .ctxsv .. | .ctxld .. | .detain .. | .lmapw .. | .scant .. | .slotkill .. | .slotkillCtx .. | .preempt .. | .matw .. => 1
    | _ => 0

namespace Machine

/-! ## Storage that an instruction uses by itself (R320) -/

/-- The Hall Pass table is consulted: its words are checked (R320, R321). -/
def State.checkHall (s : State) (c : Nat) : Except (StopKind × State) State :=
  ((s.core c).marks.filterMap (fun m => match m.1 with | .hall g => some g | _ => none)).foldlM (fun s g => s.useStore c (.hall g)) s

/-- What an instruction uses by itself is checked before it runs (R320, R321). -/
def State.checkUses (s : State) (t : Thread) (i : Instr) : Except (StopKind × State) State :=
  if i.csrsUsed.any t.badCsr.contains then stop s .consume
  else do
    let s ← i.countersRead.foldlM (fun s k => s.useStore s.cur.core (.cc k)) s
    if i.usesHall then s.checkHall s.cur.core else .ok s

/-! ## Redundant pairs (R324) -/

/-- Entries that a turn has popped from the queues of a core and the receive queue of a slot. -/
def State.popped (s s1 : State) (c : Nat) (i : Fin 8) : Nat :=
  let k := s.core c
  let k1 := s1.core c
  let one := fun (n : Fin 4) => (k.q[n]).length + (if k1.qWritten[n] = some s.time.toNat then 1 else 0) - (k1.q[n]).length
  one 0 + one 1 + one 2 + one 3 + ((k.slots[i]).rq.length - (k1.slots[i]).rq.length)

/-- A part of a Marker thread: it follows its leading thread's where that has changed. -/
def pick {α : Type} [DecidableEq α] (old new m : α) : α := if old = new then m else new

/-- The same, register by register. -/
def pickCells {n : Nat} (old new m : Vector RegCell n) : Vector RegCell n := Vector.ofFn (fun i : Fin n => pick old[i] new[i] m[i])

/-- What of a Marker thread follows its leading thread's change from one state to another: a register, or another part of the thread's own
state, that changed; all that the pair has in common. -/
def Thread.follow (old new m : Thread) : Thread :=
  { new with
    pc := pick old.pc new.pc m.pc, pw := pick old.pw new.pw m.pw, g := pickCells old.g new.g m.g, win := pickCells old.win new.win m.win
    a := pickCells old.a new.a m.a, resident := pick old.resident new.resident m.resident, segs := pick old.segs new.segs m.segs
    dirty := pick old.dirty new.dirty m.dirty, supDirty := pick old.supDirty new.supDirty m.supDirty, rnd := pick old.rnd new.rnd m.rnd, vl := pick old.vl new.vl m.vl
    sst := pick old.sst new.sst m.sst, pcb := pick old.pcb new.pcb m.pcb, cds := pick old.cds new.cds m.cds
    fmtp := pick old.fmtp new.fmtp m.fmtp, sclp := pick old.sclp new.sclp m.sclp, sbud := pick old.sbud new.sbud m.sbud
    xcause := pick old.xcause new.xcause m.xcause, xval := pick old.xval new.xval m.xval, xpc := pick old.xpc new.xpc m.xpc
    xh := pick old.xh new.xh m.xh, ovh := pick old.ovh new.ovh m.ovh, wsp := pick old.wsp new.wsp m.wsp
    mode := pick old.mode new.mode m.mode, pmode := pick old.pmode new.pmode m.pmode, hdlr := pick old.hdlr new.hdlr m.hdlr
    scause := pick old.scause new.scause m.scause, sval := pick old.sval new.sval m.sval, spc := pick old.spc new.spc m.spc
    sh := pick old.sh new.sh m.sh, sscr := pick old.sscr new.sscr m.sscr }

/-- The Marker thread of a slot's thread. -/
def State.markerOf? (s : State) (c : Nat) (i : Fin 8) : Option Thread :=
  match (s.slot c (i + 4)).occ with
  | .marker m => some m
  | _ => none

/-- After an event every Marker thread shares what came to its leading thread from outside (R324). (DEDUCED, log 62) -/
def State.syncPairs (s s1 : State) : State :=
  s1.cores.foldl (fun r (c, k) => allSlots.foldl (fun r (i : Fin 8) =>
    match (k.slots[i + 4]).occ, s.threadAt c i, (k.slots[i]).occ with
    | .marker m, some t, .thread u =>
      if t = u || t.id != u.id then r else r.modSlot c (i + 4) (fun sl => { sl with occ := .marker (Thread.follow t u m) })
    | _, _, _ => r) r) s1

/-- A thread awaits an answer to what was sent with these numbers. -/
def Thread.awaitsIn (t : Thread) (lo hi : Nat) : Bool :=
  let mine := fun (g : Nat) => decide (lo ≤ g) && decide (g < hi)
  let cell := fun (c : RegCell) => c.pend.any mine
  t.g.any cell || t.win.any cell || t.a.any cell || t.resident.any (fun r => r.win.any cell) || t.predPend.any (fun p => mine p.2)

/-- The Marker thread can take its next entry: an output at once, anything else once the values it read have come (R324). -/
def State.markerReady (s : State) (c : Nat) (i : Fin 8) : Bool :=
  match (s.slot c i).trail with
  | [] => false
  | e :: _ => e.out || !(s.threadAt c (i - 4)).any (fun t => t.awaitsIn e.lo e.hi)

/-- A turn has sent an output from a core: an access, an engine operation or a message with a number from `lo` on. -/
def State.sentFrom (s1 : State) (c lo : Nat) : Bool :=
  let out := fun (m : Msg) => m.core == c && lo ≤ m.tag && (match m.op with
    | .load _ _ _ _ | .rsv _ _ | .watch | .probe | .await _ | .diagLd _ _ => false
    | _ => true)
  s1.net.any out || s1.faultQ.any (fun f => match f.what with | .access m => out m | _ => false) ||
  (s1.core c).engQueue.any (fun o => lo ≤ o.tag) || s1.sends.any (fun m => lo ≤ m.tag)

/-- The state without what a slot holds: what a turn of its thread has done elsewhere. -/
def State.outside (s : State) (c : Nat) (i : Fin 8) : State := s.setOcc c i .free

end Machine

end Sys2Proof
end

