-- ==== Sys2Proof/Machine/Launches.lean ====
section
/-! DEFINITION. The launch path (R17 to R22, R42, R288 to R297): launch queues, taking and checking a record, choosing, pre-empting
for and dispatching a launch, and loading its image. -/

namespace Sys2Proof.Machine

/-! ## Queues (R291) -/

/-- A host launch queue of a partition; at reset its size is 2^4 (Table 19-4). -/
def Part.queue (p : Part) (q : Nat) : HostQ := ((p.queues.find? (fun x => x.1 == q)).map (·.2)).getD ⟨0, 0, 4, 0, 0⟩

/-- Set a host launch queue. -/
def Part.setQueue (p : Part) (q : Nat) (x : HostQ) : Part := { p with queues := (q, x) :: p.queues.filter (fun y => y.1 != q) }

/-- `QTAIL`: a write that would overfill the ring is ignored; one before READY is answered busy, after a failed bring-up not at all (R291, R359).
(DEDUCED, log 78) -/
def execQtail (part q : Nat) (v : BitVec 32) (s : State) : Host.Outcome State Fault Refusal :=
  .next (if s.bustat.toNat % 256 = 0 && s.bustat.toNat / 256 != 5 then s.hostBusy part else s.hostWrite part (32 * q + 0x14) (fun s => s.modPart part (fun p =>
    let x := p.queue q
    if 2 ^ x.size < (v - x.head).toNat then p else p.setQueue q { x with tail := v })))

/-! ## Reading for the launch unit (R289, R290) -/

/-- A line that the launch unit reads at a storage place: its slice grants R, and no word is lost or uncorrectable. -/
def State.unitRead (s : State) (part name n : Nat) (g : Gran) : Option (List Byte × State) :=
  let k := s.storageKey name g
  if !s.grants (bankOf name) part 1 || (s.granExists g && (!isDram k || s.badAt k n || s.isLost k)) ||
      !((s.homeWords name g false false).all (fun w => s.sound w 8)) then none
  else
    match ((s.homeWords name g false false).foldl (fun s w => s.correctNoted w 8) s).readNamed name n g with
    | (some b, s1) => some (b, s1)
    | (none, _) => none

/-- The storage of a device address of a context under R, and X where asked; no page request is posted (R289). -/
def State.unitName (s : State) (part ctx va : Nat) (x : Bool) : Option (Nat × Gran) :=
  if 0x800000000000 ≤ va then none
  else
    match s.walk part ctx va with
    | .leaf base _ e _ =>
      if lfR e.toNat && (!x || lfX e.toNat) && lfCls e.toNat != 4 then
        let p := s.place? va base e
        some (p.name, p.gran)
      else none
    | _ => none

/-- The read of a line of a context is an ordinary load, and waits: the line of a table entry on the way, or the line itself, is reserved
(R125, R289, R307). -/
def State.unitBusy (s : State) (part ctx va : Nat) : Bool :=
  if 0x800000000000 ≤ va then false
  else
    match s.walk part ctx va with
    | .leaf base _ e _ => (s.lineQ (lineOf (s.place? va base e).name)).holder.isSome
    | .busy => true
    | _ => false

/-- n bytes of a context at a device address, within one line. -/
def State.unitLine (s : State) (part ctx va n : Nat) (x : Bool) : Option (List Byte × State) :=
  (s.unitName part ctx va x).bind (fun p => s.unitRead part p.1 n p.2)

/-- Every line of an image can be read (R289). -/
def State.imageOk (s : State) (part ctx src len : Nat) : Bool :=
  (List.range (len / 64)).all (fun i => (s.unitLine part ctx (src + 64 * i) 64 true).isSome)

/-! ## Records (Tables 19-1 to 19-3) -/

/-- The fields of a launch record (Table 19-1). -/
def LRec.ofNat (w : Nat) : LRec :=
  { depa := BitVec.ofNat 32 (bits w 511 480), sbud := BitVec.ofNat 32 (bits w 479 448), args := BitVec.ofNat 48 (bits w 431 384)
    sclp := BitVec.ofNat 48 (bits w 367 320), fmtp := BitVec.ofNat 48 (bits w 303 256), count := BitVec.ofNat 32 (bits w 255 224)
    first := BitVec.ofNat 32 (bits w 223 192), image := BitVec.ofNat 48 (bits w 175 128), depv := BitVec.ofNat 32 (bits w 127 96)
    roles := BitVec.ofNat 16 (bits w 79 64), lix1 := BitVec.ofNat 9 (bits w 63 55), lix0 := BitVec.ofNat 9 (bits w 54 46)
    die1 := BitVec.ofNat 3 (bits w 45 43), die0 := BitVec.ofNat 3 (bits w 42 40), depk := BitVec.ofNat 2 (bits w 39 38)
    redun := w.testBit 37, mode := w.testBit 36, nslot := BitVec.ofNat 3 (bits w 35 33), prio := BitVec.ofNat 2 (bits w 32 31)
    ctx := BitVec.ofNat 12 (bits w 30 19), entry := BitVec.ofNat 19 (bits w 18 0) }

/-- Slots per core of a record. -/
def LRec.n (r : LRec) : Nat := r.nslot.toNat + 1

/-- The logical cores of a record's rectangle, in ascending order (R17). -/
def LRec.cores (r : LRec) : List Nat := rectLogs (r.lix0.toNat, r.lix1.toNat, r.die0.toNat, r.die1.toNat)

/-- A reserved field of a record is nonzero, or DEPK is 3 (Table 19-1). (DEDUCED, log 57) -/
def recordBad (w : Nat) : Bool :=
  bits w 511 511 != 0 || bits w 447 432 != 0 || bits w 383 368 != 0 || bits w 319 304 != 0 || bits w 191 176 != 0 ||
  bits w 95 80 != 0 || bits w 39 38 == 3 || bits w 131 128 != 0

/-- A field of an image descriptor breaks Table 19-2. (DEDUCED, log 57) -/
def imageBad (d : Nat) : Bool :=
  let len := bits d 82 64
  bits d 127 83 != 0 || len % 64 != 0 || len < 64 || 0x5FFC0 < len || bits d 63 48 == 0 || bits d 47 0 % 64 != 0

/-- A context entry cannot be launched: not LIVE, a nonzero reserved field, or a PMAX of 4 to 7 (Table 18-2). -/
def entryBad (e : Nat) : Bool :=
  !entLive e || bits e 511 453 != 0 || bits e 383 368 != 0 || bits e 319 304 != 0 || bits e 255 240 != 0 || bits e 127 112 != 0 ||
  bits e 63 48 != 0 || 3 < bits e 450 448

/-- The status of a record, lowest number first, with the image descriptor (Table 19-3). -/
def State.recordStatus (s : State) (part w : Nat) : Nat × Nat :=
  let r := LRec.ofNat w
  let ctx := r.ctx.toNat
  let e := s.centry part ctx
  let dead := entryBad e
  let desc := if !entLive e then none else (s.unitLine part ctx r.image.toNat 16 false).map (fun p => leNat p.1)
  let d := desc.getD 0
  let len := bits d 82 64
  if recordBad w || desc.any imageBad then (1, d)
  else if dead then (2, d)
  else if r.redun && 4 < r.n then (3, d)
  else if r.die1.toNat < r.die0.toNat || r.lix1.toNat < r.lix0.toNat || 495 < r.lix1.toNat ||
      r.cores.any (fun l => s.partOf (s.physOf l) != part) then (4, d)
  else if r.entry.getLsbD 0 || r.entry.toNat / 2 % 32 == 0 || (desc.isSome && len ≤ r.entry.toNat) then (5, d)
  else if desc.isNone || !s.imageOk part ctx (bits d 47 0) len then (6, d)
  else (0, d)

/-- The reads that the checks of a record make have to wait. -/
def State.recordBusy (s : State) (part w : Nat) : Bool :=
  let r := LRec.ofNat w
  let ctx := r.ctx.toNat
  entLive (s.centry part ctx) && (s.unitBusy part ctx r.image.toNat ||
    (match s.unitLine part ctx r.image.toNat 16 false with
      | some p => !imageBad (leNat p.1) &&
        (List.range (bits (leNat p.1) 82 64 / 64)).any (fun i => s.unitBusy part ctx (bits (leNat p.1) 47 0 + 64 * i))
      | none => false))

/-! ## Taking a record (R290 to R293) -/

/-- A record that is accepted waits in its queue; its priority is clamped to the context's PMAX. -/
def State.acceptRecord (s : State) (part : Nat) (seq : BitVec 32) (q : LQueue) (w d : Nat) : State :=
  let r := LRec.ofNat w
  let pmax := bits (s.centry part r.ctx.toNat) 449 448
  let prio := if r.prio.toNat < pmax then BitVec.ofNat 2 pmax else r.prio
  let l : Launch :=
    { part := part, seq := seq, queue := q, r := { r with prio := prio }, tag := BitVec.ofNat 16 (bits d 63 48), len := bits d 82 64
      src := bits d 47 0, load := [], dispatched := false, blocks := [], running := false, live := 0, chosen := none, err := 0 }
  { (s.modCtx part r.ctx.toNat (fun c => { c with killed := false })) with launches := s.launches ++ [l] }

/-- A refused record's number counts as ended at once (R290). -/
def State.refuseRecord (s : State) (part : Nat) (seq : BitVec 32) : State :=
  s.modPart part (Part.mark seq)

/-- The record at the head of a host launch queue (R291). -/
def State.takeHost (s : State) (part q : Nat) : State :=
  let x := (s.partn part).queue q
  if x.head = x.tail then s
  else
    let pos := x.head.toNat % 2 ^ x.size
    let at_ := x.base.toNat + 64 * pos
    let word := (s.unitRead part at_ 64 none).map (fun p => leNat p.1)
    if (s.lineQ (lineOf at_)).holder.isSome || word.any (s.recordBusy part) then s
    else
    let (seq, s1) := s.newSeq part
    let (w, s2) := match s1.unitRead part at_ 64 none with
      | some (b, s2) => (some (leNat b), s2)
      | none => (none, s1)
    let (st, d) := match w with
      | some w => s2.recordStatus part w
      | none => (6, 0)
    let at_ := x.stat.toNat + 8 * pos
    let s3 := if s2.grants (bankOf at_) part 2 then s2.homeWrite at_ (leBytes 8 (seq.toNat + st * 2 ^ 32)) else s2
    let s4 := s3.modPart part (fun p => p.setQueue q { p.queue q with head := x.head + 1 })
    if st = 0 then s4.acceptRecord part seq (.host part q) (w.getD 0) d else s4.refuseRecord part seq

/-- The oldest record of a die's device queue (R292): a refusal is an event record that names the `LAUNCH`. -/
def State.takeDevice (s : State) (die : Nat) : State :=
  match s.devQ.find? (fun x => x.1 == die) with
  | none => s
  | some (_, r) =>
    let w := leNat r.bytes
    if s.recordBusy r.part w then s
    else
    let (st, d) := s.recordStatus r.part w
    let s1 := { s with devQ := s.devQ.filter (fun x => !(x.1 == die && x.2.part == r.part && x.2.seq == r.seq)) }
    if st = 0 then s1.acceptRecord r.part r.seq (.device die) w d
    else (s1.refuseRecord r.part r.seq).postEvent r.part 0 (LRec.ofNat w).ctx.toNat r.lcore r.slot.val (r.seq.toNat + st * 2 ^ 32)

/-- `LAUNCH_RECORD_TAKE` (R291, R292). -/
def execLaunchRecordTake (q : LQueue) (s : State) : Host.Outcome State Fault Refusal :=
  .next (match q with
    | .host p i => s.takeHost p i
    | .device d => s.takeDevice d)

/-! ## Choosing (R293, R294) -/

/-- The dependence of a launch is met (R293). -/
def State.depMet (s : State) (l : Launch) : Bool :=
  match l.r.depk.toNat with
  | 1 =>
    match (s.partn l.part).seq with
    | none => false
    | some n =>
      let d := (n - l.r.depv).toNat
      d < 2 ^ 31 && ((s.partn l.part).ended.contains l.r.depv || 4096 < d)
  | 2 =>
    let a := spKey Config.pkg (s.physOf (bits l.r.depa.toNat 30 19)) (bits l.r.depa.toNat 18 0)
    s.goodNat (a + 8) 4 != l.r.depv.toNat
  | _ => true

/-- A launch is at the head of its queue: no earlier accepted record of the queue waits (R294). (DEDUCED, log 56) -/
def State.isHead (s : State) (l : Launch) : Bool :=
  match s.launches.find? (fun x => x.queue == l.queue && !x.dispatched) with
  | some x => x.part == l.part && x.seq == l.seq
  | none => false

/-- Place of a queue within a context's turn: index 0-7, then the device queue (R294). -/
def queueRank : LQueue → Nat
  | .host _ q => q % 8
  | .device _ => 8

/-- The order in which a launch unit takes heads: priority, then contexts round-robin, then queues (R294). (DEDUCED, log 56) -/
def State.rank (s : State) (l : Launch) : Nat :=
  let last := (((s.partn l.part).rr.find? (fun x => x.1 == (l.r.die0.toNat, l.r.prio.toNat))).map (·.2)).getD 4095
  (l.r.prio.toNat * 4096 + (l.r.ctx.toNat + 4095 - last) % 4096) * 16 + queueRank l.queue

/-- A slot that a launch needs: 0 to n-1, and the Marker slots of a redundant one (R18). -/
def LRec.needs (r : LRec) (i : Fin 8) : Bool := i.val < r.n || (r.redun && 4 ≤ i.val && i.val - 4 < r.n)

/-- What occupies a slot, by its thread; a slot held for a thread that is away names it (R295). -/
def State.occThread (s : State) (c : Nat) (i : Fin 8) : Option Thread :=
  match (s.slot c i).occ with
  | .thread t => some t
  | .away w _ _ _ => s.thread? w
  | _ => none

/-- The launch requires the whole core: a slot of another context, or another image (R295). -/
def State.whole (s : State) (l : Launch) (c : Nat) : Bool :=
  (s.core c).itag != l.tag || allSlots.any (fun i => match s.occCtx (s.slot c i).occ with
    | some x => x != (l.part, l.r.ctx.toNat)
    | none => false)

/-- A thread that may stay beside a launch: one of a launch of the same issue mode; a task or a spark belongs to none (R295). -/
def Thread.mayStay (t : Thread) (l : Launch) : Bool :=
  match t.kind with
  | .launch _ _ b => b == l.r.strict
  | _ => false

/-- The threads that a launch must pre-empt on a core; none where one of them is not pre-emptible, or a slot is reserved for another
dispatch (R295). -/
def State.victimsOn (s : State) (l : Launch) (c : Nat) : Option (List Ident) :=
  let w := s.whole l c
  allSlots.foldlM (fun (acc : List Ident) i =>
    match (s.slot c i).occ with
    | .free | .marker _ => some acc
    | .launch _ _ => none
    | _ =>
      match s.occThread c i with
      | none => none
      | some t =>
        if !w && !l.r.needs i && t.mayStay l then some acc
        else if l.r.prio.toNat < t.prio then some (acc ++ [t.id]) else none) []

/-- The priority of the core block that a dispatch would write (R302). -/
def State.blockPrio (s : State) (vs : List Ident) : Nat :=
  (vs.map (fun v => ((s.thread? v).map (fun t => savePrio t.prio)).getD 3)).foldl (fun a b => if b < a then b else a) 3

/-- A launch can dispatch onto a core (R18, R295, R353); a core block in use is not overwritten (R300). -/
def State.coreReady (s : State) (l : Launch) (c : Nat) : Bool :=
  let k := s.core c
  !s.shut c && k.ranges.length < 4 && k.saved.all (fun x => x.manual || l.r.prio.toNat < x.t.prio) &&
  (match s.victimsOn l c with
    | none => false
    | some vs => vs.isEmpty || !s.whole l c || !(k.blocks.any (fun b => b.prio == s.blockPrio vs)))

/-- A launch can dispatch (R18, R295). -/
def State.canDispatch (s : State) (l : Launch) : Bool := l.r.cores.all (fun x => s.coreReady l (s.physOf x))

/-- Change a launch. -/
def State.modLaunch (s : State) (l : Launch) (f : Launch → Launch) : State :=
  { s with launches := s.launches.map (fun x => if x.part == l.part && x.seq == l.seq then f x else x) }

/-- A launch that waits may claim cores before another: in one unit by its rank, between units by the time at which it was chosen (R294).
(DEDUCED, log 56) -/
def State.goesFirst (s : State) (h l : Launch) : Bool :=
  if h.r.die0 == l.r.die0 then s.rank h < s.rank l
  else h.chosen.any (fun n => l.chosen.all (fun k => n < k))

/-- A head may be taken now: every head that goes before it cannot dispatch and shares no core with it (R294). -/
def State.mayTake (s : State) (l : Launch) : Bool :=
  s.isHead l && s.depMet l &&
  s.launches.all (fun h => h.dispatched || h.part != l.part || !s.isHead h || !s.depMet h || !s.goesFirst h l ||
    ((h.r.die0 != l.r.die0 || !s.canDispatch h) && !(h.r.cores.any (fun x => l.r.cores.contains x))))

/-- A launch has been chosen, and cannot dispatch yet (R294). -/
def State.noteChosen (s : State) (l : Launch) : State :=
  if l.chosen.isSome then s else (s.modLaunch l (fun x => { x with chosen := some s.nextTag })).bump

/-! ## Dispatching (R18 to R20, R295 to R297) -/

/-- The k-th of n parts of an index range (R20). -/
def rangePart (first count j k : Nat) : Nat × Nat := (first + count * j / k, first + count * (j + 1) / k)

/-- Reserve every free slot that a launch needs on a core, or every one where it needs the whole core. -/
def State.reserveSlots (s : State) (l : Launch) (c : Nat) (all : Bool) : State :=
  s.modCore c (fun k => { k with slots := Vector.ofFn (fun i : Fin 8 =>
    let sl := k.slots[i]
    if (all || l.r.needs i) && sl.occ.isFree then { sl with occ := .launch l.part l.seq.toNat } else sl) })

/-- A dispatch begins on the j-th core of k: its range unit, its reservations, and the threads it pre-empts (R20, R30, R295). -/
def State.beginCore (s : State) (l : Launch) (c j k : Nat) : State :=
  let w := s.whole l c
  let vs := (s.victimsOn l c).getD []
  let (lo, hi) := rangePart l.r.first.toNat l.r.count.toNat j k
  let unit : RangeUnit := ⟨l.part, l.seq.toNat, lo, hi, (l.r.lix0.toNat, l.r.lix1.toNat, l.r.die0.toNat, l.r.die1.toNat)⟩
  let p := s.blockPrio vs
  let s1 := s.modCore c (fun k => { k with ranges := k.ranges ++ [unit] })
  let s2 := vs.foldl (fun s v => s.modWho v (Thread.ask .preempt)) s1
  let s3 := if vs.isEmpty then s2 else s2.note (.core c) 0x15 (l.seq.toNat % 2 ^ 28 * 2 ^ 12 + l.r.ctx.toNat)
  let s4 := s3.reserveSlots l c w
  if w && !vs.isEmpty then
    let old := ((s.slotsCtx c).map (·.2)).getD 0
    (s4.modCore c (fun k => { k with blocks := k.blocks ++ [⟨p, s.coreBlockAddr c p, old, [], [], []⟩] })).modLaunch l
      (fun x => { x with blocks := x.blocks ++ [(c, p)] })
  else s4

/-- A launch is chosen: it begins on every core of its rectangle, and waits for the image where the tag differs (R296). -/
def State.beginDispatch (s : State) (l : Launch) : State :=
  let cs := l.r.cores.map s.physOf
  let s1 := ((List.range cs.length).zip cs).foldl (fun s x => s.beginCore l x.2 x.1 cs.length) s
  let load := cs.filter (fun c => (s.core c).itag != l.tag)
  let key := (l.r.die0.toNat, l.r.prio.toNat)
  (s1.modLaunch l (fun x => { x with dispatched := true, load := load })).modPart l.part (fun p =>
    { p with rr := (key, l.r.ctx.toNat) :: p.rr.filter (fun x => x.1 != key) })

/-- The slots of a core whose threads a dispatch still pre-empts, wherever those threads are. -/
def State.stillThere (s : State) (l : Launch) (c : Nat) : List Ident :=
  allSlots.filterMap (fun i => match s.occThread c i with
    | some t => if t.pending = some .preempt && l.r.prio.toNat < t.prio then some t.id else none
    | none => none)

/-- One more step of a thread's pre-emption, in its slot or in the buffer of the core that it has reached (R30). -/
def State.preemptStep (s : State) (who : Ident) : State :=
  match s.placeOf? who with
  | some (c, i) => s.preemptAt c i
  | none =>
    match s.cores.find? (fun x => x.2.migBuf.any (fun m => m.1.id == who)), s.thread? who with
    | some (c, _), some t => if t.saveCode (s.core c) = some 0 && s.blockOpen t then s.saveThread t 0 else s
    | _, _ => s

/-- A completion counter as a dispatch leaves it: its value is 0; what is still outstanding of a former launch finds it so, and leaves it there
(Table 2-4, R233). (DEDUCED, log 99) -/
def CC.atDispatch (x : CC) : CC := ⟨0, x.out⟩

/-- The launch shares the counters of a core with units of its context and image that are there already, or that are SAVED with no core block
to hold theirs (R302). (DEDUCED, log 99) -/
def State.sharesCounters (s : State) (l : Launch) (c : Nat) : Bool :=
  !(s.core c).saved.isEmpty || allSlots.any (fun i => match (s.slot c i).occ with
    | .thread _ | .away _ _ _ _ => true
    | _ => false) && (s.core c).lastCtx == some (l.part, l.r.ctx.toNat)

/-- One more step of a dispatch on a core: its threads, then its copies and its core block (R302). -/
def State.stepCore (s : State) (l : Launch) (c : Nat) : State :=
  let all := l.blocks.any (fun b => b.1 == c) || l.load.contains c
  let s1 := (s.stillThere l c).foldl State.preemptStep s
  match l.blocks.find? (fun b => b.1 == c) with
  | none => s1.reserveSlots l c all
  | some (_, p) =>
    let s2 := (s1.checkpoint c p).reserveSlots l c all
    let written := fun (s : State) => s.modLaunch l (fun x => { x with blocks := x.blocks.filter (fun b => b.1 != c) })
    if (s2.stillThere l c).isEmpty && (s2.core c).engIdle then
      match (s2.core c).blocks.find? (fun b => b.prio == p) with
      -- the context that it was for has ended
      | none => written (s2.modCore c (fun k => { k with cc := k.cc.map CC.atDispatch, marks := k.soundCounters }))
      | some b =>
        if !s2.areaGrants (s2.partOf c) b.base coreBlockBytes 2 then s2
        else
          match s2.coreUnsound c b with
          | some s3 => s3
          | none => written (s2.saveCore c p ((s2.core c).lastCtx != some (l.part, l.r.ctx.toNat)))
    else s2

/-- The thread of a launch in slot i of the j-th core (Table 1-5, R19, R297). -/
def State.launchThread (s : State) (l : Launch) (c : Nat) (i : Fin 8) (j : Nat) : Thread :=
  let r := l.r
  let role := BitVec.ofNat 2 (r.roles.toNat / 4 ^ i.val)
  let ordinal := j * r.n + i.val
  let t := s.startThread c i l.part r.ctx (.launch l.seq role r.strict) r.prio.toNat (r.entry.setWidth 64)
  { t with
    g := ((t.g.set 0 (.of (r.args.setWidth 64))).set 1 (.of (role.setWidth 64))).set 2 (.of (w64 ordinal))
    fmtp := r.fmtp.setWidth 64, sclp := r.sclp.setWidth 64, sbud := r.sbud
    cds := BitVec.ofNat 32 (l.seq.toNat * 65536 + ordinal), lead := r.redun }

/-- A launch starts on the j-th core: latches 0, counters 0 where no other unit of the core shares them (Table 2-4, R302), accumulators +0 where another
context ran last, and one thread in each slot, with its Marker thread in a redundant launch (R18, R39, R51, R222). -/
def State.startCore (s : State) (l : Launch) (c j : Nat) : State :=
  let r := l.r
  let fresh := (s.core c).lastCtx != some (l.part, r.ctx.toNat)
  let s1 := s.modCore c (fun k =>
    { k with
      cc := if s.sharesCounters l c then k.cc else k.cc.map CC.atDispatch
      marks := if s.sharesCounters l c then k.marks else k.soundCounters
      acc := if fresh then [] else k.acc
      accSynd := if fresh then [] else k.accSynd
      slots := k.slots.map (fun sl => { sl with nf := 0, badNf := false, occ := (match sl.occ with
        | .launch p q => if p = l.part && q = l.seq.toNat then .free else sl.occ
        | o => o) }) })
  let s2 := (allSlots.filter (fun i => i.val < r.n)).foldl (fun s i =>
    let s1 := s.place c i (fun s => s.launchThread l c i j)
    match r.redun, s1.threadAt c i with
    | true, some t => s1.modSlot c (i + 4) (fun sl => { sl with occ := .marker t, trail := [] })
    | _, _ => s1) s1
  s2.note (.core c) 0x14 (l.seq.toNat % 2 ^ 28 * 2 ^ 12 + r.ctx.toNat)

/-- Every core of a launch is free for it and holds its image: its threads start (R18). -/
def State.startLaunch (s : State) (l : Launch) : State :=
  let cs := l.r.cores.map s.physOf
  let s1 := ((List.range cs.length).zip cs).foldl (fun s x => s.startCore l x.2 x.1) s
  s1.modLaunch l (fun x => { x with running := true, live := cs.length * l.r.n })

/-- The launch. -/
def State.launch? (s : State) (part seq : Nat) : Option Launch := s.launches.find? (fun l => l.part == part && l.seq.toNat == seq)

/-- Every slot that a launch needs on its cores is reserved for it. -/
def State.allReserved (s : State) (l : Launch) : Bool :=
  l.r.cores.all (fun x => allSlots.all (fun i => !l.r.needs i ||
    (s.slot (s.physOf x) i).occ == .launch l.part l.seq.toNat))

/-- A scan test stands in the way of a launch of priority 0: it is aborted (R353). -/
def State.abortScans (s : State) (l : Launch) : State :=
  if l.r.prio != 0 then s
  else (l.r.cores.map s.physOf).foldl (fun s c => s.modCore c (fun k =>
    { k with scan := k.scan.map (fun x => if x.abort.isSome then x else { x with abort := some s.time.toNat }) })) s

/-- `LAUNCH_DISPATCH`: the next step of a launch's dispatch: it is chosen and reserves its cores, or what stands there is pre-empted,
or, once all is free and loaded, its threads start (R294 to R297). -/
def execLaunchDispatch (part seq : Nat) (s : State) : Host.Outcome State Fault Refusal :=
  .next (match s.launch? part seq with
    | none => s
    | some l =>
      if l.running then s
      else if !l.dispatched then
        if !s.mayTake l then s
        -- a word of its unit that cannot be corrected is consumed, at the core of the unit's router (R320, R321) (DESIGN CHOICE, log 74)
        else if eccClass l.err == .bad then s.consume (Config.unitCore l.r.die0.toNat)
        else
          let s1 := (if l.err = 0 then s else s.modLaunch l (fun x => { x with err := 0 })).abortScans l
          if s1.canDispatch l then s1.beginDispatch l else s1.noteChosen l
      else
        let s1 := (l.r.cores.map s.physOf).foldl (fun s c =>
          match s.launch? part seq with
          | some l => s.stepCore l c
          | none => s) s
        match s1.launch? part seq with
        | none => s1
        | some l => if l.load.isEmpty && l.blocks.isEmpty && s1.allReserved l then s1.startLaunch l else s1)

/-- A core is ready for its image: what it held is saved (R296). (DEDUCED, log 58) -/
def State.loadReady (s : State) (l : Launch) (c : Nat) : Bool :=
  l.dispatched && l.load.contains c && !(l.blocks.any (fun b => b.1 == c)) && (s.stillThere l c).isEmpty && !s.fenced c &&
  allSlots.all (fun i => !l.r.needs i || (s.slot c i).occ == .launch l.part l.seq.toNat)

/-- `IMAGE_LOAD`: LEN bytes to offset 0, then `xb` and `itag` (R296). A line that can no longer be read keeps the load waiting.
(DEDUCED, log 58) -/
def execImageLoad (part seq core : Nat) (s : State) : Host.Outcome State Fault Refusal :=
  .next (match s.launch? part seq with
    | none => s
    | some l =>
      if !s.loadReady l core then s
      else
        let lines := (List.range (l.len / 64)).foldlM (fun (r : State) i =>
          (r.unitLine part l.r.ctx.toNat (l.src + 64 * i) 64 true).map (fun p =>
            p.2.homeWrite (spKey Config.pkg core (64 * i)) p.1)) s
        match lines with
        | none => s
        | some s1 =>
          (s1.modCore core (fun k => { k with xb := w64 l.len, itag := l.tag })).modLaunch l
            (fun x => { x with load := x.load.filter (· != core) }))

end Sys2Proof.Machine
end

