-- ==== Sys2Proof/Machine/System.lean ====
section
/-! DEFINITION. The privileged instructions (R275 to R285). -/

namespace Sys2Proof.Machine

/-! ## Shared parts -/

/-- A control function of a die that the issuing partition does not hold CFG for (R273, log 20). (DEDUCED, log 28) -/
def State.needCfg (s : State) (t : Thread) (die : Nat) (target : Word) : Except (StopKind × State) Unit :=
  if s.cfgOk die t.part then .ok () else stop s (.sup cACCESS target)

/-- The instruction takes the answer of another unit: it writes d and goes on. -/
def State.takeAnswer (s : State) (t : Thread) (d : Operand) (v : Word) : State :=
  ((s.modMe (fun t => { t with carried := none })).write d v).advance t

/-- A thread that waits for another unit is answered: it takes the value when its instruction is issued again. -/
def State.answer (s : State) (who : Ident) (k : Nat) (v : Word) : State :=
  match (s.thread? who).map (fun (t : Thread) => t.status) with
  | some (.parked (.remote id)) => (s.modWho who (fun t => { t with carried := some (k, v) })).wake who (.inl (.remote id))
  | _ => s

/-- The thread that a target word's slot names: its occupant, or the thread for which it is kept (R16, R255, R284). -/
def State.target? (s : State) (n : Nat) : Option Thread :=
  match (s.slot (s.physOf (bits n 11 0)) (Fin.ofNat 8 (bits n 14 12))).occ with
  | .thread t => some t
  | .away w _ _ _ => s.thread? w
  | _ => none

/-- A target word has the form of `SEND` (R255, R275). -/
def targetOk (n : Nat) : Bool := n < 2 ^ 15 && bits n 11 0 < Config.logCores

/-- The state of a core that `LMAPW` and `SCANT` call idle (R281, R353). (DEDUCED, log 68) -/
def State.coreIdle (s : State) (c : Nat) : Bool :=
  let k := s.core c
  !k.anyOcc && k.tasks.isEmpty && k.sparks.isEmpty && k.migBuf.isEmpty && k.depBuf.isEmpty && k.saved.isEmpty && !s.shut c

/-! ## Return and waiting (R276) -/

/-- `SRET` (R276). -/
def execSret (s : State) : Host.Outcome State Fault Refusal :=
  Eff.done do
    let t ← s.ready [] [] []
    s.privileged t
    match s.checkTarget s.cur.core t.spc with
    | some (c, v) => stop s (.trap c v)
    | none => return s.supReturn t

/-- `IDLE`: a doorbell that is held completes it at once (R276). -/
def execIdle (s : State) : Host.Outcome State Fault Refusal :=
  Eff.done do
    let t ← s.ready [] [] []
    s.privileged t
    if (s.slot s.cur.core s.cur.slot).bell then
      return (s.modSlot s.cur.core s.cur.slot (fun sl => { sl with bell := false })).advance t
    else stop s (.park .idle)

/-! ## Saving and loading one thread (R277) -/

/-- The address of a save block: 512 bytes, 64-byte aligned, checked as an access (R183). -/
def State.blockVa (s : State) (t : Thread) (opc : Nat) (p : Fin 8) (write : Bool) : Except (StopKind × State) Nat := do
  let a : Access :=
    { Access.basic opc p 0 512 (.load 8 false none none) .zr with
      align := 64, kind := if write then .store else .load, need := if write then needW else needR, hall := some write }
  let (va, _) ← s.locate s t a
  if (s.rangeSpace s.cur.core va 512).isNone then stop s (.trap cSEGV (t.av p))
  return va

/-- The eight lines of a block: their places, or what stops the access to one. -/
def State.blockPlaces (s : State) (t : Thread) (va : Nat) (write : Bool) (xval : Word) :
    Except (StopKind × State) (List (Nat × Gran) × State) :=
  (List.range 8).foldlM (fun (r : List (Nat × Gran) × State) i => do
    let (name, g, s1) ← r.2.issueName t (va + 64 * i) (if write then .store else .load) (if write then needW else needR) xval
    if write && !s1.grantsTo s.cur.core t.part (bankOf name) name 2 then stop s1 (.sup cACCESS (w64 (va + 64 * i)))
    return (r.1 ++ [(name, g)], s1)) ([], s)

/-- The storage of a block's lines for a save; a line in an absent granule is a birth (R92). -/
def State.blockStore (s : State) (t : Thread) (va : Nat) (l : List (Nat × Gran)) (xval : Word) :
    Except (StopKind × State) (List Nat × State) :=
  ((List.range 8).zip l).foldlM (fun (r : List Nat × State) x => do
    let (name, g) := x.2
    let (sound, s0) := r.2.homeReads name g true false t.part t.id.ctx.toNat (r.2.logOf r.2.cur.core) r.2.cur.slot.val
    if !sound then stop s0 .asIs
    let r := (r.1, s0)
    let s1 ← (match r.2.birthOf name g with
      | .ok => (pure (r.2.birth name g) : Except (StopKind × State) State)
      | .pool => stop r.2 (.trap cALLOCFAIL xval)
      | .stock => r.2.waitRepair t (va + 64 * x.1) (.home (bankOf name)) .stock
      | .frame => r.2.waitRepair t (va + 64 * x.1) (.home (bankOf name)) .frame)
    return (r.1 ++ [s1.storageKey name g], s1)) ([], s)

/-- An identity as one word. -/
def Ident.pack (w : Ident) : Word :=
  w64 (w.ctx.toNat + w.hcore.toNat * 2 ^ 12 + w.hslot.val * 2 ^ 24 + w.inc.toNat * 2 ^ 27)

/-- `CTXSV`: the thread of the slot comes to its next instruction boundary, drains, and is written to the block; it stays SAVED until a
`CTXLD` of the block, and no core restores it by itself (R277). (DEDUCED, log 65) -/
def execCtxsv (d : Operand) (x : Fin 16) (p : Fin 8) (s : State) : Host.Outcome State Fault Refusal :=
  Eff.done do
    let t ← s.ready [.g x, .a p] [d] []
    s.privileged t
    if 8 ≤ (t.gv x).toNat then illegal s t
    s.oarEmpty t
    let va ← s.blockVa t 0x1E3 p true
    let i := Fin.ofNat 8 (t.gv x).toNat
    match s.threadAt s.cur.core i with
    | none => return s.takeAnswer t d 0
    | some u =>
      if u.id = t.id then return s.takeAnswer t d 0
      else if t.carried.any (fun c => c.1 == 5 && c.2 != u.id.pack) then return s.takeAnswer t d 0
      else
        let (l, s1) ← s.blockPlaces t va true (t.av p)
        let s2 := (s1.modMe (fun t => { t with carried := some (5, u.id.pack) })).modAt s.cur.core i
          (Thread.ask (.ctxsv t.id))
        match u.saveCode s2.myCore with
        | none => stop (s2.sendProbes u s.cur.core i .pd) (.park .issue)
        | some code =>
          if !u.drained s.cur.core .pd then stop (s2.sendProbes { u with oar := none } s.cur.core i .pd) (.park .issue)
          else if !s2.markerClear s.cur.core i u then stop s2 (.park .issue)
          else if u.unsound || s2.badRecv u then stop s2 .consume
          else
            let (keys, s3) ← s2.blockStore t va l (t.av p)
            return (s3.saveInto u code keys true).takeAnswer t d 1

/-- The identity that a block names. -/
def blockId (b : List Byte) : Ident :=
  ⟨BitVec.ofNat 12 (blockField b 312 2), BitVec.ofNat 12 (bits (blockField b 216 8) 52 41),
    Fin.ofNat 8 (bits (blockField b 216 8) 55 53), BitVec.ofNat 16 (bits (blockField b 0 8) 55 40)⟩

/-- The thread of a block: the record that `CTXSV` left, or a new unit with the block's state; while a thread of that identity is alive
elsewhere, the new unit takes the home slot's next incarnation, which the slot then counts (R16). -/
def State.blockThread (s : State) (t : Thread) (b : List Byte) : Thread × State :=
  let id := blockId b
  match s.savedOf? id with
  | some x =>
    if x.manual then (x.t, { s with cores := s.cores.map (fun (c, k) => (c, { k with saved := k.saved.filter (fun y => y.t.id != id) })) })
    else fresh s id
  | none => fresh s id
where
  /-- a unit that no record is kept of -/
  fresh (s : State) (id : Ident) : Thread × State :=
    let home := s.physOf id.hcore.toNat
    let n := s.nextInc home id.hslot
    let (id1, s1) := if (s.thread? id).isSome then ({ id with inc := n }, s.modSlot home id.hslot (fun sl => { sl with inc := n })) else (id, s)
    let u := s1.startThread home id.hslot t.part id.ctx (.task s1.nextTag) (bits (blockField b 216 8) 57 56) 0
    ({ u with id := id1 }, s1.bump)

/-- `CTXLD`: the block's thread is READY in the slot at its saved PC (R277). (DEDUCED, log 65) -/
def execCtxld (d : Operand) (x : Fin 16) (p : Fin 8) (s : State) : Host.Outcome State Fault Refusal :=
  Eff.done do
    let t ← s.ready [.g x, .a p] [d] []
    s.privileged t
    if 8 ≤ (t.gv x).toNat then illegal s t
    s.oarEmpty t
    let va ← s.blockVa t 0x1E4 p false
    let i := Fin.ofNat 8 (t.gv x).toNat
    let (l, s1) ← s.blockPlaces t va false (t.av p)
    let (b, s2) ← ((List.range 8).zip l).foldlM (fun (r : List Byte × State) x => do
      let (b, s1) ← r.2.issueRead t (va + 64 * x.1) x.2.1 64 x.2.2
      return (r.1 ++ b, s1)) (([], s1) : List Byte × State)
    let id := blockId b
    if !entLive (s2.centry t.part id.ctx.toNat) || Config.logCores ≤ id.hcore.toNat then illegal s2 t
    else if !(s2.slot s.cur.core i).occ.isFree then return s2.takeAnswer t d 0
    else
      let (u, s3) := s2.blockThread t b
      let v := { Thread.ofBlock b u with status := .ready, pending := none }
      let w := { v with segs := s3.segsFor v }
      let c := s.cur.core
      let home := s3.homeOf w
      let s4 := (s3.modSlot c i (fun sl => { sl with occ := .thread w, left := none, rq := blockRq b, rqSpare := 16 < (blockRq b).length, badRq := [] })).modCore c
        (fun k => { k with lastCtx := some (w.part, w.id.ctx.toNat) })
      let s5 := if (home, w.id.hslot) ≠ (c, i) && (s4.slot home w.id.hslot).occ.isFree
        then s4.setOcc home w.id.hslot (.away w.id w.prio w.part (match w.kind with | .launch _ _ b => b | _ => false)) else s4
      return (s5.tagCheck c i).takeAnswer t d 1

/-! ## Translation (R278) -/

/-- `TLBINV`: drain, then every port is told, and the instruction completes when all have acknowledged (R278). -/
def State.tlbinv (s : State) (srcs : List Operand) (whole : Bool) (page : Thread → Option (Nat × Nat)) : Eff := do
  let t ← s.ready srcs [] []
  s.privileged t
  if s.invalDone then return (s.modMe (fun t => { t with carried := none })).advance t
  else do
    s.drainOr t .pk
    s.sendInval t (page t) whole

/-- `TLBINV.ctx` (R278). -/
def execTlbinvCtx (s : State) : Host.Outcome State Fault Refusal := (s.tlbinv [] false (fun _ => none)).done

/-- `TLBINV.page`: the page that holds the address (R278). -/
def execTlbinvPage (x : Fin 16) (s : State) : Host.Outcome State Fault Refusal :=
  (s.tlbinv [.g x] false (fun t => some ((t.gv x).toNat, 1))).done

/-- `TLBINV.part` (R278). -/
def execTlbinvPart (s : State) : Host.Outcome State Fault Refusal := (s.tlbinv [] true (fun _ => none)).done

/-! ## Diagnostic accesses (R279) -/

/-- The place of a diagnostic word outside the accumulators: its key; none where the location breaks its kind. (DEDUCED, log 31) -/
def State.diagPlace (s : State) (k : DiagKind) (loc : Nat) : Option Nat :=
  match k with
  | .dram => if loc < 2 ^ 46 && loc % 8 = 0 && isDram loc then some (Config.pkg * 2 ^ 46 + loc) else none
  | .sc => if loc % 8 = 0 && isDram loc && Config.present (modOf loc) then some loc else none
  | .sp =>
    if loc % 8 != 0 || loc < 0x800000000000 || 0x802000000000 ≤ loc then none
    else
      match s.spaceOf s.cur.core loc with
      | some (.sp m c off) => some (spKey m c off)
      | _ => none
  | .acc => none

/-- A diagnostic access to DRAM, a scratchpad or a slice's cache: an ordinary access (R126, R279). -/
def State.diagAccess (s : State) (t : Thread) (opc : Nat) (k : DiagKind) (loc : Nat) (op : MemOp) (d : Operand) (chk : Option (Fin 16)) :
    Eff :=
  match s.diagPlace k loc with
  | none => illegal s t
  | some key =>
    let (m, c, _) := spOf key
    if isSp key && m = Config.pkg && c != s.cur.core && !t.lead then stop s (.migrate (s.logOf c))
    else
      let tag := s.nextTag
      let s1 := match chk with
        | some r => s.modMe (fun t => t.setG r { t.gCell r with full := false, pend := some tag })
        | none => s
      .ok (s1.sendAccess t (Access.basic opc 0 0 8 op d) loc key 5 none false none)

/-- The word pair of an accumulator that a location names (R279). -/
def accPlace (loc : Nat) : Option (BitVec 4 × Nat) :=
  if loc < 2 ^ 14 && loc % 2 = 0 then some (BitVec.ofNat 4 (loc / 1024), loc / 2 % 512) else none

/-- The stored word pair of an accumulator. -/
def Core.accPair (k : Core) (tile : BitVec 4) (pair : Nat) : Word :=
  let w := k.accWords tile
  w64 (w.getD (2 * pair) 0 + w.getD (2 * pair + 1) 0 * 2 ^ 32)

/-- Set a word pair of an accumulator with its syndrome; the others keep theirs. -/
def Core.setPair (k : Core) (tile : BitVec 4) (pair : Nat) (v : Word) (synd : BitVec 8) : Core :=
  let w := ((k.accWords tile).set (2 * pair) (v.toNat % 2 ^ 32)).set (2 * pair + 1) (v.toNat / 2 ^ 32)
  let n := 512 * tile.toNat + pair
  let old := k.accSynd.filter (fun p => p.1 != n)
  { k.setAcc tile w with accSynd := if synd = 0 then old else (n, synd) :: old }

/-- The stored syndrome of a word pair. -/
def Core.accSyndAt (k : Core) (tile : BitVec 4) (pair : Nat) : BitVec 8 :=
  ((k.accSynd.find? (fun p => p.1 == 512 * tile.toNat + pair)).map (·.2)).getD 0

/-- `DIAGST`: a word with its check bits, unchecked (R279). -/
def execDiagst (x y c : Fin 16) (k : DiagKind) (s : State) : Host.Outcome State Fault Refusal :=
  Eff.done do
    let t ← s.ready [.g x, .g y, .g c] [] []
    s.privileged t
    s.oarEmpty t
    let data := t.gv y
    let chk := (t.gv c).setWidth 8
    match k with
    | .acc =>
      match accPlace (t.gv x).toNat with
      | none => illegal s t
      | some (a, p) => return (s.modCore s.cur.core (fun k => k.setPair a p data (chk ^^^ ecc data))).advance t
    | _ => s.diagAccess t 0x1E6 k (t.gv x).toNat (.diagSt data chk (k == .sc)) .zr none

/-- `DIAGLD`: a word and its check bits, raw (R279). (DEDUCED, log 67) -/
def execDiagld (d : Operand) (x c : Fin 16) (k : DiagKind) (s : State) : Host.Outcome State Fault Refusal :=
  Eff.done do
    let t ← s.ready [.g x] [d, .g c] []
    s.privileged t
    s.oarEmpty t
    match k with
    | .acc =>
      match accPlace (t.gv x).toNat with
      | none => illegal s t
      | some (a, p) =>
        let v := s.myCore.accPair a p
        return ((s.write d v).write (.g c) ((s.myCore.accSyndAt a p ^^^ ecc v).setWidth 64)).advance t
    | _ => s.diagAccess t 0x1E7 k (t.gv x).toNat (.diagLd c (k == .sc)) d (some c)

/-! ## Detention, the map and the scan test (R280 to R282) -/

/-- A rectangle word is refused (R280). -/
def rectBad (w : Word) : Bool :=
  let n := w.toNat
  2 ^ 13 ≤ n || bits n 6 5 < bits n 4 3 || bits n 12 10 < bits n 9 7

/-- `DETAIN`: the rectangle's Detention, and the threads it lost (R280). (DEDUCED, log 69) -/
def execDetain (d : Operand) (x : Fin 16) (s : State) : Host.Outcome State Fault Refusal :=
  Eff.done do
    let t ← s.ready [.g x] [d] []
    s.privileged t
    match t.carried with
    | some (8, v) => return s.takeAnswer t d v
    | _ =>
      let w := t.gv x
      if rectBad w || inRect w.toNat s.cur.core then illegal s t
      s.needCfg t (rectDie w.toNat) w
      stop (s.startDetention (some t.id) s.cur.core w.toNat) (.park (.remote s.nextTag))

/-- A key in the scratchpad of one core as the same place in another's. -/
def rebind (old new k : Nat) : Nat :=
  if isSp k && (spOf k).1 == Config.pkg && (spOf k).2.1 == old then spKey Config.pkg new (spOf k).2.2 else k

/-- Accesses and arrivals that are under way to the scratchpad of a logical id go to its new core (R281). -/
def State.redirect (s : State) (old new : Nat) : State :=
  let f := rebind old new
  let op := fun (o : EngOp) => { o with
    att := o.att.map f, units := o.units.map (fun u => { u with writes := u.writes.map (fun w => { w with att := w.att.map f }) }) }
  let eng := fun (e : Engine) => { e with queue := e.queue.map op }
  let moved := s.net.filter (fun m => f m.pa != m.pa)
  let s1 := moved.foldl (fun s m => s.modWho m.who (Thread.rebank m.tag (bankOf (f m.pa)))) s
  { s1 with
    net := s1.net.map (fun m => { m with pa := f m.pa, bank := if f m.pa = m.pa then m.bank else bankOf (f m.pa) })
    arrivals := s1.arrivals.map (fun a => { a with pa := f a.pa })
    cores := s1.cores.map (fun (c, k) => (c, { k with mat := eng k.mat, vec := eng k.vec, copy := eng k.copy })) }

/-- Bind a logical id to a physical core of its die (R281, R354). -/
def State.bindCore (s : State) (l new : Nat) : State :=
  let old := s.physOf l
  let s1 := { s.redirect old new with lmap := (l, new) :: s.lmap.filter (fun p => p.1 != l) }
  let s2 := s1.modCore old (fun k => { k with failed := k.failed || k.scanResult == some true })
  s2.modCore new (fun k => { k with itag := 0, xb := 0, acc := [], accSynd := [], cc := Vector.replicate 8 ⟨0, 0⟩, marks := k.soundCounters, lastCtx := none })

/-- `LMAPW`: a logical id is bound to another idle core of its die; one that names a core under test is refused (R281, R353, R354). -/
def execLmapw (d : Operand) (x y : Fin 16) (s : State) : Host.Outcome State Fault Refusal :=
  Eff.done do
    let t ← s.ready [.g x, .g y] [d] []
    s.privileged t
    let l := (t.gv x).toNat
    let new := (t.gv y).toNat
    if Config.logCores ≤ l || 4096 ≤ new || new / 512 != l / Config.logPerDie then illegal s t
    s.needCfg t (l / Config.logPerDie) (t.gv x)
    let old := s.physOf l
    if new = old && (s.core old).scan.isNone then return (s.write d (w64 old)).advance t
    else if new = old || (s.logOf? new).isSome || !s.coreIdle old || !s.coreIdle new then return (s.write d (BitVec.allOnes 64)).advance t
    else return ((s.bindCore l new).write d (w64 old)).advance t

/-- `SCANT`: the scan test of an idle core (R282). -/
def execScant (d : Operand) (x : Fin 16) (s : State) : Host.Outcome State Fault Refusal :=
  Eff.done do
    let t ← s.ready [.g x] [d] []
    s.privileged t
    match t.carried with
    | some (6, v) => return s.takeAnswer t d v
    | _ =>
      let l := (t.gv x).toNat
      if Config.logCores ≤ l then illegal s t
      s.needCfg t (l / Config.logPerDie) (t.gv x)
      let c := s.physOf l
      if c = s.cur.core || !s.coreIdle c then return (s.write d 3).advance t
      else
        let s1 := s.modCore c (fun k => { k with scan := some ⟨some t.id, s.nextTag, s.time.toNat, none⟩ })
        stop s1.bump (.park (.remote s.nextTag))

/-- A scan test ends with a result: it is recorded, as 2 where no thread receives it, the core is clean, and the waiting thread is answered
(R282, R332, R353, R354). -/
def State.endScan (s : State) (core : Nat) (x : Scan) (r : Nat) : State :=
  let heard := x.who.any (fun w => (s.thread? w).any (fun t => t.status == .parked (.remote x.id)))
  let r1 := if heard then r else 2
  let s1 := (s.note (.core core) 0x16 r1).modCore core (fun k =>
    { k with scan := none, acc := [], accSynd := [], cc := Vector.replicate 8 ⟨0, 0⟩, marks := k.soundCounters, scanResult := some (r1 == 1) })
  match x.who with
  | some w => s1.answer w 6 (w64 r)
  | none => s1

/-- `SCAN_TEST_END`: after 250,000 cycles with the signature's verdict; or aborted, in which case a test within its last 2,500 cycles may
still complete (R332, R353). Behind a fence it ends at the rejoin. -/
def execScanTestEnd (core : Nat) (fail : Bool) (s : State) : Host.Outcome State Fault Refusal :=
  .next (match (s.core core).scan with
    | none => s
    | some x =>
      let now := s.time.toNat
      let full : Bool := x.at_ + 250000 ≤ now
      if s.fenced core then s
      else
        match x.abort with
        | none => if full then s.endScan core x fail.toNat else s
        | some r => if full && x.at_ + 247500 ≤ r then s.endScan core x fail.toNat else s.endScan core x 2)

/-! ## Freezing, killing and pre-empting (R283, R284) -/

/-- `DFRZ`: a freeze with cause 0x80; the thread waits until the Report Card is stored (R283). (DEDUCED, log 70) -/
def execDfrz (s : State) : Host.Outcome State Fault Refusal :=
  Eff.done do
    let t ← s.ready [] [] []
    s.privileged t
    match t.carried with
    | some (7, _) => return (s.modMe (fun t => { t with carried := none })).advance t
    | _ =>
      let s1 := s.fatal (some t.id.ctx.toNat) 0x80 0 t.pc (.core s.cur.core) (some t.id)
      stop s1.bump (.park (.remote s.nextTag))

/-- A privileged instruction with a target word: the word, and the thread that it names. -/
def State.targetOf (s : State) (d : Operand) (x : Fin 16) : Except (StopKind × State) (Thread × Option Thread) := do
  let t ← s.ready [.g x] [d] []
  s.privileged t
  let n := (t.gv x).toNat
  if !targetOk n then illegal s t
  s.needCfg t (coreDie (s.physOf (bits n 11 0))) (t.gv x)
  return (t, s.target? n)

/-- The thread is on its way between cores. -/
def State.inTransit (s : State) (who : Ident) : Bool := (s.placeOf? who).isNone

/-- `SLOTKILL`: the named thread ends; one on its way ends where it arrives, and is named once only (R284). (DEDUCED, log 64) -/
def execSlotkill (d : Operand) (x : Fin 16) (s : State) : Host.Outcome State Fault Refusal :=
  Eff.done do
    let (t, u) ← s.targetOf d x
    match u with
    | none => return (s.write d 0).advance t
    | some u =>
      if u.doomed then return (s.write d 0).advance t
      else
        let s1 := (s.write d 1).advance t
        return (if s.inTransit u.id then s1.modWho u.id (Thread.ask .kill) else s1.killThread u)

/-- The kill of a context that an instruction of a core asked for (R32, R284, R337). -/
def State.killOf (s : State) (u : Thread) (core : Nat) (cause : BitVec 8) : State :=
  (s.fatal (some u.id.ctx.toNat) cause 0 0 (.core core) (some u.id)).killCtx u.part u.id.ctx.toNat

/-- `SLOTKILL.ctx`: the context of the named thread is killed, with a Report Card; its cause has no code (R284, R337). Where the thread is on
its way, at its arrival. (DEDUCED, log 64) -/
def execSlotkillCtx (d : Operand) (x : Fin 16) (s : State) : Host.Outcome State Fault Refusal :=
  Eff.done do
    let (t, u) ← s.targetOf d x
    match u with
    | none => return (s.write d 0).advance t
    | some u =>
      if u.doomed then return (s.write d 0).advance t
      else
        let cause := (Config.freeWord s.nextTag).setWidth 8
        let s1 := ((s.write d 1).advance t).bump
        return (if s.inTransit u.id then s1.modWho u.id (Thread.ask (.killCtx s.cur.core cause)) else s1.killOf u s.cur.core cause)

/-- `PREEMPT`: the named thread is to be saved at its next boundary; priority 0 is not (R284). -/
def execPreempt (d : Operand) (x : Fin 16) (s : State) : Host.Outcome State Fault Refusal :=
  Eff.done do
    let (t, u) ← s.targetOf d x
    match u with
    | none => return (s.write d 0).advance t
    | some u =>
      if u.prio = 0 then return (s.write d 0).advance t
      else return ((s.write d 1).advance t).modWho u.id (Thread.ask .preempt)

/-! ## Access tables (R285) -/

/-- The number of targets of each kind (R273, R285): slices, edge routers, CSR windows, host-link functions. -/
def aclCount : Nat → Nat
  | 0 => 96
  | 1 => 16
  | 2 => 8
  | _ => 16

/-- `MATW`: a rights byte of an access table (R285). -/
def execMatw (d : Operand) (x y z : Fin 16) (s : State) : Host.Outcome State Fault Refusal :=
  Eff.done do
    let t ← s.ready [.g x, .g y, .g z] [d] []
    s.privileged t
    let n := (t.gv x).toNat
    let kind := bits n 15 12
    let idx := bits n 11 0
    let part := (t.gv y).toNat
    let r := (t.gv z).toNat
    if 2 ^ 16 ≤ n || 3 < kind || aclCount kind ≤ idx || 16 ≤ part || 32 ≤ r then illegal s t
    if !(s.rights kind idx t.part).getLsbD 4 then stop s (.sup cACCESS (t.gv x))
    let old := s.rights kind idx part
    let acl := ((kind, idx, part), BitVec.ofNat 8 r) :: s.acl.filter (fun e => e.1 != (kind, idx, part))
    return (({ s with acl := acl } : State).write d (old.setWidth 64)).advance t

end Sys2Proof.Machine
end

