-- ==== Sys2Proof/Machine/RollCall.lean ====
section
/-! DEFINITION. Roll Call tokens and the Spare Desk (R119, R304, R305). -/

namespace Sys2Proof.Machine

/-- The other threads of a core, unless one of them is READY or runs on by itself: then none is asked (Table 19-10).
(DEDUCED, log 71) -/
def State.others (s : State) (c : Nat) (i : Fin 8) : List Ident :=
  let l := (s.core c).threads.filter (fun x => x.1 != i)
  let runs := fun (t : Thread) => match t.status with
    | .ready | .engineWait _ | .held _ => true
    | .parked _ | .dropped _ _ => false
  if l.any (fun x => runs x.2) then [] else l.map (fun x => x.2.id)

/-- The parties to which a waiting thread forwards a token, and whether its wait is a queue wait (Table 19-10). (DEDUCED, log 71) -/
def State.parties (s : State) (c : Nat) (i : Fin 8) : Wait → List Ident × Bool
  | .handle _ pa | .retry _ pa _ => (((s.claimant? pa).map (·.1)).toList, false)
  | .grant line => (((s.lineQ line).holder.map (·.who)).toList, false)
  | .queue _ _ => (s.others c i, true)
  | .reg _ => (s.others c i, false)
  | .send l j =>
    ((match (s.slot (s.physOf l) j).occ with
      | .thread u => [u.id]
      | .away w _ _ _ => [w]
      | _ => []), true)
  | .task => (s.others c i, true)
  | _ => ([], false)

/-- Send a token along a thread's wait; a copy that is in flight already is not sent twice. -/
def State.forward (s : State) (c : Nat) (i : Fin 8) (w : Wait) (origin : Ident) (since hops : Nat) (queues : Bool) : State :=
  let (l, q) := s.parties c i w
  l.foldl (fun s x =>
    if s.tokens.any (fun k => k.origin == origin && k.since == since && k.to_ == x && k.queues == (queues && q)) then s
    else { s with tokens := s.tokens ++ [⟨s.nextTag, origin, x, hops, queues && q, since⟩], nextTag := s.nextTag + 1 }) s

/-- `ROLL_CALL_SEND`: a thread has been parked on one wait for 4,096 cycles, or for 4,096 more since its last token (R304). -/
def execRollCallSend (core : Nat) (slot : Fin 8) (s : State) : Host.Outcome State Fault Refusal :=
  .next (match s.threadAt core slot with
    | none => s
    | some t =>
      match t.status with
      | .parked w =>
        if s.time.toNat < t.parkedAt + 4096 * (t.rolled + 1) then s
        else
          let s1 := s.modAt core slot (fun t => { t with rolled := t.rolled + 1 })
          s1.forward core slot w t.id t.parkedAt 1 true
      | _ => s)

/-- The segment base against which the offset of a waited handle is counted: that of the forcing operand of the instruction at the PC; a
unit that forces with no instruction has none. (DESIGN CHOICE, log 103) -/
def State.forceBase (s : State) (c : Nat) (t : Thread) : Nat :=
  if (s.autoHandle? t).isSome then 0 else
  let h := (s.lineAt c (pcBase t.pc).toNat).slot (pcIdx t.pc)
  match decode h.1 h.2 with
  | .ok (.force _ p) => t.segs[p].base.toNat
  | .ok (.susp _ x y _ _ _) =>
    match (x :: y.toList)[(t.walk.map (·.words.length)).getD 0]? with
    | some p => t.segs[p].base.toNat
    | none => 0
  | _ => 0

/-- The value of a `CYCLE` trap: the handle offset, the operand code of the register or queue, or 0 (R305). -/
def State.cycleVal (s : State) (c : Nat) (t : Thread) : Wait → Word
  | .handle va _ | .retry va _ _ => walkOff (s.forceBase c t) va
  | .reg code | .pend code => w64 code
  | .queue k _ => w64 (24 + k.val)
  | .send _ _ => 29
  | _ => 0

/-- The reserve entry of the queue that a blocked push waits for is free (R305). (DEDUCED, log 63) -/
def State.deskFree (s : State) (c : Nat) (t : Thread) : Wait → Bool
  | .queue k true => !(s.core c).qSpare[k]
  | .send l j => !(s.slot (s.physOf l) j).rqSpare
  | .task => !(s.core c).taskSpare[Fin.ofNat 4 t.taskPrio]
  | _ => false

/-- The origin is parked on a read of a queue whose reserve entry is free: it has no push that could take it, and goes on waiting (R305).
(DEDUCED, log 63) -/
def State.popOpen (s : State) (c : Nat) : Wait → Bool
  | .queue k false => !(s.core c).qSpare[k]
  | _ => false

/-- A token is back at its origin: the blocked push may take the reserve entry, or the origin unwinds and traps `CYCLE` (R119, R305). -/
def State.rollBack (s : State) (c : Nat) (i : Fin 8) (t : Thread) (w : Wait) (queues : Bool) : State :=
  if queues && s.deskFree c t w then s.modAt c i (fun t => { t with spare := true })
  else if queues && s.popOpen c w then s
  else
    let v := s.cycleVal c t w
    let s1 := s.unwind t.id
    let s2 : State :=
      { s1 with
        claims := s1.claims.map (fun (x : Claim) => { x with waiters := x.waiters.filter (fun y =>
          match y with | .thread z _ _ => z != t.id | .task _ => true) })
        sends := s1.sends.filter (fun m => m.who != t.id) }
    s2.userTrapAt c i cCYCLE v t.pc

/-- `ROLL_CALL`: a token reaches a party (R304). -/
def execRollCall (i : Nat) (s : State) : Host.Outcome State Fault Refusal :=
  .next (match s.tokens.find? (fun k => k.tag == i) with
    | none => s
    | some k =>
      let s1 := { s with tokens := s.tokens.filter (fun x => x.tag != i) }
      match s1.placeOf? k.to_ with
      | none => s1
      | some (c, j) =>
        match s1.threadAt c j with
        | none => s1
        | some t =>
          match t.status with
          | .parked w =>
            if 64 < k.hops then s1
            else if k.to_ = k.origin then
              if t.parkedAt = k.since then
                ({ s1 with tokens := s1.tokens.filter (fun x => !(x.origin == k.origin && x.since == k.since)) }).rollBack c j t w k.queues
              else s1
            else s1.forward c j w k.origin k.since (k.hops + 1) k.queues
          | _ => s1)

end Sys2Proof.Machine
end

