-- ==== Sys2Proof/Machine/Pages.lean ====
section
/-! DEFINITION. Answers to page requests (R200, R316), the move of a page to another home (R201, R317), the acknowledgement of a
translation invalidation (R278), and the answers of the management mailbox (R356, R357). -/

namespace Sys2Proof.Machine

/-! ## The mailbox (R356, R357, R359) -/

/-- Bring-up has reached READY (Table 25-3). -/
def State.isUp (s : State) : Bool := s.bustat.toNat / 256 == 5

/-- An answer in a function's mailbox: its word with the command's TAG and STATUS, then what the command returns; vector 2 becomes pending
(R356, R357). -/
def State.mail (s : State) (part : Nat) (tag : BitVec 16) (status : Nat) (data : List Byte) : State :=
  let b := leBytes 8 (tag.toNat * 2 ^ 16 + status * 2 ^ 32) ++ data
  ({ s with hostOut := s.hostOut ++ [(part, b)] }).modPart part (fun p => { p with answer := b }.raise s.time.toNat 4)

/-- A command of this function is still in progress (R356). -/
def State.mailBusy (s : State) (part : Nat) : Bool := s.moves.any (fun v => v.part == part)

/-! ## Page responses (R200, R316) -/

/-- The core and slot of the oldest request parked for a page request. -/
def State.reqPlace (s : State) (r : PageReq) : Nat × Nat :=
  match s.faultQ.find? (fun f => f.unit == r.unit && f.part == r.part && f.ctx == r.ctx && s.samePage r.part r.ctx r.va f.va) with
  | some f =>
    match f.what with
    | .access m => (m.core, m.slot.val)
    | .line c e _ => (c, match s.engHead c e with | some o => o.slot.val | none => 0)
    | .thread w c _ => (c, match s.placeOf? w with | some x => x.2.val | none => 0)
  | none => (0, 0)

/-- A page request is answered: what the posting unit has cached of the page is gone. A home has the entries of the page's descriptor and map
cached; its requests stand translated by the leaves of their ports, which are given up for the table's (R313, R316). (DEDUCED, log 72) -/
def State.dropCached (s : State) (r : PageReq) : State :=
  let mine := fun (e : TlbEntry) => e.part == r.part && e.ctx == r.ctx && e.base ≤ r.va && r.va < e.base + pageBytes (lfSize e.leaf.toNat)
  let words := match s.walk r.part r.ctx r.va with
    | .leaf _ size e _ =>
      if lfCls e.toNat = 1 then some (lfPa e.toNat, s.rawNat (lfPa e.toNat + 24) 8, 8 * (pageBytes size / 4096)) else none
    | _ => none
  { s with
    pageReqs := s.pageReqs.filter (fun x => x.tag != r.tag)
    tlb := match r.unit with
      | .port q => s.tlb.filter (fun e => !(e.port == q && mine e))
      | .home _ => s.tlb.filter (fun e => !mine e)
    mapCache := match r.unit, words with
      | .home b, some (d, map, n) => s.mapCache.filter (fun x =>
          !(x.1 == homeNum b && ((d ≤ x.2.1 && x.2.1 < d + 64) || (map ≤ x.2.1 && x.2.1 < map + n))))
      | _, _ => s.mapCache }

/-- A page is repaired: the parked requests of the posting unit for it go on, translated again from the table (R316). (DEDUCED, log 72) -/
def State.repaired (s : State) (r : PageReq) : State :=
  let s1 := s.dropCached r
  let hit := fun (f : FaultEntry) => f.unit == r.unit && f.part == r.part && f.ctx == r.ctx && f.kind != .moving && f.kind != .stock &&
    s1.samePage r.part r.ctx r.va f.va
  s1.replay hit

/-- `PAGE_RESPONSE`, through the function's window (R200, R316, R355). (DEDUCED, log 72, log 76) -/
def execPageResponse (part : Nat) (tag gen : BitVec 32) (ok : Bool) (s : State) : Host.Outcome State Fault Refusal :=
  .next (s.hostWrite part 0x2000 (fun s =>
    let drop := s.modPart part (fun p => { p with discards := p.discards + 1 })
    match s.pageReqs.find? (fun r => r.part == part && r.tag == tag && r.posted) with
    | none => drop
    | some r =>
      if gen.toNat != entGen (s.centry part r.ctx) || gen != r.gen then drop
      else if ok then s.repaired r
      else
        let (core, slot) := s.reqPlace r
        let s1 := s.postEvent part cPAGEFAIL r.ctx (s.logOf core) slot r.va
        (s1.fatal (some r.ctx) cPAGEFAIL (w64 r.va) 0 (r.unit.source core) none).killCtx part r.ctx))

/-! ## Names of a page's bytes -/

/-- Undo the swizzle (Table 20-2). -/
def unswizzle (swz g : Nat) : Nat :=
  if swz < 6 then swizzle swz g
  else
    let f := g / 2 ^ (if swz = 6 then 12 else 15) % 8
    let hi := Nat.xor (g / 64 % 8) f
    let lo := g / 512 % 8
    g / 4096 * 4096 + hi * 512 + lo * 64 + g % 64

/-- The name of byte off of a page with this leaf. -/
def pageName (leaf : Word) (off : Nat) : Nat :=
  let e := leaf.toNat
  if lfCls e = 1 then sparseKey (lfPa e) off else swizzle (lfSwz e) (lfPa e + off)

/-- The byte of a page that a name names. -/
def leafOff (leaf : Word) (size k : Nat) : Option Nat :=
  let e := leaf.toNat
  let base := if lfCls e = 1 then sparseKey (lfPa e) 0 else lfPa e
  if k < base || base + size ≤ k then none
  else if lfCls e = 1 then some (k - base) else some (unswizzle (lfSwz e) k - base)

/-- Where a move takes a name. -/
def Move.key (v : Move) (k : Nat) : Nat :=
  match leafOff v.oldLeaf v.size k with
  | some off => pageName v.newLeaf off
  | none => k

/-- A name lies in the page that moves. -/
def Move.has (v : Move) (k : Nat) : Bool := (leafOff v.oldLeaf v.size k).isSome

/-! ## What moves with a page (R201, R317) -/

/-- A wait as it is at the new home. -/
def Move.wait (v : Move) : Wait → Wait
  | .attend pa => .attend (v.key pa)
  | .handle va pa => .handle va (v.key pa)
  | .retry va pa due => .retry va (v.key pa) due
  | .grant l => .grant (v.key l)
  | .watch l => .watch (v.key l)
  | w => w

/-- A walk as it is at the new home. -/
def Move.walk (v : Move) (w : Walk) : Walk := { w with frames := w.frames.map (fun f => { f with pa := v.key f.pa }) }

/-- A thread as it is at the new home of a page that it uses. -/
def Move.thread (v : Move) (t : Thread) : Thread :=
  { t with
    status := match t.status with
      | .parked w => .parked (v.wait w)
      | st => st
    rsv := t.rsv.map (fun r => { r with pa := v.key r.pa })
    walk := t.walk.map v.walk
    holds := t.holds.map (fun h => { h with walk := h.walk.map v.walk }) }

/-- Change every thread, wherever it is. -/
def State.mapThreads (s : State) (f : Thread → Thread) : State :=
  { s with
    cores := s.cores.map (fun (c, k) => (c, { k with
      slots := k.slots.map (fun sl => { sl with occ := sl.occ.map f })
      saved := k.saved.map (fun x => { x with t := f x.t })
      migBuf := k.migBuf.map (fun (t, l) => (f t, l)) }))
    migs := s.migs.map (fun m => { m with t := f m.t }) }

/-- A request forwarded to the new home. -/
def State.moveMsg (s : State) (v : Move) (m : Msg) : Msg :=
  match m.op, leafOff v.oldLeaf v.size m.pa with
  | .probe, _ | _, none => m
  | _, some off =>
    let name := pageName v.newLeaf off
    { m with pa := name, bank := bankOf name, gran := (s.place? (v.base + off) v.base v.newLeaf).gran }

/-- A line's queue at the new home, before whatever stands there. -/
def State.moveLine (s : State) (v : Move) (q : LineQ) : State :=
  let n := v.key q.line
  let old := s.lineQ n
  let go := fun (l : List Msg) => l.map (s.moveMsg v)
  ({ s with lines := s.lines.filter (fun x => x.line != q.line) }).setLineQ
    { q with line := n, queue := go q.queue ++ old.queue, aside := go q.aside ++ old.aside, watch := q.watch ++ old.watch }

/-- An engine operation whose attendance word or reduction lies on the page. -/
def State.moveOp (s : State) (v : Move) (o : EngOp) : EngOp :=
  { o with
    att := o.att.map v.key
    granted := o.granted.map (fun x => match leafOff v.oldLeaf v.size x.name with
      | some off => { x with name := v.key x.name, gran := (s.place? (v.base + off) v.base v.newLeaf).gran }
      | none => x)
    job := match o.job with | .red m => .red (s.moveMsg v m) | j => j
    units := o.units.map (fun u => { u with writes := u.writes.map (fun w => { w with att := w.att.map v.key }) }) }

/-- The operations of a core after the move. -/
def State.moveCore (s : State) (v : Move) (k : Core) : Core :=
  let f := fun (e : Engine) => { e with queue := e.queue.map (s.moveOp v) }
  { k with mat := f k.mat, vec := f k.vec, copy := f k.copy }

/-! ## Copying a page (R317 step 3) -/

/-- Copy the bytes of a page, whose lines stand in another order where the swizzles differ, with their check bits. -/
def State.copyPlain (s : State) (v : Move) : State :=
  let dst := lfPa v.newLeaf.toNat
  let cells := s.mem.filter (fun c => v.has c.1)
  let out := s.mem.filter (fun c => !(dst ≤ c.1 && c.1 < dst + v.size))
  let synd := (s.synd.filter (fun p => v.has p.1)).map (fun p => (v.key p.1, p.2))
  { s with
    mem := cells.foldl (fun m c => Memory.write m (v.key c.1) c.2) out
    synd := synd ++ s.synd.filter (fun p => !(dst ≤ p.1 && p.1 < dst + v.size))
    lost := (s.lost.filter (fun l => v.has l.2)).map (fun l => (bankOf (v.key l.2), v.key l.2)) ++
      s.lost.filter (fun l => !(dst ≤ l.2 && l.2 < dst + v.size)) }

/-- The existence map of a region descriptor. -/
def State.mapOf (s : State) (leaf : Word) : Nat := s.goodNat (lfPa leaf.toNat + 24) 8
/-- The pool header of a region descriptor. -/
def State.poolOf (s : State) (leaf : Word) : Nat := s.goodNat (lfPa leaf.toNat + 16) 8

/-- The granules of a class-1 page that exist. -/
def State.granules (s : State) (v : Move) : List Nat :=
  (List.range (v.size / 4096)).filter (fun i => (s.goodNat (s.mapOf v.oldLeaf + 8 * i) 8).testBit 0)

/-- The words of a new descriptor and its map are in no home's cache. -/
def State.freshMaps (s : State) (v : Move) : State :=
  let new := lfPa v.newLeaf.toNat
  let map := s.mapOf v.newLeaf
  { s with mapCache := s.mapCache.filter (fun x =>
      !(new ≤ x.2.1 && x.2.1 < new + 64) && !(map ≤ x.2.1 && x.2.1 < map + 8 * (v.size / 4096))) }

/-- Copy a sparse-existence page: the descriptor but for MAP and POOL, which the new place has of its own, and for each existing granule a
frame from the new descriptor's pool, which holds the granule's bytes, with its map entry (R317). (DEDUCED, log 73) -/
def State.copySparse (s : State) (v : Move) : State :=
  let old := lfPa v.oldLeaf.toNat
  let new := lfPa v.newLeaf.toNat
  let s0 := ((s.correctNoted old 64).correctNoted (s.mapOf v.oldLeaf) (8 * (v.size / 4096))).correctNoted (s.poolOf v.newLeaf) 8
  let s1 := ((s0.copyMem old new 16).copyMem (old + 32) (new + 32) 32).freshMaps v
  let map := s1.mapOf v.newLeaf
  let pool := s1.poolOf v.newLeaf
  let s2 := (List.range (v.size / 4096)).foldl (fun s i => s.homeWrite (map + 8 * i) (leBytes 8 0)) s1
  (s1.granules v).foldl (fun s i =>
    let n := s.poolCount pool
    let f := s.goodNat (pool + 16 + 8 * (n - 1)) 8
    let from_ := bits (s.goodNat (s.mapOf v.oldLeaf + 8 * i) 8) 51 12 * 4096
    let gone := (s.lost.filter (fun l => from_ ≤ l.2 && l.2 < from_ + 4096)).map (fun l => (bankOf (l.2 - from_ + f), l.2 - from_ + f))
    let s3 := ((s.homeWrite pool (leBytes 4 (n - 1))).copyMem from_ f 4096).homeWrite (map + 8 * i) (leBytes 8 (f + 1))
    { s3 with lost := gone ++ s3.lost }) s2

/-- The words that the copy reads can be read (R322), and the new descriptor's pool holds a good frame for every granule that exists. -/
def State.sparseFits (s : State) (v : Move) : Bool :=
  let pool := s.poolOf v.newLeaf
  let n := s.poolCount pool
  let need := (s.granules v).length
  s.sound (lfPa v.oldLeaf.toNat) 64 && s.sound (s.mapOf v.oldLeaf) (8 * (v.size / 4096)) && s.sound pool 8 && need ≤ n &&
  (List.range need).all (fun i =>
    let f := s.goodNat (pool + 16 + 8 * (n - 1 - i)) 8
    s.sound (pool + 16 + 8 * (n - 1 - i)) 8 &&
    f % 4096 == 0 && isDram f && dieOf f == dieOf (lfPa v.newLeaf.toNat) && modOf f == modOf (lfPa v.newLeaf.toNat))

/-! ## The move (R201, R317) -/

/-- No line of the page is reserved any more, and the header of the pool that a sparse page's frames come from is free for the copy's atomic
(R132, R201, R314). -/
def State.moveClear (s : State) (v : Move) : Bool :=
  !(s.lines.any (fun q => q.holder.isSome && v.has q.line)) && (lfCls v.oldLeaf.toNat != 1 || s.poolFree (s.poolOf v.newLeaf))

/-- The move is over with a status: its command is answered (R317, R356). -/
def State.moveEnd (s : State) (v : Move) (status : Nat) : State :=
  ({ s with moves := s.moves.filter (fun x => x.tag != v.tag) }).mail v.part v.cmd status []

/-- A request parked for the page that moves. -/
def Move.parked (v : Move) (f : FaultEntry) : Bool := f.part == v.part && f.ctx == v.ctx && v.base ≤ f.va && f.va < v.base + v.size

/-- A move that is refused changes nothing: what waited goes on at the old home. -/
def State.moveRefuse (s : State) (v : Move) : State :=
  (({ s with moves := s.moves.filter (fun x => x.tag != v.tag) }).replay (fun f : FaultEntry => f.kind == FaultKind.moving && v.parked f)).mail v.part v.cmd 1 []

/-- The old home forwards what it holds of the page: requests, waiters, watchers, claims and records are the new home's, and its parked
requests are replayed there in arrival order, before any request that reaches the new home directly (R201 step 4, R317). -/
def State.forwardPage (s : State) (v : Move) : State :=
  let moved := s.net.filter (fun m => v.has m.pa)
  let s1 := moved.foldl (fun s m => s.modWho m.who (Thread.rebank m.tag (bankOf (v.key m.pa)))) s
  let s2 := (s1.lines.filter (fun q => v.has q.line)).foldl (fun s q => s.moveLine v q) s1
  let home := fun (va : Nat) (u : FUnit) => match u with
    | .home _ => FUnit.home (bankOf (pageName v.newLeaf (va - v.base)))
    | u => u
  let what := fun (p : Parked) => match p with | .access m => Parked.access (s2.moveMsg v m) | p => p
  let s3 : State :=
    { s2 with
      net := s2.net.map (s2.moveMsg v)
      inbox := s2.inbox.map (s2.moveMsg v)
      faultQ := s2.faultQ.map (fun f => if v.parked f then { f with unit := home f.va f.unit, what := what f.what } else f)
      pageReqs := s2.pageReqs.map (fun r =>
        if r.part = v.part && r.ctx = v.ctx && v.base ≤ r.va && r.va < v.base + v.size then { r with unit := home r.va r.unit } else r)
      claims := s2.claims.map (fun (c : Claim) => { c with pa := v.key c.pa, bank := bankOf (v.key c.pa) })
      relRec := s2.relRec.map (fun r => { r with word := v.key r.word })
      wakes := s2.wakes.map (fun (w : Wake) => { w with wait := match w.wait with | .inl a => .inl (v.wait a) | .inr t => .inr t })
      arrivals := s2.arrivals.map (fun (a : Arrival) => { a with pa := v.key a.pa })
      cores := s2.cores.map (fun (c, k) => (c, s2.moveCore v k)) }
  (s3.mapThreads v.thread).replay (fun f : FaultEntry => (f.kind == FaultKind.moving || f.kind == FaultKind.stock) && v.parked f)

/-- The data moves, the new leaf is written, what the old home holds is forwarded, and the translations are shot down; until every port has
acknowledged, a request by the old leaf is forwarded too (R317 step 3). (DEDUCED, log 73) -/
def State.moveData (s : State) (v : Move) : State :=
  let cls := lfCls v.oldLeaf.toNat
  match s.walk v.part v.ctx v.base with
  | .leaf _ size _ k =>
    let s1 := if cls = 1 then s.copySparse v else s.copyPlain v
    let ks := if size = 1 then (List.range 16).map (fun i => k + 8 * i) else [k]
    let s2 := ks.foldl (fun s k => s.homeWrite k (leBytes 8 v.newLeaf.toNat)) s1
    let s3 : State := { s2 with
      invals := s2.invals ++ [⟨s2.nextTag, none, v.ctx, v.part, some (v.base, v.size), false, List.range 1024⟩]
      moves := s2.moves.map (fun (x : Move) => if x.tag = v.tag then { x with shot := some s2.nextTag } else x)
      nextTag := s2.nextTag + 1 }
    s3.forwardPage v
  | .busy => s
  | _ => s.moveRefuse v

/-- `PAGEMOVE`: the command begins with the mark; issued again it goes on once the page's reservations are released (R201, R317).
(DEDUCED, log 73) -/
def execPagemove (hd : MailCmd) (ctx : Nat) (va : BitVec 48) (leaf : Word) (s : State) : Host.Outcome State Fault Refusal :=
  .next (
    let submit := s.hostWrite hd.part 0x1040
    if !s.isUp then submit (fun s => s.mail hd.part hd.tag 2 [])
    else
      match s.moves.find? (fun v => v.part == hd.part) with
      | some v =>
        if v.cmd != hd.tag || v.ctx != ctx || !(v.base ≤ va.toNat && va.toNat < v.base + v.size) || v.newLeaf != leaf then
          submit (fun s => s.mail hd.part hd.tag 2 [])
        else if v.shot.isSome || !s.moveClear v then s
        else if lfCls v.oldLeaf.toNat = 1 && !s.sparseFits v then s.moveRefuse v
        else s.moveData v
      | none => submit (fun s =>
        match s.walk hd.part ctx va.toNat with
        | .leaf base size old _ =>
          let e := leaf.toNat
          if !lfV e || lfCls e = 4 || lfCls old.toNat = 4 || !entLive (s.centry hd.part ctx) || lfBad e || lfSize e != size ||
              lfCls e != lfCls old.toNat then s.mail hd.part hd.tag 1 []
          else
            { s with
              moves := s.moves ++ [⟨hd.tag, hd.part, ctx, base, pageBytes size, old, leaf, s.time.toNat, none, s.nextTag⟩]
              nextTag := s.nextTag + 1 }
        -- the read of the table waits for a reserved line: the command is not taken yet (R125, R307)
        | .busy => s
        | _ => s.mail hd.part hd.tag 1 []))

/-! ## Acknowledgements (R278, R317) -/

/-- A port acknowledges an invalidation: its entries are gone; with the last one the `TLBINV` or the move goes on. -/
def State.portAck (s : State) (i port : Nat) : State :=
  match s.invals.find? (fun v => v.tag == i) with
  | none => s
  | some v =>
    if !v.left.contains port then s
    else
      let gone := fun (e : TlbEntry) => e.port == port && e.part == v.part && (v.whole || e.ctx == v.ctx) &&
        (match v.page with
          | none => true
          | some (a, n) => e.base < a + n && a < e.base + pageBytes (lfSize e.leaf.toNat))
      let left := v.left.filter (· != port)
      let s1 := { s with tlb := s.tlb.filter (fun e => !gone e) }
      if left.isEmpty then
        let s2 := { s1 with invals := s1.invals.filter (fun x => x.tag != i) }
        match v.who with
        | some w => s2.answer w 9 0
        | none =>
          match s2.moves.find? (fun m => m.shot == some i) with
          | some m => s2.moveEnd m 0
          | none => s2
      else { s1 with invals := s1.invals.map (fun (x : Inval) => if x.tag = i then { x with left := left } else x) }

/-- `PORT_ACK` (R278, R317). -/
def execPortAck (i port : Nat) (s : State) : Host.Outcome State Fault Refusal := .next (s.portAck i port)

end Sys2Proof.Machine
end

