-- ==== Sys2Proof/Machine/Detain.lean ====
section
/-! DEFINITION. The stages of a Detention (R31, R120, R327 to R331), errors in storage, steps and flits (R318, R320, R323), the pass of a
bank over its words (R322), and the time limit of a Marker thread (R324). -/

namespace Sys2Proof.Machine

/-! ## Notice (R31, R120) -/

/-- A unit inside a Detention: its core, its slot, and whether it is SAVED there; the fence's own victims on their way out among them. -/
def State.inside (s : State) (rect : Nat) : List (Nat × Fin 8 × Thread × Bool) :=
  (rectCores rect).flatMap (fun c =>
    let k := s.core c
    k.threads.map (fun x => (c, x.1, x.2, false)) ++ k.saved.map (fun x => (c, x.t.id.hslot, x.t, true)) ++
      k.migBuf.map (fun x => (c, x.1.id.hslot, x.1, false))) ++
    (s.migs.filter (fun m => inRect rect m.src && s.migDropped m)).map (fun m => (m.src, m.t.id.hslot, m.t, false))

/-- Forget where a lost thread waits; its requests that have left the rectangle stand (R327). -/
def State.forgetWaits (s : State) (who : Ident) : State :=
  { s with
    lines := s.lines.map (fun q => { q with
      queue := q.queue.filter (fun m => !(m.who == who && (match m.op with | .rsv _ _ => true | _ => false)))
      watch := q.watch.filter (· != who) })
    faultQ := s.faultQ.filter (fun f => match f.what with | .thread x _ _ => x != who | _ => true)
    steals := s.steals.map (fun x => { x with who := x.who.filter (· != who) })
    claims := s.claims.map (fun c => { c with waiters := c.waiters.filter (fun w => match w with | .thread x _ _ => x != who | .task _ => true) })
    bars := s.bars.map (fun g => { g with members := g.members.filter (· != who) })
    redns := s.redns.map (fun g => { g with members := g.members.filter (fun m => m.1 != who) }) }

/-- One unit inside is gone: a restartable task that ran is eligible again, a spark that ran is dropped, any other thread, and every SAVED one,
is lost with `MCE`: one for each index that was handed out to it, the first first (R31). The value of the `MCE` of a thread that drew none is a free value, since the
spec gives none. (DESIGN CHOICE, log 72) -/
def State.loseUnit (s : State) (d : Nat) (x : Nat × Fin 8 × Thread × Bool) : State :=
  let (c, i, t, saved) := x
  let s1 := ((s.dropRsv t.id).dropClaims t.id).forgetWaits t.id
  let lost := fun (s : State) =>
    let l := match t.drew with | [] => [(Config.freeWord s.nextTag).toNat] | _ => t.drew.reverse
    let s1 := (l.foldl (fun s v => s.postEvent t.part cMCE t.id.ctx.toNat (s.logOf c) i.val v) s.bump).retire t
    { s1 with detentions := s1.detentions.map (fun y => if y.id = d then { y with lost := y.lost + 1 } else y) }
  match t.kind with
  | .spark _ => if saved then lost s1 else s1.retire t
  | .task n => if t.visible || saved then lost s1 else (s1.modDesc n (Desc.squash 0)).vacate t.id
  | .launch _ _ _ => lost s1

/-- The claims of threads whose home core lies inside are reverted (R120). -/
def State.revertInside (s : State) (rect : Nat) : State :=
  let mine := s.claims.filter (fun c => match c.claimant with
    | some (x, _) => inRect rect (s.physOf x.hcore.toNat)
    | none => false)
  mine.foldl (fun s c => s.revert c.pa) s

/-- The range units inside keep no index, so that a later `NEXT` finds them empty and steals, and steals for them end (R21, R31). -/
def State.dropRanges (s : State) (rect : Nat) : State :=
  let ended := s.steals.filter (fun x => inRect rect x.thief)
  let s1 := ended.foldl (fun s x => x.who.foldl (fun s w => s.answerNext x.tag w 1 0) s) s
  (rectCores rect).foldl (fun s c => s.modCore c (fun k => { k with ranges := k.ranges.map (fun r => { r with lo := r.hi }) }))
    { s1 with steals := s1.steals.filter (fun x => !inRect rect x.thief) }

/-- Enter a stage: every core inside records it (type 0x17). -/
def State.detStage (s : State) (d : Detention) (stage : Nat) : State :=
  let s1 := (rectCores d.rect).foldl (fun s c => s.note (.core c) 0x17 (stage * 2 ^ 13 + d.rect % 2 ^ 13)) s
  { s1 with detentions := s1.detentions.map (fun x => if x.id = d.id then { x with stage := stage + 1 } else x) }

/-- `DETENTION_NOTICE` (R31, R120, R327). -/
def execDetentionNotice (i : Nat) (s : State) : Host.Outcome State Fault Refusal :=
  .next (match s.detentions.find? (fun d => d.id == i && d.stage == 1) with
    | none => s
    | some d =>
      let s1 := (s.inside d.rect).foldl (fun s x => s.loseUnit i x) s
      ((s1.revertInside d.rect).dropRanges d.rect).detStage d 1)

/-! ## Reset (R328) -/

/-- The reservation for a thread that is away by migration (R16). -/
def Occ.reserved : Occ → Occ
  | .away w p q b => .away w p q b
  | _ => .free

/-- A core after a Detention's reset: its scratchpad, image and task queues stay (R328), its save area's base and map bookkeeping, and the
incarnation count, window-stack bounds and reservation of a slot whose thread runs on another core (R16); it stays stopped until the rejoin.
(DEDUCED, log 69) -/
def Core.detained (k : Core) : Core :=
  { Core.reset with
    xb := k.xb, itag := k.itag, csave := k.csave, ranges := k.ranges, tasks := k.tasks, taskSpare := k.taskSpare, lastCtx := k.lastCtx
    marks := k.marks.filter (fun m => match m.1 with | .task _ => true | _ => false)
    slots := k.slots.map (fun sl =>
      { Slot.reset with inc := sl.inc, wsb := sl.wsb, wsl := sl.wsl, left := sl.left, occ := sl.occ.reserved })
    scan := k.scan, scanResult := k.scanResult, failed := k.failed, detTimes := k.detTimes, stopped := true }

/-- A write of a reset core's engine that stands parked in a home's fault queue is a request of its own: it is replayed there, and what its
operation would have done beside it is gone (R327). (DEDUCED, log 69) -/
def State.standing (s : State) (c : Nat) (f : FaultEntry) : Option FaultEntry :=
  match f.what, f.unit with
  | .line x e va, .home b =>
    if x != c then some f
    else
      match s.engHead c e with
      | none => none
      | some o =>
        match (o.units.flatMap (·.writes)).find? (fun w => !w.done && w.va == va) with
        | none => none
        | some w =>
          let (name, g) := match s.walk f.part f.ctx va with
            | .leaf base _ l _ => ((s.place? va base l).name, (s.place? va base l).gran)
            | _ => (va, none)
          let m : Msg :=
            { tag := o.tag, who := o.who, part := o.part, core := c, slot := o.slot, opc := o.opc, pc := o.pc, next := o.pc
              off := w64 va, va := va, pa := name, bytes := w.bytes.length, acc := .store, need := needW, cls := 0, bank := b
              op := .store w.bytes none, rlx := true, unchk := true, stuck := false, dst := .none, undo := none, gran := g }
          some { f with what := .access m }
  | .line x _ _, .port _ => if x = c then none else some f
  | _, _ => some f

/-- Reset one core; what its store comparators still hold never leaves it (R324), the deposits in its buffer are discarded, which ends them for
their senders (R232, R328), and parked writes that had left it stand (R327). -/
def State.resetCore (s : State) (c : Nat) : State :=
  let s0 := ((s.core c).slots.toList.flatMap (fun sl => sl.trail.filter (·.out))).foldl (fun s e => s.dropHeld c e.lo e.hi) s
  let ops := (s.core c).engQueue
  let s00 := (s0.core c).depBuf.foldl (fun s d => s.dropDeposit d c) { s0 with faultQ := s0.faultQ.filterMap (s0.standing c) }
  let s1 := s00.modCore c Core.detained
  let s2 := { s1 with ownerless := s1.ownerless.filter (fun m => m.1 != c) }
  ops.foldl (fun s o => s.threadOpDone o.who o.tag) s2

/-- Waiting members of the reduction groups of a unit that holds a core of the rectangle trap `REDCOUNT` when they go on (R259). -/
def State.failRedns (s : State) (rect : Nat) : State :=
  let hit := fun (g : RednGroup) => (rectCores rect).any (fun c => unitNo g.scope c == g.unit)
  let s1 := (s.redns.filter hit).foldl (fun s g => g.members.foldl (fun s m =>
    (s.modWho m.1 (fun t => { t with carried := some (10, w64 g.count) })).wake m.1 (.inl (.redn g.id))) s) s
  { s1 with redns := s1.redns.filter (fun g => !hit g) }

/-- The reservation of an atomic whose release a fence has dropped is released with no write (R132, R327). -/
def State.freeLost (s : State) : State :=
  (s.lines.filter (fun q => q.holder.any (fun h => !h.rsv && !(s.rels.any (fun r => r.msg.tag == h.tag))))).foldl
    (fun s q => s.freeLine q.line false) s

/-- `DETENTION_RESET` (R328). -/
def execDetentionReset (i : Nat) (s : State) : Host.Outcome State Fault Refusal :=
  .next (match s.detentions.find? (fun d => d.id == i && d.stage == 2) with
    | none => s
    | some d => ((((rectCores d.rect).foldl State.resetCore s).freeLost).failRedns d.rect).detStage d 2)

/-! ## Rejoin (R329 to R331) -/

/-- A core is to leave the map: three Detentions within 2^42 cycles, or its last scan test returned 1 (R331). -/
def State.mustLeave (s : State) (c : Nat) : Bool :=
  let k := s.core c
  3 ≤ (k.detTimes.filter (fun t => s.time.toNat - t ≤ 2 ^ 42)).length || k.scanResult == some true

/-- The idle spare of a die that R331 takes: of the lowest physical id. -/
def State.spareOf (s : State) (die : Nat) : Option Nat :=
  ((List.range 512).map (fun i => die * 512 + i)).find? (fun c => (s.logOf? c).isNone && !(s.core c).failed && s.coreIdle c)

/-- A core of a rejoining rectangle is remapped if it must leave; the event record names both ids, and says so where no spare is free
(R331). -/
def State.remap (s : State) (c : Nat) : State :=
  match s.logOf? c with
  | none => s
  | some l =>
    if !s.mustLeave c then s
    else
      match s.spareOf (coreDie c) with
      | some n =>
        ((s.bindCore l n).modCore c (fun k => { k with failed := true })).postEvent (s.partOf c) cMCE 0 l 0 c
      | none => s.postEvent (s.partOf c) cMCE 0 l 0 (2 ^ 63 + c)

/-- Detentions that were held back begin, or are absorbed, in their order (R330). -/
def State.startHeld (s : State) : State :=
  (s.detentions.filter (fun d => d.stage == 0)).foldl (fun s d =>
    let busy := s.detentions.filter (fun x => x.stage != 0)
    if busy.any (fun x => inRect x.rect d.origin && rectsMeet x.rect d.rect) then { s with detentions := s.detentions.filter (fun x => x.id != d.id) }
    else if busy.any (fun x => rectsMeet x.rect d.rect) then s else s.fenceIn d) s

/-- `DETENTION_REJOIN`: the map is mended, the fence is lifted, and a waiting `DETAIN` learns how many threads were lost. -/
def execDetentionRejoin (i : Nat) (s : State) : Host.Outcome State Fault Refusal :=
  .next (match s.detentions.find? (fun d => d.id == i && d.stage == 3) with
    | none => s
    | some d =>
      let cs := rectCores d.rect
      let s1 := s.detStage d 3
      let s2 := { s1 with detentions := s1.detentions.filter (fun x => x.id != i) }
      let s3 := cs.foldl (fun s c => if s.fenced c then s else s.modCore c (fun k => { k with stopped := false })) s2
      let s4 := cs.foldl (fun s c => match (s.core c).scan with | some x => s.endScan c x 2 | none => s) s3
      let s5 := cs.foldl State.remap s4
      let s6 := match d.who with | some w => s5.answer w 8 (w64 d.lost) | none => s5
      s6.startHeld)

/-! ## Errors (R318 to R323) -/

/-- Flip stored bits of the word at a key: data bits and check bits. -/
def State.flipWord (s : State) (k : Nat) (data : Word) (chk : BitVec 8) : State :=
  let w := k / 8 * 8
  let x := w64 (s.rawNat w 8)
  let s1 := { s with mem := Memory.writes s.mem w (leBytes 8 (x ^^^ data).toNat) }
  s1.setSynd w (s.syndAt w ^^^ chk ^^^ ecc data)

/-- Flip bits of a word in its slice's cache, whose line counts as clean: where no read can correct it the cached copy alone is wrong, and
else the word's one copy is (R122, R321). (DEDUCED, log 31) -/
def State.flipCached (s : State) (k : Nat) (data : Word) (chk : BitVec 8) : State :=
  let w := k / 8 * 8
  let (x, e) := match s.cacheBad.find? (fun e => e.1 == w) with
    | some e => e.2
    | none => (w64 (s.rawNat w 8), s.syndAt w)
  let s1 := { s with cacheBad := s.cacheBad.filter (fun e => e.1 != w) }
  let e1 := e ^^^ chk ^^^ ecc data
  if eccClass e1 == .bad then { s1 with cacheBad := (w, x ^^^ data, e1) :: s1.cacheBad }
  else ({ s1 with mem := Memory.writes s1.mem w (leBytes 8 (x ^^^ data).toNat) } : State).setSynd w e1

/-- The parity of a word's bits. -/
def parity64 (x : Word) : Bool := ((List.range 64).filter (fun i => x.getLsbD i)).length % 2 == 1

/-- The step at which an operation stands: the count of the line events that it has performed. (DEDUCED, log 73) -/
def EngOp.step (o : EngOp) : Nat :=
  (o.units.map (fun u => (u.reads.filter (fun r => r.got.isSome)).length + (u.writes.filter (·.done)).length)).sum

/-- A residue mismatch in an engine's step: the step is run once more, an `MMA` as a whole; a second mismatch on the same step is consumed
(R323). -/
def State.stepError (s : State) (c : Nat) (e : Eng) : State :=
  match s.engHead c e with
  | none => s
  | some o =>
    if !o.started || o.finished then s
    else if ((s.core c).engine e).again.contains o.step then s.consume c
    else s.modCore c (fun k => k.modEngine e (fun x =>
      { x with again := o.step :: x.again, retry := match o.job with | .mma _ _ _ _ _ => true | _ => x.retry }))

/-- Flip bits of a CSR that the thread holds (Tables 2-4, 18-3); none for another number. -/
def Thread.flipCsr (t : Thread) (n : Nat) (data : Word) : Option Thread :=
  match n with
  | 0x000 => some { t with rnd := t.rnd ^^^ data.setWidth 3 }
  | 0x001 => some { t with vl := t.vl ^^^ data.setWidth 11 }
  | 0x002 => some { t with sst := t.sst ^^^ data.setWidth 9 }
  | 0x003 => some { t with pcb := t.pcb ^^^ data.setWidth 3 }
  | 0x004 => some { t with cds := t.cds ^^^ data.setWidth 32 }
  | 0x008 => some { t with fmtp := t.fmtp ^^^ data }
  | 0x009 => some { t with sclp := t.sclp ^^^ data }
  | 0x00A => some { t with sbud := t.sbud ^^^ data.setWidth 32 }
  | 0x010 => some { t with xcause := t.xcause ^^^ data }
  | 0x011 => some { t with xval := t.xval ^^^ data }
  | 0x012 => some { t with xpc := t.xpc ^^^ data }
  | 0x013 => some { t with xh := t.xh ^^^ data }
  | 0x014 => some { t with ovh := t.ovh ^^^ data }
  | 0x801 => some { t with scause := t.scause ^^^ data }
  | 0x802 => some { t with sval := t.sval ^^^ data }
  | 0x803 => some { t with spc := t.spc ^^^ data }
  | 0x804 => some { t with sh := t.sh ^^^ data }
  | 0x805 => some { t with sscr := t.sscr ^^^ data }
  | _ => none

/-- An error in a word that has no address: its syndrome changes while the word is there (R318). -/
def Core.strike (k : Core) (u : CoreStore) (x : BitVec 8) : Core :=
  let here : Bool := match u with
    | .eng g => k.engQueue.any (fun o => o.tag == g && !o.started)
    | .hall g => k.engQueue.any (fun o => o.tag == g)
    | .task n => k.tasks.any (fun d => d.num == n && d.state == 1)
    | .range p q => k.ranges.any (fun r => r.part == p && r.seq == q)
    | .dep g => k.depBuf.any (fun d => d.tag == g)
    | .mig c i n => k.migBuf.any (fun m => m.1.id.hcore == c && m.1.id.hslot == i && m.1.id.inc == n)
    | .cc _ => x == 3
  let old := ((k.marks.find? (fun m => m.1 == u)).map (·.2)).getD 0
  let new := (u, old ^^^ x)
  let rest := k.marks.filter (fun m => m.1 != u)
  if here then { k with marks := match u with | .cc _ => if old ^^^ x = 0 then rest else new :: rest | _ => new :: rest } else k

/-- A flip of an odd count of bits turns the parity of the entry at a place (R320). -/
def flipPlace (odd : Bool) (j : Nat) (l : List Nat) : List Nat := if !odd then l else if l.contains j then l.filter (· != j) else j :: l

/-- `STORAGE_ERROR`: stored bits are flipped in place (R318, R320). -/
def execStorageError (l : ErrLoc) (flip : BitVec 72) (s : State) : Host.Outcome State Fault Refusal :=
  let data : Word := flip.setWidth 64
  let chk : BitVec 8 := (flip >>> 64).setWidth 8
  let odd : Bool := parity64 data ^^ chk.getLsbD 0
  match l with
  | .dram pa | .cell pa => if isDram pa then .next (s.flipWord pa data chk) else .fault .noStorage
  | .cache pa => if isDram pa then .next (s.flipCached pa data chk) else .fault .noStorage
  | .spad c off => .next (s.flipWord (spKey Config.pkg c off) data chk)
  | .acc c k w =>
    let a := BitVec.ofNat 4 k
    .next (s.modCore c (fun x => x.setPair a w (x.accPair a w ^^^ data) (x.accSyndAt a w ^^^ chk ^^^ ecc data)))
  | .reg c i r =>
    let hit := fun (t : Thread) =>
      let x := t.cell r
      t.setCell r { x with val := x.val ^^^ data, bad := x.bad ^^ odd }
    .next (s.modSlot c i (fun sl => { sl with occ := match sl.occ with | .marker m => .marker (hit m) | o => o.map hit }))
  | .step c e => .next (s.stepError c e)
  | .queue c n j =>
    .next (s.modCore c (fun k =>
      match k.q[n][j]? with
      | some (.val w) => { k with q := k.q.set n (k.q[n].set j (.val (w ^^^ data))), badQ := k.badQ.set n (flipPlace odd j k.badQ[n]) }
      | _ => k))
  | .recv c i j =>
    .next (s.modSlot c i (fun sl =>
      match sl.rq[j]? with
      | some w => { sl with rq := sl.rq.set j (w ^^^ data), badRq := flipPlace odd j sl.badRq }
      | none => sl))
  | .window c i n r =>
    .next (s.modAt c i (fun t => { t with resident := t.resident.modify n (fun x =>
      { x with win := x.win.set r { x.win[r] with val := x.win[r].val ^^^ data, bad := x.win[r].bad ^^ odd } }) }))
  | .launch p q =>
    .next { s with launches := s.launches.map (fun l => if l.part = p && l.seq.toNat = q then { l with err := l.err ^^^ chk ^^^ ecc data } else l) }
  -- no check of Table 21-2 stands over these: their bits are other bits
  | .capsule off =>
    let b := leBytes 8 data.toNat
    .next { s with capsule := { s.capsule with store := (List.range 8).foldl (fun m i => Memory.write m (off + i) (Memory.read m (off + i) ^^^ b.getD i 0)) s.capsule.store } }
  | .acl k i p =>
    .next { s with acl := ((k, i, p), s.rights k i p ^^^ data.setWidth 8) :: s.acl.filter (fun x => x.1 != (k, i, p)) }
  | .bustat => .next { s with bustat := s.bustat ^^^ data }
  | .latch c i => .next (s.modSlot c i (fun sl => { sl with nf := sl.nf ^^^ data, badNf := sl.badNf ^^ odd }))
  | .preds c i => .next (s.modAt c i (fun t => { t with pw := (t.pw ^^^ data.setWidth 32) ||| 1, badPw := t.badPw ^^ odd }))
  | .csr c i n =>
    if 0x020 ≤ n.toNat && n.toNat < 0x028 then
      -- a counter is the core's: its parity stands as a mark that no read corrects
      let k := Fin.ofNat 8 (n.toNat - 0x020)
      let s1 := s.modCore c (fun x => { x with cc := x.cc.set k { x.cc[k] with val := x.cc[k].val ^^^ data.setWidth 16 } })
      .next (if odd then s1.modCore c (fun x => x.strike (.cc k) 3) else s1)
    else
    .next (s.modAt c i (fun t => match t.flipCsr n.toNat data with
      | some u => if odd then { u with badCsr := if t.badCsr.contains n.toNat then t.badCsr.erase n.toNat else n.toNat :: t.badCsr } else u
      | none => t))
  | .store c u => .next (s.modCore c (fun k => k.strike u (chk ^^^ ecc data)))
  | .diary src i =>
    let d := s.diaryOf src
    let old := ((d.errs.find? (fun e => e.1 == i)).map (·.2)).getD (0, 0)
    .next (s.setDiary { d with errs := (i, old.1 ^^^ data, old.2 ^^^ chk ^^^ ecc data) :: d.errs.filter (fun e => e.1 != i) })

/-- A running `MMA` of the core awaits an operand line over the network. -/
def State.mmaAwaits (s : State) (c : Nat) : Bool :=
  match s.engHead c .mat with
  | none => false
  | some o =>
    (match o.job with | .mma _ _ _ _ _ => o.started && !o.finished | _ => false) &&
    o.units.any (fun u => u.reads.any (fun r => r.got.isNone && (match s.spaceOf c r.va with
      | some (.sp m x _) => !(m == Config.pkg && x == c)
      | _ => true)))

/-- `FLIT_RESENT`: a flit that fails its check is sent once more; an `MMA` that awaits an operand restores its accumulator for it (R225). A
second failure is consumed by the receiving router's core (R320). (DEDUCED, log 73) -/
def execFlitResent (core : Nat) (again : Bool) (s : State) : Host.Outcome State Fault Refusal :=
  .next (
    if again then s.consume core
    else if s.mmaAwaits core then s.modCore core (fun k => k.modEngine .mat (fun x => { x with retry := true }))
    else s)

/-- `SCRUB`: a bank reads one of its lines, corrects it, or finds it lost (R322). -/
def execScrub (b : Bank) (line : Nat) (s : State) : Host.Outcome State Fault Refusal :=
  if line % 64 != 0 || bankOf line != b || isSparse line || !(if isSp line then (spOf line).2.2 < Config.spBytes else isDram line)
  then .fault .noStorage
  else .next (s.readStored line 64).2

/-- The comparison of a pair fails at an entry: the mismatch is recorded and consumed, and no output that the comparator holds leaves the core
(R324). -/
def State.mismatch (s : State) (c : Nat) (i : Fin 8) (e : Trail) : State :=
  let l := ((s.slot c (i + 4)).trail.filter (·.out))
  ((l.foldl (fun s x => s.dropHeld c x.lo x.hi) s).note (.core c) 0x1A (paySlot i + e.opc * 2 ^ 26)).consume c

/-- `MARKER_TIMEOUT`: an output of the leading thread in this slot has waited 1,024 cycles for the Marker thread's entry (R324). -/
def execMarkerTimeout (core : Nat) (slot : Fin 8) (s : State) : Host.Outcome State Fault Refusal :=
  .next (match s.threadAt core slot, (s.slot core (slot + 4)).trail.find? (·.out) with
    | some t, some e => if t.lead && e.at_ + 1024 ≤ s.time.toNat && !(s.core core).stopped then s.mismatch core slot e else s
    | _, _ => s)

end Sys2Proof.Machine
end

