-- ==== Sys2Proof/Machine/Integer.lean ====
section
/-! DEFINITION. Integer register instructions, immediates and moves (R166 to R170). -/

namespace Sys2Proof.Machine

/-- A saturating instruction: its result, and SAT in `sst` when it clamps (R58). -/
def satAlu (d x y : Operand) (w : Bool) (f : Int → Int → Int) (s : State) : Eff := do
  let t ← s.ready [x, y] [d] []
  let (a, b, s1) := s.read2 t x y
  let r := satOp w f a b
  return ((s1.write d r.1).orFlags r.2).advance t

/-- `ADD`: sum (R166, Table 8-3). -/
def execAdd (d x y : Operand) (w : Bool) (s : State) : Host.Outcome State Fault Refusal :=
  (alu2 d x y (form2 w (· + ·) (· + ·)) s).done

/-- `SUB`: difference (R166, Table 8-3). -/
def execSub (d x y : Operand) (w : Bool) (s : State) : Host.Outcome State Fault Refusal :=
  (alu2 d x y (form2 w (· - ·) (· - ·)) s).done

/-- `AND`: bitwise and (R166, Table 8-3). -/
def execAnd (d x y : Operand) (w : Bool) (s : State) : Host.Outcome State Fault Refusal :=
  (alu2 d x y (form2 w (· &&& ·) (· &&& ·)) s).done

/-- `OR`: bitwise or (R166, Table 8-3). -/
def execOr (d x y : Operand) (w : Bool) (s : State) : Host.Outcome State Fault Refusal :=
  (alu2 d x y (form2 w (· ||| ·) (· ||| ·)) s).done

/-- `XOR`: bitwise exclusive or (R166, Table 8-3). -/
def execXor (d x y : Operand) (w : Bool) (s : State) : Host.Outcome State Fault Refusal :=
  (alu2 d x y (form2 w (· ^^^ ·) (· ^^^ ·)) s).done

/-- `ANDN`: x and not y (R166, Table 8-3). -/
def execAndn (d x y : Operand) (w : Bool) (s : State) : Host.Outcome State Fault Refusal :=
  (alu2 d x y (form2 w (fun x y => x &&& ~~~y) (fun x y => x &&& ~~~y)) s).done

/-- `SHL`: left shift (R166, Table 8-3). -/
def execShl (d x y : Operand) (w : Bool) (s : State) : Host.Outcome State Fault Refusal :=
  (alu2 d x y (form2 w shlBy shlBy) s).done

/-- `SHR`: logical right shift (R166, Table 8-3). -/
def execShr (d x y : Operand) (w : Bool) (s : State) : Host.Outcome State Fault Refusal :=
  (alu2 d x y (form2 w shrBy shrBy) s).done

/-- `SRA`: arithmetic right shift (R166, Table 8-3). -/
def execSra (d x y : Operand) (w : Bool) (s : State) : Host.Outcome State Fault Refusal :=
  (alu2 d x y (form2 w sraBy sraBy) s).done

/-- `ROTL`: left rotation (R166, Table 8-3). -/
def execRotl (d x y : Operand) (w : Bool) (s : State) : Host.Outcome State Fault Refusal :=
  (alu2 d x y (form2 w rotlBy rotlBy) s).done

/-- `MUL`: low half of the product (R166, Table 8-3). -/
def execMul (d x y : Operand) (w : Bool) (s : State) : Host.Outcome State Fault Refusal :=
  (alu2 d x y (form2 w (· * ·) (· * ·)) s).done

/-- `MULH`: high half of the signed product (R166, Table 8-3). -/
def execMulh (d x y : Operand) (w : Bool) (s : State) : Host.Outcome State Fault Refusal :=
  (alu2 d x y (form2 w mulhS mulhS) s).done

/-- `MULHU`: high half of the unsigned product (R166, Table 8-3). -/
def execMulhu (d x y : Operand) (w : Bool) (s : State) : Host.Outcome State Fault Refusal :=
  (alu2 d x y (form2 w mulhU mulhU) s).done

/-- `DIV`: signed quotient (R57) (R166, Table 8-3). -/
def execDiv (d x y : Operand) (w : Bool) (s : State) : Host.Outcome State Fault Refusal :=
  (alu2 d x y (form2 w divS divS) s).done

/-- `DIVU`: unsigned quotient (R57) (R166, Table 8-3). -/
def execDivu (d x y : Operand) (w : Bool) (s : State) : Host.Outcome State Fault Refusal :=
  (alu2 d x y (form2 w divU divU) s).done

/-- `REM`: signed remainder (R57) (R166, Table 8-3). -/
def execRem (d x y : Operand) (w : Bool) (s : State) : Host.Outcome State Fault Refusal :=
  (alu2 d x y (form2 w remS remS) s).done

/-- `REMU`: unsigned remainder (R57) (R166, Table 8-3). -/
def execRemu (d x y : Operand) (w : Bool) (s : State) : Host.Outcome State Fault Refusal :=
  (alu2 d x y (form2 w remU remU) s).done

/-- `MIN`: signed minimum (R166, Table 8-3). -/
def execMin (d x y : Operand) (w : Bool) (s : State) : Host.Outcome State Fault Refusal :=
  (alu2 d x y (form2 w minS minS) s).done

/-- `MAX`: signed maximum (R166, Table 8-3). -/
def execMax (d x y : Operand) (w : Bool) (s : State) : Host.Outcome State Fault Refusal :=
  (alu2 d x y (form2 w maxS maxS) s).done

/-- `MINU`: unsigned minimum (R166, Table 8-3). -/
def execMinu (d x y : Operand) (w : Bool) (s : State) : Host.Outcome State Fault Refusal :=
  (alu2 d x y (form2 w minU minU) s).done

/-- `MAXU`: unsigned maximum (R166, Table 8-3). -/
def execMaxu (d x y : Operand) (w : Bool) (s : State) : Host.Outcome State Fault Refusal :=
  (alu2 d x y (form2 w maxU maxU) s).done

/-- `ADDS`: saturating, SAT when it clamps (R58, R166). -/
def execAdds (d x y : Operand) (w : Bool) (s : State) : Host.Outcome State Fault Refusal :=
  (satAlu d x y w (· + ·) s).done

/-- `SUBS`: saturating, SAT when it clamps (R58, R166). -/
def execSubs (d x y : Operand) (w : Bool) (s : State) : Host.Outcome State Fault Refusal :=
  (satAlu d x y w (· - ·) s).done

/-- `CLZ` (R166, Table 8-3). -/
def execClz (d x : Operand) (w : Bool) (s : State) : Host.Outcome State Fault Refusal :=
  (alu1 d x (form1 w clz clz) s).done

/-- `CTZ` (R166, Table 8-3). -/
def execCtz (d x : Operand) (w : Bool) (s : State) : Host.Outcome State Fault Refusal :=
  (alu1 d x (form1 w ctz ctz) s).done

/-- `POPC` (R166, Table 8-3). -/
def execPopc (d x : Operand) (w : Bool) (s : State) : Host.Outcome State Fault Refusal :=
  (alu1 d x (form1 w popc popc) s).done

/-- `BSWP` (R166, Table 8-3). -/
def execBswp (d x : Operand) (w : Bool) (s : State) : Host.Outcome State Fault Refusal :=
  (alu1 d x (form1 w bswapN bswapN) s).done

/-- `MOV` (R166, Table 8-3). -/
def execMov (d x : Operand) (w : Bool) (s : State) : Host.Outcome State Fault Refusal :=
  (alu1 d x (form1 w id id) s).done

/-- `SEXT`: from the bit count in the second source (R166). -/
def execSext (d x y : Operand) (w : Bool) (s : State) : Host.Outcome State Fault Refusal :=
  (alu2 d x y (form2 w sextBy sextBy) s).done

/-- `ZEXT`: from the bit count in the second source (R166). -/
def execZext (d x y : Operand) (w : Bool) (s : State) : Host.Outcome State Fault Refusal :=
  (alu2 d x y (form2 w zextBy zextBy) s).done

/-- `ADDI` (R167). -/
def execAddi (d x : Operand) (imm : BitVec 27) (s : State) : Host.Outcome State Fault Refusal :=
  (alu1 d x (fun x => x + imm.signExtend 64) s).done

/-- `ANDI` (R167). -/
def execAndi (d x : Operand) (imm : BitVec 27) (s : State) : Host.Outcome State Fault Refusal :=
  (alu1 d x (fun x => x &&& imm.signExtend 64) s).done

/-- `ORI` (R167). -/
def execOri (d x : Operand) (imm : BitVec 27) (s : State) : Host.Outcome State Fault Refusal :=
  (alu1 d x (fun x => x ||| imm.signExtend 64) s).done

/-- `XORI` (R167). -/
def execXori (d x : Operand) (imm : BitVec 27) (s : State) : Host.Outcome State Fault Refusal :=
  (alu1 d x (fun x => x ^^^ imm.signExtend 64) s).done

/-- `MULI` (R167). -/
def execMuli (d x : Operand) (imm : BitVec 27) (s : State) : Host.Outcome State Fault Refusal :=
  (alu1 d x (fun x => x * imm.signExtend 64) s).done

/-- `SHLI` (R167). -/
def execShli (d x : Operand) (sh : BitVec 6) (s : State) : Host.Outcome State Fault Refusal :=
  (alu1 d x (fun x => x <<< sh.toNat) s).done

/-- `SHRI` (R167). -/
def execShri (d x : Operand) (sh : BitVec 6) (s : State) : Host.Outcome State Fault Refusal :=
  (alu1 d x (fun x => x >>> sh.toNat) s).done

/-- `SRAI` (R167). -/
def execSrai (d x : Operand) (sh : BitVec 6) (s : State) : Host.Outcome State Fault Refusal :=
  (alu1 d x (fun x => x.sshiftRight sh.toNat) s).done

/-- `MOVI`: the sign-extended immediate (R168). -/
def execMovi (d : Operand) (imm : BitVec 32) (s : State) : Host.Outcome State Fault Refusal :=
  Eff.done do
    let t ← s.ready [] [d] []
    return (s.write d (imm.signExtend 64)).advance t

/-- `MOVH`: bits 63:32 from the immediate, bits 31:0 kept; d is read (R168). -/
def execMovh (d : RegName) (imm : BitVec 32) (s : State) : Host.Outcome State Fault Refusal :=
  (alu1 d.op d.op (fun x => imm ++ x.setWidth 32) s).done

/-- `ADR`: the target of R145, with no target check (R169). -/
def execAdr (d : Operand) (b : BTarget) (s : State) : Host.Outcome State Fault Refusal :=
  Eff.done do
    let t ← s.ready [] [d] []
    return (s.write d (targetAt b t.pc)).advance t

/-- `EMPT`: the register is EMPTY, its value kept; it parks while the register is pending. A deposit lands in it in a later cycle (R170). -/
def execEmpt (r : RegName) (s : State) : Host.Outcome State Fault Refusal :=
  Eff.done do
    let t ← s.ready [] [r.op] []
    return (s.modMe (fun t => { t.setCell r { t.cell r with full := false } with emptied := some (r.code, s.time.toNat) })).advance t

end Sys2Proof.Machine
end

