-- ==== Sys2Proof/Machine/Sha.lean ====
section
/-! DEFINITION. SHA-256 (FIPS 180-4), which signs a Report Card (R343). The spec cites the standard and does not print it. (PRESUMED, log 105) -/

namespace Sys2Proof.Machine

/-- A 32-bit word of the hash. -/
abbrev ShaWord := BitVec 32

/-- The 64 round constants. -/
def shaK : List ShaWord :=
  [0x428a2f98, 0x71374491, 0xb5c0fbcf, 0xe9b5dba5, 0x3956c25b, 0x59f111f1, 0x923f82a4, 0xab1c5ed5,
   0xd807aa98, 0x12835b01, 0x243185be, 0x550c7dc3, 0x72be5d74, 0x80deb1fe, 0x9bdc06a7, 0xc19bf174] ++
  [0xe49b69c1, 0xefbe4786, 0x0fc19dc6, 0x240ca1cc, 0x2de92c6f, 0x4a7484aa, 0x5cb0a9dc, 0x76f988da,
   0x983e5152, 0xa831c66d, 0xb00327c8, 0xbf597fc7, 0xc6e00bf3, 0xd5a79147, 0x06ca6351, 0x14292967] ++
  [0x27b70a85, 0x2e1b2138, 0x4d2c6dfc, 0x53380d13, 0x650a7354, 0x766a0abb, 0x81c2c92e, 0x92722c85,
   0xa2bfe8a1, 0xa81a664b, 0xc24b8b70, 0xc76c51a3, 0xd192e819, 0xd6990624, 0xf40e3585, 0x106aa070] ++
  [0x19a4c116, 0x1e376c08, 0x2748774c, 0x34b0bcb5, 0x391c0cb3, 0x4ed8aa4a, 0x5b9cca4f, 0x682e6ff3,
   0x748f82ee, 0x78a5636f, 0x84c87814, 0x8cc70208, 0x90befffa, 0xa4506ceb, 0xbef9a3f7, 0xc67178f2]

/-- The eight words of the hash. -/
structure ShaRegs where
  a : ShaWord
  b : ShaWord
  c : ShaWord
  d : ShaWord
  e : ShaWord
  f : ShaWord
  g : ShaWord
  h : ShaWord
deriving DecidableEq, Repr

/-- The initial hash value. -/
def shaInit : ShaRegs :=
  ⟨0x6a09e667, 0xbb67ae85, 0x3c6ef372, 0xa54ff53a, 0x510e527f, 0x9b05688c, 0x1f83d9ab, 0x5be0cd19⟩

/-- One round with a constant and a word of the schedule. -/
def ShaRegs.round (r : ShaRegs) (k w : ShaWord) : ShaRegs :=
  let s1 := r.e.rotateRight 6 ^^^ r.e.rotateRight 11 ^^^ r.e.rotateRight 25
  let ch := (r.e &&& r.f) ^^^ (~~~r.e &&& r.g)
  let t1 := r.h + s1 + ch + k + w
  let s0 := r.a.rotateRight 2 ^^^ r.a.rotateRight 13 ^^^ r.a.rotateRight 22
  let maj := (r.a &&& r.b) ^^^ (r.a &&& r.c) ^^^ (r.b &&& r.c)
  ⟨t1 + (s0 + maj), r.a, r.b, r.c, r.d + t1, r.e, r.f, r.g⟩

/-- The next word of the schedule, from the last sixteen. -/
def shaNext (w : List ShaWord) : ShaWord :=
  let x := w.getD 14 0
  let y := w.getD 1 0
  (x.rotateRight 17 ^^^ x.rotateRight 19 ^^^ (x >>> 10)) + w.getD 9 0 + (y.rotateRight 7 ^^^ y.rotateRight 18 ^^^ (y >>> 3)) + w.getD 0 0

/-- The rounds of a block, one for each constant, with the last sixteen words of its schedule. -/
def shaRounds : List ShaWord → List ShaWord → ShaRegs → ShaRegs
  | [], _, r => r
  | k :: ks, w, r => shaRounds ks (w.tail ++ [shaNext w]) (r.round k (w.getD 0 0))

/-- A block of 64 bytes, each word big-endian, is added to the hash. -/
def ShaRegs.block (r : ShaRegs) (b : List Byte) : ShaRegs :=
  let w := (List.range 16).map (fun i => BitVec.ofNat 32 (leNat ((b.drop (4 * i)).take 4).reverse))
  let x := shaRounds shaK w r
  ⟨r.a + x.a, r.b + x.b, r.c + x.c, r.d + x.d, r.e + x.e, r.f + x.f, r.g + x.g, r.h + x.h⟩

/-- n blocks of a message. -/
def shaBlocks : Nat → List Byte → ShaRegs → ShaRegs
  | 0, _, r => r
  | n + 1, b, r => shaBlocks n (b.drop 64) (r.block (b.take 64))

/-- A message with its padding: a one bit, zeros, and its length in bits as 8 big-endian bytes. -/
def shaPad (b : List Byte) : List Byte :=
  let n := b.length
  b ++ [0x80] ++ List.replicate ((119 - n % 64) % 64) 0 ++ (leBytes 8 (8 * n)).reverse

/-- The 32 bytes of the SHA-256 of a message. -/
def sha256 (b : List Byte) : List Byte :=
  let m := shaPad b
  let r := shaBlocks (m.length / 64) m shaInit
  [r.a, r.b, r.c, r.d, r.e, r.f, r.g, r.h].flatMap (fun x => (leBytes 4 x.toNat).reverse)

end Sys2Proof.Machine
end

