-- ==== Sys2Proof/Machine/Report.lean ====
section
/-! DEFINITION. Freezes, the Report Card and the capsule store (R337 to R345), time marks (R334), resets and bring-up (R333, R344, R358,
R359), the host's commands and registers (R6, R276, R291, R315, R355 to R357), and the debug port (R360). -/

namespace Sys2Proof.Machine

/-! ## Sources (R333) -/

/-- Every source of the module: cores by physical id, then slices. -/
def allSources : List Source :=
  (List.range 4096).map Source.core ++ (List.range 96).map Source.slice

/-- The sources of a partition. -/
def State.sourcesOf (s : State) (part : Nat) : List Source := allSources.filter (fun x => s.srcPart x == part)

/-- The freeze of a partition whose broadcast reaches a place first: where several began, which one is a free value of the place
(R339). (DEDUCED, log 75) -/
def State.firstFatal (s : State) (part place : Nat) : Option Fatal :=
  let l := s.fatals.filter (fun f => f.part == part && f.own)
  l[(Config.freeWord (2 ^ 65 + s.nextTag * 2 ^ 17 + place)).toNat % l.length]?

/-- The code of a source in the header (Table 22-4). -/
def sourceCode : Source → Nat
  | .core c => c
  | .slice i => 2 ^ 15 + i

/-- The freeze whose Report Card is written: of the partition whose freeze began first, the one whose broadcast reached the capsule unit
first (R338, R339). -/
def State.cardFatal (s : State) : Option Fatal :=
  (s.fatals.find? (·.own)).bind (fun f => s.firstFatal f.part (2 ^ 14))

/-- `FREEZE`: the broadcast of a partition's freeze reaches one of its sources (R338 step 3). -/
def execFreeze (src : Source) (s : State) : Host.Outcome State Fault Refusal :=
  .next (match s.firstFatal (s.srcPart src) (sourceCode src) with
    | none => s
    | some f => if (s.diaryOf src).frozen then s else s.freeze src false f.cause (f.ctx.getD 0))

/-- `TIME_MARK`: once in each 2^22 cycles (R334). -/
def execTimeMark (src : Source) (s : State) : Host.Outcome State Fault Refusal :=
  .next (
    let now := s.time.toNat / 2 ^ 22
    if now < (s.diaryOf src).mark then s
    else
      let s1 := s.note src 0x3E (now % 2 ^ 40)
      s1.setDiary { s1.diaryOf src with mark := now + 1 })

/-! ## The Report Card (R340 to R343) -/

/-- A ring as the Report Card holds it: oldest record first, the rest zero. -/
def ringBytes (size : Nat) (l : List Nat) : List Byte :=
  (l.map (leBytes 8)).flatten ++ List.replicate (8 * (size - l.length)) 0

/-- A redacted ring: one record for each type that is present, with the count of its records (R340). -/
def redacted (l : List (BitVec 64)) : List Nat :=
  (List.range 63).filterMap (fun i =>
    let n := (l.filter (fun r => recType r == i + 1)).length
    if n = 0 then none else some ((i + 1) * 2 ^ 58 + n))

/-- The stamp of a source's newest freeze record (R341). -/
def freezeStamp (l : List (BitVec 64)) : Nat :=
  match l.reverse.find? (fun r => recType r == 0x3F) with
  | some r => bits r.toNat 57 40
  | none => 0

/-- Offset of a source's ring in the store (Table 22-3). -/
def ringOff : Source → Nat
  | .core c => 0x10000 + 0x2000 * c
  | .slice i => 0x2010000 + 0x4000 * i

/-- Offset of a source's entry in the arrival table. -/
def arrivalOff : Source → Nat
  | .core c => 0x2000 + 4 * c
  | .slice i => 0x2000 + 4 * (4096 + i)

/-- A ring as it is read: errors are corrected, and an entry that cannot be is a record of type 0x3D with a payload of 0 (R319, R333). -/
def Diary.stored (d : Diary) : List (BitVec 64) :=
  (List.range (d.errs.foldl (fun n e => max n (e.1 + 1)) d.recs.length)).map (fun i =>
    let x := d.recs.getD i 0
    match d.errs.find? (fun e => e.1 == i) with
    | none => x
    | some e =>
      match eccClass e.2.2 with
      | .clean | .check => x ^^^ e.2.1
      | .data j => x ^^^ e.2.1 ^^^ (1 <<< j)
      | .bad => BitVec.ofNat 64 (0x3D * 2 ^ 58))

/-- The errors left once a ring has been read, and how many the read corrected (R319). -/
def Diary.corrected (d : Diary) : List (Nat × BitVec 64 × BitVec 8) × Nat :=
  let fixed : BitVec 8 → Bool := fun x => match eccClass x with | .check | .data _ => true | .clean | .bad => false
  ((d.errs.map (fun e => match eccClass e.2.2 with
      | .data j => (e.1, e.2.1 ^^^ (1 <<< j), 0)
      | .check => (e.1, e.2.1, 0)
      | .clean | .bad => e)).filter (fun e => e.2.1 != 0 || e.2.2 != 0),
    (d.errs.filter (fun e => fixed e.2.2)).length)

/-- Every ring has been read: corrections are written back, each with a record of its own (R319, R336). -/
def State.ringsRead (s : State) : State :=
  s.diary.foldl (fun s d =>
    if d.errs.isEmpty then s
    else (List.range d.corrected.2).foldl (fun s _ => s.note d.src 0x12 (3 * 2 ^ 38)) (s.setDiary { d with errs := d.corrected.1 })) s

/-- Write one source's ring and arrival entry for a freeze of a partition (R340, R341). -/
def State.gatherSource (s : State) (part : Nat) (m : Memory) (src : Source) : Memory :=
  let d := s.diaryOf src
  let own : Bool := s.srcPart src == part
  let l := d.stored
  let m1 := Memory.writes m (ringOff src) (ringBytes (ringSize src) (if own then l.map (·.toNat) else redacted l))
  Memory.writes m1 (arrivalOff src) (leBytes 4
    ((l.any (fun r => recType r == 0x3D)).toNat * 2 ^ 30 + if own then freezeStamp l + 2 ^ 31 else 0))

/-- The partitions other than this one that own a source: their rings are redacted. -/
def State.redactMask (s : State) (part : Nat) : Nat :=
  ((List.range 16).map (fun p => if p != part && allSources.any (fun x => s.srcPart x == p) then 2 ^ p else 0)).sum

/-- The capsule header (Table 22-4). -/
def State.cardHeader (s : State) (f : Fatal) (seq further : Nat) : List Byte :=
  leBytes 4 0xCA55D240 ++ leBytes 4 Config.fwVersion.toNat ++ leBytes 8 Config.serial.toNat ++ leBytes 32 Config.idKey.toNat ++
  leBytes 8 seq ++ leBytes 1 f.cause.toNat ++ leBytes 1 f.part ++ leBytes 2 (f.ctx.getD 0xFFFF) ++ leBytes 2 (sourceCode f.src) ++
  leBytes 2 (s.redactMask f.part) ++ leBytes 8 f.at_ ++ leBytes 8 f.pc.toNat ++ leBytes 8 f.val.toNat ++ leBytes 4 further ++
  List.replicate 164 0

/-- A source records again: a gap record counts the events it missed (R338 step 5). -/
def State.resume (s : State) (src : Source) : State :=
  let d := s.diaryOf src
  if !d.frozen then s
  else
    let n := if d.missed < 2 ^ 32 then d.missed else 2 ^ 32 - 1
    s.setDiary (({ d with frozen := false, missed := 0, cycle := s.time.toNat, count := 0 } : Diary).write s.time.toNat [(0x3C, n)])

/-- The Report Card is stored: its faults are done with, its sources record again, vector 3 is pending, and a waiting `DFRZ` goes on.
(DEDUCED, log 75) -/
def State.cardDone (s : State) (f : Fatal) : State :=
  let mine := s.fatals.filter (fun x => x.part == f.part || x.late)
  let s1 := { s with fatals := s.fatals.filter (fun x => !(x.part == f.part || x.late)) }
  let s2 := (s1.sourcesOf f.part).foldl State.resume s1
  let s3 := s2.modPart f.part (Part.raise s.time.toNat 8)
  mine.foldl (fun s x => match x.cause == 0x80, x.who with
    | true, some w => s.answer w 7 0
    | _, _ => s) s3

/-- The fatal faults counted in FURTHER (R339). (DEDUCED, log 75) -/
def State.further (s : State) (f : Fatal) : Nat := (s.fatals.filter (fun x => x.part == f.part || x.late)).length - 1

/-- `REPORT_CARD`: once every source of the partition is frozen the rings are gathered; then the capsule is signed and stored. With a full
store only the header is kept (R338 to R343). -/
def execReportCard (s : State) : Host.Outcome State Fault Refusal :=
  .next (match s.cardFatal with
    | none => s
    | some f =>
      let k := s.capsule
      if !((s.sourcesOf f.part).all (fun x => (s.diaryOf x).frozen)) then s
      else if k.state = 2 then
        let head := s.cardHeader f (k.seq + 1) (s.further f)
        let sig := Config.signature (k.seq + 1) head
        let off := 0x3000000 + 0x1000 * k.count
        let store := if k.count < 4096 then Memory.writes (Memory.writes k.store off head) (off + 0xFC0) (leBytes 64 sig.toNat) else k.store
        ({ s with capsule := { k with count := k.count + 1, seq := k.seq + 1, store := store } }).cardDone f
      else if k.state != 1 then
        -- the header stands from the first, so that the store names its partition (R345)
        let store := Memory.writes (allSources.foldl (s.gatherSource f.part) []) 0x1000 (s.cardHeader f (k.seq + 1) (s.further f))
        ({ s with capsule := { k with state := 1, store := store } }).ringsRead
      else
        let store := Memory.writes k.store 0x1000 (s.cardHeader f (k.seq + 1) (s.further f))
        let signed := Memory.reads store 0x1000 (0x2190000 - 0x1000)
        let sig := Config.signature (k.seq + 1) signed
        let entry : Flash := ⟨k.seq + 1, BitVec.ofNat 256 (leNat (sha256 signed)), sig, 2, false⟩
        let flash := (k.flash ++ [entry]).drop (k.flash.length - 15)
        ({ s with capsule := { k with state := 2, seq := k.seq + 1, store := Memory.writes store 0x2190000 (leBytes 64 sig.toNat), flash := flash } }).cardDone f)

/-! ## Capsule commands (R345) -/

/-- A byte of the capsule store, with its state word. -/
def Capsule.byte (k : Capsule) (off : Nat) : Byte :=
  if off < 8 then BitVec.ofNat 8 ((k.state.toNat + k.count * 2 ^ 32) / 256 ^ off) else Memory.read k.store off

/-- n bytes of the store, which holds 64 MiB. -/
def Capsule.bytes (k : Capsule) (off n : Nat) : List Byte :=
  ((List.range n).filter (fun i => off + i < 2 ^ 26)).map (fun i => k.byte (off + i))

/-- A function may issue capsule commands under a right of its access table; another gets a NACK and `ACCESS`. (DEDUCED, log 76) -/
def State.capOk (s : State) (part : Nat) (right : Nat) : Bool :=
  (part == 0 || (s.capsule.state != 0 && (s.capsule.byte 0x1039).toNat == part)) && (s.rights 3 part part).getLsbD right

/-- A mailbox command: nothing before READY but busy, busy while one is in progress, and no answer after a failed bring-up (R356, R359). -/
def State.command (s : State) (part : Nat) (tag : BitVec 16) (f : State → State) : State :=
  if s.bustat.toNat % 256 != 0 then s
  else if !s.isUp || s.mailBusy part then s.mail part tag 2 []
  else f s

/-- The bytes of a flash entry as `CAPINFO` returns them. -/
def Flash.bytes (f : Flash) : List Byte :=
  leBytes 8 f.seq ++ leBytes 32 f.hash.toNat ++ leBytes 64 f.sig.toNat ++ leBytes 8 (f.state.toNat + f.cleared.toNat * 256)

/-- `CAPINFO` (R345). -/
def execCapinfo (hd : MailCmd) (s : State) : Host.Outcome State Fault Refusal :=
  .next (s.command hd.part hd.tag (fun s =>
    if !s.capOk hd.part 0 then s.nack hd.part 0x1040
    else s.mail hd.part hd.tag 0 (s.capsule.bytes 0 8 ++ s.capsule.bytes 0x1000 256 ++
      (match s.capsule.flash.getLast? with | some f => f.bytes | none => []))))

/-- `CAPREAD` (R345). -/
def execCapread (hd : MailCmd) (off n : Nat) (s : State) : Host.Outcome State Fault Refusal :=
  .next (s.command hd.part hd.tag (fun s =>
    if !s.capOk hd.part 0 then s.nack hd.part 0x1040
    else if s.capsule.state = 1 then s.mail hd.part hd.tag 2 []
    else if 4096 < n || 2 ^ 26 < off + n then s.mail hd.part hd.tag 1 []
    else s.mail hd.part hd.tag 0 (s.capsule.bytes off n)))

/-- `CAPCLEAR` (R345). -/
def execCapclear (hd : MailCmd) (s : State) : Host.Outcome State Fault Refusal :=
  .next (s.command hd.part hd.tag (fun s =>
    if !s.capOk hd.part 4 then s.nack hd.part 0x1040
    else if s.capsule.state = 1 then s.mail hd.part hd.tag 2 []
    else
      ({ s with capsule := { s.capsule with state := 0, count := 0, store := []
                                            flash := s.capsule.flash.map (fun (f : Flash) => { f with cleared := true }) } }).mail hd.part hd.tag 0 []))

/-! ## Other commands (R272, R276, R356) -/

/-- `PARTCFG`: what bring-up assigns to one partition; a router or slice has one owner (R272, R356, R359). While a command of the function is in
progress it is answered busy. (DESIGN CHOICE, log 77) -/
def execPartcfg (hd : MailCmd) (arg : BitVec 480) (s : State) : Host.Outcome State Fault Refusal :=
  .next (s.hostWrite hd.part 0x1040 (fun s =>
    if s.mailBusy hd.part then s.mail hd.part hd.tag 2 []
    else if hd.part != 0 || s.isUp then s.mail hd.part hd.tag 1 []
    else if s.bustat.toNat / 256 != 4 then s.mail hd.part hd.tag 2 []
    else
      let p := Config.cfgPart arg % 16
      let routers := Config.cfgRouters arg
      let slices := Config.cfgSlices arg
      let s1 := { s with parts := s.parts.map (fun (x : Nat × Part) => (x.1,
        { x.2 with routers := x.2.routers.filter (fun r => !routers.contains r), slices := x.2.slices.filter (fun r => !slices.contains r) })) }
      (s1.modPart p (fun x =>
        { x with routers := routers, slices := slices, regions := Config.cfgRegions arg, owned := Config.cfgQueues arg
                 shares := Config.cfgShares arg, weights := Config.cfgWeights arg })).mail hd.part hd.tag 0 []))

/-- `DOORBELL`: held for the slot, or what its `IDLE` waits for (R276). (DEDUCED, log 78) -/
def execDoorbell (hd : MailCmd) (core : Nat) (slot : Fin 8) (s : State) : Host.Outcome State Fault Refusal :=
  .next (s.hostWrite hd.part 0x1040 (fun s => s.command hd.part hd.tag (fun s =>
    let c := s.physOf core
    if s.partOf c != hd.part then s.mail hd.part hd.tag 1 []
    else
      let s1 := s.modSlot c slot (fun sl => { sl with bell := true })
      let s2 := match s1.threadAt c slot with
        | some t => if t.status.waits .idle then s1.wakeAt c slot else s1
        | none => s1
      s2.mail hd.part hd.tag 0 [])))

/-! ## Registers (R6, R291, R315, R326, R357) -/

/-- Held page requests are posted as long as the ring has room. (DESIGN CHOICE, log 82) -/
def State.postAll (s : State) (part : Nat) : Nat → State
  | 0 => s
  | n + 1 => (s.postHeld part).postAll part n

/-- The function whose window holds a register, and the register's place in its windows (Tables 19-4 and 25-1, R357); the spec gives no places
within the page request window. A Detention map word lies in a die's CSR window, whose table stands in for the function's.
(DEDUCED, log 76) -/
def hostRegPlace : HostReg → Option (Nat × Nat)
  | .qbase p q => some (p, 32 * q)
  | .qstat p q => some (p, 32 * q + 0x08)
  | .qsize p q => some (p, 32 * q + 0x10)
  | .qhead p q => some (p, 32 * q + 0x18)
  | .prBase p | .prHead p => some (p, 0x2000)
  | .intPending p => some (p, 0x3000)
  | .intEnable p => some (p, 0x3008)
  | .bustat => some (0, 0x3010)
  | .detMap _ _ _ => none

/-- What a write leaves in a register, under its access code (R6); the Detention map needs CFG on its die's CSR window (R326). -/
def State.setHostReg (s : State) (r : HostReg) (v : Word) : State :=
  match r with
    | .qbase p q => s.modPart p (fun x => x.setQueue q { x.queue q with base := v })
    | .qstat p q => s.modPart p (fun x => x.setQueue q { x.queue q with stat := v })
    | .qsize p q => s.modPart p (fun x => x.setQueue q { x.queue q with size := if 4 ≤ v.toNat && v.toNat ≤ 12 then v.toNat else 4 })
    | .qhead _ _ | .bustat => s
    | .prBase p => s.modPart p (fun x => { x with prBase := v })
    | .prHead p => (s.modPart p (fun x => { x with prHead := v.setWidth 32 })).postAll p s.pageReqs.length
    -- a bit set in this cycle stays (R357)
    | .intPending p => s.modPart p (fun x => { x with pending := x.pending &&&
        ~~~(v.setWidth 32 &&& ~~~(if x.raised.1 = s.time.toNat then x.raised.2 else 0)) })
    | .intEnable p => s.modPart p (fun x => { x with enable := v.setWidth 5 |>.setWidth 32 })
    | .detMap p die router =>
      if s.cfgOk die p then
        -- DIE is read-only: it is the router's die (Table 21-3)
        { s with detMap := ((die, router), (v &&& 0x1FF8) ||| w64 (die % 8)) :: s.detMap.filter (fun x => x.1 != (die, router)) }
      else s.nack p 0

/-- `REGISTER_WRITE`, through the function's window (R355). -/
def execRegisterWrite (r : HostReg) (v : Word) (s : State) : Host.Outcome State Fault Refusal :=
  .next (match hostRegPlace r with
    | some (p, a) => s.hostWrite p a (fun s => s.setHostReg r v)
    | none => if s.bustat.toNat % 256 != 0 then s else s.setHostReg r v)

/-! ## The device-memory window (R355) -/

/-- The pieces of a host access that lie in one line each. -/
def hostPieces (pa n : Nat) : List (Nat × Nat) :=
  (List.range ((pa + n + 63) / 64 - pa / 64)).map (fun i =>
    let lo := if i = 0 then pa else (pa / 64 + i) * 64
    let hi := if pa + n < (pa / 64 + i + 1) * 64 then pa + n else (pa / 64 + i + 1) * 64
    (lo, hi - lo))

/-- The partition whose DRAM holds a byte: bring-up assigned its region, else it is partition 0's (R272). (DESIGN CHOICE, log 17) -/
def State.dramPart (s : State) (pa : Nat) : Nat :=
  ((s.parts.find? (fun x => x.2.regions.any (fun r => r.1 ≤ pa && pa < r.1 + r.2))).map (·.1)).getD 0

/-- Every line of a host access is DRAM of the partition that the access tables of the function and of its slice open to it (Table 25-1). -/
def State.windowOk (s : State) (part : Nat) (l : List (Nat × Nat)) (right : Nat) : Bool :=
  (s.rights 3 part part).getLsbD right &&
  l.all (fun p => isDram p.1 && isDram (p.1 + p.2 - 1) && s.dramPart p.1 == part && s.dramPart (p.1 + p.2 - 1) == part &&
    (s.grants (bankOf p.1) part (BitVec.ofNat 8 (2 ^ right))))

/-- A host access to the device-memory window: a write, or a read of n bytes, line by line in order; it waits while a line is reserved; a read
of a lost line returns nothing (R355, R322). (DEDUCED, log 78) -/
def State.memWindow (s : State) (part pa : Nat) (w : Option (List Byte)) (n : Nat) : State :=
  let len := match w with | some b => b.length | none => n
  let l := hostPieces pa len
  if !s.windowOk part l (if w.isSome then 1 else 0) then s.nack part (2 ^ 32 + pa)
  else if l.any (fun p => (s.lineQ (lineOf p.1)).holder.isSome) then s
  else
    match w with
    | some b => l.foldl (fun s p => s.homeWrite p.1 ((b.drop (p.1 - pa)).take p.2)) s
    | none =>
      let r := l.foldl (fun (r : Option (List Byte) × State) p =>
        let q := r.2.readStored p.1 p.2
        (match r.1, q.1 with
          | some a, some b => some (a ++ b)
          | _, _ => none, q.2)) (some [], s)
      { r.2 with hostOut := r.2.hostOut ++ [(part, r.1.getD [])] }

/-! ## The other windows (R355 to R358) -/

/-- A command submitted in a function's mailbox, from the record at its offset 0: by its CODE, or STATUS 3 for a code of no command (R356,
Table 25-2). -/
def State.submit (s : State) (part : Nat) : Host.Outcome State Fault Refusal :=
  let r := leNat (s.partn part).mbox
  let hd : MailCmd := ⟨part, BitVec.ofNat 16 (bits r 31 16)⟩
  let arg : BitVec 480 := BitVec.ofNat 480 (r / 2 ^ 32)
  match r % 256 with
  | 0x01 => execPartcfg hd arg s
  | 0x10 => let (c, i) := Config.mailBell arg; execDoorbell hd c i s
  | 0x20 => let (ctx, va, leaf) := Config.mailMove arg; execPagemove hd ctx va leaf s
  | 0x30 => execCapinfo hd s
  | 0x31 => let (off, n) := Config.mailRead arg; execCapread hd off n s
  | 0x32 => execCapclear hd s
  | _ => .next (s.command part hd.tag (fun s => s.mail part hd.tag 3 []))

/-- Bytes of a window as a read finds them: its first n from an offset. -/
def windowBytes (b : List Byte) (off n : Nat) : List Byte := (List.range n).map (fun i => b.getD (off + i) 0)

/-- The registers of a launch queue (Table 19-4). -/
def HostQ.bytes (x : HostQ) : List Byte :=
  leBytes 8 x.base.toNat ++ leBytes 8 x.stat.toNat ++ leBytes 4 x.size ++ leBytes 4 x.tail.toNat ++ leBytes 8 x.head.toNat

/-- A read of n bytes of the windows below the device-memory window (Tables 19-4, 25-1, 25-3, R356, R357); what stands in the page request
window, whose places the spec does not give, is a free value, and a place with no register reads as 0. (DESIGN CHOICE, log 76) -/
def State.windowRead (s : State) (part off n : Nat) : List Byte :=
  let p := s.partn part
  match off / 4096 with
  | 0 => windowBytes (p.queue (off % 4096 / 32)).bytes (off % 32) n
  | 1 => windowBytes (p.mbox ++ List.replicate 64 0 ++ p.answer) (off % 4096) n
  | 2 => (List.range n).map (Config.deviceByte s.nextTag)
  | _ => windowBytes (leBytes 8 p.pending.toNat ++ leBytes 8 p.enable.toNat ++ leBytes 8 s.bustat.toNat) (off % 4096) n

/-- A write in those windows: a register by its place, the record of the mailbox, or its submission. -/
def State.windowWrite (s : State) (part off : Nat) (b : List Byte) : Host.Outcome State Fault Refusal :=
  let v := w64 (leNat b)
  let q := off % 4096 / 32
  match off / 4096 with
  | 0 =>
    match off % 32 with
    | 0x00 => .next (s.setHostReg (.qbase part q) v)
    | 0x08 => .next (s.setHostReg (.qstat part q) v)
    | 0x10 => .next (s.setHostReg (.qsize part q) v)
    | 0x14 => execQtail part q (v.setWidth 32) s
    | _ => .next s
  | 1 =>
    if off = 0x1040 then s.submit part
    else .next (s.modPart part (fun p => { p with mbox := (List.range 64).map (fun i =>
      if off ≤ 0x1000 + i && 0x1000 + i < off + b.length then b.getD (0x1000 + i - off) 0 else p.mbox.getD i 0) }))
  | 3 =>
    match off % 4096 with
    | 0x00 => .next (s.setHostReg (.intPending part) v)
    | 0x08 => .next (s.setHostReg (.intEnable part) v)
    | _ => .next s
  | _ => .next s

/-- A host access at an offset of a function below its device-memory window: refused outside the windows of Table 25-1 and by the function's
access table; after a failed bring-up only a read of `BUSTAT` is answered (R355, R359). -/
def State.linkAccess (s : State) (part off : Nat) (w : Option (List Byte)) (n : Nat) : Host.Outcome State Fault Refusal :=
  if s.bustat.toNat % 256 != 0 && !(w.isNone && off == 0x3010) then .next s
  else if 0x4000 ≤ off || !(s.rights 3 part part).getLsbD (if w.isSome then 1 else 0) then .next (s.nack part off)
  else
    match w with
    | some b => s.windowWrite part off b
    | none => .next { s with hostOut := s.hostOut ++ [(part, s.windowRead part off n)], nextTag := s.nextTag + 1 }

/-- `DEVICE_MEMORY_WINDOW_ACCESS`: a host access to the device-memory window at a physical address; a number from 2^52 on names an offset of the
function below that window, 2^52 less (R355). (DESIGN CHOICE, log 76) -/
def execDeviceMemoryWindowAccess (part pa : Nat) (w : Option (List Byte)) (n : Nat) (s : State) : Host.Outcome State Fault Refusal :=
  if 2 ^ 52 ≤ pa then s.linkAccess part (pa - 2 ^ 52) w n
  else if s.bustat.toNat % 256 != 0 then .next s
  else .next (s.memWindow part pa w n)

/-! ## Resets and bring-up (R333, R344, R358, R359) -/

/-- `COLD_RESET`: only the flash ring, the capsule number and the marks of failed cores are left (R331, R344). The turns to come and the count of names, which are the
model's, go on (DESIGN CHOICE, log 83). -/
def execColdReset (s : State) : Host.Outcome State Fault Refusal :=
  .next { State.reset with
    capsule := { Capsule.reset with flash := s.capsule.flash, seq := s.capsule.seq }
    cores := (s.cores.filter (fun x => x.2.failed)).map (fun (c, _) => (c, { Core.reset with failed := true }))
    agenda := s.agenda
    nextTag := s.nextTag }

/-- What a warm reset leaves of a core: its scratchpad's image with `xb` and `itag`, and `csave` (Tables 2-4, 18-3), and the mark of a failed
one, which is never chosen again (R331, R354). (DEDUCED, log 79) -/
def Core.warm (k : Core) : Core := { Core.reset with xb := k.xb, itag := k.itag, csave := k.csave, failed := k.failed }

/-- What a warm reset leaves of a partition: `ctab` and `evq` (Table 18-3). (DEDUCED, log 79) -/
def Part.warm (p : Part) : Part := { Part.reset with ctab := p.ctab, evq := p.evq }

/-- The source whose ring or arrival entry holds a byte of the capsule store, by its number (Table 22-3). -/
def cardSource (off : Nat) : Option Nat :=
  if 0x2000 ≤ off && off < 0x2000 + 4 * 4192 then some ((off - 0x2000) / 4)
  else if 0x10000 ≤ off && off < 0x2010000 then some ((off - 0x10000) / 0x2000)
  else if 0x2010000 ≤ off && off < 0x2190000 then some (4096 + (off - 0x2010000) / 0x4000)
  else none

/-- What a warm reset leaves of a capsule that is being gathered: the rings written so far, state 3 and no signature. Which those are is a free
value (R344). (DEDUCED, log 75) -/
def State.cutCapsule (s : State) : Capsule :=
  let k := s.capsule
  if k.state != 1 then k
  else { k with state := 3, store := k.store.filter (fun c => match cardSource c.1 with
    | some n => (Config.freeWord (2 ^ 67 + s.nextTag * 2 ^ 13 + n)).getLsbD 0
    | none => true) }

/-- `WARM_RESET`: registers with a dash in the Reset column, memory, the Diary and the capsule store stay; a capsule that was being
gathered is incomplete (R333, R344). -/
def execWarmReset (s : State) : Host.Outcome State Fault Refusal :=
  .next { State.reset with
    time := s.time, mem := s.mem, synd := s.synd, lost := s.lost
    cores := s.cores.map (fun (c, k) => (c, k.warm))
    parts := s.parts.map (fun (p, x) => (p, x.warm))
    ctxs := (s.ctxs.filter (fun c => c.ptroot != 0)).map (fun c => ⟨c.part, c.ctx, 0, [], [], 0, 0, none, c.ptroot, false⟩)
    diary := s.diary.map (fun d => { d with frozen := false })
    capsule := s.cutCapsule
    agenda := s.agenda
    nextTag := s.nextTag }

/-- A logical map that firmware may load binds each id to a core of its die, and no core twice (R12, R281). -/
def bootMapOk (l : List (Nat × Nat)) : Bool :=
  let s : State := { State.reset with lmap := l }
  l.all (fun p => p.1 < Config.logCores && p.2 < 4096 && coreDie p.2 == p.1 / Config.logPerDie) &&
  decide ((l.map (·.1)).Nodup) && decide ((l.map (·.2)).Nodup) &&
  l.all (fun p => match s.logOf? p.2 with | some x => s.physOf x == p.2 | none => false) &&
  (List.range Config.logCores).all (fun x => l.any (fun p => p.1 == x) || !(l.any (fun p => p.2 == s.physOf x)))

/-- What firmware leaves at the end of a stage of bring-up: the logical map and the Detention maps after stage 3, the access tables, in their
five rights, after stage 4; their contents are free values (R358). The golden signatures are seen in the results of scan tests only.
(DESIGN CHOICE, log 80) -/
def State.loadStage (s : State) (stage : Nat) : State :=
  match stage with
  | 3 => { s with lmap := if bootMapOk Config.bootLmap then Config.bootLmap else s.lmap, detMap := Config.bootDetMap }
  | 4 => { s with acl := Config.bootAcl.map (fun x => (x.1, x.2 &&& 0x1F)) ++ s.acl }
  | _ => s

/-- Firmware ends its present stage of bring-up, or fails in it and stops; at READY vector 4 is pending (Table 25-3, R357).
(DEDUCED, log 80) -/
def State.bringUp (s : State) (ok : Bool) : State :=
  let stage := s.bustat.toNat / 256
  if s.bustat.toNat % 256 != 0 || 5 ≤ stage then s
  else if !ok then { s with bustat := w64 (stage * 256 + stage) }
  else
    let s1 := { s.loadStage stage with bustat := w64 ((stage + 1) * 256) }
    if stage = 4 then (List.range 16).foldl (fun s p => s.modPart p (Part.raise s.time.toNat 16)) s1 else s1

/-! ## The debug port (R360) -/

/-- A word with its parity bit: as it is stored, or turned where its check fails (R320). -/
def parityBytes (n : Nat) (v : Word) (bad : Bool) : List Byte := leBytes n v.toNat ++ [BitVec.ofNat 8 (parity64 v ^^ bad).toNat]

/-- A task descriptor as Table 19-6 lays it out. -/
def Desc.word (d : Desc) : Nat :=
  d.itag.toNat * 2 ^ 396 + d.origin.toNat * 2 ^ 384 + d.sbud.toNat * 2 ^ 352 + d.cds.toNat * 2 ^ 320 + d.handle.toNat * 2 ^ 256 +
  d.sclp.toNat * 2 ^ 192 + d.fmtp.toNat * 2 ^ 128 + d.restart.toNat * 2 ^ 112 + d.args.toNat * 2 ^ 64 + d.depc.toNat * 2 ^ 48 +
  d.applyt.toNat * 2 ^ 35 + d.state.toNat * 2 ^ 33 + d.prio.toNat * 2 ^ 31 + d.ctx.toNat * 2 ^ 19 + d.entry.toNat

/-- The words of a store that has no address: a task descriptor by its layout, any other, whose layout the spec does not give, a free value; each
with its check bits, the first with the syndrome that stands. (DESIGN CHOICE, log 5) -/
def State.storeBytes (s : State) (c : Nat) (u : CoreStore) : List Byte :=
  let m := (((s.core c).marks.find? (fun m => m.1 == u)).map (·.2)).getD 0
  match u with
  | .task n =>
    match (s.core c).tasks.find? (fun d => d.num == n) with
    | none => []
    | some d => (List.range 8).flatMap (fun i =>
        let x := w64 (d.word / 2 ^ (64 * i))
        leBytes 8 x.toNat ++ [ecc x ^^^ if i = 0 then m else 0])
  | .cc k => parityBytes 2 ((s.core c).cc[k].val.setWidth 64) (m != 0)
  | _ =>
    let x := Config.freeWord s.nextTag
    leBytes 8 x.toNat ++ [m ^^^ ecc x]

/-- The bytes that the debug port reads at a place, with their check bits or parity; none where nothing is stored there. -/
def State.debugBytes (s : State) : ErrLoc → Option (List Byte)
  | .dram k | .cell k => word k
  | .cache k => ((s.cacheBad.find? (fun e => e.1 == k / 8 * 8)).map (fun e => leBytes 8 e.2.1.toNat ++ [e.2.2 ^^^ ecc e.2.1])).or (word k)
  | .spad c off => word (spKey Config.pkg c off)
  | .acc c k w =>
    let a := BitVec.ofNat 4 k
    let v := (s.core c).accPair a w
    some (leBytes 8 v.toNat ++ [(s.core c).accSyndAt a w ^^^ ecc v])
  | .reg c i r => (s.threadAt c i).map (fun t => parityBytes 8 (t.cell r).val (t.cell r).bad)
  | .window c i n r => ((s.threadAt c i).bind (fun t => t.resident[n]?)).map (fun x => parityBytes 8 x.win[r].val x.win[r].bad)
  | .queue c n j => match (s.core c).q[n][j]? with
    | some (.val w) => some (parityBytes 8 w ((s.core c).badQ[n].contains j))
    | _ => none
  | .recv c i j => ((s.slot c i).rq[j]?).map (fun w => parityBytes 8 w ((s.slot c i).badRq.contains j))
  | .latch c i => some (parityBytes 8 (s.slot c i).nf (s.slot c i).badNf)
  | .preds c i => (s.threadAt c i).map (fun t => parityBytes 4 (t.pw.setWidth 64) t.badPw)
  | .diary src i =>
    let d := s.diaryOf src
    let e := ((d.errs.find? (fun e => e.1 == i)).map (·.2)).getD (0, 0)
    let x := d.recs.getD i 0 ^^^ e.1
    some (leBytes 8 x.toNat ++ [e.2 ^^^ ecc x])
  | .csr c i n =>
    let s1 : State := { s with cur := ⟨c, i⟩ }
    if 0x020 ≤ n.toNat && n.toNat < 0x028 then some (s.storeBytes c (.cc (Fin.ofNat 8 (n.toNat - 0x020)))) else
    (s.threadAt c i).bind (fun t => ((s1.userCsr t n.toNat).orElse (fun _ => s1.supCsr t n.toNat)).map
      (fun v => parityBytes 8 v (t.badCsr.contains n.toNat)))
  | .store c u => some (s.storeBytes c u)
  | .launch p q => (s.launches.find? (fun l => l.part == p && l.seq.toNat == q)).map (fun l =>
      let x := Config.freeWord s.nextTag
      leBytes 8 x.toNat ++ [l.err ^^^ ecc x])
  | .capsule off => some (s.capsule.bytes off 8)
  | .acl k i p => some [s.rights k i p]
  | .bustat => some (leBytes 8 s.bustat.toNat)
  | .step _ _ => none
where
  /-- a word in memory -/
  word (k : Nat) : Option (List Byte) :=
    let w := k / 8 * 8
    let x := w64 (s.rawNat w 8)
    some (leBytes 8 x.toNat ++ [s.syndAt w ^^^ ecc x])

/-- The read needs partition 0's DIAG right: of the slice that holds the word, or of the port; `BUSTAT` comes over the I3C port, which asks for
none. -/
def State.debugGrants (s : State) : ErrLoc → Bool
  | .dram pa | .cell pa | .cache pa => s.grants (bankOf pa) 0 8
  | .bustat => true
  | _ => (s.rights 3 0 0).getLsbD 3

/-- `DEBUG_READ`: storage as it is, with its check bits, under partition 0's DIAG right; a refused read returns nothing (R360). A step of an
engine is no storage. -/
def execDebugRead (l : ErrLoc) (s : State) : Host.Outcome State Fault Refusal :=
  let here : Bool := match l with
    | .dram pa | .cell pa | .cache pa => isDram pa
    | .step _ _ => false
    | _ => true
  if !here then .fault .noStorage
  else
    let tag := match l with | .store _ _ | .launch _ _ => s.nextTag + 1 | _ => s.nextTag
    .next { s with hostOut := s.hostOut ++ [(0, if s.debugGrants l then (s.debugBytes l).getD [] else [])], nextTag := tag }

end Sys2Proof.Machine
end

