-- ==== Sys2Proof/Machine/Dispatch.lean ====
section
/-! DEFINITION. One arm for each row of spec/opcode_table.json: the meaning of every instruction and event. -/

namespace Sys2Proof.Machine

/-- Execute one instruction or event. -/
def exec (i : Instr) (s : State) : Host.Outcome State Fault Refusal :=
  match i with
  | .nop => Sys2Proof.Machine.execNop s
  | .rlx => Sys2Proof.Machine.execRlx s
  | .halt => Sys2Proof.Machine.execHalt s
  | .yield => Sys2Proof.Machine.execYield s
  | .br p t => Sys2Proof.Machine.execBr p t s
  | .brn p t => Sys2Proof.Machine.execBrn p t s
  | .jmp x => Sys2Proof.Machine.execJmp x s
  | .call t => Sys2Proof.Machine.execCall t s
  | .callr x => Sys2Proof.Machine.execCallr x s
  | .ret => Sys2Proof.Machine.execRet s
  | .loop r t => Sys2Proof.Machine.execLoop r t s
  | .trap c => Sys2Proof.Machine.execTrap c s
  | .brk => Sys2Proof.Machine.execBrk s
  | .xret => Sys2Proof.Machine.execXret s
  | .scall c => Sys2Proof.Machine.execScall c s
  | .add d x y w => Sys2Proof.Machine.execAdd d x y w s
  | .sub d x y w => Sys2Proof.Machine.execSub d x y w s
  | .and d x y w => Sys2Proof.Machine.execAnd d x y w s
  | .or d x y w => Sys2Proof.Machine.execOr d x y w s
  | .xor d x y w => Sys2Proof.Machine.execXor d x y w s
  | .andn d x y w => Sys2Proof.Machine.execAndn d x y w s
  | .shl d x y w => Sys2Proof.Machine.execShl d x y w s
  | .shr d x y w => Sys2Proof.Machine.execShr d x y w s
  | .sra d x y w => Sys2Proof.Machine.execSra d x y w s
  | .rotl d x y w => Sys2Proof.Machine.execRotl d x y w s
  | .mul d x y w => Sys2Proof.Machine.execMul d x y w s
  | .mulh d x y w => Sys2Proof.Machine.execMulh d x y w s
  | .mulhu d x y w => Sys2Proof.Machine.execMulhu d x y w s
  | .div d x y w => Sys2Proof.Machine.execDiv d x y w s
  | .divu d x y w => Sys2Proof.Machine.execDivu d x y w s
  | .rem d x y w => Sys2Proof.Machine.execRem d x y w s
  | .remu d x y w => Sys2Proof.Machine.execRemu d x y w s
  | .min d x y w => Sys2Proof.Machine.execMin d x y w s
  | .max d x y w => Sys2Proof.Machine.execMax d x y w s
  | .minu d x y w => Sys2Proof.Machine.execMinu d x y w s
  | .maxu d x y w => Sys2Proof.Machine.execMaxu d x y w s
  | .adds d x y w => Sys2Proof.Machine.execAdds d x y w s
  | .subs d x y w => Sys2Proof.Machine.execSubs d x y w s
  | .clz d x w => Sys2Proof.Machine.execClz d x w s
  | .ctz d x w => Sys2Proof.Machine.execCtz d x w s
  | .popc d x w => Sys2Proof.Machine.execPopc d x w s
  | .sext d x y w => Sys2Proof.Machine.execSext d x y w s
  | .zext d x y w => Sys2Proof.Machine.execZext d x y w s
  | .bswp d x w => Sys2Proof.Machine.execBswp d x w s
  | .mov d x w => Sys2Proof.Machine.execMov d x w s
  | .addi d x imm => Sys2Proof.Machine.execAddi d x imm s
  | .andi d x imm => Sys2Proof.Machine.execAndi d x imm s
  | .ori d x imm => Sys2Proof.Machine.execOri d x imm s
  | .xori d x imm => Sys2Proof.Machine.execXori d x imm s
  | .shli d x sh => Sys2Proof.Machine.execShli d x sh s
  | .shri d x sh => Sys2Proof.Machine.execShri d x sh s
  | .srai d x sh => Sys2Proof.Machine.execSrai d x sh s
  | .muli d x imm => Sys2Proof.Machine.execMuli d x imm s
  | .movi d imm => Sys2Proof.Machine.execMovi d imm s
  | .movh d imm => Sys2Proof.Machine.execMovh d imm s
  | .adr d t => Sys2Proof.Machine.execAdr d t s
  | .empt r => Sys2Proof.Machine.execEmpt r s
  | .ceq p x y => Sys2Proof.Machine.execCeq p x y s
  | .cne p x y => Sys2Proof.Machine.execCne p x y s
  | .clt p x y => Sys2Proof.Machine.execClt p x y s
  | .cle p x y => Sys2Proof.Machine.execCle p x y s
  | .cltu p x y => Sys2Proof.Machine.execCltu p x y s
  | .cleu p x y => Sys2Proof.Machine.execCleu p x y s
  | .ceqi p x imm => Sys2Proof.Machine.execCeqi p x imm s
  | .clti p x imm => Sys2Proof.Machine.execClti p x imm s
  | .cltui p x imm => Sys2Proof.Machine.execCltui p x imm s
  | .pand d x y nx ny => Sys2Proof.Machine.execPand d x y nx ny s
  | .por d x y nx ny => Sys2Proof.Machine.execPor d x y nx ny s
  | .pxor d x y nx ny => Sys2Proof.Machine.execPxor d x y nx ny s
  | .pnot d x => Sys2Proof.Machine.execPnot d x s
  | .sel d x y p => Sys2Proof.Machine.execSel d x y p s
  | .pget d => Sys2Proof.Machine.execPget d s
  | .pset x => Sys2Proof.Machine.execPset x s
  | .tfull p r => Sys2Proof.Machine.execTfull p r s
  | .fadd d x y f => Sys2Proof.Machine.execFadd d x y f s
  | .fsub d x y f => Sys2Proof.Machine.execFsub d x y f s
  | .fmul d x y f => Sys2Proof.Machine.execFmul d x y f s
  | .fdiv d x y f => Sys2Proof.Machine.execFdiv d x y f s
  | .fsqrt d x f => Sys2Proof.Machine.execFsqrt d x f s
  | .fma d x y z f => Sys2Proof.Machine.execFma d x y z f s
  | .fmin d x y f => Sys2Proof.Machine.execFmin d x y f s
  | .fmax d x y f => Sys2Proof.Machine.execFmax d x y f s
  | .fabs d x f => Sys2Proof.Machine.execFabs d x f s
  | .fneg d x f => Sys2Proof.Machine.execFneg d x f s
  | .fceq p x y f => Sys2Proof.Machine.execFceq p x y f s
  | .fclt p x y f => Sys2Proof.Machine.execFclt p x y f s
  | .fcle p x y f => Sys2Proof.Machine.execFcle p x y f s
  | .fcvt d x f sel => Sys2Proof.Machine.execFcvt d x f sel s
  | .fcvti d x f t => Sys2Proof.Machine.execFcvti d x f t s
  | .icvtf d x f t => Sys2Proof.Machine.execIcvtf d x f t s
  | .fclass d x f => Sys2Proof.Machine.execFclass d x f s
  | .ld d p sz off => Sys2Proof.Machine.execLd d p sz off s
  | .ldpi d p sz => Sys2Proof.Machine.execLdpi d p sz s
  | .st x p sz off => Sys2Proof.Machine.execSt x p sz off s
  | .stpi x p sz => Sys2Proof.Machine.execStpi x p sz s
  | .lda d p sz off => Sys2Proof.Machine.execLda d p sz off s
  | .ldx d p sz pr off => Sys2Proof.Machine.execLdx d p sz pr off s
  | .erase p => Sys2Proof.Machine.execErase p s
  | .fence sc => Sys2Proof.Machine.execFence sc s
  | .ldaq d p sz sc off => Sys2Proof.Machine.execLdaq d p sz sc off s
  | .strel x p sz sc off => Sys2Proof.Machine.execStrel x p sz sc off s
  | .pref p sz off => Sys2Proof.Machine.execPref p sz off s
  | .rsv d p o => Sys2Proof.Machine.execRsv d p o s
  | .rls d p x o => Sys2Proof.Machine.execRls d p x o s
  | .rlsn d p o => Sys2Proof.Machine.execRlsn d p o s
  | .waitrs => Sys2Proof.Machine.execWaitrs s
  | .aadd d p x o => Sys2Proof.Machine.execAadd d p x o s
  | .aand d p x o => Sys2Proof.Machine.execAand d p x o s
  | .aor d p x o => Sys2Proof.Machine.execAor d p x o s
  | .axor d p x o => Sys2Proof.Machine.execAxor d p x o s
  | .amin d p x o => Sys2Proof.Machine.execAmin d p x o s
  | .amax d p x o => Sys2Proof.Machine.execAmax d p x o s
  | .aminu d p x o => Sys2Proof.Machine.execAminu d p x o s
  | .amaxu d p x o => Sys2Proof.Machine.execAmaxu d p x o s
  | .aswp d p x o => Sys2Proof.Machine.execAswp d p x o s
  | .cas d p x o => Sys2Proof.Machine.execCas d p x o s
  | .aincb d p x o => Sys2Proof.Machine.execAincb d p x o s
  | .afadd d p x o => Sys2Proof.Machine.execAfadd d p x o s
  | .redadd c p x dbl off => Sys2Proof.Machine.execRedadd c p x dbl off s
  | .redmin c p x dbl off => Sys2Proof.Machine.execRedmin c p x dbl off s
  | .redmax c p x dbl off => Sys2Proof.Machine.execRedmax c p x dbl off s
  | .redfadd c p x dbl off => Sys2Proof.Machine.execRedfadd c p x dbl off s
  | .pcadd d p x hi off => Sys2Proof.Machine.execPcadd d p x hi off s
  | .pcrd d p hi => Sys2Proof.Machine.execPcrd d p hi s
  | .pcmrg d p x hi => Sys2Proof.Machine.execPcmrg d p x hi s
  | .pclv d p hi => Sys2Proof.Machine.execPclv d p hi s
  | .pclvSet d p x hi => Sys2Proof.Machine.execPclvSet d p x hi s
  | .segrd d k f => Sys2Proof.Machine.execSegrd d k f s
  | .segnw k x y keep => Sys2Proof.Machine.execSegnw k x y keep s
  | .csrr d n => Sys2Proof.Machine.execCsrr d n s
  | .csrw d x n => Sys2Proof.Machine.execCsrw d x n s
  | .csrset d x n => Sys2Proof.Machine.execCsrset d x n s
  | .csrclr d x n => Sys2Proof.Machine.execCsrclr d x n s
  | .vadd f e d x y => Sys2Proof.Machine.execVadd f e d x y s
  | .vsub f e d x y => Sys2Proof.Machine.execVsub f e d x y s
  | .vmul f e d x y => Sys2Proof.Machine.execVmul f e d x y s
  | .vfma f e d x y z => Sys2Proof.Machine.execVfma f e d x y z s
  | .vmin f e d x y => Sys2Proof.Machine.execVmin f e d x y s
  | .vmax f e d x y => Sys2Proof.Machine.execVmax f e d x y s
  | .vabs f e d x => Sys2Proof.Machine.execVabs f e d x s
  | .vneg f e d x => Sys2Proof.Machine.execVneg f e d x s
  | .vdiv f e d x y => Sys2Proof.Machine.execVdiv f e d x y s
  | .vsqrt f e d x => Sys2Proof.Machine.execVsqrt f e d x s
  | .vrsq f e d x => Sys2Proof.Machine.execVrsq f e d x s
  | .vexp2 f e d x => Sys2Proof.Machine.execVexp2 f e d x s
  | .vand f e d x y => Sys2Proof.Machine.execVand f e d x y s
  | .vor f e d x y => Sys2Proof.Machine.execVor f e d x y s
  | .vxor f e d x y => Sys2Proof.Machine.execVxor f e d x y s
  | .vshl f e d x y => Sys2Proof.Machine.execVshl f e d x y s
  | .vshr f e d x y => Sys2Proof.Machine.execVshr f e d x y s
  | .vsra f e d x y => Sys2Proof.Machine.execVsra f e d x y s
  | .vceq f e d x y => Sys2Proof.Machine.execVceq f e d x y s
  | .vclt f e d x y => Sys2Proof.Machine.execVclt f e d x y s
  | .vsel f e d x y z => Sys2Proof.Machine.execVsel f e d x y z s
  | .vrsum f e d x => Sys2Proof.Machine.execVrsum f e d x s
  | .vrmax f e d x => Sys2Proof.Machine.execVrmax f e d x s
  | .viota f e d => Sys2Proof.Machine.execViota f e d s
  | .vset f e d y => Sys2Proof.Machine.execVset f e d y s
  | .vmov f e d x => Sys2Proof.Machine.execVmov f e d x s
  | .vcvt f e d x y => Sys2Proof.Machine.execVcvt f e d x y s
  | .vpack f e d x y => Sys2Proof.Machine.execVpack f e d x y s
  | .vunpk f e d x => Sys2Proof.Machine.execVunpk f e d x s
  | .gath f e d x y => Sys2Proof.Machine.execGath f e d x y s
  | .gathf f e d x y n => Sys2Proof.Machine.execGathf f e d x y n s
  | .scat f e d x y => Sys2Proof.Machine.execScat f e d x y s
  | .vlen d x => Sys2Proof.Machine.execVlen d x s
  | .vtrn f e d x => Sys2Proof.Machine.execVtrn f e d x s
  | .vcmpr f e d x y n => Sys2Proof.Machine.execVcmpr f e d x y n s
  | .mma k x y o => Sys2Proof.Machine.execMma k x y o s
  | .mzero k e => Sys2Proof.Machine.execMzero k e s
  | .mlda k x int e => Sys2Proof.Machine.execMlda k x int e s
  | .msta k x f int e => Sys2Proof.Machine.execMsta k x f int e s
  | .mstc k x e5 e => Sys2Proof.Machine.execMstc k x e5 e s
  | .madd k src int e => Sys2Proof.Machine.execMadd k src int e s
  | .mscal k x e => Sys2Proof.Machine.execMscal k x e s
  | .mrssq k x e => Sys2Proof.Machine.execMrssq k x e s
  | .cpy d x n att e => Sys2Proof.Machine.execCpy d x n att e s
  | .cpy2 d x n att e => Sys2Proof.Machine.execCpy2 d x n att e s
  | .cpym d x n att e m => Sys2Proof.Machine.execCpym d x n att e m s
  | .attn d p x => Sys2Proof.Machine.execAttn d p x s
  | .await d p x => Sys2Proof.Machine.execAwait d p x s
  | .depo x y e => Sys2Proof.Machine.execDepo x y e s
  | .ccinc c => Sys2Proof.Machine.execCcinc c s
  | .waitlt c n => Sys2Proof.Machine.execWaitlt c n s
  | .efence => Sys2Proof.Machine.execEfence s
  | .susp d x y pl op res => Sys2Proof.Machine.execSusp d x y pl op res s
  | .apply d entry arg pl sh => Sys2Proof.Machine.execApply d entry arg pl sh s
  | .force d p => Sys2Proof.Machine.execForce d p s
  | .spark p => Sys2Proof.Machine.execSpark p s
  | .htest d p pr => Sys2Proof.Machine.execHtest d p pr s
  | .hval d x sh => Sys2Proof.Machine.execHval d x sh s
  | .hfill p => Sys2Proof.Machine.execHfill p s
  | .task entry arg n => Sys2Proof.Machine.execTask entry arg n s
  | .next d pr => Sys2Proof.Machine.execNext d pr s
  | .range d => Sys2Proof.Machine.execRange d s
  | .mig x => Sys2Proof.Machine.execMig x s
  | .home => Sys2Proof.Machine.execHome s
  | .send d x y => Sys2Proof.Machine.execSend d x y s
  | .qcnt d q => Sys2Proof.Machine.execQcnt d q s
  | .bar sc => Sys2Proof.Machine.execBar sc s
  | .redn d x n op sc => Sys2Proof.Machine.execRedn d x n op sc s
  | .launch d p => Sys2Proof.Machine.execLaunch d p s
  | .sret => Sys2Proof.Machine.execSret s
  | .scsrr d n => Sys2Proof.Machine.execScsrr d n s
  | .scsrw d x n => Sys2Proof.Machine.execScsrw d x n s
  | .ctxsv d x p => Sys2Proof.Machine.execCtxsv d x p s
  | .ctxld d x p => Sys2Proof.Machine.execCtxld d x p s
  | .tlbinvCtx => Sys2Proof.Machine.execTlbinvCtx s
  | .tlbinvPage x => Sys2Proof.Machine.execTlbinvPage x s
  | .tlbinvPart => Sys2Proof.Machine.execTlbinvPart s
  | .diagst x y c k => Sys2Proof.Machine.execDiagst x y c k s
  | .diagld d x c k => Sys2Proof.Machine.execDiagld d x c k s
  | .detain d x => Sys2Proof.Machine.execDetain d x s
  | .lmapw d x y => Sys2Proof.Machine.execLmapw d x y s
  | .scant d x => Sys2Proof.Machine.execScant d x s
  | .dfrz => Sys2Proof.Machine.execDfrz s
  | .slotkill d x => Sys2Proof.Machine.execSlotkill d x s
  | .slotkillCtx d x => Sys2Proof.Machine.execSlotkillCtx d x s
  | .preempt d x => Sys2Proof.Machine.execPreempt d x s
  | .matw d x y z => Sys2Proof.Machine.execMatw d x y z s
  | .idle => Sys2Proof.Machine.execIdle s
  | .qtail part q v => Sys2Proof.Machine.execQtail part q v s
  | .launchRecordTake q => Sys2Proof.Machine.execLaunchRecordTake q s
  | .launchDispatch part seq => Sys2Proof.Machine.execLaunchDispatch part seq s
  | .imageLoad part seq core => Sys2Proof.Machine.execImageLoad part seq core s
  | .stealRequest tag => Sys2Proof.Machine.execStealRequest tag s
  | .stealReply tag => Sys2Proof.Machine.execStealReply tag s
  | .taskSteal thief victim => Sys2Proof.Machine.execTaskSteal thief victim s
  | .slotFill core slot => Sys2Proof.Machine.execSlotFill core slot s
  | .migrationArrival tag => Sys2Proof.Machine.execMigrationArrival tag s
  | .depositArrival tag => Sys2Proof.Machine.execDepositArrival tag s
  | .depositLand core tag => Sys2Proof.Machine.execDepositLand core tag s
  | .messageArrival tag => Sys2Proof.Machine.execMessageArrival tag s
  | .windowSpill core slot => Sys2Proof.Machine.execWindowSpill core slot s
  | .forcedSpill core slot => Sys2Proof.Machine.execForcedSpill core slot s
  | .wakeMessage tag => Sys2Proof.Machine.execWakeMessage tag s
  | .arrive tag => Sys2Proof.Machine.execArrive tag s
  | .perform t => Sys2Proof.Machine.execPerform t s
  | .complete tag => Sys2Proof.Machine.execComplete tag s
  | .probe b => Sys2Proof.Machine.execProbe b s
  | .echo tag => Sys2Proof.Machine.execEcho tag s
  | .grant line => Sys2Proof.Machine.execGrant line s
  | .release b => Sys2Proof.Machine.execRelease b s
  | .reservationBreak line => Sys2Proof.Machine.execReservationBreak line s
  | .migrationReservationBreak line => Sys2Proof.Machine.execMigrationReservationBreak line s
  | .claimRetry core slot => Sys2Proof.Machine.execClaimRetry core slot s
  | .engineOpStart core e => Sys2Proof.Machine.execEngineOpStart core e s
  | .engineOpComplete core e => Sys2Proof.Machine.execEngineOpComplete core e s
  | .attendanceArrival tag => Sys2Proof.Machine.execAttendanceArrival tag s
  | .mmaReplay core => Sys2Proof.Machine.execMmaReplay core s
  | .rollCallSend core slot => Sys2Proof.Machine.execRollCallSend core slot s
  | .rollCall tag => Sys2Proof.Machine.execRollCall tag s
  | .stockRefill tag => Sys2Proof.Machine.execStockRefill tag s
  | .pageResponse part tag gen ok => Sys2Proof.Machine.execPageResponse part tag gen ok s
  | .pagemove hd ctx v leaf => Sys2Proof.Machine.execPagemove hd ctx v leaf s
  | .portAck tag port => Sys2Proof.Machine.execPortAck tag port s
  | .detentionNotice tag => Sys2Proof.Machine.execDetentionNotice tag s
  | .detentionReset tag => Sys2Proof.Machine.execDetentionReset tag s
  | .detentionRejoin tag => Sys2Proof.Machine.execDetentionRejoin tag s
  | .scrub b line => Sys2Proof.Machine.execScrub b line s
  | .markerTimeout core slot => Sys2Proof.Machine.execMarkerTimeout core slot s
  | .scanTestEnd core fail => Sys2Proof.Machine.execScanTestEnd core fail s
  | .freeze src => Sys2Proof.Machine.execFreeze src s
  | .reportCard => Sys2Proof.Machine.execReportCard s
  | .timeMark src => Sys2Proof.Machine.execTimeMark src s
  | .coldReset => Sys2Proof.Machine.execColdReset s
  | .warmReset => Sys2Proof.Machine.execWarmReset s
  | .partcfg hd arg => Sys2Proof.Machine.execPartcfg hd arg s
  | .doorbell hd core slot => Sys2Proof.Machine.execDoorbell hd core slot s
  | .capinfo hd => Sys2Proof.Machine.execCapinfo hd s
  | .capread hd off n => Sys2Proof.Machine.execCapread hd off n s
  | .capclear hd => Sys2Proof.Machine.execCapclear hd s
  | .debugRead loc => Sys2Proof.Machine.execDebugRead loc s
  | .barrierComplete tag => Sys2Proof.Machine.execBarrierComplete tag s
  | .reductionComplete tag => Sys2Proof.Machine.execReductionComplete tag s
  | .registerWrite r v => Sys2Proof.Machine.execRegisterWrite r v s
  | .unassignedOpcode opc => Sys2Proof.Machine.execUnassignedOpcode opc s
  | .deviceMemoryWindowAccess part pa w n => Sys2Proof.Machine.execDeviceMemoryWindowAccess part pa w n s
  | .windowReload core slot => Sys2Proof.Machine.execWindowReload core slot s
  | .flitResent core again => Sys2Proof.Machine.execFlitResent core again s
  | .storageError l flip => Sys2Proof.Machine.execStorageError l flip s

end Sys2Proof.Machine
end

