-- ==== Sys2Proof/Machine/Issue.lean ====
section
/-! DEFINITION. The issue stage: fetching and decoding the head at a thread's PC, giving a slot its turn (R42, R43, R84,
R139 to R149), and what the machine does next. -/

namespace Sys2Proof.Machine

/-! ## Fetch -/

/-- What the fetch at a PC finds: a trap, or a head with its tail (R84, R143, R144). (DEDUCED, log 12) -/
def State.fetch (s : State) (core : Nat) (pc : Word) : (BitVec 8 × Word) ⊕ (Nat × Nat) :=
  if (s.core core).xb ≤ pc then .inl (cOVERLAY, pc)
  else
    let l := s.lineAt core (pcBase pc).toNat
    if !l.wf then .inl (cILLEGAL_LINE, pcBase pc)
    else if pc.getLsbD 0 || pcIdx pc == 0 || l.hcnt < pcIdx pc then .inl (cILLEGAL_TARGET, pc)
    else .inr (l.slot (pcIdx pc))

/-- Run a head with its tail as the issuing thread's instruction (R149): an unassigned opcode, a privileged one in user mode, a
refused encoding, or the instruction it decodes to, once what it uses by itself has passed its checks (R320). -/
def State.runWord (s : State) (t : Thread) (w : Nat × Nat) : Host.Outcome State Fault Refusal :=
  let opc := w.1 / 32 % 512
  if isPrivOpc opc && !t.mode then .next (s.supTrap cPRIV (encVal w) t.pc)
  else
    match decode w.1 w.2 with
    | .ok i =>
      match s.checkUses t i with
      | .ok s1 => exec i s1
      | .error (k, s1) => s1.stopped k
    | .error .unassigned => execUnassignedOpcode (BitVec.ofNat 9 opc) s
    | .error _ => .next (s.userTrap cILLEGAL (encVal w) t.pc)

/-- Run the head at the issuing thread's PC; what the fetch of its line finds wrong is corrected, or ends the context (R319, R322). -/
def State.runHead (s : State) (t : Thread) : Host.Outcome State Fault Refusal :=
  if (s.core s.cur.core).xb ≤ t.pc then .next (s.userTrap cOVERLAY t.pc t.pc)
  else
    match s.checked t (spKey Config.pkg s.cur.core (pcBase t.pc).toNat) 64 with
    | .error (_, s1) => .next s1
    | .ok s1 =>
      match s1.fetch s.cur.core t.pc with
      | .inl (c, v) => .next (s1.userTrap c v t.pc)
      | .inr w => s1.runWord t w

/-! ## Redundant pairs (R324) -/

/-- The instruction at a leading thread's PC; under `RLX` the one it prefixes. -/
def State.nextInstr (s : State) (c : Nat) (t : Thread) : Option Instr :=
  let at_ := fun (pc : Word) => match s.fetch c pc with
    | .inl _ => none
    | .inr w => match decode w.1 w.2 with | .ok j => some j | .error _ => none
  match at_ t.pc with
  | some .rlx => at_ (t.pc + 2)
  | o => o

/-- The leading thread in a slot waits: its load-value queue holds 32 values, or its next instruction is an output and the store comparator
holds 16, or one that takes its effect as it issues while the Marker thread is behind (R324). (DEDUCED, log 62) -/
def State.pairWaits (s : State) (c : Nat) (i : Fin 8) (t : Thread) : Bool :=
  let l := (s.slot c (i + 4)).trail
  t.lead && !l.isEmpty &&
  (32 ≤ (l.map (·.vals)).sum ||
    (match s.nextInstr c t with
      | some j => (j.outNow || (j.isOutput && 16 ≤ (l.filter (·.out)).length))
      | none => false))

/-- What the issuing thread's turn runs: the completion of an access whose fault has been repaired (R199), the handle of a spark or of an
`APPLY` task (R117, R244), or the head at its PC. -/
def State.runTurnOf (s : State) (t : Thread) : Host.Outcome State Fault Refusal :=
  match t.replay.filter (fun r => r.msg.pc == t.pc), s.autoHandle? t with
  | some r, _ => .next (s.redo r)
  | none, some va => (s.autoForce t va).done
  | none, none => s.runHead t

/-- The turn as its Marker thread takes it: with the thread's registers as the Marker thread has them. -/
def State.ghost (s : State) (c : Nat) (i : Fin 8) (t m : Thread) : Host.Outcome State Fault Refusal :=
  let u := Thread.follow t t m
  (s.modAt c i (fun _ => u)).runTurnOf u

/-- A leading thread has run its turn from one state to another: its Marker thread trails it through the same instruction. It takes the
same values from outside; an output must be the same one, to the same address, with the same data. One that takes its effect at once is
compared at once. (DEDUCED, log 62) -/
def State.pairNote (s s1 : State) (c : Nat) (i : Fin 8) (t m : Thread) : State :=
  let ran : Bool := match s1.threadAt c i with
    | none => true
    | some u => u.id != t.id || u.pc != t.pc || (match u.status with | .parked _ => false | _ => true)
  let shared := fun (s1 : State) => match s1.threadAt c i with
    | some u => s1.modSlot c (i + 4) (fun sl => { sl with occ := .marker (Thread.follow t u m) })
    | none => s1
  if !ran then shared s1
  else
    let now : Bool := (s.nextInstr c t).any (·.outNow)
    let g := s.ghost c i t m
    -- a Detention that the turn starts as the Marker thread takes it, and not of its own, is that of a register of the Marker thread
    let eats : Bool := match g with
      | .next g1 => decide (s1.detentions.length < g1.detentions.length)
      | _ => false
    let (same, sent, m1) := match g with
      | .next g1 => (g1.outside c i == s1.outside c i, g1.sentFrom c s.nextTag, g1.threadAt c i)
      | _ => (false, false, none)
    let out := s1.sentFrom c s.nextTag || sent
    let h := (s.lineAt c (pcBase t.pc).toNat).slot (pcIdx t.pc)
    let e : Trail := ⟨s.nextTag, s1.nextTag, ((s.nextInstr c t).map (·.inputs)).getD 0 + s.popped s1 c i, out, out && !same, eats, h.1 / 32 % 512, s.time.toNat⟩
    if now && eats then s.consume c
    else if now && !same then s.mismatch c i e
    else
      match s1.markerOf? c i with
      | none => s1
      | some _ =>
        let m2 := match m1, s1.threadAt c i with
          | some x, _ => x
          | none, some u => Thread.follow t u m
          | none, none => m
        s1.modSlot c (i + 4) (fun sl => { sl with occ := .marker m2, trail := sl.trail ++ [e] })

/-- The turn of a Marker thread: it comes to the next instruction that its leading thread has run, and the comparator decides; a register of its
own that fails its parity check there is consumed (R320, R324). -/
def State.markerTurn (s : State) (c : Nat) (i : Fin 8) : State :=
  match (s.slot c i).trail with
  | [] => s
  | e :: r => if e.eats then s.consume c else if e.bad then s.mismatch c (i - 4) e else s.modSlot c i (fun sl => { sl with trail := r })

/-! ## Eligible slots (R41, R42, R163) -/

/-- A slot waits so. -/
def State.slotWaits (s : State) (c : Nat) (i : Fin 8) (p : Wait → Bool) : Bool :=
  (s.threadAt c i).any (fun u => match u.status with | .parked w => p w | _ => false)

/-- A thread's turn, but for holds: an instruction that would park even with nothing held parks (R34, R41). -/
def State.unheldTurn (s : State) (c : Nat) (i : Fin 8) (t : Thread) : Host.Outcome State Fault Refusal :=
  let o := s.runTurnOf t
  match o with
  | .next s1 =>
    if !s1.slotWaits c i (· == .hold) then o
    else
      match (s.modCore c (fun k => { k with qWritten := Vector.replicate 4 none, nfWritten := Vector.replicate 8 none })).runTurnOf t with
      | .next s2 =>
        if s2.slotWaits c i (fun w => w.retests) then
          .next (s2.modCore c (fun k => { k with qWritten := (s.core c).qWritten, nfWritten := (s.core c).nfWritten }))
        else o
      | _ => o
  | _ => o

/-- What a thread's turn does: a leading thread may have to wait for its Marker thread (R324). -/
def State.attempt (s : State) (c : Nat) (i : Fin 8) (t : Thread) : Host.Outcome State Fault Refusal :=
  let s0 : State := { s with cur := ⟨c, i⟩ }
  if s.pairWaits c i t then .next (s0.park .issue) else s0.unheldTurn c i t

/-- The issue stage holds the thread, which would otherwise issue, for a queue or latch that was written one or two cycles ago (R41). -/
def State.issueHeld (s : State) (c : Nat) (i : Fin 8) (t : Thread) : Bool :=
  let k := s.core c
  let now := s.time.toNat
  (k.qWritten.any (fun w => heldBy w now) || heldBy k.nfWritten[i] now) &&
  (match s.attempt c i t with
    | .next s1 => s1.slotWaits c i (· == .hold)
    | _ => false)

/-- The thread in a slot is READY, nothing waits for its instruction boundary, and four cycles have passed since it last issued (R42). -/
def State.timely (s : State) (sl : Slot) (t : Thread) : Bool :=
  (match sl.lastIssue with | some l => l + 4 ≤ s.time.toNat | none => true) && sl.shutAt != some s.time.toNat &&
  t.status == .ready && (t.pending.isNone || t.answered)

/-- A slot is ready to issue but for a `YIELD`: its thread is, and is not held, or its Marker thread can take an entry (R42). -/
def State.awake (s : State) (c : Nat) (i : Fin 8) : Bool :=
  let sl := s.slot c i
  match sl.occ with
  | .thread t => s.timely sl t && !s.issueHeld c i t
  | .marker _ => (match sl.lastIssue with | some l => l + 4 ≤ s.time.toNat | none => true) && s.markerReady c i
  | _ => false

/-- The `YIELD` of a slot lasts: fewer than 8 cycles have passed, and another slot that is or has been eligible meanwhile has not issued since
(R163). Of two slots that wait so, the later waits for the earlier. -/
def State.yields (s : State) (c : Nat) : Nat → Fin 8 → Bool
  | 0, _ => false
  | n + 1, i =>
    match (s.slot c i).yieldSet with
    | none => false
    | some (l, at_) => s.time.toNat < at_ + 8 && allSlots.any (fun j =>
        j != i && !l.contains j && ((s.slot c i).yieldSeen.contains j || (s.awake c j && !State.yields s c n j)))

/-- A slot is eligible (R42, R163). -/
def State.eligible (s : State) (c : Nat) (i : Fin 8) : Bool := s.awake c i && !s.yields c 8 i

/-- The slots after the last that issued and before this one, in the cyclic order (R42). -/
def slotsBefore (last i : Fin 8) : List (Fin 8) := (List.range (i - last - 1).val).map (fun n => last + 1 + Fin.ofNat 8 n)

/-- The issue stage of a core may still take a slot in this cycle: nothing has issued in it, no spill has taken it, and no change of mode
waits for a cycle without issue (R42, R46). -/
def State.mayIssue (s : State) (c : Nat) : Bool :=
  let k := s.core c
  let now := s.time.toNat
  !k.stopped && k.scan.isNone && k.issuedAt != some now && k.bubbleAt != some now && k.strict == s.wantStrict c

/-- The issue stage takes this slot in this cycle: an eligible one, whose turn it is in strict mode, and the first after the slot that last
issued in shared mode (R42, R43). (DEDUCED, log 10) -/
def State.canIssue (s : State) (c : Nat) (i : Fin 8) : Bool :=
  let k := s.core c
  s.mayIssue c && s.eligible c i &&
  (if k.strict then k.strictTurn s.time.toNat == i.val else (slotsBefore k.lastSlot i).all (fun j => !s.eligible c j))

/-- Some slot of the core issues in this cycle. -/
def State.issuing (s : State) (c : Nat) : Bool := s.mayIssue c && allSlots.any (s.canIssue c)

/-! ## Turns (R29, R34, R42) -/

/-- The core counts the issue of a slot (R42); a `YIELD` counts those that issue after it (R163). -/
def Core.noteIssue (i : Fin 8) (now : Nat) (k : Core) : Core :=
  let k1 := { k with lastSlot := i, issuedAt := some now }
  let k2 := k1.modSlot i (fun sl => { sl with lastIssue := some now, yieldSet := sl.yieldSet.filter (fun y => y.2 == now) })
  { k2 with slots := k2.slots.map (fun sl => { sl with yieldSet := sl.yieldSet.map (fun y => (if y.2 = now then y.1 else i :: y.1, y.2)) }) }

/-- What follows a turn: its Marker thread shares it, and the issue is counted, as that of an attempt that parks is (R34, R42, R324). -/
def State.afterTurn (s s1 : State) (c : Nat) (i : Fin 8) (t : Thread) : State :=
  (match s.markerOf? c i with
    | some m => if t.lead then s.pairNote s1 c i t m else s1
    | none => s1).modCore c (Core.noteIssue i s.time.toNat)

/-- The turn of a slot that has a thread to run. -/
def State.turn (s : State) (c : Nat) (i : Fin 8) (t : Thread) : Host.Outcome State Fault Refusal :=
  match s.attempt c i t with
  | .next s1 => .next (({ s with cur := ⟨c, i⟩ } : State).afterTurn s1 c i t)
  | o => o

/-- What waits for the thread's instruction boundary comes before its next instruction (R30, R277, R284). -/
def State.boundary (s : State) (c : Nat) (i : Fin 8) (t : Thread) (p : Pend) : State :=
  match p with
  | .kill => s.killThread t
  | .killCtx k cause => s.killOf t k cause
  | .preempt => s.preemptAt c i
  | .ctxsv w =>
    if (s.thread? w).any (fun (u : Thread) => u.carried.any (fun x => x.1 == 5)) then s
    else s.modAt c i (fun u => { u with pending := none })

/-- The turn of a slot: nothing where the issue stage does not take it. -/
def State.issueTurn (s : State) (c : Nat) (i : Fin 8) : Host.Outcome State Fault Refusal :=
  match (s.slot c i).occ with
  | .thread t =>
    match t.pending with
    | some p =>
      if t.answered && (match p with | .preempt | .ctxsv _ => true | _ => false) then (if s.canIssue c i then s.turn c i t else .next s)
      else .next (if (s.core c).stopped then s else s.boundary c i t p)
    | none => if s.canIssue c i then s.turn c i t else .next s
  | .marker _ => .next (if s.canIssue c i then (s.markerTurn c i).modCore c (Core.noteIssue i s.time.toNat) else s)
  | _ => .next s

/-! ## Cycles (R29, R34, R42) -/

/-- The issue stage tests a parked thread's condition again by trying its instruction: the thread becomes READY once it would no longer wait
so, and whichever of those that waited issues first takes what there is (R34, R38). (DEDUCED, log 11) -/
def State.retest (s : State) (c : Nat) (i : Fin 8) : State :=
  match s.threadAt c i with
  | none => s
  | some t =>
    match t.status with
    | .parked w =>
      if !w.retests || (s.core c).stopped || (s.core c).scan.isSome then s
      else
        match s.attempt c i t with
        | .next s1 => if (s1.threadAt c i).any (fun u => u.status.waits w) then { s1 with cur := s.cur } else s.wakeAt c i
        | _ => s.wakeAt c i
    | _ => s

/-- Every parked thread is tested once in a cycle. -/
def State.retestAll (s : State) : State := s.cores.foldl (fun s x => allSlots.foldl (fun s i => s.retest x.1 i) s) s

/-- The end of a cycle for one core, as its threads stand before the parked ones are tested: in a cycle without issue, a bubble, its mode
changes, with the turn counter at 0 in the next one; in a hold cycle of strict mode the counter stands; a slot that yields keeps those
that have been eligible (R41, R42, R163). (DESIGN CHOICE, log 81) -/
def State.tickCore (s : State) (c : Nat) (k : Core) : Core :=
  let now := s.time.toNat
  let k0 : Core := { k with slots := k.slots.map (fun sl =>
    if sl.yieldSet.isNone then sl else { sl with yieldSeen := sl.yieldSeen ++ allSlots.filter (s.eligible c) }) }
  if k.issuedAt == some now then k0
  else
    let k1 := { k0 with bubbleAt := some now }
    if k.strict != s.wantStrict c then { k1 with strict := s.wantStrict c, strictBase := now + 1 }
    else if k.strict then
      let i := Fin.ofNat 8 (k.strictTurn now)
      match (k.slots[i]).occ with
      | .thread t => if s.timely k.slots[i] t && s.issueHeld c i t then { k1 with strictBase := k.strictBase + 1 } else k1
      | _ => k1
    else k1

/-- The end of a cycle for what its cores do beside the issue, once they have issued: entries of the deposit buffers whose register is EMPTY
land (R36, R37), and spills take the bubbles (R46). -/
def State.endCycle (s : State) : State :=
  s.cores.foldl (fun s (x : Nat × Core) =>
    let s1 := (s.core x.1).depBuf.foldl (fun s d => s.landDeposit x.1 d.tag) s
    if (s1.core x.1).issuedAt == some s.time.toNat || (s1.core x.1).bubbleAt == some s.time.toNat then s1 else s1.spillBubble x.1) s

/-- A barrier of a core in strict mode completes in the first cycle that R263 allows. -/
def State.barriersDue (s : State) : State :=
  s.bars.foldl (fun s g =>
    if g.scope = .co && (s.core g.unit).strict && s.barDue g then
      match execBarrierComplete g.id s with
      | .next s1 => s1
      | _ => s
    else s) s

/-- Spills that take issue cycles, in the new cycle (R46). -/
def State.spillsDue (s : State) : State :=
  s.cores.foldl (fun s (x : Nat × Core) => allSlots.foldl (fun s i => if s.spillDue x.1 i then s.spillCycle x.1 i true else s) s) s

/-- Every source that has written no time mark in these 2^22 cycles writes it in the last of them (R334). -/
def State.marksDue (s : State) : State :=
  allSources.foldl (fun s x => match execTimeMark x s with
    | .next s1 => s1
    | _ => s) s

/-- One clock cycle passes, once no core has a slot left that issues in it: deposits land and spills take bubbles, completion signals that
waited act, the issue stages test the
parked threads, modes change, and in the new cycle reservations whose time is up are broken and overdue spills take issue cycles. The spec gives each die a count of cycles and does
not say that they are in phase; the model has one for all. (DESIGN CHOICE, log 81) -/
def State.tick (s : State) : State :=
  if s.cores.any (fun x => s.issuing x.1) then s
  else
    let s1 := s.barriersDue.endCycle.flushSignals
    let s2 := { s1.retestAll with cores := s1.retestAll.cores.map (fun (x : Nat × Core) => (x.1, s1.tickCore x.1 x.2)) }
    let s3 : State := if (s.time.toNat + 1) % 2 ^ 22 = 0 then s2.marksDue else s2
    let now := s3.time + 1
    (({ s3 with time := now, diary := s3.diary.map (Diary.gapDue now.toNat) } : State).breakDue.retryOrders).spillsDue

/-! ## Turns of the agenda -/

/-- What an event does. -/
abbrev Act := State → Host.Outcome State Fault Refusal

/-- The cores in whose cycle an event comes after the issue: a completion that brings flags, after a write of `sst` (R61); an arrival at an
attendance word,
after a store (R87); a barrier of a core in strict mode (R263). -/
def State.opCores (s : State) (c : Nat) (e : Eng) : List Nat := c :: (((s.engHead c e).bind (fun o => s.placeOf? o.who)).map (·.1)).toList
def State.flagCores (s : State) (n : Nat) : List Nat :=
  (((s.replies.find? (fun r => r.tag == n && r.msg.op.isRed && r.sst != 0)).bind (fun r => s.placeOf? r.who)).map (·.1)).toList
def State.wordCores (s : State) (n : Nat) : List Nat := ((s.arrivals.find? (fun a => a.tag == n)).map (fun a => (spOf a.pa).2.1)).toList
def State.barCores (s : State) (n : Nat) : List Nat :=
  ((s.bars.find? (fun g => g.id == n)).bind (fun g => if g.scope = .co then some g.unit else none)).toList

/-- The cores in whose cycle an event comes after the issue; a deposit too, after what its core reads and writes (R37), and a spill, in a
bubble (R46). -/
def State.afterIssueOf (s : State) : Instr → List Nat
  | .depositLand c _ | .windowSpill c _ => [c]
  | .engineOpComplete c e => s.opCores c e
  | .complete n => s.flagCores n
  | .attendanceArrival n => s.wordCores n
  | .barrierComplete n => s.barCores n
  | _ => []

/-- An event that belongs after the issue of its cycle does nothing before. -/
def State.behind (s : State) (cs : List Nat) (a : Act) : Host.Outcome State Fault Refusal := if cs.any s.issuing then .next s else a s

/-- What an event brings to a leading thread comes to its Marker thread too, but for an error in storage, which strikes the one alone. -/
def State.shared (s : State) (strikes : Bool) (a : Act) : Host.Outcome State Fault Refusal :=
  match a s with
  | .next s1 => .next (if strikes then s1 else s.syncPairs s1)
  | o => o

/-- A well-formed event comes. -/
def State.eventTurn (s : State) (i : Instr) : Host.Outcome State Fault Refusal :=
  s.shared (match i with | .storageError _ _ => true | _ => false) (fun s => s.behind (s.afterIssueOf i) (exec i))

/-- A turn: an ill-formed event names nothing. (DESIGN CHOICE, log 3) -/
def State.runTurn (s : State) : Turn → Host.Outcome State Fault Refusal
  | .issue c i => s.issueTurn c i
  | .event i => if i.isEvent && i.wf then s.eventTurn i else .fault .noSuchEvent
  | .tick => .next s.tick
  | .loose c i => .next (s.modAt c i (fun t => { t with oar := t.oar.map (fun o => if o.acq && o.loose.isNone then { o with loose := some false } else o) }))
  | .mapFill h k => .next (s.fillMap h k)
  | .mapDrop h k => .next (s.forgetMap h k)
  | .evict p c b => .next { s with tlb := s.tlb.filter (fun e => !(e.port == p && e.ctx == c && e.base == b)) }
  | .stage ok => .next (s.bringUp ok)

/-! ## The default turn (DESIGN CHOICE, log 3)

With an empty agenda the machine takes the first turn of a fixed list that does something, and a tick where none does. Events that
bring a choice from outside, of the host or of an error, come by the agenda only. -/

/-- Banks with something to perform, probe or release. -/
def State.busyBanks (s : State) : List Bank :=
  ((s.inbox.map (·.bank)) ++ (s.lines.filter (fun q => !q.aside.isEmpty)).map (fun q => bankOf q.line)).eraseDups

/-- Turns of the path and of the homes. -/
def State.pathTurns (s : State) : List Act :=
  (s.net.map (fun m => execArrive m.tag)) ++
  (s.busyBanks.flatMap (fun b => [execPerform (.bank b), execProbe b])) ++
  (s.rels.map (fun r => execRelease r.msg.bank)) ++
  (s.replies.map (fun r (s : State) => s.behind (s.flagCores r.tag) (execComplete r.tag))) ++
  (s.echoes.map (fun e => execEcho e.1)) ++
  (s.lines.flatMap (fun q =>
    [execGrant q.line, execReservationBreak q.line, execMigrationReservationBreak q.line])) ++
  ((List.range (s.faultQ.filter (fun f => f.kind == .stock)).length).map (fun i => execStockRefill i)) ++
  (s.invals.flatMap (fun v => v.left.map (fun p => execPortAck v.tag p))) ++
  (s.moves.map (fun v => execPagemove ⟨v.part, v.cmd⟩ v.ctx (BitVec.ofNat 48 v.base) v.newLeaf))

/-- Turns of messages between cores. -/
def State.messageTurns (s : State) : List Act :=
  (s.wakes.map (fun w => execWakeMessage w.tag)) ++
  (s.arrivals.map (fun a (s : State) => s.behind (s.wordCores a.tag) (execAttendanceArrival a.tag))) ++
  (s.deps.map (fun d => execDepositArrival d.tag)) ++
  (s.sends.map (fun m => execMessageArrival m.tag)) ++
  (s.migs.map (fun m => execMigrationArrival m.tag)) ++
  (s.steals.flatMap (fun x => [execStealRequest x.tag, execStealReply x.tag])) ++
  (s.bars.map (fun g (s : State) => s.behind (s.barCores g.id) (execBarrierComplete g.id))) ++
  (s.redns.map (fun g => execReductionComplete g.id)) ++
  (s.tokens.map (fun k => execRollCall k.tag))

/-- Turns of one engine. -/
def Engine.turns (c : Nat) (e : Eng) (x : Engine) : List Act :=
  match x.queue with
  | [] => []
  | o :: _ =>
    [execEngineOpStart c e, fun (s : State) => s.behind (s.opCores c e) (execEngineOpComplete c e)] ++
    (if x.retry then [execMmaReplay c] else []) ++
    ((List.range o.units.length).zip o.units).flatMap (fun (u, x) =>
      (List.range (max 1 (x.reads.length + x.writes.length))).map (fun j => execPerform (.line c e u j)))

/-- Turns of one core but for issue. -/
def Core.turns (c : Nat) (k : Core) (time : Nat) : List Act :=
  k.mat.turns c .mat ++ k.vec.turns c .vec ++ k.copy.turns c .copy ++
  (k.depBuf.map (fun d (s : State) => s.behind [c] (execDepositLand c d.tag))) ++
  (allSlots.map (fun i => execSlotFill c i)) ++
  (k.threads.flatMap (fun (i, t) =>
    match t.status with
    | .parked .spill => [fun (s : State) => s.behind [c] (execWindowSpill c i)]
    | .parked .reload => [execWindowReload c i]
    | .parked (.retry _ _ due) => if due = 0 then [] else [execClaimRetry c i]
    | _ => [])) ++
  (k.threads.flatMap (fun (i, _) => [execRollCallSend c i, execMarkerTimeout c i])) ++
  (if k.scan.isSome then [execScanTestEnd c ((Config.freeWord time).getLsbD 0)] else [])

/-- Turns of the launch units. -/
def State.launchTurns (s : State) : List Act :=
  (s.launches.flatMap (fun l =>
    execLaunchDispatch l.part l.seq.toNat ::
      l.load.map (fun c => execImageLoad l.part l.seq.toNat c))) ++
  (s.parts.flatMap (fun (p, x) => x.queues.map (fun q => execLaunchRecordTake (.host p q.1)))) ++
  (s.devQ.map (fun d => execLaunchRecordTake (.device d.1)))

/-- Turns of the partitions: Detentions, freezes, Report Cards, time marks, and bring-up (R327, R338, R340, R334, R358). -/
def State.moduleTurns (s : State) : List Act :=
  (s.detentions.flatMap (fun d =>
    [execDetentionNotice d.id, execDetentionReset d.id, execDetentionRejoin d.id])) ++
  (s.fatals.flatMap (fun f => (s.sourcesOf f.part).map (fun x => execFreeze x))) ++
  (if s.fatals.isEmpty then [] else [execReportCard]) ++
  (s.diary.map (fun d => execTimeMark d.src)) ++
  [fun s => .next (s.bringUp true)]

/-- Every steal of a task between two cores (R23). -/
def State.stealTurns (s : State) : List Act :=
  s.cores.flatMap (fun (v, k) => if k.tasks.isEmpty then [] else
    s.cores.map (fun (t, _) => execTaskSteal t v))

/-- The candidates for the default turn, in order; the issue turns come last, each core's in the order of R42. -/
def State.turns (s : State) : List Act :=
  ((s.pathTurns ++ s.messageTurns ++ (s.cores.flatMap (fun (c, k) => k.turns c s.time.toNat)) ++ s.launchTurns ++ s.stealTurns ++
    s.moduleTurns).map (fun a (s : State) => s.shared false a)) ++
  (s.cores.flatMap (fun (c, k) => (List.range 8).map (fun n => fun s => s.issueTurn c (k.lastSlot + 1 + Fin.ofNat 8 n))))

/-- A turn does something: it stops, or leaves another state, apart from the place of the last issue. -/
def State.does (s : State) (a : Act) : Bool :=
  match a s with
  | .next s1 => s1 != { s with cur := s1.cur }
  | _ => true

/-- The turn that the machine takes by default. -/
def State.defaultTurn (s : State) : Host.Outcome State Fault Refusal :=
  match s.turns.find? s.does with
  | some a => a s
  | none => .next s.tick

end Sys2Proof.Machine
end

