-- ==== Sys2Proof/Machine/Step.lean ====
section
/-! DEFINITION. One step of the machine, and the placing of an instruction where the next step fetches. -/

namespace Sys2Proof.Machine

/-- One step (R123): the next turn of the agenda, or the default turn. -/
def step (s : State) : Host.Outcome State Fault Refusal :=
  match s.agenda with
  | t :: r => ({ s with agenda := r } : State).runTurn t
  | [] => s.defaultTurn

/-- The instruction of a table word, placed where the next step fetches (DEDUCED, log 6). -/
def State.withFetchWord (s : State) (_nbits w : Nat) : State := s.loadWord w

end Sys2Proof.Machine
end

