-- ==== Sys2Proof/Safety.lean ====
section
/-! DEFINITION. What claims about runs are stated in: the canonical form of memory as a property of a state, states reached by
steps, properties that steps keep, and runs that do not stop. -/

namespace Sys2Proof.Safety

open Sys2Proof.Machine

/-- Memory is in its one canonical form, so that equal memories are equal data (DESIGN CHOICE, log 2). -/
def MemOk (s : State) : Prop := Memory.wf s.mem = true

/-- The state at the end of any number of steps from the first. -/
inductive Reaches (s : State) : State → Prop where
  | here : Reaches s s
  | next {a b : State} (h : Reaches s a) (e : step a = .next b) : Reaches s b

/-- Every step that answers a next state keeps the property. -/
def Kept (P : State → Prop) : Prop := ∀ a b : State, P a → step a = .next b → P b

/-- No state that the machine reaches stops with a fault or a refusal. -/
def NeverStops (s : State) : Prop := ∀ a : State, Reaches s a → ∃ b, step a = .next b

/-! ## What statements about one instruction assume -/

/-- Thread t issues: it stands in the current slot, its sources are FULL with nothing pending, its destinations can take a result,
the predicates it names are settled (R34), and nothing that it reads fails its parity check (R320). -/
def Issues (s : State) (t : Thread) (srcs dsts : List Operand) (ps : List (BitVec 5)) : Prop :=
  s.me = some t ∧ s.waits t srcs dsts ps = none ∧ s.parityFails t srcs ps = false

/-- The thread is no spark: it may perform side effects (R24, R117). -/
def NotSpark (t : Thread) : Prop := ∀ va, t.kind ≠ .spark va

/-- Values of two sources, read in order: a queue named twice gives two entries (R155). -/
def fst2 (s : State) (t : Thread) (x : Operand) : Word := s.peek t x
def snd2 (s : State) (t : Thread) (x y : Operand) : Word := (s.pop x).peek t y

/-- The instruction answers this next state. -/
def Runs (i : Instr) (s s' : State) : Prop := exec i s = .next s'

/-- No part of the state changes but the cores. -/
def OnlyCores (s s' : State) : Prop := { s' with cores := s.cores } = s

/-- In the issuing core nothing changes but the current slot's thread and receive queue, the next slot's latch, and the queues; every
other core is as it was. -/
def OnlyMySlot (s s' : State) : Prop :=
  (∀ c, c ≠ s.cur.core → s'.core c = s.core c) ∧
  (∀ i, i ≠ s.cur.slot → (s'.slot s.cur.core i).occ = (s.slot s.cur.core i).occ ∧
    (s'.slot s.cur.core i).rq = (s.slot s.cur.core i).rq) ∧
  (s'.core s.cur.core).acc = (s.core s.cur.core).acc ∧ (s'.core s.cur.core).cc = (s.core s.cur.core).cc ∧
  (s'.core s.cur.core).mat = (s.core s.cur.core).mat ∧ (s'.core s.cur.core).vec = (s.core s.cur.core).vec ∧
  (s'.core s.cur.core).copy = (s.core s.cur.core).copy ∧ (s'.core s.cur.core).tasks = (s.core s.cur.core).tasks ∧
  (s'.core s.cur.core).xb = (s.core s.cur.core).xb ∧ (s'.core s.cur.core).itag = (s.core s.cur.core).itag ∧
  (s'.core s.cur.core).csave = (s.core s.cur.core).csave

/-- The two threads agree in everything but the registers g and a, the PC, the status and the use of a reserve entry. -/
def OnlyRegs (t u : Thread) : Prop :=
  { u with g := t.g, win := t.win, a := t.a, pc := t.pc, status := t.status, spare := t.spare } = t

/-- The two threads hold the same g and a registers, but for those named. -/
def RegsBut (t u : Thread) (l : List RegName) : Prop := ∀ r, r ∉ l → u.cell r = t.cell r

/-- The register that an operand names, if it names one. -/
def regsOf : Operand → List RegName
  | .g n => [.g n]
  | .a n => [.a n]
  | .q _ | .nf | .rq | .zr => []

end Sys2Proof.Safety
end

