-- ==== Sys2Proof/Certificates/Slice0/Obligations.lean ====
section
/-! DEFINITION. The statements for the provers, family by family of the opcode table; each docstring names the rules of the spec that
it formalises. -/

open Sys2Proof Sys2Proof.Machine Sys2Proof.Safety

/-! ## Integer registers, immediates and moves (R57, R58, R166 to R170) -/

namespace Sys2Proof.Claims

/-- A constructor of a two-source integer instruction with its 64-bit and its 32-bit result (Table 8-3). -/
abbrev Row2 := (Operand → Operand → Operand → Bool → Instr) × (Word → Word → Word) × (BitVec 32 → BitVec 32 → BitVec 32)

/-- The 32-bit form's result is sign-extended; the 64-bit form's is taken as it is (R166). -/
def formOf (w : Bool) (f : Word → Word → Word) (g : BitVec 32 → BitVec 32 → BitVec 32) (x y : Word) : Word :=
  if w then (g (x.setWidth 32) (y.setWidth 32)).signExtend 64 else f x y

/-- Table 8-3, rows `ADD` to `MULHU`, `SEXT` and `ZEXT`. -/
def intRows : List Row2 :=
  [ (.add, fun x y => x + y, fun x y => x + y), (.sub, fun x y => x - y, fun x y => x - y),
    (.and, fun x y => x &&& y, fun x y => x &&& y), (.or, fun x y => x ||| y, fun x y => x ||| y),
    (.xor, fun x y => x ^^^ y, fun x y => x ^^^ y), (.andn, fun x y => x &&& ~~~y, fun x y => x &&& ~~~y),
    (.shl, fun x y => x <<< (y.extractLsb' 0 6).toNat, fun x y => x <<< (y.extractLsb' 0 5).toNat),
    (.shr, fun x y => x >>> (y.extractLsb' 0 6).toNat, fun x y => x >>> (y.extractLsb' 0 5).toNat),
    (.sra, fun x y => x.sshiftRight (y.extractLsb' 0 6).toNat, fun x y => x.sshiftRight (y.extractLsb' 0 5).toNat),
    (.rotl, fun x y => x.rotateLeft (y.extractLsb' 0 6).toNat, fun x y => x.rotateLeft (y.extractLsb' 0 5).toNat),
    (.mul, fun x y => x * y, fun x y => x * y),
    (.mulh, fun x y => (BitVec.ofInt 128 (x.toInt * y.toInt)).extractLsb' 64 64,
      fun x y => (BitVec.ofInt 64 (x.toInt * y.toInt)).extractLsb' 32 32),
    (.mulhu, fun x y => (BitVec.ofNat 128 (x.toNat * y.toNat)).extractLsb' 64 64,
      fun x y => (BitVec.ofNat 64 (x.toNat * y.toNat)).extractLsb' 32 32),
    (.sext, fun x y => if y.extractLsb' 0 6 = 0 then x else (x.setWidth (y.extractLsb' 0 6).toNat).signExtend 64,
      fun x y => if y.extractLsb' 0 5 = 0 then x else (x.setWidth (y.extractLsb' 0 5).toNat).signExtend 32),
    (.zext, fun x y => if y.extractLsb' 0 6 = 0 then x else (x.setWidth (y.extractLsb' 0 6).toNat).setWidth 64,
      fun x y => if y.extractLsb' 0 5 = 0 then x else (x.setWidth (y.extractLsb' 0 5).toNat).setWidth 32) ]

/-- Table 8-3, rows `DIV` to `MAXU`, with the fixed cases of Table 3-1 (R57). -/
def divRows : List Row2 :=
  [ (.div, fun x y => if y = 0 then BitVec.allOnes 64 else x.sdiv y, fun x y => if y = 0 then BitVec.allOnes 32 else x.sdiv y),
    (.divu, fun x y => if y = 0 then BitVec.allOnes 64 else x / y, fun x y => if y = 0 then BitVec.allOnes 32 else x / y),
    (.rem, fun x y => if y = 0 then x else x.srem y, fun x y => if y = 0 then x else x.srem y),
    (.remu, fun x y => if y = 0 then x else x % y, fun x y => if y = 0 then x else x % y),
    (.min, fun x y => if x.slt y then x else y, fun x y => if x.slt y then x else y),
    (.max, fun x y => if x.slt y then y else x, fun x y => if x.slt y then y else x),
    (.minu, fun x y => if x < y then x else y, fun x y => if x < y then x else y),
    (.maxu, fun x y => if x < y then y else x, fun x y => if x < y then y else x) ]

end Sys2Proof.Claims

open Sys2Proof.Claims

/-- Table 8-3 (R166), rows `ADD` to `MULHU`, `SEXT` and `ZEXT`: with sources readable and the destination writable the instruction
completes: both sources are read in order, d takes the result of its form, and execution continues at the next head. -/
def Obligations.IntegerResults : Prop :=
  ∀ row ∈ intRows, ∀ (d x y : Operand) (w : Bool) (s : State) (t : Thread), Issues s t [x, y] [d] [] →
    Runs (row.1 d x y w) s
      ((((s.pop x).pop y).write d (formOf w row.2.1 row.2.2 (fst2 s t x) (snd2 s t x y))).advance t)

/-- Tables 8-3 and 3-1 (R57, R166), rows `DIV` to `MAXU`: no divisor traps; division by 0 gives all-ones and the dividend.
R57: `DIV` truncates toward zero, the remainder has the dividend's sign and is smaller than the divisor, and −2^63 ÷ −1 gives the
dividend and remainder 0; the same in 32 bits. -/
def Obligations.DivisionAndExtremaResults : Prop :=
  (∀ row ∈ divRows, ∀ (d x y : Operand) (w : Bool) (s : State) (t : Thread), Issues s t [x, y] [d] [] →
    Runs (row.1 d x y w) s
      ((((s.pop x).pop y).write d (formOf w row.2.1 row.2.2 (fst2 s t x) (snd2 s t x y))).advance t)) ∧
  (∀ n : Nat, n = 32 ∨ n = 64 →
    (∀ x y : BitVec n, y ≠ 0 → ¬(x = BitVec.intMin n ∧ y = -1) →
      (divS x y).toInt = x.toInt.tdiv y.toInt ∧ (remS x y).toInt = x.toInt.tmod y.toInt ∧
      x.toInt = (divS x y).toInt * y.toInt + (remS x y).toInt ∧ (remS x y).toInt.natAbs < y.toInt.natAbs ∧
      (0 < (remS x y).toInt → 0 < x.toInt) ∧ ((remS x y).toInt < 0 → x.toInt < 0)) ∧
    (∀ x : BitVec n, divS x 0 = BitVec.allOnes n ∧ divU x 0 = BitVec.allOnes n ∧ remS x 0 = x ∧ remU x 0 = x) ∧
    divS (BitVec.intMin n) (-1) = BitVec.intMin n ∧ remS (BitVec.intMin n) (-1) = 0)

/-- R58, R166: `ADDS` and `SUBS` clamp the exact sum or difference to the signed range of the form, sign-extended, and set
`sst`.SAT exactly when the clamp changes it; no other flag changes. -/
def Obligations.SaturatingResults : Prop :=
  ∀ (d x y : Operand) (w : Bool) (s : State) (t : Thread), Issues s t [x, y] [d] [] →
    ∀ p ∈ [((Instr.adds d x y w), fun a b : Int => a + b), ((Instr.subs d x y w), fun a b : Int => a - b)],
      let a := if w then ((fst2 s t x).setWidth 32).toInt else (fst2 s t x).toInt
      let b := if w then ((snd2 s t x y).setWidth 32).toInt else (snd2 s t x y).toInt
      let n : Int := if w then 2 ^ 31 else 2 ^ 63
      let e := p.2 a b
      let r := if e < -n then -n else if n ≤ e then n - 1 else e
      Runs p.1 s (((((s.pop x).pop y).write d (BitVec.ofInt 64 r)).modMe
        (fun u => { u with sst := if r = e then u.sst else u.sst ||| 0x20 })).advance t)

/-- Table 8-3, one-source rows (R166): `CLZ`, `CTZ`, `POPC`, `BSWP` and `MOV` in both forms complete with a value of these
properties: the counted zeros are zeros and end at a one, the ones are counted, and byte i of `BSWP` is byte 7 − i. -/
def Obligations.CountAndMoveResults : Prop :=
  ∀ (d x : Operand) (w : Bool) (s : State) (t : Thread), Issues s t [x] [d] [] →
    let v := fst2 s t x
    let n := if w then 32 else 64
    let done := fun (r : Nat) => ((s.pop x).write d (if w then (BitVec.ofNat 32 r).signExtend 64 else BitVec.ofNat 64 r)).advance t
    (∃ k ≤ n, Runs (.clz d x w) s (done k) ∧ (∀ j, n - k ≤ j → j < n → v.getLsbD j = false) ∧
      (k < n → v.getLsbD (n - k - 1) = true)) ∧
    (∃ k ≤ n, Runs (.ctz d x w) s (done k) ∧ (∀ j, j < k → v.getLsbD j = false) ∧ (k < n → v.getLsbD k = true)) ∧
    Runs (.popc d x w) s (done ((List.range n).filter (fun j => v.getLsbD j)).length) ∧
    (∃ r, Runs (.bswp d x w) s (done r) ∧ ∀ i < n / 8, r / 256 ^ i % 256 = v.toNat / 256 ^ (n / 8 - 1 - i) % 256) ∧
    Runs (.mov d x w) s (done (v.toNat % 2 ^ n))

/-- R167 to R170: the immediates, `MOVI`, `MOVH`, `ADR` and `EMPT` complete with the results of their rules; `EMPT` keeps the value, and the
thread keeps the register and the cycle, in which no deposit lands there. The
words of the immediates and of `ADR` (R167, R169): a shift immediate above 63 is refused. -/
def Obligations.ImmediateAndMoveResults : Prop :=
  (∀ (d x : Operand) (imm : BitVec 27) (sh : BitVec 6) (s : State) (t : Thread), Issues s t [x] [d] [] →
    let v := fst2 s t x
    let done := fun r => ((s.pop x).write d r).advance t
    Runs (.addi d x imm) s (done (v + imm.signExtend 64)) ∧ Runs (.andi d x imm) s (done (v &&& imm.signExtend 64)) ∧
    Runs (.ori d x imm) s (done (v ||| imm.signExtend 64)) ∧ Runs (.xori d x imm) s (done (v ^^^ imm.signExtend 64)) ∧
    Runs (.muli d x imm) s (done (v * imm.signExtend 64)) ∧ Runs (.shli d x sh) s (done (v <<< sh.toNat)) ∧
    Runs (.shri d x sh) s (done (v >>> sh.toNat)) ∧ Runs (.srai d x sh) s (done (v.sshiftRight sh.toNat))) ∧
  (∀ (d : Operand) (imm : BitVec 32) (b : BTarget) (s : State) (t : Thread), Issues s t [] [d] [] →
    Runs (.movi d imm) s ((s.write d (imm.signExtend 64)).advance t) ∧
    Runs (.adr d b) s ((s.write d ((t.pc &&& ~~~63#64) + b.ld.signExtend 64 * 64 + BitVec.ofNat 64 (2 * b.hx.toNat))).advance t)) ∧
  (∀ (r : RegName) (imm : BitVec 32) (s : State) (t : Thread), Issues s t [r.op] [r.op] [] →
    Runs (.movh r imm) s ((s.write r.op (imm ++ (t.cell r).val.setWidth 32)).advance t)) ∧
  (∀ (r : RegName) (s : State) (t : Thread), Issues s t [] [r.op] [] →
    Runs (.empt r) s ((s.modMe (fun u =>
      { u.setCell r { u.cell r with full := false } with emptied := some (r.code, s.time.toNat) })).advance t)) ∧
  (∀ (d x : Operand) (imm : BitVec 27) (sh : BitVec 6) (b : BTarget),
    let i := imm.toNat
    (∀ p ∈ [(Instr.addi d x imm, 0x040, i), (.andi d x imm, 0x041, i), (.ori d x imm, 0x042, i), (.xori d x imm, 0x043, i),
        (.shli d x sh, 0x044, sh.toNat), (.shri d x sh, 0x045, sh.toNat), (.srai d x sh, 0x046, sh.toNat), (.muli d x imm, 0x047, i)],
      encode p.1 = some (0x8000 + 32 * p.2.1 + d.code, 2 ^ 27 * x.code + p.2.2)) ∧
    (64 ≤ i → ∀ k ∈ [0x044, 0x045, 0x046], decode (0x8000 + 32 * k + d.code) (2 ^ 27 * x.code + i) = .error .field) ∧
    encode (.adr d b) = some (0x8940 + d.code, 2 ^ 27 * 30 + b.imm))

/-! ## Compares, predicates and selection (R44, R171 to R175) -/

/-- R171: each compare writes p(d) with the relation of its row over all 64 bits, and continues; its words are those of the rule. -/
def Obligations.CompareResults : Prop :=
  ∀ (p : BitVec 5) (s : State) (t : Thread),
    (∀ (x y : Operand), Issues s t [x, y] [] [p] →
      let a := fst2 s t x
      let b := snd2 s t x y
      let done := fun r => (((s.pop x).pop y).modMe (fun u => u.setP p r)).advance t
      Runs (.ceq p x y) s (done (decide (a = b))) ∧ Runs (.cne p x y) s (done (decide (a ≠ b))) ∧
      Runs (.clt p x y) s (done (decide (a.toInt < b.toInt))) ∧ Runs (.cle p x y) s (done (decide (a.toInt ≤ b.toInt))) ∧
      Runs (.cltu p x y) s (done (decide (a.toNat < b.toNat))) ∧ Runs (.cleu p x y) s (done (decide (a.toNat ≤ b.toNat)))) ∧
    (∀ (x : Operand) (imm : BitVec 27), Issues s t [x] [] [p] →
      let a := fst2 s t x
      let done := fun r => ((s.pop x).modMe (fun u => u.setP p r)).advance t
      Runs (.ceqi p x imm) s (done (decide (a = imm.signExtend 64))) ∧
      Runs (.clti p x imm) s (done (decide (a.toInt < imm.toInt))) ∧
      Runs (.cltui p x imm) s (done (decide (a.toNat < imm.toNat)))) ∧
    (∀ (x y : Operand) (imm : BitVec 27),
      (∀ r ∈ [(Instr.ceq p x y, 0), (.cne p x y, 1), (.clt p x y, 2), (.cle p x y, 3), (.cltu p x y, 4), (.cleu p x y, 5)],
        encode r.1 = some (0x4C00 + 32 * r.2 + p.toNat, 2048 * x.code + 64 * y.code)) ∧
      (∀ r ∈ [(Instr.ceqi p x imm, 0), (.clti p x imm, 1), (.cltui p x imm, 2)],
        encode r.1 = some (0x8CC0 + 32 * r.2 + p.toNat, 2 ^ 27 * x.code + imm.toNat)))

/-- R172 to R175: predicate logic, `SEL`, `PGET`, `PSET` and `TFULL` complete with the values of their rules: `SEL` reads both sources,
`PGET` reads p0 as 1, `PSET` leaves p0 at 1, and `TFULL` is 1 when the register is FULL and not pending. The words of the predicate
instructions and of `SEL` (R172, R175), and the reserved bits that they refuse. -/
def Obligations.PredicateResults : Prop :=
  (∀ (d x y : BitVec 5) (nx ny : Bool) (s : State) (t : Thread), Issues s t [] [] [d, x, y] →
    let u := xor (t.p x) nx
    let v := xor (t.p y) ny
    let done := fun r => (s.modMe (fun z => z.setP d r)).advance t
    Runs (.pand d x y nx ny) s (done (u && v)) ∧ Runs (.por d x y nx ny) s (done (u || v)) ∧
    Runs (.pxor d x y nx ny) s (done (xor u v))) ∧
  (∀ (d x : BitVec 5) (s : State) (t : Thread), Issues s t [] [] [d, x] →
    Runs (.pnot d x) s ((s.modMe (fun z => z.setP d (!t.p x))).advance t)) ∧
  (∀ (d x y : Operand) (p : BitVec 5) (s : State) (t : Thread), Issues s t [x, y] [d] [p] →
    Runs (.sel d x y p) s ((((s.pop x).pop y).write d (if t.p p then fst2 s t x else snd2 s t x y)).advance t)) ∧
  (∀ (d : Operand) (s : State) (t : Thread), Issues s t [] [d] ((List.range 32).map (BitVec.ofNat 5)) →
    ∃ v : Word, Runs (.pget d) s ((s.write d v).advance t) ∧ (∀ n : BitVec 5, v.getLsbD n.toNat = t.p n) ∧ v.toNat < 2 ^ 32) ∧
  (∀ (x : Operand) (s : State) (t : Thread), Issues s t [x] [] ((List.range 32).map (BitVec.ofNat 5)) →
    ∃ w : BitVec 32, Runs (.pset x) s (((s.pop x).modMe (fun u => { u with pw := w })).advance t) ∧
      ∀ n : BitVec 5, w.getLsbD n.toNat = (n = 0 || (fst2 s t x).getLsbD n.toNat)) ∧
  (∀ (p : BitVec 5) (r : RegName) (s : State) (t : Thread), Issues s t [] [] [p] →
    Runs (.tfull p r) s ((s.modMe (fun u => u.setP p ((t.cell r).full && (t.cell r).pend.isNone))).advance t)) ∧
  (∀ (d x y : BitVec 5) (nx ny : Bool) (f k : Nat),
    let bits := 2048 * x.toNat + 64 * y.toNat
    (∀ r ∈ [(Instr.pand d x y nx ny, 0), (.por d x y nx ny, 1), (.pxor d x y nx ny, 2)],
      encode r.1 = some (0x4D20 + 32 * r.2 + d.toNat, bits + nx.toNat + 2 * ny.toNat)) ∧
    (4 ≤ f → f < 64 → k < 3 → decode (0x4D20 + 32 * k + d.toNat) (bits + f) = .error .field) ∧
    encode (.pnot d x) = some (0x4D80 + d.toNat, 2048 * x.toNat) ∧
    (f < 64 → y ≠ 0 ∨ f ≠ 0 → decode (0x4D80 + d.toNat) (bits + f) = .error .field)) ∧
  (∀ (d x y : Operand) (p : BitVec 5) (c f : Nat),
    let sources := 2 ^ 27 * x.code + 2 ^ 22 * y.code
    encode (.sel d x y p) = some (0x8DA0 + d.code, sources + 2 ^ 17 * 30 + p.toNat) ∧
    (c < 32 → f < 2 ^ 17 → c ≠ 30 ∨ 32 ≤ f → decode (0x8DA0 + d.code) (sources + 2 ^ 17 * c + f) = .error .field))

/-! ## Scalar floating point (R59 to R66, R176 to R181) -/

namespace Sys2Proof.Claims

/-- The exact result of a two-source instruction, before its one rounding (R63). -/
abbrev FRow2 := (Operand → Operand → Operand → FFmt → Instr) × (BitVec 3 → FV → FV → FR)

/-- Table 8-4, the two-source rows. -/
def floatRows : List FRow2 :=
  [ (.fadd, fun m a b => a.add m b), (.fsub, fun m a b => a.add m b.neg), (.fmul, fun _ a b => a.mul b),
    (.fdiv, fun _ a b => a.div b), (.fmin, fun _ a b => a.minmax false b), (.fmax, fun _ a b => a.minmax true b) ]

/-- The value of an operand: the low bits of the register, as many as the format has (R155). -/
def operandValue (f : FFmt) (w : Word) : FV := (fmtOf f).value (w.toNat % 2 ^ (fmtOf f).width)

/-- After an instruction with a rounded result and flags: d takes the pattern with the bits above it cleared, the flags are ORed
into `sst`, and execution continues (R155, R176). -/
def afterFloat (s : State) (d : Operand) (t : Thread) (bits : Nat) (flags : BitVec 9) : State :=
  ((s.write d (BitVec.ofNat 64 bits)).modMe (fun u => { u with sst := u.sst ||| flags })).advance t

/-- The IEEE formats of Table 3-2. -/
def ieeeFmts : List Fmt := [fmt64, fmt32, fmt16, fmtB16]

/-- R62, R65: the integer that (−1)^neg × m × 2^e rounds to under a mode, and whether it is another number. -/
def nearestInt (mode : BitVec 3) (neg : Bool) (m : Nat) (e : Int) : Int × Bool :=
  let n := m * 2 ^ e.toNat
  let d := 2 ^ (-e).toNat
  let odd : Bool := n / d % 2 == 1
  let up : Bool := match mode.toNat with
    | 0 => decide (d < 2 * (n % d)) || (2 * (n % d) == d && odd)
    | 1 => false
    | 2 => neg && n % d != 0
    | 3 => !neg && n % d != 0
    | _ => decide (d ≤ 2 * (n % d))
  let k : Int := (n / d + up.toNat : Nat)
  (if neg then -k else k, n % d != 0)

/-- The number (−1)^neg × m × 2^e. -/
def ratOf (neg : Bool) (m : Nat) (e : Int) : Rat := (if neg then -1 else 1) * m * (2 : Rat) ^ e

/-- R62, Table 3-3: what a format's overflow gives under a mode. -/
def overflowResult (f : Fmt) (mode : BitVec 3) (neg : Bool) : Nat :=
  match mode.toNat with
  | 1 => f.largest neg
  | 2 => if neg then f.infty true else f.largest false
  | 3 => if neg then f.largest true else f.infty false
  | _ => f.infty neg

/-- R61, R62: a pattern and flags are the correct rounding of the nonzero number (−1)^neg × m × 2^e to an IEEE format: the number goes to a
multiple of the unit of its binade, that of the subnormals at least; a result of 2^(bias + 1) or more overflows with OF and NX; UF is set
when the result is inexact and tiny after rounding, NX when it is inexact. -/
def RoundsRight (f : Fmt) (mode : BitVec 3) (neg : Bool) (m : Nat) (e : Int) (r : Nat × BitVec 9) : Prop :=
  let top := e + Nat.log2 m
  let unit := max (top - f.fw) (1 - (f.bias : Int) - f.fw)
  let k := nearestInt mode neg m (e - unit)
  let v : Rat := k.1 * (2 : Rat) ^ unit
  let tiny := ((nearestInt mode neg m (e - (top - f.fw))).1.natAbs : Rat) * (2 : Rat) ^ (top - f.fw) < (2 : Rat) ^ (1 - (f.bias : Int))
  (|v| < (2 : Rat) ^ (f.bias + 1) → r.1 < 2 ^ f.width ∧
    (∃ n g, f.value r.1 = .num neg n g false ∧ ratOf neg n g = v) ∧
    (k.2 = false → r.2 = 0) ∧ (k.2 = true → tiny → r.2 = 0x18) ∧ (k.2 = true → ¬tiny → r.2 = 0x10)) ∧
  ((2 : Rat) ^ (f.bias + 1) ≤ |v| → r = (overflowResult f mode neg, 0x14))

/-- R65: a value as an integer of a type with these bounds, and the flags: NV for a NaN and for what lies outside, NX for what was no
integer. -/
def asInteger (mode : BitVec 3) (lo hi : Int) : FV → Int × BitVec 9
  | .nan _ => (0, 0x01)
  | .inf neg => (if neg then lo else hi, 0x01)
  | .num neg m e _ =>
    let r := nearestInt mode neg m e
    if r.1 < lo then (lo, 0x01) else if hi < r.1 then (hi, 0x01) else (r.1, if r.2 then 0x10 else 0)

/-- Table 8-5: the bit that `FCLASS` sets for a pattern. -/
def classBit (k : Fmt) (v : Nat) : Nat :=
  let neg : Bool := 2 ^ (k.ew + k.fw) ≤ v
  let mag := v % 2 ^ (k.ew + k.fw)
  let top := (2 ^ k.ew - 1) * 2 ^ k.fw
  if top < mag then (if 2 ^ (k.fw - 1) ≤ mag - top then 9 else 8)
  else if mag = top then (if neg then 0 else 7)
  else if 2 ^ k.fw ≤ mag then (if neg then 1 else 6)
  else if mag ≠ 0 then (if neg then 2 else 5)
  else if neg then 3 else 4

/-- R180: what `FCVT` reads and the format it writes. -/
def fcvtSides (f : FFmt) (w : Word) : FcvtSel → FV × Fmt
  | .fromF g => (operandValue g w, fmtOf f)
  | .toE4 => (operandValue f w, fmtE4)
  | .toE5 => (operandValue f w, fmtE5)
  | .fromE4 => (fmtE4.value (w.toNat % 2 ^ 8), fmtOf f)
  | .fromE5 => (fmtE5.value (w.toNat % 2 ^ 8), fmtOf f)

end Sys2Proof.Claims

/-- R63, R155, R176, R177: the scalar arithmetic completes: one exact operation on the operands' values, one rounding in the format
under `rnd`, and the flags of both. R61, R62: the rounding of a number is the correct one under each of the five modes, and of a number with an
excess below its last place that of any number there. R63: sums, products and `FMA` of numbers are exact, a zero sum with its sign; a
quotient and a root have more bits than any format and say whether something lies below them. -/
def Obligations.FloatArithmeticResults : Prop :=
  (∀ row ∈ floatRows, ∀ (d x y : Operand) (f : FFmt) (s : State) (t : Thread), Issues s t [x, y] [d] [] →
    let e := row.2 t.rnd (operandValue f (fst2 s t x)) (operandValue f (snd2 s t x y))
    let r := (fmtOf f).round t.rnd e.1
    Runs (row.1 d x y f) s (afterFloat ((s.pop x).pop y) d t r.1 (e.2 ||| r.2))) ∧
  (∀ (d x : Operand) (f : FFmt) (s : State) (t : Thread), Issues s t [x] [d] [] →
    let e := (operandValue f (fst2 s t x)).sqrt
    let r := (fmtOf f).round t.rnd e.1
    Runs (.fsqrt d x f) s (afterFloat (s.pop x) d t r.1 (e.2 ||| r.2))) ∧
  (∀ (d x y z : Operand) (f : FFmt) (s : State) (t : Thread), Issues s t [x, y, z] [d] [] →
    let e := (operandValue f (fst2 s t x)).fma t.rnd (operandValue f (snd2 s t x y))
      (operandValue f (((s.pop x).pop y).peek t z))
    let r := (fmtOf f).round t.rnd e.1
    Runs (.fma d x y z f) s (afterFloat (((s.pop x).pop y).pop z) d t r.1 (e.2 ||| r.2))) ∧
  (∀ f ∈ ieeeFmts, ∀ (mode : BitVec 3) (neg : Bool) (m : Nat) (e : Int),
    (mode.toNat ≤ 4 → m ≠ 0 → RoundsRight f mode neg m e (f.round mode (.num neg m e false))) ∧
    (2 ^ (f.fw + 2) ≤ m → f.round mode (.num neg m e true) = f.round mode (.num neg (2 * m + 1) (e - 1) false))) ∧
  (∀ (mode : BitVec 3) (a b : Bool) (m n : Nat) (e g : Int),
    let x := FV.num a m e false
    let y := FV.num b n g false
    (∃ c p k, x.add mode y = (.num c p k false, 0) ∧ ratOf c p k = ratOf a m e + ratOf b n g ∧
      (p = 0 → c = if m = 0 ∧ n = 0 ∧ a = b then a else decide (mode = 2))) ∧
    (∃ p k, x.mul y = (.num (a != b) p k false, 0) ∧ ratOf (a != b) p k = ratOf a m e * ratOf b n g) ∧
    (∀ (d : Bool) (q : Nat) (h : Int), ∃ c p k, x.fma mode y (.num d q h false) = (.num c p k false, 0) ∧
      ratOf c p k = ratOf a m e * ratOf b n g + ratOf d q h) ∧
    (m ≠ 0 → n ≠ 0 → ∃ p k st, x.div y = (.num (a != b) p k st, 0) ∧ 2 ^ 63 ≤ p ∧
      ratOf false p k ≤ ratOf false m e / ratOf false n g ∧ ratOf false m e / ratOf false n g < ratOf false (p + 1) k ∧
      (st = true ↔ ratOf false p k ≠ ratOf false m e / ratOf false n g)) ∧
    (m ≠ 0 → ∃ p k st, (FV.num false m e false).sqrt = (.num false p k st, 0) ∧ 2 ^ 63 ≤ p ∧
      ratOf false p k ^ 2 ≤ ratOf false m e ∧ ratOf false m e < ratOf false (p + 1) k ^ 2 ∧
      (st = true ↔ ratOf false p k ^ 2 ≠ ratOf false m e)))

/-- R60, R65, R178 to R181: `FABS` and `FNEG` change the sign bit alone and set no flag; the comparisons write their predicate, 0 for a
NaN, and set NV for a signalling NaN, or for any NaN in `FCLT` and `FCLE`; `FCVT` rounds the value it reads once, in the format it writes;
`FCVTI` rounds to an integer, clamps to the bounds of its type with NV, gives 0 with NV for a NaN, and sets NX for what was no integer;
`ICVTF` rounds the integer once; `FCLASS` sets the bit of the class. Each goes on at the next head. R63, R178: numbers and infinities order
by their value, −0 below +0 for `FMIN` and `FMAX` alone. -/
def Obligations.FloatSignCompareConvertResults : Prop :=
  (∀ (d x : Operand) (f : FFmt) (s : State) (t : Thread), Issues s t [x] [d] [] →
    let k := (fmtOf f).width
    let v := (fst2 s t x).toNat % 2 ^ k
    Runs (.fabs d x f) s (afterFloat (s.pop x) d t (v % 2 ^ (k - 1)) 0) ∧
    Runs (.fneg d x f) s (afterFloat (s.pop x) d t (if v < 2 ^ (k - 1) then v + 2 ^ (k - 1) else v - 2 ^ (k - 1)) 0) ∧
    Runs (.fclass d x f) s (afterFloat (s.pop x) d t (2 ^ classBit (fmtOf f) v) 0) ∧
    (∀ (ty : ITy),
      let n : Int := 2 ^ (iTy ty).1
      let r := asInteger t.rnd (if (iTy ty).2 then -(n / 2) else 0) (if (iTy ty).2 then n / 2 - 1 else n - 1) (operandValue f (fst2 s t x))
      Runs (.fcvti d x f ty) s (afterFloat (s.pop x) d t (BitVec.ofInt 64 r.1).toNat r.2)) ∧
    (∀ (ty : ITy), let n : Int := if (iTy ty).2 then sIntOf (fst2 s t x).toNat (iTy ty).1 else ((fst2 s t x).toNat % 2 ^ (iTy ty).1 : Nat)
      let r := (fmtOf f).round t.rnd (.num (n < 0) n.natAbs 0 false)
      Runs (.icvtf d x f ty) s (afterFloat (s.pop x) d t r.1 r.2)) ∧
    (∀ (sel : FcvtSel), let e := fcvtSides f (fst2 s t x) sel
      Runs (.fcvt d x f sel) s (afterFloat (s.pop x) d t (e.2.round t.rnd e.1).1 (e.2.round t.rnd e.1).2))) ∧
  (∀ (p : BitVec 5) (x y : Operand) (f : FFmt) (s : State) (t : Thread), Issues s t [x, y] [] [p] →
    let a := operandValue f (fst2 s t x)
    let b := operandValue f (snd2 s t x y)
    let done := fun (r : Bool) (g : BitVec 9) => ((((s.pop x).pop y).modMe (fun u => u.setP p r)).modMe
      (fun u => { u with sst := u.sst ||| g })).advance t
    let nan := a.isNan || b.isNan
    let sig := decide (a = .nan true) || decide (b = .nan true)
    Runs (.fceq p x y f) s (done (!nan && !a.lt false b && !b.lt false a) (if sig then 1 else 0)) ∧
    Runs (.fclt p x y f) s (done (!nan && a.lt false b) (if nan then 1 else 0)) ∧
    Runs (.fcle p x y f) s (done (!nan && !b.lt false a) (if nan then 1 else 0))) ∧
  (∀ (zeros a b : Bool) (m n : Nat) (e g : Int),
    FV.lt zeros (.num a m e false) (.num b n g false) =
      (decide (ratOf a m e < ratOf b n g) || (zeros && decide (m = 0) && decide (n = 0) && a && !b)) ∧
    FV.lt zeros (.inf a) (.inf b) = (a && !b) ∧ FV.lt zeros (.inf a) (.num b n g false) = a ∧
    FV.lt zeros (.num a m e false) (.inf b) = !b)

/-- R59, R60, R62: a number or an infinity of an IEEE format rounds to itself under every mode with no flag, and a NaN to the canonical one, with
NV for a signalling NaN, whose first fraction bit is 0. -/
def Obligations.FormatValueRoundsToItself : Prop :=
  ∀ f ∈ ieeeFmts, ∀ (mode : BitVec 3) (b : Nat), b < 2 ^ f.width →
    ((f.value b).isNan = false → f.round mode (f.value b) = (b, 0)) ∧
    ((f.value b).isNan = true → f.round mode (f.value b) = (f.qnan, if b.testBit (f.fw - 1) then 0 else 1))

/-- R60 and Table 3-4 (R63): a NaN operand gives the canonical quiet NaN with NV exactly for a signalling one; ∞ − ∞, ∞ × 0, 0 ÷ 0, ∞ ÷ ∞
and the root of a negative number give it with NV; a finite nonzero number by 0 gives an infinity of their common sign with DZ. The minimum
and the maximum of a NaN and a number are the number, with NV for a signalling NaN, and of two NaNs a NaN. -/
def Obligations.FloatSpecialCases : Prop :=
  ∀ (f : FFmt) (mode : BitVec 3),
    let R := fun (e : FR) => (((fmtOf f).round mode e.1).1, e.2 ||| ((fmtOf f).round mode e.1).2)
    let nan := fun (sig : Bool) => ((fmtOf f).qnan, if sig then (1 : BitVec 9) else 0)
    (∀ (x : FV) (sg : Bool), (∀ b, x ≠ .nan b) →
      R ((FV.nan sg).add mode x) = nan sg ∧ R (x.add mode (.nan sg)) = nan sg ∧ R ((FV.nan sg).mul x) = nan sg ∧
      R (x.mul (.nan sg)) = nan sg ∧ R ((FV.nan sg).div x) = nan sg ∧ R (x.div (.nan sg)) = nan sg ∧ R (FV.sqrt (.nan sg)) = nan sg) ∧
    (∀ a : Bool, R ((FV.inf a).add mode (.inf (!a))) = nan true) ∧
    (∀ (a b : Bool) (e : Int), R ((FV.inf a).mul (.num b 0 e false)) = nan true ∧ R ((FV.num b 0 e false).mul (.inf a)) = nan true) ∧
    (∀ (a b : Bool) (e g : Int), R ((FV.num a 0 e false).div (.num b 0 g false)) = nan true) ∧
    (∀ a b : Bool, R ((FV.inf a).div (.inf b)) = nan true) ∧
    (∀ (m : Nat) (e : Int), m ≠ 0 → R (FV.sqrt (.num true m e false)) = nan true) ∧
    (∀ (a b : Bool) (m : Nat) (e g : Int), m ≠ 0 →
      R ((FV.num a m e false).div (.num b 0 g false)) = ((fmtOf f).infty (a != b), 2)) ∧
    (∀ (x : FV) (sg mx : Bool), (∀ b, x ≠ .nan b) →
      (FV.nan sg).minmax mx x = (x, if sg then 1 else 0) ∧ x.minmax mx (.nan sg) = (x, if sg then 1 else 0)) ∧
    (∀ (sg sh mx : Bool), R ((FV.nan sg).minmax mx (.nan sh)) = nan (sg || sh))

/-! ## What register instructions leave alone (R33, R52, R155) -/

namespace Sys2Proof.Claims

/-- Sources, destinations and predicates named, of the instructions that touch only registers. -/
def regForm : Instr → Option (List Operand × List Operand × List (BitVec 5))
  | .add d x y _ | .sub d x y _ | .and d x y _ | .or d x y _ | .xor d x y _ | .andn d x y _ | .shl d x y _ | .shr d x y _
  | .sra d x y _ | .rotl d x y _ | .mul d x y _ | .mulh d x y _ | .mulhu d x y _ | .div d x y _ | .divu d x y _ | .rem d x y _
  | .remu d x y _ | .min d x y _ | .max d x y _ | .minu d x y _ | .maxu d x y _ | .adds d x y _ | .subs d x y _
  | .sext d x y _ | .zext d x y _ | .fadd d x y _ | .fsub d x y _ | .fmul d x y _ | .fdiv d x y _ | .fmin d x y _
  | .fmax d x y _ => some ([x, y], [d], [])
  | .clz d x _ | .ctz d x _ | .popc d x _ | .bswp d x _ | .mov d x _ | .addi d x _ | .andi d x _ | .ori d x _ | .xori d x _
  | .muli d x _ | .shli d x _ | .shri d x _ | .srai d x _ | .fsqrt d x _ | .fabs d x _ | .fneg d x _ | .fclass d x _
  | .fcvt d x _ _ | .fcvti d x _ _ | .icvtf d x _ _ => some ([x], [d], [])
  | .fma d x y z _ => some ([x, y, z], [d], [])
  | .movi d _ | .adr d _ => some ([], [d], [])
  | .movh r _ => some ([r.op], [r.op], [])
  | .empt r => some ([], [r.op], [])
  | .ceq p x y | .cne p x y | .clt p x y | .cle p x y | .cltu p x y | .cleu p x y | .fceq p x y _ | .fclt p x y _
  | .fcle p x y _ => some ([x, y], [], [p])
  | .ceqi p x _ | .clti p x _ | .cltui p x _ => some ([x], [], [p])
  | .pand d x y _ _ | .por d x y _ _ | .pxor d x y _ _ => some ([], [], [d, x, y])
  | .pnot d x => some ([], [], [d, x])
  | .sel d x y p => some ([x, y], [d], [p])
  | .pget d => some ([], [d], (List.range 32).map (BitVec.ofNat 5))
  | .pset x => some ([x], [], (List.range 32).map (BitVec.ofNat 5))
  | .tfull p _ => some ([], [], [p])
  | .nop => some ([], [], [])
  | _ => none

/-- The predicates an instruction of that kind writes. -/
def predsWritten : Instr → List (BitVec 5)
  | .ceq p _ _ | .cne p _ _ | .clt p _ _ | .cle p _ _ | .cltu p _ _ | .cleu p _ _ | .fceq p _ _ _ | .fclt p _ _ _
  | .fcle p _ _ _ | .ceqi p _ _ | .clti p _ _ | .cltui p _ _ | .pand p _ _ _ _ | .por p _ _ _ _ | .pxor p _ _ _ _ | .pnot p _
  | .tfull p _ => [p]
  | .pset _ => (List.range 32).map (BitVec.ofNat 5)
  | _ => []

/-- The flags of `sst` that the spec lets an instruction of that kind set: SAT (R58), or the five IEEE flags (R61). -/
def flagsOf : Instr → BitVec 9
  | .adds _ _ _ _ | .subs _ _ _ _ => 0x20
  | .fadd _ _ _ _ | .fsub _ _ _ _ | .fmul _ _ _ _ | .fdiv _ _ _ _ | .fsqrt _ _ _ | .fma _ _ _ _ _ | .fcvt _ _ _ _
  | .icvtf _ _ _ _ => 0x1F
  | .fcvti _ _ _ _ => 0x11
  | .fmin _ _ _ _ | .fmax _ _ _ _ | .fceq _ _ _ _ | .fclt _ _ _ _ | .fcle _ _ _ _ => 0x01
  | _ => 0

end Sys2Proof.Claims

/-- The frame of every register instruction (R33, R52, R155): when it completes, the PC is at the next head; every g and a register but
its destination, every predicate but its own, every flag but those the spec lets it set, every other register of the thread, every
other thread of the core and every other core, and every byte of memory are as they were. -/
def Obligations.RegisterInstructionFrame : Prop :=
  ∀ (i : Instr) (srcs dsts : List Operand) (ps : List (BitVec 5)) (s s' : State) (t : Thread),
    regForm i = some (srcs, dsts, ps) → Issues s t srcs dsts ps → Runs i s s' →
    OnlyCores s s' ∧ OnlyMySlot s s' ∧ (∀ a, Memory.read s'.mem a = Memory.read s.mem a) ∧
    ∃ u, s'.me = some u ∧ u.pc = s.succ t ∧ u.status = .ready ∧ RegsBut t u (dsts.flatMap regsOf) ∧
      (∀ p, p ∉ predsWritten i → u.p p = t.p p) ∧ u.sst &&& ~~~flagsOf i = t.sst &&& ~~~flagsOf i ∧
      OnlyRegs t { u with pw := t.pw, sst := t.sst }

/-! ## Control (R145, R146, R156 to R165) -/

namespace Sys2Proof.Claims

/-- The target of a branch immediate: whole lines from the line of its own PC, then the head index (R145). -/
def branchTarget (t : Thread) (b : BTarget) : Word :=
  (t.pc &&& ~~~63#64) + b.ld.signExtend 64 * 64 + BitVec.ofNat 64 (2 * b.hx.toNat)

/-- A transfer that passes its checks: the Diary notes it, and the PC is the target (R156). -/
def jumped (s : State) (t : Thread) (target : Word) : State := (s.noteJump t.pc target).goto target

/-- The two threads agree in everything but what the delivery of a user trap writes (R286). -/
def OnlyUserTrap (t u : Thread) : Prop :=
  { u with xcause := t.xcause, xval := t.xval, xpc := t.xpc, pc := t.pc, status := t.status, carried := t.carried } = t

/-- Nothing but the issuing core and the Diary changes. -/
def OnlyCoresAndDiary (s s' : State) : Prop := { s' with cores := s.cores, diary := s.diary } = s

end Sys2Proof.Claims

/-- R146, Table 7-5: a transfer to an odd target or to head index 0 has no effect but the user trap `ILLEGAL_TARGET` (0x03) with the target
as `xval` at its own PC; below `xb`, a malformed line gives `ILLEGAL_LINE` (0x02) with its base, and an index above its heads gives
`ILLEGAL_TARGET`; a target at or above `xb` is taken. Said for `BR p0`, `CALL` and `LOOP`; a failed `LOOP` keeps its count. -/
def Obligations.FailedTransfersHaveNoEffect : Prop :=
  ∀ (s : State) (t : Thread) (b : BTarget) (i : Instr),
    let T := branchTarget t b
    let base := T &&& ~~~63#64
    let index := T.toNat / 2 % 32
    let line := s.lineAt s.cur.core base.toNat
    let below := T < (s.core s.cur.core).xb
    (i = .br 0 b ∧ Issues s t [] [] [0] ∨ i = .call b ∧ Issues s t [] [] [] ∨
      ∃ r, i = .loop r b ∧ t.gv r ≠ 1 ∧ Issues s t [.g r] [.g r] []) →
    ((T.getLsbD 0 = true ∨ index = 0) → Runs i s (s.userTrap 0x03 T t.pc)) ∧
    (T.getLsbD 0 = false → index ≠ 0 → below → Line.wf line = false → Runs i s (s.userTrap 0x02 base t.pc)) ∧
    (T.getLsbD 0 = false → index ≠ 0 → below → Line.wf line = true → Line.hcnt line < index → Runs i s (s.userTrap 0x03 T t.pc)) ∧
    (i = .br 0 b → T.getLsbD 0 = false → index ≠ 0 → ¬below → Runs i s (jumped s t T))

/-- R159, R46, R47: with a target that passes its checks, room in the window stack and no earlier access of the thread under way to the
lines it writes, `CALL` and `CALLR` complete, on the home core with fewer than four windows resident: they write the successor PC at wsp + 80
and 0 at wsp + 88, raise wsp by 96, open a window of FULL zeros with the caller's kept resident, and go to the target; off the home core, once
no register of the caller's window is pending and each passes its parity check, that window is written to its spill slot there first, which the
model reads from R48 (log 19). Everything else of the thread stays.
R160: with an open call record whose return PC can be read and passes its checks, the caller's window resident and the current one with no
register pending, `RET` on the home core goes to the PC that the record holds, takes the caller's window back and lowers wsp by 96; nothing
else of the thread changes, and no memory. With no open call record it traps `ILLEGAL` (0x01) with its own encoding. -/
def Obligations.CallAndReturnResults : Prop :=
  (∀ (i : Instr) (s s1 : State) (t : Thread) (T : Word),
    (∃ b, i = .call b ∧ Issues s t [] [] [] ∧ T = branchTarget t b ∧ s1 = s) ∨
      (∃ x, i = .callr x ∧ Issues s t [x] [] [] ∧ T = fst2 s t x ∧ s1 = s.pop x) →
    s.checkTarget s.cur.core T = none → t.wsp.toNat + 96 ≤ t.wsl.toNat → s.ownBusy t (s.stackKey t t.wsp.toNat) 96 = false →
    let fresh : Vector RegCell 8 := Vector.replicate 8 ⟨0, true, none, false⟩
    let record := fun (s0 : State) => (s0.homeWrite (s.stackKey t (t.wsp.toNat + 80)) (leBytes 8 (s.succ t).toNat)).homeWrite
      (s.stackKey t (t.wsp.toNat + 88)) (leBytes 8 0)
    (s.cur.core = s.homeOf t → t.resident.length < 3 →
      ∃ s', Runs i s s' ∧ s'.mem = (record s1).mem ∧
        s'.me = some { t with pc := T, status := .ready, wsp := t.wsp + 96, win := fresh, resident := ⟨t.wsp.toNat, t.win⟩ :: t.resident }) ∧
    (s.cur.core ≠ s.homeOf t → winPending t.win = false → t.win.any (·.bad) = false →
      ∃ s', Runs i s s' ∧ s'.mem = (record (s1.homeWrite (s.stackKey t t.wsp.toNat) (winBytes t.win))).mem ∧
        s'.me = some { t with pc := T, status := .ready, wsp := t.wsp + 96, win := fresh })) ∧
  (∀ (s s1 : State) (t : Thread) (r : Resident),
    let record := s.stackKey t (t.wsp.toNat - 16)
    let T := BitVec.ofNat 64 (s1.rawNat record 8)
    Issues s t [] [] [] →
    (t.wsp.toNat < t.wsb.toNat + 96 → Runs .ret s (s.userTrap 0x01 (s.encHere t) t.pc)) ∧
    (t.wsb.toNat + 96 ≤ t.wsp.toNat → s.ownBusy t record 8 = false → s.checked t record 8 = .ok s1 →
      s1.checkTarget s.cur.core T = none → s.cur.core = s.homeOf t →
      t.resident.find? (fun x => x.base == t.wsp.toNat - 96) = some r → winPending t.win = false →
      ∃ s', Runs .ret s s' ∧ OnlyCoresAndDiary s1 s' ∧
        s'.me = some { t with pc := T, status := .ready, wsp := t.wsp - 96, win := r.win
                              resident := t.resident.filter (fun x => x.base != t.wsp.toNat - 96) }))

/-- R146, R157: a branch goes to its target when its predicate is as it asks and the target passes its checks, and to the next head
when it is not taken, with no check; `JMP` goes to its source; `LOOP` counts down and branches while the count is not 0; nothing else of
the thread changes.
R163: `YIELD` in strict mode only goes on; in shared mode its slot notes the cycle, from which it waits for the core's other eligible slots,
and goes on. -/
def Obligations.BranchAndYieldResults : Prop :=
  (∀ (s : State) (t : Thread) (b : BTarget),
    let T := branchTarget t b
    (∀ p, Issues s t [] [] [p] →
      (t.p p = true → s.checkTarget s.cur.core T = none → Runs (.br p b) s (jumped s t T)) ∧
      (t.p p = false → Runs (.br p b) s (s.advance t)) ∧
      (t.p p = false → s.checkTarget s.cur.core T = none → Runs (.brn p b) s (jumped s t T)) ∧
      (t.p p = true → Runs (.brn p b) s (s.advance t))) ∧
    (∀ x, Issues s t [x] [] [] → s.checkTarget s.cur.core (fst2 s t x) = none →
      Runs (.jmp x) s (jumped (s.pop x) t (fst2 s t x))) ∧
    (∀ r, Issues s t [.g r] [.g r] [] →
      (t.gv r = 1 → Runs (.loop r b) s ((s.write (.g r) 0).advance t)) ∧
      (t.gv r ≠ 1 → s.checkTarget s.cur.core T = none → Runs (.loop r b) s (jumped (s.write (.g r) (t.gv r - 1)) t T)))) ∧
  (∀ (s : State) (t : Thread), Issues s t [] [] [] →
    Runs .nop s (s.advance t) ∧
    ((s.core s.cur.core).strict = true → Runs .yield s (s.advance t)) ∧
    ((s.core s.cur.core).strict = false →
      Runs .yield s ((s.modSlot s.cur.core s.cur.slot (fun sl => { sl with yieldSet := some ([], s.time.toNat), yieldSeen := [] })).advance t)))

/-! ## Traps and returns (R164, R165, R267 to R269, R276, R286) -/

/-- R286: a user trap of a thread in user mode, no spark, whose handler passes its checks: `xcause`, `xval` and `xpc` are written, the PC
is `ovh` for `OVERLAY` and `xh` otherwise, and nothing else of the thread, no memory and no other core changes. Where that handler
fails, the three registers keep those values and the supervisor cause `PRIV` (0x41) follows, with `spc` the trap's PC, `sval` the handler
address and HDLR 1. The thread's CSRs pass their parity check, and storage holds no error. -/
def Obligations.UserTrapDelivery : Prop :=
  ∀ (s : State) (t : Thread) (cause : BitVec 8) (val pc : Word),
    let h := if cause = 0x06 then t.ovh else t.xh
    s.me = some t → NotSpark t → t.mode = false → t.badCsr = [] → s.synd = [] → s.lost = [] →
    (s.handlerOk s.cur.core h = true → ∃ u, (s.userTrap cause val pc).me = some u ∧ u.xcause = cause.setWidth 64 ∧ u.xval = val ∧
      u.xpc = pc ∧ u.pc = h ∧ u.status = .ready ∧ OnlyUserTrap t u ∧
      OnlyCoresAndDiary s (s.userTrap cause val pc) ∧ OnlyMySlot s (s.userTrap cause val pc)) ∧
    (s.handlerOk s.cur.core h = false → s.handlerOk s.cur.core t.sh = true →
      ∃ u, (s.userTrap cause val pc).me = some u ∧ u.xcause = cause.setWidth 64 ∧ u.xval = val ∧ u.xpc = pc ∧
        u.scause = 0x41 ∧ u.spc = pc ∧ u.sval = h ∧ u.hdlr = true ∧ u.mode = true ∧ u.pmode = false ∧ u.pc = t.sh)

/-- R267, R268: a supervisor cause of a thread in user mode, no spark, whose `sh` passes its checks: `spc`, `scause` and `sval` are written,
PMODE is 0, MODE is 1, HDLR as given, the segments are the context's supervisor set, read after the dirty user segments are saved, and
the PC is `sh`. The thread's CSRs pass their parity check, and storage holds no error; memory changes by the save, and by the record of a
slice that refuses the reading (R270). -/
def Obligations.SupervisorTrapDelivery : Prop :=
  ∀ (s : State) (t : Thread) (cause : BitVec 8) (val pc : Word) (hdlr : Bool),
    s.me = some t → NotSpark t → t.mode = false → s.handlerOk s.cur.core t.sh = true → t.badCsr = [] → s.synd = [] → s.lost = [] →
    let s' := s.supTrapAt s.cur.core s.cur.slot cause val pc hdlr
    ∃ u, s'.me = some u ∧ u.spc = pc ∧ u.scause = cause.setWidth 64 ∧ u.sval = val ∧ u.pmode = false ∧ u.mode = true ∧
      u.hdlr = hdlr ∧ u.pc = t.sh ∧ u.status = .ready ∧ u.segs = (s.saveSegs t).segSet t.part t.id.ctx.toNat true ∧
      s'.mem = ((s.saveSegs t).segAudit t.part t.id.ctx.toNat true).mem ∧ u.g = t.g ∧ u.a = t.a ∧ u.win = t.win ∧ u.pw = t.pw ∧ u.rnd = t.rnd ∧ u.sst = t.sst ∧
      u.xcause = t.xcause ∧ u.xval = t.xval ∧ u.xpc = t.xpc

/-- R164, R161, R165, R276: `TRAP`, `BRK` and an unassigned opcode take their user traps (`TRAP` with its code and the successor PC);
`SCALL` in user mode takes the supervisor cause 0x40 with its code and the successor PC, and in supervisor mode traps `ILLEGAL`; `XRET`
goes to `xpc`, and sets `itag` after a tag mismatch; `SRET` goes to `spc` with MODE := PMODE and the segments of that mode, which can be
read. The Diary notes both returns. -/
def Obligations.TrapAndReturnInstructions : Prop :=
  ∀ (s : State) (t : Thread), Issues s t [] [] [] →
    (∀ c : BitVec 6, Runs (.trap c) s (s.userTrap 0x0D (c.setWidth 64) (s.succ t))) ∧
    Runs .brk s (s.userTrap 0x0E 0 t.pc) ∧
    (∀ o, Runs (.unassignedOpcode o) s (s.userTrap 0x01 (s.encHere t) t.pc)) ∧
    (∀ c : BitVec 6, t.mode = false →
      Runs (.scall c) s (s.supTrapAt s.cur.core s.cur.slot 0x40 (c.setWidth 64) (s.succ t) false)) ∧
    (∀ c : BitVec 6, t.mode = true → Runs (.scall c) s (s.userTrap 0x01 (s.encHere t) t.pc)) ∧
    (s.checkTarget s.cur.core t.xpc = none → ∃ s', Runs .xret s s' ∧ s'.me = some { t with pc := t.xpc, status := .ready } ∧
      (s'.core s.cur.core).itag = (if t.xcause = 6 ∧ t.xval.getLsbD 63 = true then t.xval.setWidth 16
        else (s.core s.cur.core).itag) ∧ OnlyCoresAndDiary s s') ∧
    (t.mode = true → s.checkTarget s.cur.core t.spc = none → s.synd = [] → s.lost = [] →
      (t.pmode = true ∨ ∀ k : Fin 8, s.grants (bankOf (s.segBase t.part t.id.ctx.toNat false + 16 * k.val)) t.part 1 = true) →
      ∃ s', Runs .sret s s' ∧ OnlyCoresAndDiary s s' ∧
        s'.me = some { t with pc := t.spc, mode := t.pmode, status := .ready, segs := if t.pmode then t.segs else s.userSegs t })

/-- R148, R149, R275: each privileged instruction, issued in user mode with its operands ready, takes the supervisor cause `PRIV` (0x41) at
its own PC with its own encoding, and has none of its effect.
The model's readings in it: log 66. -/
def Obligations.PrivilegedInUserModeTraps : Prop :=
  ∀ (s : State) (t : Thread) (i : Instr) (srcs dsts : List Operand), t.mode = false → Issues s t srcs dsts [] →
    (∀ (d : Operand) (x y z : Fin 16) (p : Fin 8) (k : DiagKind),
      (srcs, dsts, i) ∈ [([], [], .sret), ([], [], .idle), ([.g x, .a p], [d], .ctxsv d x p), ([.g x, .a p], [d], .ctxld d x p),
        ([], [], .tlbinvCtx), ([.g x], [], .tlbinvPage x), ([], [], .tlbinvPart), ([.g x, .g y, .g z], [], .diagst x y z k),
        ([.g x], [d, .g y], .diagld d x y k), ([.g x], [d], .detain d x), ([.g x, .g y], [d], .lmapw d x y),
        ([.g x], [d], .scant d x), ([], [], .dfrz), ([.g x], [d], .slotkill d x), ([.g x], [d], .slotkillCtx d x),
        ([.g x], [d], .preempt d x), ([.g x, .g y, .g z], [d], .matw d x y z)] →
      Runs i s (s.supTrapAt s.cur.core s.cur.slot 0x41 (s.encHere t) t.pc false)) ∧
    (∀ (d x : Operand) (n : BitVec 12), (srcs, dsts, i) ∈ [([], [d], .scsrr d n), ([x], [d], .scsrw d x n)] →
      Runs i s (s.supTrapAt s.cur.core s.cur.slot 0x41 (s.encHere t) t.pc false))

/-! ## Loads, stores, atomics, reservations and counters (R183 to R197) -/

namespace Sys2Proof.Claims

/-- What an access asks for, as its rule and Table 9-3 give it: its sources, destination and predicates, the pointer and offset, bytes and
alignment, rights, what a registered range does to it, the class it must have, the value stored or combined, and its order bits. -/
structure AccessRow where
  srcs  : List Operand
  dst   : Operand
  ps    : List (BitVec 5)
  p     : Fin 8
  off   : Word
  n     : Nat
  align : Nat
  need  : Need
  /-- none: no Hall Pass check; else whether a registered source range meets it too (R101) -/
  hall  : Option Bool
  kind  : AccKind
  rlx   : Bool
  /-- under the `RLX` prefix -/
  pre   : Bool
  inc   : Bool
  acq   : Bool
  rel   : Option Scope
  pred  : Option (BitVec 5)
  /-- a visible side effect (R24) -/
  side  : Bool
  /-- the operand whose value is data -/
  data  : Operand
  op    : Thread → Word → MemOp
  /-- what the instruction traps on before its address is checked -/
  early : Thread → Word → Prop
  /-- what a release of a reservation needs of the address -/
  late  : Thread → Nat → Prop

/-- A load of d (R186). -/
def loadRow (d : Operand) (p : Fin 8) (sz : Size) (off : Word) : AccessRow :=
  let n := match sz with | .b | .bs => 1 | .h | .hs => 2 | .w | .ws => 4 | .d => 8
  let sx := match sz with | .bs | .hs | .ws => true | _ => false
  { srcs := [.a p], dst := d, ps := [], p := p, off := off, n := n, align := n, need := ⟨true, false, false⟩, hall := some false
    kind := .load, rlx := false, pre := false, inc := false, acq := false, rel := none, pred := none, side := false, data := .zr
    op := fun _ _ => .load n sx none none, early := fun _ _ => True, late := fun _ _ => True }

/-- A store of x (R186). -/
def storeRow (x : Operand) (p : Fin 8) (sz : StSize) (off : Word) : AccessRow :=
  let n := match sz with | .b => 1 | .h => 2 | .w => 4 | .d => 8
  { loadRow .zr p .b off with
    srcs := [.a p, x], n := n, align := n, need := ⟨false, true, false⟩, hall := some true, kind := .store, side := true, data := x
    op := fun _ v => .store (leBytes n v.toNat) none }

/-- An atomic at the pointer of p: rights W and A, 4 or 8 bytes (R192). -/
def atomRow (d : Operand) (p : Fin 8) (srcs : List Operand) (o : AtomCtl) (op : Thread → Word → Option Scope → Option Scope → MemOp) :
    AccessRow :=
  let n := if o.dbl then 8 else 4
  let acq := if o.acq then some o.sc else none
  let rel := if o.rel then some o.sc else none
  { loadRow d p .b (o.off.signExtend 64) with
    srcs := .a p :: srcs, n := n, align := n, need := ⟨false, true, true⟩, hall := some true, kind := .rmw, acq := o.acq, rel := rel
    side := true, data := srcs.headD .zr, op := fun t v => op t v acq rel }

/-- A fetch-and-op (R193). -/
def fetchRow (f : Thread → AtomFn) (d : Operand) (p : Fin 8) (x : Operand) (o : AtomCtl) : AccessRow :=
  atomRow d p [x] o (fun t v acq rel => .atom (f t) o.dbl v 0 acq rel)

/-- A counter instruction of one byte; the high nibble needs nibble width (R197). -/
def counterRow (d : Operand) (p : Fin 8) (srcs : List Operand) (hi : Bool) (off : Word) (writes : Bool) (f : Word → CtrFn)
    (top : Thread → Nat) : AccessRow :=
  { loadRow d p .b off with
    srcs := .a p :: srcs, need := if writes then ⟨false, true, true⟩ else ⟨true, false, false⟩, hall := some writes, kind := .ctr
    side := true, data := srcs.headD .zr, op := fun t v => .ctr (f v) hi t.pcb
    early := fun t v => v.toNat ≤ top t ∧ ¬(hi = true ∧ t.pcb.getLsbD 0 = true) }

/-- The row of each access; nothing for an encoding that is illegal (R149), and for any other instruction. -/
def accessRow : Instr → Option AccessRow
  | .ld d p sz off => some (loadRow d p sz (off.signExtend 64))
  | .ldpi d p sz => if d = .a p then none else some { loadRow d p sz 0 with inc := true }
  | .st x p sz off => some (storeRow x p sz (off.signExtend 64))
  | .stpi x p sz => some { storeRow x p sz 0 with inc := true }
  | .lda d p sz off => some { loadRow d.op p sz (off.signExtend 64) with rlx := true }
  | .ldx d p sz pr off => some (
    let r := loadRow d p sz (off.signExtend 64)
    { r with ps := [pr], kind := .ldx, pred := some pr
             op := fun t v => match r.op t v with | .load n sx _ _ => .load n sx none (some pr) | m => m })
  | .erase p => some { storeRow .zr p .b 0 with
      srcs := [.a p], n := 4096, align := 4096, kind := .erase, op := fun _ _ => .erase }
  | .ldaq d p sz sc off => some (
    let r := loadRow d p sz (off.signExtend 64)
    { r with acq := true, op := fun t v => match r.op t v with | .load n sx _ _ => .load n sx (some sc) none | m => m })
  | .strel x p sz sc off => some (
    let r := storeRow x p sz (off.signExtend 64)
    { r with rel := some sc, op := fun t v => match r.op t v with | .store b _ => .store b (some sc) | m => m })
  | .aadd d p x o => some (fetchRow (fun _ => .add) d p x o)
  | .aand d p x o => some (fetchRow (fun _ => .and) d p x o)
  | .aor d p x o => some (fetchRow (fun _ => .or) d p x o)
  | .axor d p x o => some (fetchRow (fun _ => .xor) d p x o)
  | .amin d p x o => some (fetchRow (fun _ => .min) d p x o)
  | .amax d p x o => some (fetchRow (fun _ => .max) d p x o)
  | .aminu d p x o => some (fetchRow (fun _ => .minu) d p x o)
  | .amaxu d p x o => some (fetchRow (fun _ => .maxu) d p x o)
  | .aswp d p x o => some (fetchRow (fun _ => .swp) d p x o)
  | .aincb d p x o => some (fetchRow (fun _ => .incb) d p x o)
  | .afadd d p x o => some (fetchRow (fun t => .fadd t.rnd) d p x o)
  | .cas d p x o => some (atomRow d.op p [x, d.op] o (fun t v acq rel => .atom .cas o.dbl v (t.cell d).val acq rel))
  | .rsv d p o => if o.rel then none else
    some { atomRow d p [] o (fun _ _ acq _ => .rsv o.dbl acq) with early := fun t _ => t.rsv = none }
  | .rls d p x o => if o.acq then none else
    some { atomRow d p [x] o (fun _ v _ rel => .rls (some (leBytes (if o.dbl then 8 else 4) v.toNat)) rel) with
      early := fun t _ => t.rsv.isSome = true
      late := fun t va => ∃ r, t.rsv = some r ∧ r.va = va ∧ r.bytes = (if o.dbl then 8 else 4) ∧ r.broken = false }
  | .rlsn d p o => if o.acq then none else
    some { atomRow d p [] o (fun _ _ _ rel => .rls none rel) with
      early := fun t _ => t.rsv.isSome = true
      late := fun t va => ∃ r, t.rsv = some r ∧ r.va = va ∧ r.bytes = (if o.dbl then 8 else 4) ∧ r.broken = false }
  | .pcadd d p x hi off => some (counterRow d p [x] hi (off.signExtend 64) true (fun v => .add v.toNat) (fun _ => 255))
  | .pcrd d p hi => some (counterRow d p [] hi 0 false (fun _ => .rd) (fun _ => 0))
  | .pcmrg d p x hi => some (counterRow d p [.g x] hi 0 true (fun v => .mrg v.toNat) (fun _ => 2 ^ 64))
  | .pclv d p hi => some (counterRow d p [] hi 0 false (fun _ => .lv) (fun _ => 0))
  | .pclvSet d p x hi => some (counterRow d p [x] hi 0 true (fun v => .lvSet v.toNat)
      (fun t => if t.pcb.getLsbD 0 then 255 else 15))
  | _ => none

/-- The row of the instruction at the thread's PC: its own, or, for `RLX`, that of the load or store after it in the line as one relaxed
access (R151). -/
def rowAt (s : State) (t : Thread) : Instr → AccessRow → Prop
  | .rlx, r => ∃ j r0, pcIdx t.pc < (s.myLine t).hcnt ∧
      decode ((s.myLine t).slot (pcIdx t.pc + 1)).1 ((s.myLine t).slot (pcIdx t.pc + 1)).2 = .ok j ∧
      ((∃ (x : RegName) (p : Fin 8), (∃ sz off, j = .ld x.op p sz off) ∨ (∃ sz, j = .ldpi x.op p sz)) ∨
        (∃ x p sz off, j = .st x p sz off) ∨ (∃ x p sz, j = .stpi x p sz)) ∧
      accessRow j = some r0 ∧ r = { r0 with rlx := true, pre := true, kind := .rlx }
  | i, r => accessRow i = some r

/-- The thread may issue an access of this row: its conditions hold, its release has drained, and what orders it is free (R34, R126,
R127, R133). -/
def MayAccess (s : State) (t : Thread) (r : AccessRow) : Prop :=
  Issues s t r.srcs [r.dst] r.ps ∧ NotSpark t ∧ t.oar = none ∧ t.rlx.length < 16 ∧ r.early t (s.peek t r.data) ∧
  r.rel.all (fun sc => t.drained s.cur.core sc) = true

/-- The device address of an access. -/
def accessVa (t : Thread) (r : AccessRow) : Nat := t.segs[r.p].base.toNat + (t.av r.p + r.off).toNat

/-- A release leaves one record of its drain: of the probes that it sent, as they were sent, or of none (type 0x09, R335). -/
def drainNote (s : State) (t : Thread) : Option Scope → State
  | none => s
  | some sc =>
    if t.carried.any (fun c => c.1 == 13) then s.modMe (fun u => { u with carried := none })
    else s.note (.core s.cur.core) 0x09 (paySlot s.cur.slot + scopeCode sc * 2 ^ 32)

/-- The checks of R183 that its pointer passes: the segment, and alignment. -/
def PointerOk (t : Thread) (r : AccessRow) : Prop :=
  (t.segs[r.p]).grants (t.av r.p + r.off).toNat r.n r.need = true ∧ accessVa t r % r.align = 0

/-- Where the access goes, its class and whether it is relaxed, with the state that the port leaves: the own scratchpad at or above
`xb`, or global memory where the port accepts it (R183, R184, R128). -/
def Placed (s s1 : State) (t : Thread) (r : AccessRow) (name cls : Nat) (rlx : Bool) (s2 : State) : Prop :=
  (∃ off, s.spaceOf s.cur.core (accessVa t r) = some (.sp Config.pkg s.cur.core off) ∧ (s.core s.cur.core).xb.toNat ≤ off ∧
    r.kind.allowed none = true ∧ name = spKey Config.pkg s.cur.core off ∧ cls = 5 ∧ rlx = r.rlx ∧ s2 = s1) ∨
  (∃ x, s.spaceOf s.cur.core (accessVa t r) = some .glob ∧
    s1.port (quadOf s.cur.core) t.part t.id.ctx.toNat (accessVa t r) r.kind r.need = (.ok x, s2) ∧ name = x.name ∧ cls = x.cls ∧
    rlx = (r.rlx && !x.ord && modOf (nameAddr x.name) == Config.pkg))

end Sys2Proof.Claims

open Sys2Proof.Claims

/-- R183, R186 to R197, R151: an access whose operands are ready, whose pointer passes its checks and that no registered range forbids is
sent: its message names the byte, the operation and its data, the thread's PC moves on, its destination awaits the message, the
Outstanding Access register or the Relaxed set holds it, a post-incremented pointer moves by the size, and every other g and a register,
every predicate and flag stays; a side effect is visible unless it is a store into the own window stack (R24); no byte of memory changes but
what the port's translation writes. Where the access tables on the way of an ordinary access refuse it, it takes `ACCESS` with its device
address instead, precisely at its own PC (R273, R368).
The model's readings in it: log 14, 28. -/
def Obligations.AccessIssues : Prop :=
  ∀ (i : Instr) (r : AccessRow) (s s2 : State) (t : Thread) (name cls : Nat) (rlx : Bool),
    let s1 := (drainNote s t r.rel).pop r.data
    let v := s.peek t r.data
    rowAt s t i r → MayAccess s t r → PointerOk t r →
    r.hall.any (fun w => s.hallHit s.cur.core (accessVa t r) r.n w) = false →
    r.late t (s.canonVa s.cur.core (accessVa t r)) → Placed s s1 t r name cls rlx s2 →
    let granted := s.grantsTo s.cur.core t.part (bankOf name) name (r.op t v).rights
    (rlx = false → granted = false → Runs i s (s2.supTrap 0x45 (BitVec.ofNat 64 (accessVa t r)) t.pc)) ∧
    ((rlx = false → granted = true) → ∃ s' u m, Runs i s s' ∧ s'.me = some u ∧ m ∈ s'.net ∧ (m.who = t.id ∧ m.part = t.part ∧ m.core = s.cur.core ∧
      m.slot = s.cur.slot ∧ m.pc = t.pc ∧ m.va = accessVa t r ∧ m.pa = name ∧ m.bytes = r.n ∧ m.cls = cls ∧ m.bank = bankOf name ∧
      m.op = r.op t v ∧ m.rlx = rlx) ∧
      u.pc = succPc (s2.myLine t) (if r.pre then t.pc + 2 else t.pc) ∧
      (if rlx then u.oar = none ∧ ∃ e ∈ u.rlx, e.tag = m.tag ∧ e.bank = m.bank else u.oar = some ⟨m.tag, r.acq, false, none⟩ ∧ u.rlx = t.rlx) ∧
      (∀ q ∈ regsOf r.dst, (u.cell q).full = false ∧ (u.cell q).pend = some m.tag) ∧
      (r.inc = true → u.cell (.a r.p) = .of (t.av r.p + BitVec.ofNat 64 r.n)) ∧
      RegsBut t u (regsOf r.dst ++ if r.inc then [.a r.p] else []) ∧ u.pw = t.pw ∧ u.sst = t.sst ∧
      (r.side = true → u.visible = true ∨ s.inOwnStack t (accessVa t r) r.n = true ∧ ∃ b rel, r.op t v = .store b rel) ∧
      (∀ p, r.pred = some p → p ≠ 0 → (p, m.tag) ∈ u.predPend) ∧ s'.mem = s2.mem)

/-- R183: the checks of an access, in their order: the segment (`SEGV`), alignment (`MISALIGN`), the address row (`SEGV`), code below `xb`
(`EXECONLY`), a registered range (`HALLPASS`), and the class of a scratchpad (`CLASS`); each trap has the pointer offset as its value and
the instruction's own PC, with the sources read.
The model's readings in it: log 13. -/
def Obligations.AccessChecksTrapInOrder : Prop :=
  ∀ (i : Instr) (r : AccessRow) (s : State) (t : Thread) (off : Nat),
    let o := t.av r.p + r.off
    let va := accessVa t r
    let own := s.spaceOf s.cur.core va = some (.sp Config.pkg s.cur.core off)
    let xb := (s.core s.cur.core).xb.toNat
    let hit := r.hall.any (fun w => s.hallHit s.cur.core va r.n w)
    let traps := fun (c : BitVec 8) => Runs i s (((drainNote s t r.rel).pop r.data).userTrap c o t.pc)
    rowAt s t i r → MayAccess s t r →
    ((t.segs[r.p]).grants o.toNat r.n r.need = false → traps 0x04) ∧
    ((t.segs[r.p]).grants o.toNat r.n r.need = true → va % r.align ≠ 0 → traps 0x07) ∧
    (PointerOk t r → s.spaceOf s.cur.core va = none → traps 0x04) ∧
    (PointerOk t r → own → off < xb → traps 0x05) ∧
    (PointerOk t r → own → xb ≤ off → hit = true → traps 0x08) ∧
    (PointerOk t r → s.spaceOf s.cur.core va = some .glob → hit = true → traps 0x08) ∧
    (PointerOk t r → own → xb ≤ off → hit = false → r.kind.allowed none = false → traps 0x11)

namespace Sys2Proof.Claims

/-- The thread can leave for a logical core: it is no spark, the core is its partition's, it has drained at `.pd`, nothing holds it at the
sender, and what leaves with it passes its parity checks (R80, R131, R272, R321). -/
def MayLeave (s : State) (t : Thread) (dest : Nat) : Prop :=
  NotSpark t ∧ s.partOf (s.physOf dest) = t.part ∧ t.oar = none ∧ t.drained s.cur.core .pd = true ∧ s.fenced (s.physOf dest) = false ∧
  (s.core (s.physOf dest)).scan = none ∧ t.unsound = false

/-- The thread is on its way to a logical core with its state, its home slot stays reserved for it and any other slot is free, and no
byte of memory and no other core has changed (R16, R27, R28). -/
def Leaves (s s' : State) (t : Thread) (dest : Nat) : Prop :=
  (∃ m ∈ s'.migs, m.t = { t with status := .ready } ∧ m.dest = dest ∧ m.src = s.cur.core) ∧
  (s'.slot s.cur.core s.cur.slot).occ = (if s.cur.core = s.homeOf t ∧ s.cur.slot = t.id.hslot
    then .away t.id t.prio t.part (match t.kind with | .launch _ _ b => b | _ => false) else .free) ∧
  s'.mem = s.mem ∧ ∀ c, c ≠ s.cur.core → s'.core c = s.core c

end Sys2Proof.Claims

/-- R80, R131, R254: an access to the scratchpad of another core of the package, `MIG` and `HOME` send the thread there, before any
operand is read; `MIG` and `HOME` to the thread's own core only go on; `MIG` to no logical core traps `ILLEGAL`; to a core of another partition
it is refused, by the model's choice with `ACCESS` and the core (R272).
The model's readings in it: log 13, 97. -/
def Obligations.MigrationResults : Prop :=
  ∀ (s : State) (t : Thread),
    (∀ (i : Instr) (r : AccessRow) (c off : Nat), rowAt s t i r → MayAccess s t r → PointerOk t r → t.lead = false →
      s.spaceOf s.cur.core (accessVa t r) = some (.sp Config.pkg c off) → c ≠ s.cur.core → MayLeave s t (s.logOf c) →
      ∃ s', Runs i s s' ∧ Leaves s s' t (s.logOf c)) ∧
    (∀ x, Issues s t [.g x] [] [] → NotSpark t → t.lead = false →
      ((t.gv x).toNat < 3968 → s.physOf (t.gv x).toNat = s.cur.core → Runs (.mig x) s (s.advance t)) ∧
      ((t.gv x).toNat < 3968 → s.physOf (t.gv x).toNat ≠ s.cur.core → MayLeave s t (t.gv x).toNat →
        ∃ s', Runs (.mig x) s s' ∧ Leaves s s' t (t.gv x).toNat) ∧
      ((t.gv x).toNat < 3968 → s.physOf (t.gv x).toNat ≠ s.cur.core → s.partOf (s.physOf (t.gv x).toNat) ≠ t.part →
        Runs (.mig x) s (s.supTrap 0x45 (t.gv x) t.pc)) ∧
      (3968 ≤ (t.gv x).toNat → Runs (.mig x) s (s.userTrap 0x01 (t.gv x) t.pc))) ∧
    (Issues s t [] [] [] → NotSpark t → t.lead = false →
      (s.physOf t.id.hcore.toNat = s.cur.core → Runs .home s (s.advance t)) ∧
      (s.physOf t.id.hcore.toNat ≠ s.cur.core → MayLeave s t t.id.hcore.toNat →
        ∃ s', Runs .home s s' ∧ Leaves s s' t t.id.hcore.toNat))

/-! ## The ordering machine's events (Table 6-2, R122 to R135) -/

namespace Sys2Proof.Claims

/-- A bank's next access is this one: nothing set aside goes first, no page of it moves, nothing holds it, it is no acquire that a
later access has passed, and no fence stands between the bank and its sender (R125, R135, R327). -/
def NextAt (s : State) (b : Bank) (m : Msg) : Prop :=
  (∀ q ∈ s.lines, q.aside = []) ∧ s.inbox.find? (fun x => x.bank == b) = some m ∧ s.moves = [] ∧ s.heldBehind m = none ∧
  m.gran = none ∧ m.unchk = false ∧ s.looseStuck m = false ∧ s.fencedFrom m.core b = false ∧ (s.lineQ (lineOf m.pa)).setsAside m = false

/-- Memory is in its canonical form, no stored word has an error and no line is lost. -/
def Sound (s : State) : Prop := MemOk s ∧ s.synd = [] ∧ s.lost = []

/-- The slice of a partition's next event record takes the hardware's write (R270, R273). -/
def MayPost (s : State) (part : Nat) : Prop :=
  s.grants (bankOf ((s.partn part).evq.toNat + 16 * ((s.partn part).evN % 4096))) part 2 = true

/-- Bytes at an address, and every other byte as it was. -/
def Stored (s s' : State) (pa : Nat) (b : List Byte) : Prop :=
  ∀ a, Memory.read s'.mem a = if pa ≤ a ∧ a < pa + b.length then b.getD (a - pa) 0 else Memory.read s.mem a

end Sys2Proof.Claims

/-- R122, R123, R186: an arriving access enters its bank's FIFO; a store performed there writes its bytes and no other, and a release leaves
its record; a load answers with the bytes there, extended as its size says, and changes no byte. A relaxed access that an access table
refuses on its way does not reach the FIFO: it is answered with 0, and its device address is kept for the thread's next fence (R270, R273).
R35, R123: an answer fills each register that awaits it, FULL with the value and no longer pending, leaves every other register of the
current window and a0-a7, frees the Outstanding Access register if it held the access, and adds its flags.
R88, R309, Table 4-5: an access that a class-4 page sends to a device register is performed like any other: a load is answered, with bytes that
are free values, since the spec gives no register there a value, and a store is answered and changes no byte of memory. Those are the model's
choices (log 84).
The model's readings in it: log 23, 28, 84. -/
def Obligations.ArriveAndPerformAndComplete : Prop :=
  ((∀ (s : State) (m : Msg), s.net.find? (fun x => x.tag == m.tag) = some m → firstOnPath m s.net = true →
    s.fencedFrom m.core m.bank = false → s.portFull m = false → m.stuck = false → s.pairHeld m.core m.tag = false →
    (m.rlx = false ∨ s.msgGranted m = true → ∃ s', Runs (.arrive m.tag) s s' ∧ s'.inbox = s.inbox ++ [m] ∧
      s'.net = s.net.filter (fun x => x.tag != m.tag) ∧ s'.mem = s.mem) ∧
    (s.msgGranted m = false → m.rlx = true → ∃ s' r, Runs (.arrive m.tag) s s' ∧ r ∈ s'.replies ∧ r.tag = m.tag ∧ r.trap = none ∧
      r.val = 0 ∧ s'.inbox = s.inbox ∧ s'.mem = s.mem ∧
      ∀ t, s.thread? m.who = some t → ∃ u, s'.thread? m.who = some u ∧ u.refused = t.refused ++ [BitVec.ofNat 64 m.va])) ∧
  (∀ (s : State) (b : Bank) (m : Msg) (bytes : List Byte) (rel : Option Scope), NextAt s b m → Sound s → isDev m.pa = false → m.op = .store bytes rel →
    ∃ s', Runs (.perform (.bank b)) s s' ∧ Stored s s' m.pa bytes ∧
      (m.rlx = false → ∃ r ∈ s'.replies, r.tag = m.tag ∧ r.trap = none) ∧
      (∀ sc, rel = some sc → ⟨m.pa / 8 * 8, sc, s.logOf m.core, m.slot⟩ ∈ s'.relRec) ∧
      (rel = none → ∀ x ∈ s'.relRec, x.word < m.pa / 8 * 8 ∨ m.pa + bytes.length ≤ x.word)) ∧
  (∀ (s : State) (b : Bank) (m : Msg) (n : Nat) (sx : Bool) (acq : Option Scope) (pr : Option (BitVec 5)), NextAt s b m → Sound s → isDev m.pa = false →
    m.op = .load n sx acq pr →
    ∃ s' r, Runs (.perform (.bank b)) s s' ∧ s'.mem = s.mem ∧ r ∈ s'.replies ∧ r.tag = m.tag ∧ r.trap = none ∧
      let v := s.rawNat m.pa n
      r.val = if sx ∧ 2 ^ (8 * n - 1) ≤ v then BitVec.ofInt 64 ((v : Int) - 2 ^ (8 * n)) else BitVec.ofNat 64 v) ∧
  (∀ (s : State) (b : Bank) (m : Msg), NextAt s b m → Sound s → isDev m.pa = true →
    (∀ (n : Nat) (sx : Bool) (acq : Option Scope) (pr : Option (BitVec 5)), m.op = .load n sx acq pr →
      ∃ s' r k, Runs (.perform (.bank b)) s s' ∧ s'.mem = s.mem ∧ r ∈ s'.replies ∧ r.tag = m.tag ∧ r.trap = none ∧
        let v := leNat ((List.range n).map (Config.deviceByte k))
        r.val = if sx ∧ 2 ^ (8 * n - 1) ≤ v then BitVec.ofInt 64 ((v : Int) - 2 ^ (8 * n)) else BitVec.ofNat 64 v) ∧
    (∀ (bytes : List Byte) (rel : Option Scope), m.op = .store bytes rel →
      ∃ s', Runs (.perform (.bank b)) s s' ∧ s'.mem = s.mem ∧ (m.rlx = false → ∃ r ∈ s'.replies, r.tag = m.tag ∧ r.trap = none)))) ∧
  (∀ (s : State) (r : Reply) (c : Nat) (i : Fin 8) (t : Thread), s.replies.find? (fun x => x.tag == r.tag) = some r →
    firstBack r s.replies = true → s.replyNext r = true → t.awaits r.tag = false → r.trap = none → r.park = none → r.chk = none → r.pred = none → r.msg.who = r.who → s.savedOf? r.who = none →
    s.threadAt c i = some t → t.id = r.who → s.thread? r.who = some t → t.held = [] →
    ∃ s' u, Runs (.complete r.tag) s s' ∧ s'.threadAt c i = some u ∧
      (∀ q, (t.cell q).pend = some r.tag → u.cell q = ⟨r.val, true, none, false⟩) ∧
      (∀ q, (t.cell q).pend ≠ some r.tag → u.cell q = t.cell q) ∧ u.pw = t.pw ∧ u.sst = t.sst ||| r.sst ∧
      (∀ o, t.oar = some o → u.oar = if o.tag = r.tag then none else some o) ∧ u.pc = t.pc)

namespace Sys2Proof.Claims

/-- Table 9-4: the new word of each form that always writes, on 64 and on 32 bits. -/
def atomTable : List (AtomFn × (Word → Word → Word) × (BitVec 32 → BitVec 32 → BitVec 32)) :=
  [ (.add, fun a x => a + x, fun a x => a + x), (.and, fun a x => a &&& x, fun a x => a &&& x),
    (.or, fun a x => a ||| x, fun a x => a ||| x), (.xor, fun a x => a ^^^ x, fun a x => a ^^^ x),
    (.min, fun a x => if a.slt x then a else x, fun a x => if a.slt x then a else x),
    (.max, fun a x => if a.slt x then x else a, fun a x => if a.slt x then x else a),
    (.minu, fun a x => if a < x then a else x, fun a x => if a < x then a else x),
    (.maxu, fun a x => if a < x then x else a, fun a x => if a < x then x else a),
    (.swp, fun _ x => x, fun _ x => x) ]

end Sys2Proof.Claims

/-- R192, R193, Table 9-4: the word that each fetch-and-op writes, and its result, the old word: as it is in 8 bytes, extended in 4, with zeros
for `AFADD` and with its sign for every other; `CAS` writes only on equality with its comparand, and `AINCB` only below its bound. R63: `AFADD`
writes the exact sum in FP64 or FP32, rounded once under `rnd`, and raises the flags of both. -/
def Obligations.AtomicFunctions : Prop :=
  (∀ row ∈ atomTable, ∀ (a x c : Word), atomRun row.1 true a.toNat x c = (some (leBytes 8 (row.2.1 a x).toNat), a, 0)) ∧
  (∀ row ∈ atomTable, ∀ (a : BitVec 32) (x c : Word), atomRun row.1 false a.toNat x c =
    (some (leBytes 4 (row.2.2 a (x.setWidth 32)).toNat), a.signExtend 64, 0)) ∧
  (∀ a x c : Word, atomRun .cas true a.toNat x c = (if a = c then some (leBytes 8 x.toNat) else none, a, 0) ∧
    atomRun .incb true a.toNat x c = (if a < x then some (leBytes 8 (a + 1).toNat) else none, a, 0)) ∧
  (∀ (a : BitVec 32) (x c : Word), atomRun .cas false a.toNat x c =
      (if a = c.setWidth 32 then some (leBytes 4 (x.setWidth 32).toNat) else none, a.signExtend 64, 0) ∧
    atomRun .incb false a.toNat x c =
      (if a < x.setWidth 32 then some (leBytes 4 (a + 1).toNat) else none, a.signExtend 64, 0)) ∧
  (∀ (r : BitVec 3) (a x c : Word),
    let e := (fmt64.value a.toNat).add r (fmt64.value x.toNat)
    let w := fmt64.round r e.1
    atomRun (.fadd r) true a.toNat x c = (some (leBytes 8 (BitVec.ofNat 64 w.1).toNat), a, e.2 ||| w.2)) ∧
  (∀ (r : BitVec 3) (a : BitVec 32) (x c : Word),
    let e := (fmt32.value a.toNat).add r (fmt32.value (x.toNat % 2 ^ 32))
    let w := fmt32.round r e.1
    atomRun (.fadd r) false a.toNat x c = (some (leBytes 4 (BitVec.ofNat 32 w.1).toNat), a.setWidth 64, e.2 ||| w.2))

/-- R96 to R99, Table 9-5: est(0) is 0 and est(L + 1) adds 2^⌊L / 2^s⌋; `PCRD` gives the estimate of the level, `PCLV` the level, a level above
Lmax reading as Lmax; neither writes nor draws; `PCLV.set` gives the old level and writes the new; an add of m moves the level up by at
most m and not past Lmax. A nibble leaves the other of its byte. R97: a draw advances `cds`; a promotion compares as many draws as its 2^k
needs, joined to one number, with its share. R98: each trial of an add promotes the level with one in 2^k, or, at Lmax, draws nothing and sets
PCSAT; a merge goes to the largest level whose estimate is not above the sum of both, promoted by its rest, or to Lmax, with PCSAT where the
sum is above its estimate. Lmax is that of Table 4-7. -/
def Obligations.CounterResults : Prop :=
  (∀ s l, est s 0 = 0 ∧ est s (l + 1) = est s l + 2 ^ (l / 2 ^ s)) ∧
  ((List.range 4).map (lmax false) = [15, 15, 15, 15] ∧ (List.range 4).map (lmax true) = [64, 126, 248, 255]) ∧
  (∀ cds : BitVec 32, draw cds = cds * 69069 + 1) ∧
  (∀ (l s num : Nat) (cds : BitVec 32),
    let k := l / 2 ^ s
    let n := max 1 ((k + 31) / 32)
    promote l s num cds = (decide (((List.range n).map (fun i => (draw^[i + 1] cds).toNat * 2 ^ (32 * (n - 1 - i)))).sum <
      num * 2 ^ (32 * n - k)), draw^[n] cds)) ∧
  (∀ (hi : Bool) (pcb : BitVec 3) (byte : Nat) (cds : BitVec 32), byte < 256 →
    let wide := pcb.getLsbD 0
    let s := pcb.toNat / 2
    let stored := if wide then byte else if hi then byte / 16 else byte % 16
    let l := min stored (lmax wide s)
    ctrRun .rd hi pcb byte cds = (none, BitVec.ofNat 64 (est s l), cds, 0) ∧
    ctrRun .lv hi pcb byte cds = (none, BitVec.ofNat 64 l, cds, 0) ∧
    (∀ v, (if wide then v < 256 else v < 16) → ctrRun (.lvSet v) hi pcb byte cds =
      (some (if wide then v else if hi then byte % 16 + v * 16 else byte / 16 * 16 + v), BitVec.ofNat 64 l, cds, 0)) ∧
    (∀ m, ∃ n c f, ctrRun (.add m) hi pcb byte cds =
        (some (if wide then n else if hi then byte % 16 + n * 16 else byte / 16 * 16 + n), BitVec.ofNat 64 n, c, f) ∧
      l ≤ n ∧ n ≤ l + m ∧ n ≤ lmax wide s) ∧
    let put := fun (n : Nat) => if wide then n else if hi then byte % 16 + n * 16 else byte / 16 * 16 + n
    ctrRun (.add 0) hi pcb byte cds = (some (put l), BitVec.ofNat 64 l, cds, 0) ∧
    (∀ m, ctrRun (.add (m + 1)) hi pcb byte cds =
      if l = lmax wide s then (let r := ctrRun (.add m) hi pcb byte cds; (r.1, r.2.1, r.2.2.1, 0x40))
      else let p := promote l s 1 cds; ctrRun (.add m) hi pcb (put (if p.1 then l + 1 else l)) p.2) ∧
    (∀ l2, let T := est s l + est s (min l2 (lmax wide s))
      let top := lmax wide s
      (est s top ≤ T → ctrRun (.mrg l2) hi pcb byte cds = (some (put top), BitVec.ofNat 64 top, cds, if est s top < T then 0x40 else 0)) ∧
      (∀ n, T < est s top → est s n ≤ T → T < est s (n + 1) →
        (T = est s n → ctrRun (.mrg l2) hi pcb byte cds = (some (put n), BitVec.ofNat 64 n, cds, 0)) ∧
        (est s n < T → let p := promote n s (T - est s n) cds
          let m := if p.1 then n + 1 else n
          ctrRun (.mrg l2) hi pcb byte cds = (some (put m), BitVec.ofNat 64 m, p.2, 0)))))

/-- R129, R191, R194, R195: a drained `FENCE` with nothing to report and a `PREF` that passes its checks only go on; a `FENCE` that finds new
entries of the reduction log takes `REDLOG` with their number, and then one that finds a relaxed access of its thread, or an engine line of its
context, refused by an access table `ACCESS` with its address (R270, R273, Table 18-1), by the model's reading the thread's own first (log 14,
log 28), and of several engine lines the last (log 104); each leaves the record of its drain (R335, log 29); `WAITRS` sends its watch, holds no reservation any more and waits, its PC
at the next head; the release of a broken reservation gives 0 with no access.
The model's readings in it: log 14, 22, 28, 29, 104. -/
def Obligations.FencePrefetchAndReservationResults : Prop :=
  ∀ (s : State) (t : Thread),
    (∀ sc, Issues s t [] [] [] → t.oar = none → t.drained s.cur.core sc = true →
      let x := s.ctx t.part t.id.ctx.toNat
      let s1 := drainNote s t (some sc)
      (x.logN ≤ x.logDone → x.access = none → t.refused = [] → Runs (.fence sc) s (s1.advance t)) ∧
      (∀ v l, x.logN ≤ x.logDone → t.refused = v :: l →
        Runs (.fence sc) s ((s1.modMe (fun u => { u with refused := l })).supTrap 0x45 v t.pc)) ∧
      (∀ v, x.logN ≤ x.logDone → t.refused = [] → x.access = some v →
        Runs (.fence sc) s ((s1.modCtx t.part t.id.ctx.toNat (fun c => { c with access := none })).supTrap 0x45 v t.pc)) ∧
      (x.logDone < x.logN → Runs (.fence sc) s
        ((s1.modCtx t.part t.id.ctx.toNat (fun c => { c with logDone := c.logN })).supTrap 0x43 (BitVec.ofNat 64 x.logN) t.pc))) ∧
    (∀ p sz off o, let r := loadRow .zr p sz (off.signExtend 64)
      Issues s t [.a p] [] [] → PointerOk t r →
      (s.spaceOf s.cur.core (accessVa t r) = some .glob ∨
        s.spaceOf s.cur.core (accessVa t r) = some (.sp Config.pkg s.cur.core o) ∧ (s.core s.cur.core).xb.toNat ≤ o) →
      Runs (.pref p sz off) s (s.advance t)) ∧
    (∀ r, Issues s t [] [] [] → NotSpark t → t.rsv = some r → r.broken = false → t.oar = none →
      ∃ s' u m, Runs .waitrs s s' ∧ s'.me = some u ∧ m ∈ s'.net ∧ m.op = .watch ∧ m.pa = r.pa ∧ m.who = t.id ∧
        u.oar = some ⟨m.tag, false, false, none⟩ ∧ u.rsv = none ∧ u.pc = s.succ t ∧ u.status = .parked (.watch (lineOf r.pa)) ∧ s'.mem = s.mem) ∧
    (∀ d p o r, let row := atomRow d p [] o (fun _ _ _ _ => .probe)
      o.acq = false → o.rel = false → Issues s t [.a p] [d] [] → t.oar = none → t.rsv = some r → r.broken = true → PointerOk t row →
      (∃ off, s.spaceOf s.cur.core (accessVa t row) = some (.sp Config.pkg s.cur.core off) ∧ (s.core s.cur.core).xb.toNat ≤ off) →
      s.hallHit s.cur.core (accessVa t row) row.n true = false →
      s.canonVa s.cur.core (accessVa t row) = r.va → row.n = r.bytes →
      Runs (.rlsn d p o) s (((s.modMe (fun u => { u with rsv := none, visible := true })).write d 0).advance t))

namespace Sys2Proof.Claims

/-- The thread once its reservation is broken, the one it holds and the one that a wake is to bring it (R132, R194). -/
def broken (t : Thread) : Thread :=
  { t with rsv := t.rsv.map (fun r => { r with broken := true })
           replay := t.replay.map (fun x => { x with rsv := x.rsv.map (fun r => { r with broken := true }) }) }

end Sys2Proof.Claims

open Sys2Proof.Claims

/-- R132: a free line is granted to its first requester; the release writes the word that the issuing core's function of the granted word
gives, and no other byte, frees the line, and answers with the old word.
R129, R132, R201: a probe with nothing ahead of it at its bank answers with an echo; the echo of a probe that its thread still waits for
clears the bank's mask bit there;
a reservation held while a requester has waited 64 cycles, or while its page has been moving for 64, is broken, and its thread learns it.
The model's readings in it: log 22, 23. -/
def Obligations.HomeEvents : Prop :=
  ((∀ (s : State) (line : Nat) (m : Msg) (l : List Msg) (f : AtomFn) (dbl : Bool) (x c : Word) (acq rel : Option Scope),
    (s.lineQ line).holder = none → (s.lineQ line).nextAside = none → (s.lineQ line).queue = m :: l → s.moves = [] → Sound s →
    s.eraseHolds line = false → s.looseStuck m = false → s.fencedFrom m.core m.bank = false → m.gran = none → isDev m.pa = false →
    m.op = .atom f dbl x c acq rel →
    let r := atomRun f dbl (s.rawNat m.pa m.bytes) x c
    ∃ s', Runs (.grant line) s s' ∧ (s'.lineQ line).holder = some ⟨m.who, m.tag, false, s.time.toNat⟩ ∧ (s'.lineQ line).queue = l ∧
      s'.rels = s.rels ++ [⟨m, r.1, r.2.1, r.2.2, none⟩] ∧ s'.mem = s.mem) ∧
  (∀ (s : State) (b : Bank) (r : Rel) (f : AtomFn) (dbl : Bool) (x c : Word) (acq rel : Option Scope),
    s.rels.find? (fun y => y.msg.bank == b) = some r → r.msg.op = .atom f dbl x c acq rel → r.msg.gran = none → isDev r.msg.pa = false → Sound s →
    s.looseStuck r.msg = false → s.fencedFrom r.msg.core b = false → r.cds = none →
    ∃ s' a, Runs (.release b) s s' ∧ (s'.lineQ (lineOf r.msg.pa)).holder = none ∧ a ∈ s'.replies ∧ a.tag = r.msg.tag ∧
      a.val = r.val ∧ a.trap = none ∧ Stored s s' r.msg.pa (r.bytes.getD []))) ∧
  (∀ (s : State),
    (∀ b m, s.inbox.find? (fun x => x.bank == b) = some m → m.op = .probe → s.probeClear m = true →
      ∃ s', Runs (.probe b) s s' ∧ s'.echoes = s.echoes ++ [(m.tag, m.who, b)] ∧
        s'.inbox = s.inbox.filter (fun x => x.tag != m.tag) ∧ s'.mem = s.mem) ∧
    (∀ tag who b c i t, s.echoes.find? (fun e => e.1 == tag) = some (tag, who, b) → s.threadAt c i = some t → t.id = who →
      t.probes.any (fun p => p.1 == tag) = true → ∃ s', Runs (.echo tag) s s' ∧ s'.threadAt c i = some { t with
        mask := t.mask.filter (fun x => x != b), probes := t.probes.filter (fun p => p.1 != tag) } ∧ s'.mem = s.mem) ∧
    (∀ line h c i t, let q := s.lineQ line
      q.holder = some h → h.rsv = true → s.threadAt c i = some t → t.id = h.who →
      (q.queue ≠ [] → q.waitFrom + 64 ≤ s.time.toNat →
        ∃ s', Runs (.reservationBreak line) s s' ∧ (s'.lineQ line).holder = none ∧ s'.mem = s.mem ∧
          s'.threadAt c i = some (broken t)) ∧
      (∀ v ∈ s.moves, v.shot = none → leafHas v.oldLeaf v.size line = true → v.at_ + 64 ≤ s.time.toNat →
        ∃ s', Runs (.migrationReservationBreak line) s s' ∧ (s'.lineQ line).holder = none ∧ s'.mem = s.mem ∧
          s'.threadAt c i = some (broken t))))

/-! ## Segments, and control and status registers (R49 to R55, R274, R276) -/

/-- R55, R50: `SEGRD` gives a field of the segment; `SEGNW` narrows one segment: its base rises by the first source, its limit is the second,
a right stays only where the mask keeps it, the segment is dirty, and its descriptor is written to the save block and nowhere else; a
segment that would not be narrower traps `SEGV` with the first source.
The model's readings in it: log 15. -/
def Obligations.SegmentResults : Prop :=
  ∀ (s : State) (t : Thread) (k : Fin 8), let g := t.segs[k]
    (∀ d, Issues s t [] [d] [] →
      Runs (.segrd d k .base) s ((s.write d (g.base.setWidth 64)).advance t) ∧
      Runs (.segrd d k .limit) s ((s.write d (g.limit.setWidth 64)).advance t) ∧
      Runs (.segrd d k .rights) s ((s.write d
        (BitVec.ofNat 64 ((if g.r then 1 else 0) + (if g.w then 2 else 0) + (if g.a then 4 else 0)))).advance t)) ∧
    (∀ x y keep, Issues s t [x, y] [] [] → let a := fst2 s t x; let b := snd2 s t x y
      (a.toNat + b.toNat ≤ g.limit.toNat → Sound s →
        ∃ s' u, Runs (.segnw k x y keep) s s' ∧ s'.me = some u ∧ u.pc = s'.succ t ∧
          u.segs[k] = ⟨g.base + a.setWidth 48, b.setWidth 40, g.r && keep.getLsbD 0, g.w && keep.getLsbD 1, g.a && keep.getLsbD 2⟩ ∧
          (∀ j, j ≠ k → u.segs[j] = t.segs[j]) ∧ u.dirty = t.dirty ||| (1#8 <<< k.val) ∧ RegsBut t u [] ∧ u.pw = t.pw ∧
          Stored s s' (spKey Config.pkg (s.homeOf t) ((t.wsb - 128 + BitVec.ofNat 64 (16 * k.val)).toNat))
            (leBytes 16 ((u.segs[k].base.toNat + u.segs[k].limit.toNat * 2 ^ 48 + (if u.segs[k].r then 2 ^ 88 else 0) +
              (if u.segs[k].w then 2 ^ 89 else 0) + (if u.segs[k].a then 2 ^ 90 else 0))))) ∧
      (g.limit.toNat < a.toNat + b.toNat → Runs (.segnw k x y keep) s (((s.pop x).pop y).userTrap 0x04 a t.pc)))

namespace Sys2Proof.Claims

/-- Table 2-4: the user CSRs with the values they read as. -/
def csrTable (s : State) (t : Thread) : List (BitVec 12 × Word) :=
  let k := s.core s.cur.core
  [ (0x000, t.rnd.setWidth 64), (0x001, t.vl.setWidth 64), (0x002, t.sst.setWidth 64), (0x003, t.pcb.setWidth 64),
    (0x004, t.cds.setWidth 64), (0x008, t.fmtp), (0x009, t.sclp), (0x00A, t.sbud.setWidth 64),
    (0x00B, BitVec.ofNat 64 (s.ctx t.part t.id.ctx.toNat).suse) ] ++
  [ (0x010, t.xcause), (0x011, t.xval), (0x012, t.xpc), (0x013, t.xh), (0x014, t.ovh), (0x018, k.xb), (0x019, t.wsb), (0x01A, t.wsl),
    (0x01B, t.wsp), (0x01C, if k.strict then 1 else 0) ] ++
  (List.range 8).map (fun i => (BitVec.ofNat 12 (0x020 + i), k.cc[Fin.ofNat 8 i].val.setWidth 64)) ++
  [ (0x030, BitVec.ofNat 64 s.cur.slot.val), (0x031, BitVec.ofNat 64 (s.logOf s.cur.core)),
    (0x032, BitVec.ofNat 64 (s.cur.core % 512 / 4)), (0x033, BitVec.ofNat 64 (s.cur.core / 512)),
    (0x034, BitVec.ofNat 64 Config.pkg), (0x035, t.id.hcore.setWidth 64), (0x036, k.itag.setWidth 64), (0x038, s.time) ]

/-- The user CSRs of a thread that user code writes, with their widths: where their bits lie. -/
def csrFields : List (BitVec 12 × Nat × (Thread → Nat)) :=
  [ (0x000, 3, fun t => t.rnd.toNat), (0x002, 9, fun t => t.sst.toNat), (0x003, 3, fun t => t.pcb.toNat),
    (0x004, 32, fun t => t.cds.toNat), (0x010, 64, fun t => t.xcause.toNat), (0x011, 64, fun t => t.xval.toNat),
    (0x012, 64, fun t => t.xpc.toNat), (0x013, 64, fun t => t.xh.toNat), (0x014, 64, fun t => t.ovh.toNat) ]

/-- User CSRs that user code does not write. -/
def csrFixed : List (BitVec 12) :=
  [0x008, 0x009, 0x00A, 0x00B, 0x018, 0x019, 0x01A, 0x01B, 0x01C, 0x030, 0x031, 0x032, 0x033, 0x034, 0x035, 0x036, 0x038]

/-- The three forms that write a CSR, with the value that each makes of the old one and its source (R54). -/
def csrForms : List ((Operand → Operand → BitVec 12 → Instr) × (Word → Word → Word)) :=
  [(.csrw, fun _ x => x), (.csrset, fun old x => old ||| x), (.csrclr, fun old x => old &&& ~~~x)]

end Sys2Proof.Claims

/-- R51, R54, Table 2-4: `CSRR` gives each user CSR its value; a number that names none traps `ILLEGAL`; a supervisor number in user mode takes
the supervisor cause `PRIV`.
R54, R233: `CSRW`, `CSRSET` and `CSRCLR` give d the old value and the register the new one in the fields it has; `vl` takes at most 1,024;
a rounding mode above 4 traps `ILLEGAL`; a counter with operations outstanding keeps its value and CCWR is set; a register that user code
does not write stays. -/
def Obligations.CsrResults : Prop :=
  (∀ (s : State) (t : Thread) (d : Operand) (n : BitVec 12), Issues s t [] [d] [] → t.badCsr = [] →
    (∀ v, (n, v) ∈ csrTable s t → Runs (.csrr d n) s ((s.write d v).advance t)) ∧
    (n ∉ (csrTable s t).map (·.1) → ¬(0x800 ≤ n.toNat ∧ n.toNat < 0xC00) → Runs (.csrr d n) s (s.userTrap 0x01 (s.encHere t) t.pc)) ∧
    (0x800 ≤ n.toNat → n.toNat < 0xC00 → t.mode = false → Runs (.csrr d n) s (s.supTrap 0x41 (s.encHere t) t.pc))) ∧
  (∀ form ∈ csrForms, ∀ (s : State) (t : Thread) (d x : Operand), Issues s t [x] [d] [] → t.badCsr = [] → let v := fst2 s t x
    (∀ f ∈ csrFields, ∀ old, (f.1, old) ∈ csrTable s t → (f.1 = 0 → (form.2 old v).toNat % 8 ≤ 4) →
      ∃ s' u, Runs (form.1 d x f.1) s s' ∧ s'.me = some u ∧ f.2.2 u = (form.2 old v).toNat % 2 ^ f.2.1 ∧ u.pc = s.succ t ∧
        (∀ g ∈ csrFields, g.1 ≠ f.1 → g.2.2 u = g.2.2 t) ∧ (∀ r ∈ regsOf d, u.cell r = ⟨old, true, none, false⟩) ∧
        RegsBut t u (regsOf d) ∧ s'.mem = s.mem) ∧
    (4 < (form.2 (t.rnd.setWidth 64) v).toNat % 8 →
      Runs (form.1 d x 0) s ((s.pop x).userTrap 0x01 ((s.pop x).encHere t) t.pc)) ∧
    (∃ s' u, Runs (form.1 d x 1) s s' ∧ s'.me = some u ∧ u.vl.toNat = min (form.2 (t.vl.setWidth 64) v).toNat 1024) ∧
    (∀ k : Fin 8, let c := (s.core s.cur.core).cc[k]
      ∃ s' u, Runs (form.1 d x (BitVec.ofNat 12 (0x020 + k.val))) s s' ∧ s'.me = some u ∧
        (s'.core s.cur.core).cc[k].val = (if c.out = 0 then (form.2 (c.val.setWidth 64) v).setWidth 16 else c.val) ∧
        u.sst = (if c.out = 0 then t.sst else t.sst ||| 0x100)) ∧
    (∀ n ∈ csrFixed, ∀ old, (n, old) ∈ csrTable s t → Runs (form.1 d x n) s (((s.pop x).write d old).advance t)))

namespace Sys2Proof.Claims

/-- Table 18-3: the supervisor CSRs with the values they read as. -/
def supTable (s : State) (t : Thread) : List (BitVec 12 × Word) :=
  [ (0x800, BitVec.ofNat 64 ((if t.mode then 1 else 0) + (if t.pmode then 2 else 0) + (if t.hdlr then 4 else 0))), (0x801, t.scause),
    (0x802, t.sval), (0x803, t.spc), (0x804, t.sh), (0x805, t.sscr), (0x808, t.id.ctx.setWidth 64),
    (0x809, BitVec.ofNat 64 t.part), (0x80A, BitVec.ofNat 64 (entGen (s.centry t.part t.id.ctx.toNat))),
    (0x810, (s.partn t.part).ctab), (0x811, (s.partn t.part).evq), (0x818, (s.core s.cur.core).csave),
    (0x820, (s.ctx t.part t.id.ctx.toNat).ptroot) ]

/-- The CSRs of a thread that `SCSRW` writes and user code does not. -/
def supFields : List (BitVec 12 × (Thread → Word)) :=
  [ (0x801, fun t => t.scause), (0x802, fun t => t.sval), (0x803, fun t => t.spc), (0x804, fun t => t.sh), (0x805, fun t => t.sscr),
    (0x008, fun t => t.fmtp), (0x009, fun t => t.sclp), (0x019, fun t => t.wsb), (0x01A, fun t => t.wsl) ]

/-- A supervisor's write of a CSR of this number is refused, or waits: a rounding mode that does not exist, `ctab` or `evq` without CFG, and
`ptroot`, whose entries the ports drop first. -/
def scsrwHeld (s : State) (t : Thread) (n : BitVec 12) (v : Word) : Prop :=
  n = 0x820 ∨ (n = 0 ∧ 4 < v.toNat % 8) ∨ ((n = 0x810 ∨ n = 0x811) ∧ (s.rights 2 (coreDie s.cur.core) t.part).getLsbD 4 = false)

end Sys2Proof.Claims

/-- R274, R276, Table 18-3: in supervisor mode `SCSRR` reads every supervisor and user CSR, and `SCSRW` gives d the old value and goes on, having
written what the register has of its source: each supervisor register, `fmtp`, `sclp`, `sbud`, `xb`, the window-stack bounds, and what user code
writes too, a counter with operations outstanding keeping its value with CCWR;
of `sstat` only PMODE is written, so that the mode stays; `ctab` and `evq` need CFG and otherwise take `ACCESS` with the number; these two and
`csave` take the 52 bits of a physical address, by the model's choice (log 16); a rounding mode above 4 traps `ILLEGAL`.
R278, R307: of `ptroot` bits 51:12 are written; the drained write sends the invalidation of the context's entries to the ports and waits, and
goes on once they have acknowledged it.
The model's readings in it: log 16, 20. -/
def Obligations.SupervisorCsrResults : Prop :=
  ∀ (s : State) (t : Thread) (d x : Operand), t.mode = true → t.badCsr = [] →
    (∀ n v, Issues s t [] [d] [] → (n, v) ∈ supTable s t ++ csrTable s t → Runs (.scsrr d n) s ((s.write d v).advance t)) ∧
    (Issues s t [x] [d] [] → let v := fst2 s t x
      (∀ f ∈ supFields, ∃ s' u, Runs (.scsrw d x f.1) s s' ∧ s'.me = some u ∧ f.2 u = v ∧ u.mode = true ∧ u.pc = s.succ t ∧
        (∀ g ∈ supFields, g.1 ≠ f.1 → g.2 u = g.2 t) ∧ RegsBut t u (regsOf d) ∧ s'.mem = s.mem) ∧
      (∀ n old, (n, old) ∈ supTable s t ++ csrTable s t → ¬scsrwHeld s t n v → ∃ s' u, Runs (.scsrw d x n) s s' ∧ s'.me = some u ∧
        (∀ r ∈ regsOf d, u.cell r = ⟨old, true, none, false⟩) ∧ RegsBut t u (regsOf d) ∧ u.pc = s.succ t ∧ s'.mem = s.mem) ∧
      (∀ f ∈ csrFields, (f.1 = 0 → v.toNat % 8 ≤ 4) → ∃ s' u, Runs (.scsrw d x f.1) s s' ∧ s'.me = some u ∧
        f.2.2 u = v.toNat % 2 ^ f.2.1) ∧
      (4 < v.toNat % 8 → Runs (.scsrw d x 0) s ((s.pop x).userTrap 0x01 ((s.pop x).encHere t) t.pc)) ∧
      (∃ s' u, Runs (.scsrw d x 1) s s' ∧ s'.me = some u ∧ u.vl.toNat = min v.toNat 1024) ∧
      (∃ s' u, Runs (.scsrw d x 0x00A) s s' ∧ s'.me = some u ∧ u.sbud = v.setWidth 32) ∧
      (∃ s', Runs (.scsrw d x 0x818) s s' ∧ (s'.core s.cur.core).csave = v &&& 0x000FFFFFFFFFFFFF) ∧
      (∀ k : Fin 8, let c := (s.core s.cur.core).cc[k]
        ∃ s' u, Runs (.scsrw d x (BitVec.ofNat 12 (0x020 + k.val))) s s' ∧ s'.me = some u ∧
          (s'.core s.cur.core).cc[k].val = (if c.out = 0 then v.setWidth 16 else c.val) ∧ u.sst = (if c.out = 0 then t.sst else t.sst ||| 0x100)) ∧
      (∃ s' u, Runs (.scsrw d x 0x800) s s' ∧ s'.me = some u ∧ u.mode = t.mode ∧ u.hdlr = t.hdlr ∧ u.pmode = v.getLsbD 1) ∧
      (∃ s', Runs (.scsrw d x 0x018) s s' ∧ (s'.core s.cur.core).xb = v) ∧
      ((∀ c, t.carried = some c → c.1 ≠ 9) → t.drained s.cur.core .pk = true → t.oar = none → ∃ s' u q, Runs (.scsrw d x 0x820) s s' ∧
        (s'.ctx t.part t.id.ctx.toNat).ptroot = v &&& 0x000FFFFFFFFFF000 ∧ s'.me = some u ∧ u.status = .parked (.remote q.tag) ∧ u.pc = t.pc ∧
        (∀ r ∈ regsOf d, u.cell r = ⟨(s.ctx t.part t.id.ctx.toNat).ptroot, true, none, false⟩) ∧
        RegsBut t u (regsOf d) ∧ s'.invals = s.invals ++ [q] ∧ q.ctx = t.id.ctx.toNat ∧ q.part = t.part ∧ q.page = none ∧ q.whole = false ∧ s'.mem = s.mem) ∧
      ((s.rights 2 (coreDie s.cur.core) t.part).getLsbD 4 = true →
        (∃ s', Runs (.scsrw d x 0x810) s s' ∧ (s'.partn t.part).ctab = v &&& 0x000FFFFFFFFFFFFF) ∧
        ∃ s', Runs (.scsrw d x 0x811) s s' ∧ (s'.partn t.part).evq = v &&& 0x000FFFFFFFFFFFFF) ∧
      ((s.rights 2 (coreDie s.cur.core) t.part).getLsbD 4 = false → ∀ n ∈ [(0x810 : BitVec 12), 0x811],
        Runs (.scsrw d x n) s ((s.pop x).supTrap 0x45 (n.setWidth 64) t.pc))) ∧
    (∀ n, Issues s t [] [] [] → t.carried = some (9, n) →
      Runs (.scsrw d x 0x820) s ((s.modMe (fun u => { u with carried := none })).advance t))

/-! ## Engine instructions (R202 to R236) -/

namespace Sys2Proof.Claims

/-- What an engine instruction puts into its engine's queue, as its rule and Tables 7-8, 10-2, 11-3 and 11-4 give it: engine, operands,
wait bit and counter, job, vector length, streams, pointers with their post-incremented values, the pointer that is pending until the
operation knows its length, the count register with the pointers it moves, destination ranges besides the streams, further entries of
the Hall Pass table, the attendance word, and what the form must satisfy to be legal. -/
structure EngRow where
  eng    : Eng
  srcs   : List Operand
  dsts   : List Operand
  ec     : ECtl
  job    : Job
  vl     : Nat
  xs     : List Stream
  posts  : List (Fin 8 × Word)
  late   : Option (Fin 8)
  count  : Option (Fin 16)
  scaled : List (Fin 8 × Word × Nat)
  extra  : List Range
  more   : Nat
  att    : Option Nat
  ok     : Prop

/-- The device address that pointer p names (R203). -/
def at_ (t : Thread) (p : Fin 8) : Nat := t.segs[p].base.toNat + (t.av p).toNat

/-- A stream of n bytes at a pointer. -/
def streamAt (t : Thread) (p : Fin 8) (n align : Nat) (dst : Bool) (reach : Reach) : Stream := ⟨p, t.av p, n, align, dst, reach⟩

/-- A stream's pointer moves on by n bytes where its post-increment bit is set (R204). -/
def moved (t : Thread) (x : Strm) (n : Nat) : List (Fin 8 × Word) := if x.inc then [(x.p, t.av x.p + BitVec.ofNat 64 n)] else []

/-- A row with no streams and nothing but its job. -/
def plainRow (eng : Eng) (ec : ECtl) (job : Job) (vl : Nat) : EngRow :=
  { eng := eng, srcs := [], dsts := [], ec := ec, job := job, vl := vl, xs := [], posts := [], late := none, count := none
    scaled := [], extra := [], more := 0, att := none, ok := True }

/-- Bytes of an element (Table 7-8). -/
def sizeOf_ : VFmt → Nat
  | .f32 | .i32 => 4
  | .f16 | .bf16 | .i16 => 2
  | .i8 | .e4 | .e5 => 1

/-- An elementwise operation from format sf to format f over vl elements (R204, R206). -/
def elemRow (t : Thread) (op : ElemOp) (f sf : VFmt) (e : ECtl) (d : Strm) (xs : List VSrc) : EngRow :=
  let n := t.vl.toNat
  { plainRow .vec e (.elem op f (at_ t d.p) (xs.map (fun x => match x with
      | .strm x => ESrc.strm (at_ t x.p) sf
      | .scal g => ESrc.scal (t.gv g)))) n with
    srcs := xs.map (fun x => match x with | .strm x => Operand.a x.p | .scal g => Operand.g g) ++ [.a d.p]
    xs := xs.filterMap (fun x => match x with
      | .strm x => some (streamAt t x.p (n * sizeOf_ sf) (sizeOf_ sf) false .own)
      | .scal _ => none) ++ [streamAt t d.p (n * sizeOf_ f) (sizeOf_ f) true .own]
    posts := xs.flatMap (fun x => match x with | .strm x => moved t x (n * sizeOf_ sf) | .scal _ => []) ++
      moved t d (n * sizeOf_ f) }

/-- A fold of vl elements into one (R210). -/
def foldRow (t : Thread) (mx : Bool) (f : VFmt) (e : ECtl) (d x : Strm) : EngRow :=
  let n := t.vl.toNat
  let b := sizeOf_ f
  { plainRow .vec e (.fold mx f (at_ t d.p) (at_ t x.p)) n with
    srcs := [.a x.p, .a d.p], xs := [streamAt t x.p (n * b) b false .own, streamAt t d.p b b true .own]
    posts := moved t x (n * b) ++ moved t d b }

/-- The attendance stream of a copy, 16 bytes (R85). -/
def attRow (t : Thread) (att : Option (Fin 8)) : List Stream := (att.map (fun p => streamAt t p 16 16 false .att)).toList

/-- A copy of k bytes read and m written, with the amounts its pointers move by (R227 to R229). -/
def copyRow (s : State) (t : Thread) (e : ECtl) (d x : Strm) (n : Fin 16) (att : Option (Fin 8)) (job : Job) (k m : Nat) (reach : Reach)
    (px pd : Nat) : EngRow :=
  { plainRow .copy e job 0 with
    srcs := [.a x.p, .g n] ++ att.toList.map Operand.a ++ [.a d.p]
    xs := [streamAt t x.p k 1 false .any] ++ attRow t att ++ [streamAt t d.p m 1 true reach]
    posts := moved t x px ++ moved t d pd, att := s.attKey t att }

/-- An operation on an accumulator with one stream of n bytes (Table 11-3). -/
def accRow (t : Thread) (e : ECtl) (job : Job) (x : Strm) (n align : Nat) (dst : Bool) : EngRow :=
  { plainRow .mat e job 0 with srcs := [.a x.p], xs := [streamAt t x.p n align dst .own], posts := moved t x n }

/-- Two ranges of n bytes that share a byte. -/
def overlap (s : State) (t : Thread) (n : Nat) (p q : Fin 8) : Prop :=
  let a := s.canonVa s.cur.core (at_ t p)
  let b := s.canonVa s.cur.core (at_ t q)
  a < b + n ∧ b < a + n

/-- The row of each engine instruction; nothing for any other. -/
def engRow (s : State) (t : Thread) : Instr → Option EngRow
  | .vadd f e d x y => some (elemRow t .add f f e d [.strm x, y])
  | .vsub f e d x y => some (elemRow t .sub f f e d [.strm x, y])
  | .vmul f e d x y => some (elemRow t .mul f f e d [.strm x, y])
  | .vfma f e d x y z => some (elemRow t .fma f f e d [.strm x, y, .strm z])
  | .vmin f e d x y => some (elemRow t .min f f e d [.strm x, y])
  | .vmax f e d x y => some (elemRow t .max f f e d [.strm x, y])
  | .vabs f e d x => some (elemRow t .abs f f e d [.strm x])
  | .vneg f e d x => some (elemRow t .neg f f e d [.strm x])
  | .vdiv f e d x y => some (elemRow t .div f f e d [.strm x, y])
  | .vsqrt f e d x => some (elemRow t .sqrt f f e d [.strm x])
  | .vrsq f e d x => some (elemRow t .rsq f f e d [.strm x])
  | .vexp2 f e d x => some (elemRow t .exp2 f f e d [.strm x])
  | .vand f e d x y => some (elemRow t .and f f e d [.strm x, y])
  | .vor f e d x y => some (elemRow t .or f f e d [.strm x, y])
  | .vxor f e d x y => some (elemRow t .xor f f e d [.strm x, y])
  | .vshl f e d x y => some (elemRow t .shl f f e d [.strm x, y])
  | .vshr f e d x y => some (elemRow t .shr f f e d [.strm x, y])
  | .vsra f e d x y => some (elemRow t .sra f f e d [.strm x, y])
  | .vceq f e d x y => some (elemRow t .ceq f f e d [.strm x, y])
  | .vclt f e d x y => some (elemRow t .clt f f e d [.strm x, y])
  | .vsel f e d x y z => some (elemRow t .sel f f e d [.strm x, y, .strm z])
  | .viota f e d => some (elemRow t .iota f f e d [])
  | .vset f e d y => some (elemRow t .mov f f e d [.scal y])
  | .vmov f e d x => some (elemRow t .mov f f e d [.strm x])
  | .vcvt f e d x y => ([VFmt.f32, .f16, .bf16, .i32, .i16, .i8, .e4, .e5][(t.gv y).toNat]?).map (fun sf =>
      let r := elemRow t (.cvt sf) f sf e d [.strm x]
      { r with srcs := .g y :: r.srcs })
  | .vrsum f e d x => some (foldRow t false f e d x)
  | .vrmax f e d x => some (foldRow t true f e d x)
  | .vpack f e d x y =>
    let v := t.gv y
    let rows := (v.extractLsb' 5 5).toNat + 1
    let cols := (v.extractLsb' 10 5).toNat + 1
    (([some VFmt.f32, some .f16, some .bf16, none, none, none, some .e4, some .e5][(v.extractLsb' 0 5).toNat]?).join).map (fun src =>
      let n := rows * cols * sizeOf_ src
      { plainRow .vec e (.pack f src rows cols (at_ t d.p) (at_ t x.p)) t.vl.toNat with
        srcs := [.a x.p, .g y, .a d.p]
        xs := [streamAt t x.p n (sizeOf_ src) false .own, streamAt t d.p (t0Len (if f = .e4 then 0 else 1) rows cols) 8 true .own]
        posts := moved t x n, late := if d.inc then some d.p else none, ok := v.toNat < 2 ^ 15 })
  | .vunpk f e d x =>
    let n := t.vl.toNat * sizeOf_ f
    some { plainRow .vec e (.unpk f (at_ t d.p) (at_ t x.p) x.p (t.av x.p)) t.vl.toNat with
      srcs := [.a x.p, .a d.p], xs := [streamAt t x.p 8 8 false .own, streamAt t d.p n (sizeOf_ f) true .own]
      posts := moved t d n, late := if x.inc && !(d.inc && d.p == x.p) then some x.p else none }
  | .vtrn f e d x =>
    let n := 1024 * sizeOf_ f
    some { plainRow .vec e (.trn f (at_ t d.p) (at_ t x.p)) 1024 with
      srcs := [.a x.p, .a d.p], xs := [streamAt t x.p n (sizeOf_ f) false .own, streamAt t d.p n (sizeOf_ f) true .own]
      posts := moved t x n ++ moved t d n, ok := ¬overlap s t n x.p d.p }
  | .vcmpr f e d x y n =>
    let b := sizeOf_ f
    let k := t.vl.toNat * b
    some { plainRow .vec e (.cmpr f (at_ t d.p) (at_ t x.p) (at_ t y.p)) t.vl.toNat with
      srcs := [.a x.p, .a y.p, .a d.p], dsts := [.g n]
      xs := [streamAt t x.p k b false .own, streamAt t y.p k b false .own, streamAt t d.p k b true .own]
      posts := moved t x k ++ moved t y k, count := some n, scaled := if d.inc then [(d.p, t.av d.p, b)] else []
      ok := (overlap s t k d.p x.p → s.canonVa s.cur.core (at_ t d.p) = s.canonVa s.cur.core (at_ t x.p)) ∧
        ¬overlap s t k d.p y.p }
  | .gath f e d x y =>
    let b := sizeOf_ f
    let k := t.vl.toNat
    some { plainRow .vec e (.gath f false (at_ t d.p) x (t.av x) (at_ t y.p)) k with
      srcs := [.a x, .a y.p, .a d.p], xs := [streamAt t y.p (k * 4) 4 false .own, streamAt t d.p (k * b) b true .own]
      posts := moved t y (k * 4) ++ moved t d (k * b), more := 1 }
  | .gathf f e d x y n =>
    let b := sizeOf_ f
    let k := t.vl.toNat
    some { plainRow .vec e (.gath f true (at_ t d.p) x (t.av x) (at_ t y.p)) k with
      srcs := [.a x, .a y.p, .a d.p], dsts := [.g n]
      xs := [streamAt t y.p (k * 4) 4 false .own, streamAt t d.p (k * b) b true .own]
      count := some n, more := 1
      scaled := (if y.inc then [(y.p, t.av y.p, 4)] else []) ++ (if d.inc then [(d.p, t.av d.p, b)] else []) }
  | .scat f e d x y =>
    let b := sizeOf_ f
    let k := t.vl.toNat
    some { plainRow .vec e (.scat f d (t.av d) (at_ t x.p) (at_ t y.p)) k with
      srcs := [.a x.p, .a y.p, .a d], xs := [streamAt t x.p (k * b) b false .own, streamAt t y.p (k * 4) 4 false .own]
      posts := moved t x (k * b) ++ moved t y (k * 4), more := 1 }
  | .mma k x y o =>
    let n := match o.fmt with | .c4 | .c5 => 4096 | .f16 | .bf16 => 2048 | .i8 => 1024
    let align := match o.fmt with | .c4 | .c5 => 8 | _ => 64
    some { plainRow .mat o.ec (.mma k (at_ t x) (at_ t y) o t.sclp.toNat) 0 with
      srcs := [.a x, .a y], xs := [streamAt t x n align false .quad, streamAt t y n align false .quad]
      ok := o.fmt = .i8 → o.eco = false ∧ o.scale = 0 }
  | .mzero k e => some (plainRow .mat e (.mzero k) 0)
  | .mlda k x _ e => some (accRow t e (.mlda k (at_ t x.p)) x 4096 4 false)
  | .msta k x f int e => some { accRow t e (.msta k (at_ t x.p) f int) x (1024 * sizeOf_ f) 4 true with
      ok := int = true → f ∈ [VFmt.i32, .i16, .i8] }
  | .mstc k x e5 e => some { accRow t e (.mstc k (at_ t x.p) e5) x 1064 8 true with
      posts := [], late := if x.inc then some x.p else none }
  | .madd k src int e => some (plainRow .mat e (.madd k src int) 0)
  | .mscal k x e => some (accRow t e (.mscal k (at_ t x.p)) x 128 4 false)
  | .mrssq k x e => some (accRow t e (.mrssq k (at_ t x.p)) x 128 4 true)
  | .cpy d x n att e =>
    let k := (t.gv n).toNat
    some { copyRow s t e d x n att (.cpy (at_ t d.p) (at_ t x.p) k) k k .any k k with ok := k ≤ 2 ^ 24 }
  | .cpy2 d x n att e =>
    let v := t.gv n
    let rows := (v.extractLsb' 48 16).toNat
    let w := (v.extractLsb' 32 16).toNat
    let sx := (v.extractLsb' 16 16).toNat
    let sd := (v.extractLsb' 0 16).toNat
    let span := fun (stride : Nat) => if rows = 0 || w = 0 then 0 else (rows - 1) * stride + w
    some (copyRow s t e d x n att (.cpy2 (at_ t d.p) (at_ t x.p) v) (span sx) (span sd) .any (rows * sx) (rows * sd))
  | .cpym d x n att e m =>
    let k := (t.gv n).toNat
    let off := match s.spaceOf s.cur.core (at_ t d.p) with | some (.sp _ _ o) => o | _ => 0
    let cores := ((List.range 4).filter (fun i => m.getLsbD i && (s.logOf? (s.cur.core / 4 * 4 + i)).isSome)).map
      (fun i => s.cur.core / 4 * 4 + i)
    some { copyRow s t e d x n att (.cpym off (at_ t x.p) (if cores.isEmpty then 0 else k) cores) k k .quadSp k k with
      ok := m ≠ 0 ∧ k ≤ 2 ^ 24, extra := if k = 0 then [] else cores.map (fun c => ⟨s.aperture c off, k⟩) }
  | .depo x y e =>
    let n := (fst2 s t x).toNat
    some { plainRow .copy e (.depo
        { tag := 0, who := none, lcore := n % 4096, slot := Fin.ofNat 8 (n / 2 ^ 12 % 8), code := n / 2 ^ 15 % 32
          val := snd2 s t x y, src := none, part := t.part, ctx := t.id.ctx.toNat }) 0 with
      srcs := [x, y], ok := n < 2 ^ 20 ∧ n / 2 ^ 15 % 32 ≤ 23 ∧ n % 4096 ≤ 3967 }
  | _ => none

/-- The source and destination ranges that its streams register (R101). -/
def rowSrcs (s : State) (t : Thread) (r : EngRow) : List Range := s.streamRanges t r.xs false
def rowDsts (s : State) (t : Thread) (r : EngRow) : List Range := s.streamRanges t r.xs true ++ r.extra

/-- Its operands are ready, its form is legal, the thread may act, and nothing ordered before it is outstanding (R127, R131). -/
def MayQueue (s : State) (t : Thread) (r : EngRow) : Prop :=
  Issues s t r.srcs r.dsts [] ∧ NotSpark t ∧ t.oar = none ∧ t.rlx = [] ∧ r.ok

end Sys2Proof.Claims

open Sys2Proof.Claims

/-- R202 to R204, R206 to R221, R223 to R232, Tables 10-2, 11-3 and 11-4: an engine instruction whose streams pass their checks, that meets
no range of another engine, and for which the Hall Pass table, the queue and the counter have room, joins its engine's queue with its
job, its vector length and rounding mode and the segments of its thread; its counter and its outstanding operations rise by one. Without
the wait bit the thread goes on and its pointers have moved; with it the thread waits for the operation, which keeps the pointers'
values. A pointer whose step depends on a coded tile is pending. No other register, predicate or flag and no memory changes.
The model's readings in it: log 36, 41, 42. -/
def Obligations.EngineInstructionsIssue : Prop :=
  ∀ (i : Instr) (s : State) (t : Thread) (r : EngRow), engRow s t i = some r → MayQueue s t r →
    let k := s.core s.cur.core
    s.streamFault t r.xs = none → k.engConflict r.eng (rowSrcs s t r) (rowDsts s t r) = false →
    k.hallUse + (rowSrcs s t r).length + (rowDsts s t r).length + (if r.vl = 0 then 0 else r.more) ≤ 16 →
    (k.engine r.eng).queue.length < 2 →
    k.cc[r.ec.cnt.toFin].val ≠ 65535 →
    ∃ s' u o, Runs i s s' ∧ s'.me = some u ∧ ((s'.core s.cur.core).engine r.eng).queue = (k.engine r.eng).queue ++ [o] ∧
      (o.who = t.id ∧ o.job = r.job ∧ o.vl = r.vl ∧ o.rnd = t.rnd ∧ o.segs = t.segs ∧ o.pc = t.pc ∧ o.cnt = some r.ec.cnt ∧
        o.wait = r.ec.wait ∧ o.srcs = rowSrcs s t r ∧ o.dsts = rowDsts s t r ∧ o.att = r.att ∧ o.count = r.count ∧
        o.scaled = r.scaled ∧ o.started = false ∧ o.outs = if r.ec.wait then r.posts.map (fun p => (.a p.1, p.2)) else []) ∧
      (s'.core s.cur.core).cc[r.ec.cnt.toFin] = ⟨k.cc[r.ec.cnt.toFin].val + 1, k.cc[r.ec.cnt.toFin].out + 1⟩ ∧
      u.pc = s.succ t ∧ u.status = (if r.ec.wait then Status.engineWait o.tag else .ready) ∧ u.engOps = t.engOps ++ [o.tag] ∧
      u.visible = true ∧
      (∀ p v, r.ec.wait = false → r.late ≠ some p → (r.posts.filter (fun x => x.1 == p)).getLast? = some (p, v) →
        u.cell (.a p) = .of v) ∧
      (∀ p, r.late = some p → (u.cell (.a p)).full = false ∧ (u.cell (.a p)).pend = some o.tag) ∧
      RegsBut t u (((if r.ec.wait then [] else r.posts.map (·.1)) ++ r.late.toList).map RegName.a) ∧ u.pw = t.pw ∧ u.sst = t.sst ∧
      s'.mem = s.mem

namespace Sys2Proof.Claims

/-- The cause with which the place of a stream's range is refused: it must lie in one row of Table 4-1, and in global memory or the own scratchpad,
an operand of `MMA` in a scratchpad of the quad, an attendance word in a scratchpad of the package, and the destination of `CPYM` in one of the
quad (R204, R85, R224, R229). -/
def placeCause (s : State) (va : Nat) (x : Stream) : Option (BitVec 8) :=
  let core := s.cur.core
  match x.reach, s.rangeSpace core va x.n with
  | .quad, none | .quad, some .glob => some 0x10
  | _, none => some 0x04
  | .own, some .glob | .any, some .glob => none
  | .quadSp, some .glob | .att, some .glob => some 0x04
  | .any, some (.sp _ _ _) => none
  | .own, some (.sp m c _) => if m = Config.pkg ∧ c = core then none else some 0x0F
  | .quad, some (.sp m c _) => if m = Config.pkg ∧ c / 4 = core / 4 then none else some 0x10
  | .quadSp, some (.sp m c _) => if m = Config.pkg ∧ c / 4 = core / 4 then none else some 0x04
  | .att, some (.sp m _ _) => if m = Config.pkg then none else some 0x04

/-- A stream of a vector or matrix instruction reaches below `xb` of its scratchpad (R204, R224). -/
def underXb (s : State) (va : Nat) (x : Stream) : Prop :=
  (x.reach = .own ∨ x.reach = .quad) ∧ ∃ m c o, s.spaceOf s.cur.core va = some (.sp m c o) ∧ o < (s.core c).xb.toNat

end Sys2Proof.Claims

open Sys2Proof.Claims

/-- R204, R85, R101, R221, R224, R229: the stream checks of an engine instruction in their order, each for every stream with bytes before the
next: its segment (`SEGV`), an attendance word for its bounds alone; its alignment (`MISALIGN`); its place (`SEGV` outside the map, `SPLIT` in the
scratchpad of another core, `MMAREACH` for an operand of `MMA`); and the execute-only bound (`EXECONLY`); each trap has that stream's pointer
offset. A conflict with a range of another engine, a full queue or a counter at 65,535 parks it with no effect.
The model's readings in it: log 35, 41, 42. -/
def Obligations.EngineStreamChecks : Prop :=
  ∀ (i : Instr) (s : State) (t : Thread) (r : EngRow), engRow s t i = some r → MayQueue s t r → (∀ x y e, i ≠ .depo x y e) →
    let k := s.core s.cur.core
    let live := r.xs.filter (fun x => x.n != 0)
    let va := fun (x : Stream) => t.segs[x.p].base.toNat + x.off.toNat
    let need := fun (x : Stream) => if x.reach = .att then Need.mk false false false else Need.mk (!x.dst) x.dst false
    let granted := fun (x : Stream) => (t.segs[x.p]).grants x.off.toNat x.n (need x)
    let aligned := fun (x : Stream) => va x % x.align == 0
    let traps := fun (c : BitVec 8) (x : Stream) => Runs i s (s.userTrap c x.off t.pc)
    (∀ x, live.find? (fun x => !granted x) = some x → traps 0x04 x) ∧
    (live.all granted = true → ∀ x, live.find? (fun x => !aligned x) = some x → traps 0x07 x) ∧
    (live.all granted = true → live.all aligned = true → ∀ x c, live.find? (fun x => (placeCause s (va x) x).isSome) = some x →
      placeCause s (va x) x = some c → traps c x) ∧
    (live.all granted = true → live.all aligned = true → live.all (fun x => (placeCause s (va x) x).isNone) = true →
      ∀ a x b, live = a ++ x :: b → underXb s (va x) x → (∀ y ∈ a, ¬underXb s (va y) y) → traps 0x05 x) ∧
    (s.streamFault t r.xs = none →
      (k.engConflict r.eng (rowSrcs s t r) (rowDsts s t r) = true → Runs i s (s.park .issue)) ∧
      (k.engConflict r.eng (rowSrcs s t r) (rowDsts s t r) = false →
        k.hallUse + (rowSrcs s t r).length + (rowDsts s t r).length + (if r.vl = 0 then 0 else r.more) ≤ 16 →
        (2 ≤ (k.engine r.eng).queue.length → Runs i s (s.park .issue)) ∧
        ((k.engine r.eng).queue.length < 2 → k.cc[r.ec.cnt.toFin].val = 65535 → Runs i s (s.park (.counter r.ec.cnt)))))

/-- R212, R233 to R236: `VLEN` sets vl to its source, at most 1,024, and gives it; with operations of the thread outstanding `CCINC` leaves a
marker on them and raises its counter with its outstanding operations, and `EFENCE` waits in ENGINE-WAIT; with none both only go on;
`WAITLT` goes on below its threshold, parks otherwise, and traps `ILLEGAL` for a threshold of 0.
The model's readings in it: log 43. -/
def Obligations.EngineControlResults : Prop :=
  ∀ (s : State) (t : Thread),
    (∀ d x, Issues s t [x] [d] [] → let n := min (fst2 s t x).toNat 1024
      Runs (.vlen d x) s ((((s.pop x).modMe (fun u => { u with vl := BitVec.ofNat 11 n })).write d (BitVec.ofNat 64 n)).advance t)) ∧
    (Issues s t [] [] [] →
      (t.engOps = [] → Runs .efence s (s.advance t) ∧ ∀ c, Runs (.ccinc c) s (s.advance t)) ∧
      (t.engOps ≠ [] → ∃ s' u w, Runs .efence s s' ∧ s'.me = some u ∧ u.status = .engineWait w ∧ u.pc = s.succ t ∧ RegsBut t u [] ∧
        s'.mem = s.mem) ∧
      (∀ c : BitVec 3, let k := (s.core s.cur.core).cc[c.toFin]
        t.engOps ≠ [] → t.markers.length < 4 → k.val ≠ 65535 →
        ∃ s' u, Runs (.ccinc c) s s' ∧ s'.me = some u ∧ u.markers = t.markers ++ [(s.cur.core, c, t.engOps)] ∧ u.pc = s.succ t ∧
          (s'.core s.cur.core).cc[c.toFin] = ⟨k.val + 1, k.out + 1⟩ ∧ RegsBut t u [] ∧ s'.mem = s.mem) ∧
      (∀ (c : BitVec 3) (n : BitVec 6), let v := (s.core s.cur.core).cc[c.toFin].val.toNat
        (n = 0 → Runs (.waitlt c n) s (s.userTrap 0x01 (s.encHere t) t.pc)) ∧
        (v < n.toNat → Runs (.waitlt c n) s (s.advance t)) ∧
        (n ≠ 0 → n.toNat ≤ v → Runs (.waitlt c n) s (s.park (.counter c)))))

namespace Sys2Proof.Claims

/-- A reduction with its function (R196). -/
def redRows : List ((BitVec 3 → Fin 8 → Operand → Bool → BitVec 16 → Instr) × (Thread → AtomFn)) :=
  [(.redadd, fun _ => .add), (.redmin, fun _ => .min), (.redmax, fun _ => .max), (.redfadd, fun t => .fadd t.rnd)]

/-- n bytes at a pointer offset o may be accessed: the segment grants them, they are aligned and lie in global memory, or in the own
scratchpad at or above `xb`, and no registered range holds them (R183). -/
def Reachable (s : State) (t : Thread) (p : Fin 8) (o : Word) (n : Nat) (need : Need) (glob : Bool) : Prop :=
  let va := t.segs[p].base.toNat + o.toNat
  (t.segs[p]).grants o.toNat n need = true ∧ va % n = 0 ∧
  (glob = true ∧ s.spaceOf s.cur.core va = some .glob ∨
    ∃ off, s.spaceOf s.cur.core va = some (.sp Config.pkg s.cur.core off) ∧ (s.core s.cur.core).xb.toNat ≤ off) ∧
  s.hallHit s.cur.core va n need.w = false

end Sys2Proof.Claims

open Sys2Proof.Claims

/-- R196, R230, R231: a reduction joins the copy engine's queue with its function and operand and takes its place in the Relaxed set, its
counter rises, and the thread goes on; on a word of the own scratchpad `ATTN` sends the new target, its destination awaiting the
generation, and `AWAIT` sends the generation it has seen and holds the thread as an acquire; one whose wait has ended asks for the generation
alone, its source read before; an attendance word in global memory traps `SEGV`.
The model's readings in it: log 34, 35. -/
def Obligations.ReductionAndAttendanceResults : Prop :=
  ∀ (s : State) (t : Thread) (p : Fin 8) (x : Operand), NotSpark t → t.oar = none →
    (∀ row ∈ redRows, ∀ (c : BitVec 3) (dbl : Bool) (off : BitVec 16),
      let o := t.av p + off.signExtend 64
      let n := if dbl then 8 else 4
      let k := s.core s.cur.core
      Issues s t [.a p, x] [] [] → t.rlx = [] → Reachable s t p o n ⟨false, true, true⟩ true → k.hallUse ≤ 16 →
      k.copy.queue.length < 2 → k.cc[c.toFin].val ≠ 65535 →
      ∃ s' u e m, Runs (row.1 c p x dbl off) s s' ∧ s'.me = some u ∧ (s'.core s.cur.core).copy.queue = k.copy.queue ++ [e] ∧
        e.job = .red m ∧ e.tag = m.tag ∧ (m.who = t.id ∧ m.va = t.segs[p].base.toNat + o.toNat ∧ m.op = .red (row.2 t) dbl (fst2 s t x) ∧
        m.rlx = true) ∧ (∃ r ∈ u.rlx, r.tag = m.tag) ∧ (s'.core s.cur.core).cc[c.toFin] = ⟨k.cc[c.toFin].val + 1, k.cc[c.toFin].out + 1⟩ ∧
        u.pc = s.succ t ∧ u.status = .ready ∧ RegsBut t u [] ∧ s'.mem = s.mem) ∧
    (∀ (d : Operand), Issues s t [.a p, x] [d] [] →
      let va := t.segs[p].base.toNat + (t.av p).toNat
      let v := (fst2 s t x).setWidth 32
      (Reachable s t p (t.av p) 16 ⟨false, true, false⟩ false → ∃ s' u m, Runs (.attn d p x) s s' ∧ s'.me = some u ∧ m ∈ s'.net ∧
        m.op = .attn v ∧ m.who = t.id ∧ m.va = va ∧ u.oar = some ⟨m.tag, false, false, none⟩ ∧ u.pc = s.succ t ∧ u.status = .ready ∧
        (∀ q ∈ regsOf d, (u.cell q).full = false ∧ (u.cell q).pend = some m.tag) ∧ RegsBut t u (regsOf d) ∧ s'.mem = s.mem) ∧
      ((∀ c, t.carried = some c → c.1 ≠ 11 ∧ c.1 ≠ 12) → Reachable s t p (t.av p) 16 ⟨true, false, false⟩ false → ∃ s' u m, Runs (.await d p x) s s' ∧ s'.me = some u ∧ m ∈ s'.net ∧
        m.op = .await (some v) ∧ m.who = t.id ∧ m.va = va ∧ u.oar = some ⟨m.tag, true, false, none⟩ ∧ u.pc = s.succ t ∧ u.status = .held m.tag ∧
        (∀ q ∈ regsOf d, (u.cell q).full = false ∧ (u.cell q).pend = some m.tag) ∧ RegsBut t u (regsOf d) ∧ s'.mem = s.mem) ∧
      (s.spaceOf s.cur.core va = some .glob → va % 16 = 0 →
        (t.segs[p]).grants (t.av p).toNat 16 ⟨false, true, false⟩ = true →
        Runs (.attn d p x) s ((s.pop x).userTrap 0x04 (t.av p) t.pc))) ∧
    (∀ (d : Operand) (n : Word), Issues s t [.a p] [d] [] → t.carried = some (12, n) → Reachable s t p (t.av p) 16 ⟨true, false, false⟩ false →
      ∃ s' u m, Runs (.await d p x) s s' ∧ s'.me = some u ∧ m ∈ s'.net ∧ m.op = .await none ∧ u.carried = none ∧ u.status = .held m.tag ∧
        RegsBut t u (regsOf d))

namespace Sys2Proof.Claims

/-- Unit ui of the operation that an engine runs may go on: its engine and core run, nothing of the module is parked, and where the operation
has an order its turn has come (R137, R206). -/
def Working (s : State) (c : Nat) (e : Eng) (o : EngOp) (ui : Nat) (u : EUnit) : Prop :=
  s.engHead c e = some o ∧ o.started = true ∧ o.job.isTile = false ∧ o.trap = none ∧ o.move = none ∧
  ((s.core c).engine e).retry = false ∧ (s.core c).stopped = false ∧ o.units[ui]? = some u ∧ u.finished = false ∧
  (o.ordered = true → ∀ v ∈ o.units.take ui, v.finished = true) ∧ s.faultQ = []

/-- A line of an operation is at this storage, in the core's own scratchpad or on a page, other than a sparse one, that its port opens with the
right asked for and leaves s1; and nothing goes before it there (R124, R125, R137, R205, R273). -/
def LineReady (s s1 : State) (c : Nat) (o : EngOp) (va : Nat) (wr ld : Bool) (name : Nat) : Prop :=
  ((∃ off, s.spaceOf c va = some (.sp Config.pkg c off) ∧ name = spKey Config.pkg c off ∧ s1 = s) ∨
   (s.spaceOf c va = some .glob ∧ ∃ x, s.port (quadOf c) o.part o.who.ctx.toNat va (o.job.kind ld) ⟨!wr, wr, false⟩ = (.ok x, s1) ∧
     x.name = name ∧ x.gran = none)) ∧
  s1.cores = s.cores ∧ s1.faultQ = [] ∧ s1.detentions = [] ∧ s1.lineAhead c o.who (lineOf name) = false ∧
  s1.grantsTo c o.part (bankOf name) name (if wr then 2 else 1) = true ∧ isDev name = false ∧ Sound s1 ∧ s1.cacheBad = []

/-- The reads of a unit that are still to be made, with their places. -/
def toRead (u : EUnit) : List (Nat × LineRead) := ((List.range u.reads.length).zip u.reads).filter (fun p => p.2.got.isNone)

/-- Its writes that are still to be made, with their places. -/
def toWrite (u : EUnit) : List (Nat × LineWrite) := ((List.range u.writes.length).zip u.writes).filter (fun p => !p.2.done)

/-- The state with what a read of the running operation brought. -/
def readIn (s : State) (c : Nat) (e : Eng) (ui : Nat) (u : EUnit) (k : Nat) (r : LineRead) (b : List Byte) : State :=
  s.modOp c e (fun o => { o with units := o.units.set ui { u with reads := u.reads.set k { r with got := some (some b) } } })

/-- The bytes that the reads of a stream brought, in order. -/
def got (u : EUnit) (str : Nat) : List Byte :=
  (u.reads.filter (fun r => r.str == str)).flatMap (fun r => match r.got with | some (some b) => b | _ => [])

/-- A unit whose reads have all brought their bytes is to be taken up; no line was refused, and no checkpoint has written any. -/
def TakeUp (s : State) (c : Nat) (e : Eng) (o : EngOp) (ui : Nat) (u : EUnit) : Prop :=
  Working s c e o ui u ∧ u.loaded = false ∧ (∀ r ∈ u.reads, ∃ b, r.got = some (some b) ∧ b.length = r.n) ∧ o.skip = [] ∧ u.gone = [] ∧
  s.savedOf? o.who = none

/-- No other engine of the core has an operation that may overlap (R101). -/
def AloneIn (s : State) (c : Nat) (e : Eng) : Prop := ∀ e', e' ≠ e → ((s.core c).engine e').queue = []

/-- The unit has been taken up, with these results; no memory has changed. -/
def TakenUp (s : State) (c : Nat) (e : Eng) (ui : Nat) (P : State → EngOp → EUnit → Prop) : Prop :=
  ∃ s' o' u', Runs (.perform (.line c e ui 0)) s s' ∧ s'.engHead c e = some o' ∧ o'.units[ui]? = some u' ∧ s'.mem = s.mem ∧ P s' o' u'

/-- The unit is to write exactly these ranges: every write agrees with one of them, and together they have all their bytes. -/
def Writes (u : EUnit) (l : List (Nat × List Byte)) : Prop :=
  u.loaded = true ∧
  (∀ w ∈ u.writes, w.done = false ∧ ∃ p ∈ l, p.1 ≤ w.va ∧ w.va + w.bytes.length ≤ p.1 + p.2.length ∧
    ∀ k < w.bytes.length, w.bytes.getD k 0 = p.2.getD (w.va - p.1 + k) 0) ∧
  (∀ p ∈ l, ∀ k < p.2.length, ∃ w ∈ u.writes, w.va ≤ p.1 + k ∧ p.1 + k < w.va + w.bytes.length ∧ w.bytes.getD (p.1 + k - w.va) 0 = p.2.getD k 0)

/-- Reads, none of them made, of n bytes from va on, each within one line (R137). -/
def Consecutive : Nat → Nat → List LineRead → Prop
  | _, n, [] => n = 0
  | va, n, r :: l => r.va = va ∧ 0 < r.n ∧ r.n ≤ n ∧ va / 64 = (va + r.n - 1) / 64 ∧ r.got = none ∧ Consecutive (va + r.n) (n - r.n) l

/-- Line i of the range [d, d + n): its first byte and the one after its last. -/
def lineLo (d i : Nat) : Nat := if i = 0 then d else (d / 64 + i) * 64
def lineHi (d n i : Nat) : Nat := min (d + n) ((d / 64 + i + 1) * 64)
/-- The lines of a range that is not empty. -/
def lineCount (d n : Nat) : Nat := (d + n - 1) / 64 - d / 64 + 1

/-- Element i of w bytes each in a byte string. -/
def elemIn (w : Nat) (b : List Byte) (i : Nat) : Nat := leNat ((b.drop (i * w)).take w)

/-- The bytes of elements 0 to m - 1. -/
def elemBytes (w m : Nat) (val : Nat → Nat) : List Byte := (List.range m).flatMap (fun i => leBytes w (val i))

/-- Flags of results 0 to m - 1 added to others (R61). -/
def flagsOver (m : Nat) (val : Nat → Nat × BitVec 9) (f : BitVec 9) : BitVec 9 := (List.range m).foldl (fun a i => a ||| (val i).2) f

/-- The floating format of an element format. -/
def floatFmt : VFmt → Option Fmt
  | .f32 => some fmt32 | .f16 => some fmt16 | .bf16 => some fmtB16 | .e4 => some fmtE4 | .e5 => some fmtE5
  | .i32 | .i16 | .i8 => none

/-- Table 10-2, the floating operations that are rounded. -/
def roundedOps : List (ElemOp × (BitVec 3 → FV → FV → FV → FR)) :=
  [ (.add, fun m a b _ => a.add m b), (.sub, fun m a b _ => a.add m b.neg), (.mul, fun _ a b _ => a.mul b),
    (.fma, fun m a b c => a.fma m b c), (.min, fun _ a b _ => a.minmax false b), (.max, fun _ a b _ => a.minmax true b),
    (.div, fun _ a b _ => a.div b), (.sqrt, fun _ a _ _ => a.sqrt), (.rsq, fun _ a _ _ => a.rsqrt), (.exp2, fun _ a _ _ => a.exp2) ]

/-- R66, R208: one rounding in the operation's format; an FP8 result is rounded in FP32 and narrowed once. -/
def rounded (k : Fmt) (fp8 : Bool) (mode : BitVec 3) (r : FR) : Nat × BitVec 9 :=
  if fp8 then
    let w := fmt32.round mode r.1
    let v := k.round mode (fmt32.value w.1)
    (v.1, r.2 ||| w.2 ||| v.2)
  else
    let v := k.round mode r.1
    (v.1, r.2 ||| v.2)

/-- Table 10-2 and R209 on integers of w bits: the result, and whether it was clamped. -/
def intWant (w : Nat) (x y z : BitVec w) : ElemOp → Option (BitVec w × Bool)
  | .add => some (x + y, false) | .sub => some (x - y, false) | .mul => some (x * y, false) | .fma => some (x * y + z, false)
  | .min => some (if y.slt x then y else x, false) | .max => some (if x.slt y then y else x, false)
  | .abs => some (if x = BitVec.intMin w then (BitVec.intMax w, true) else (if x.msb then -x else x, false))
  | .neg => some (if x = BitVec.intMin w then (BitVec.intMax w, true) else (-x, false))
  | .and => some (x &&& y, false) | .or => some (x ||| y, false) | .xor => some (x ^^^ y, false)
  | .shl => some (x <<< (y.toNat % w), false) | .shr => some (x >>> (y.toNat % w), false)
  | .sra => some (x.sshiftRight (y.toNat % w), false)
  | .ceq => some (if x = y then BitVec.allOnes w else 0, false) | .clt => some (if x.slt y then BitVec.allOnes w else 0, false)
  | _ => none

/-- Table 10-3: one conversion. -/
def convWant (src f : VFmt) (mode : BitVec 3) (x : Nat) : Nat × BitVec 9 :=
  let v := (BitVec.ofNat (8 * sizeOf_ src) x).toInt
  let w := 8 * sizeOf_ f
  match floatFmt src, floatFmt f with
  | some a, some b =>
    if src = f then (match a.value x with | .nan sig => (a.qnan, if sig then 0x01 else 0) | _ => (x, 0))
    else b.round mode (a.value x)
  | some a, none => let r := asInteger mode (-(2 ^ (w - 1))) (2 ^ (w - 1) - 1) (a.value x); ((BitVec.ofInt w r.1).toNat, r.2)
  | none, some b => b.round mode (.num (decide (v < 0)) v.natAbs 0 false)
  | none, none =>
    let r := max (-(2 ^ (w - 1) : Int)) (min (2 ^ (w - 1) - 1) v)
    ((BitVec.ofInt w r).toNat, if r = v then 0 else 0x20)

/-- Element i of an elementwise operation, with its flags, from its source elements (R208, R209, R211, R213); nothing where the format class has
no such operation. -/
def elemWant (op : ElemOp) (f : VFmt) (mode : BitVec 3) (i x y z : Nat) : Option (Nat × BitVec 9) :=
  let w := 8 * sizeOf_ f
  match op, floatFmt f with
  | .mov, _ => some (x, 0)
  | .sel, _ => some (if z = 0 then y else x, 0)
  | .cvt src, _ => some (convWant src f mode x)
  | .iota, some k => some (k.round mode (.num false i 0 false))
  | .iota, none => some (i % 2 ^ w, 0)
  | .abs, some _ => some (x % 2 ^ (w - 1), 0)
  | .neg, some _ => some (if x < 2 ^ (w - 1) then x + 2 ^ (w - 1) else x - 2 ^ (w - 1), 0)
  | .ceq, some k =>
    some (if (k.value x).eq (k.value y) then 2 ^ w - 1 else 0, if k.value x = .nan true ∨ k.value y = .nan true then 0x01 else 0)
  | .clt, some k =>
    some (if (k.value x).lt false (k.value y) then 2 ^ w - 1 else 0, if (k.value x).isNan ∨ (k.value y).isNan then 0x01 else 0)
  | op, some k => (roundedOps.find? (fun r => r.1 == op)).map (fun r => rounded k (sizeOf_ f == 1) mode (r.2 mode (k.value x) (k.value y) (k.value z)))
  | op, none => (intWant w (BitVec.ofNat w x) (BitVec.ofNat w y) (BitVec.ofNat w z) op).map (fun r => (r.1.toNat, if r.2 then 0x20 else 0))

/-- R206: elements in a step. -/
def stepOf (f : VFmt) (xs : List ESrc) : Nat :=
  64 / (xs.map (fun x => match x with | .strm _ h => sizeOf_ h | .scal _ => 1)).foldl max (sizeOf_ f)

/-- Element i, within a step, of the j-th source of an elementwise operation. -/
def srcElem (u : EUnit) (f : VFmt) (xs : List ESrc) (j i : Nat) : Nat :=
  match xs[j]? with
  | some (.strm _ h) => elemIn (sizeOf_ h) (got u j) i
  | some (.scal v) => v.toNat % 2 ^ (8 * sizeOf_ f)
  | none => 0

/-- n bytes from va on lie in the core's own scratchpad. -/
def InPad (s : State) (c va n : Nat) : Prop := ∀ b < n, ∃ off, s.spaceOf c (va + b) = some (.sp Config.pkg c off)

/-- The operation at the head of an engine's queue may start (R221, R324). -/
def MayStart (s : State) (c : Nat) (e : Eng) (o : EngOp) : Prop :=
  s.engHead c e = some o ∧ o.started = false ∧ (s.core c).stopped = false ∧ s.pairHeld c o.tag = false ∧ (s.core c).marks = [] ∧ o.trap = none

/-- R76: a lane's partial: its first element, then each further one. -/
def laneOf (first : Nat → Nat × BitVec 9) (next : Nat → Nat → Nat × BitVec 9) : List Nat → Option (Nat × BitVec 9)
  | [] => none
  | x :: l => some (l.foldl (fun p y => ((next p.1 y).1, p.2 ||| (next p.1 y).2)) (first x))

/-- Two partials, of which an empty one yields the other. -/
def joinOf (join : Nat → Nat → Nat × BitVec 9) : Option (Nat × BitVec 9) → Option (Nat × BitVec 9) → Option (Nat × BitVec 9)
  | some a, some b => some ((join a.1 b.1).1, a.2 ||| b.2 ||| (join a.1 b.1).2)
  | some a, none => some a
  | none, b => b

/-- The tree over 2^k lanes from lane j on. -/
def treeOf (join : Nat → Nat → Nat × BitVec 9) (l : Nat → Option (Nat × BitVec 9)) : Nat → Nat → Option (Nat × BitVec 9)
  | 0, j => l j
  | k + 1, j => joinOf join (treeOf join l k j) (treeOf join l k (j + 2 ^ k))

/-- n elements in the fixed order of R76. -/
def fixedOrder (first : Nat → Nat × BitVec 9) (next join : Nat → Nat → Nat × BitVec 9) (n : Nat) (x : Nat → Nat) : Option (Nat × BitVec 9) :=
  treeOf join (fun j => laneOf first next (((List.range n).filter (fun i => i % 16 == j)).map x)) 4 0

/-- A NaN result is canonical (R60). -/
def canonical (k : Fmt) (r : Nat × BitVec 9) : Nat × BitVec 9 :=
  match k.value r.1 with
  | .nan sig => (k.qnan, r.2 ||| if sig then 0x01 else 0)
  | _ => r

/-- R76, R210: the sum, or the maximum, of n elements of a format, with its flags. -/
def foldWant (mx : Bool) (f : VFmt) (mode : BitVec 3) (n : Nat) (x : Nat → Nat) : Nat × BitVec 9 :=
  let w := 8 * sizeOf_ f
  let op : ElemOp := if mx then .max else .add
  let step := fun (f : VFmt) (a b : Nat) => (elemWant op f mode 0 a b 0).getD (0, 0)
  match floatFmt f with
  | none => (fixedOrder (fun v => (v, 0)) (step f) (step f) n x).getD (if mx then 2 ^ (w - 1) else 0, 0)
  | some k =>
    if sizeOf_ f = 1 then
      let wide := fun v => fmt32.round mode (k.value v)
      let f0 := flagsOver n (fun i => wide (x i)) 0
      match fixedOrder (fun v => (v, 0)) (step .f32) (step .f32) n (fun i => (wide (x i)).1) with
      | none => (if mx then (if f = .e4 then k.largest true else k.infty true) else 0, 0)
      | some r => let v := k.round mode (fmt32.value r.1); (v.1, f0 ||| r.2 ||| v.2)
    else
      match fixedOrder (fun v => (v, 0)) (step f) (step f) n x with
      | none => (if mx then k.infty true else 0, 0)
      | some r => canonical k r

end Sys2Proof.Claims

open Sys2Proof.Claims

/-- R137, R204 to R211, R213, R215 to R218, R220, R227 to R229: what a started vector or copy operation reads and writes. An elementwise operation
starts with its steps in order, each with the lines of its source elements, and a copy with a unit for each line of its destination, from the top
down where that lies above a source it overlaps; a read of a line brings its bytes and changes no memory; once all of a unit's are in,
the unit is taken up: it writes the elements of its step, the fold of all elements in the order of R76, the transposed tile, the kept elements,
the gathered or scattered elements at base plus index, a coded tile or its elements, or what a copy read, and no memory has changed; a write of a
line then stores its bytes and no others. A malformed tile, a refused line and a fault go other ways (R70, R89, R199).
The model's readings in it: log 36, 37, 41, 86. -/
def Obligations.EngineOperationResults : Prop :=
  (∀ (s : State) (c : Nat) (o : EngOp) (op : ElemOp) (f : VFmt) (d : Nat) (xs : List ESrc), MayStart s c .vec o → o.job = .elem op f d xs →
    (∃ va h, ESrc.strm va h ∈ xs) → (∀ va h, ESrc.strm va h ∈ xs → InPad s c va (o.vl * sizeOf_ h)) → InPad s c d (o.vl * sizeOf_ f) →
    let g := stepOf f xs
    ∃ s' e, Runs (.engineOpStart c .vec) s s' ∧ s'.engHead c .vec = some e ∧ e.started = true ∧ e.ordered = true ∧ e.skip = [] ∧ e.tag = o.tag ∧
      e.units.length = (o.vl + g - 1) / g ∧ s'.mem = s.mem ∧
      ∀ (k : Nat) (u : EUnit), e.units[k]? = some u → u.key = k ∧ u.loaded = false ∧ u.writes = [] ∧ u.gone = [] ∧
        ∀ (j va : Nat) (h : VFmt), xs[j]? = some (.strm va h) →
          Consecutive (va + k * g * sizeOf_ h) (min g (o.vl - k * g) * sizeOf_ h) (u.reads.filter (fun r => r.str == j))) ∧
  (∀ (s : State) (c : Nat) (o : EngOp) (d x n : Nat), MayStart s c .copy o → o.job = .cpy d x n → o.wait = false → 0 < n →
    let a := s.canonVa c d
    let b := s.canonVa c x
    let down := b < a ∧ a < b + n
    ∃ s' e, Runs (.engineOpStart c .copy) s s' ∧ s'.engHead c .copy = some e ∧ e.started = true ∧ e.tag = o.tag ∧ s'.mem = s.mem ∧
      e.ordered = decide (a < b + n ∧ b < a + n) ∧
      e.units.map (·.key) = (if down then (List.range (lineCount d n)).reverse else List.range (lineCount d n)) ∧
      ∀ u ∈ e.units, u.loaded = false ∧ u.writes = [] ∧ u.gone = [] ∧ (∀ r ∈ u.reads, r.str = 0) ∧
        Consecutive (x + (lineLo d u.key - d)) (lineHi d n u.key - lineLo d u.key) u.reads) ∧
  (∀ (s s1 : State) (c : Nat) (e : Eng) (o : EngOp) (ui j k : Nat) (u : EUnit) (r : LineRead) (name : Nat), Working s c e o ui u → u.loaded = false →
    (toRead u)[j]? = some (k, r) → LineReady s s1 c o r.va false r.ld name →
    let mid := readIn s1 c e ui u k r (s1.raw name r.n)
    mid.mem = s1.mem ∧ (2 ≤ (toRead u).length → Runs (.perform (.line c e ui j)) s mid) ∧
    ((toRead u).length = 1 → ∃ s', Runs (.perform (.line c e ui j)) s s' ∧ Runs (.perform (.line c e ui 0)) mid s')) ∧
  (∀ (s s1 : State) (c : Nat) (e : Eng) (o : EngOp) (ui j k : Nat) (u : EUnit) (w : LineWrite) (name : Nat), Working s c e o ui u → u.loaded = true →
    (toWrite u)[j]? = some (k, w) → (o.job.oneByOne = true → j = 0) →
    (o.wait = true → ∃ v ∈ o.units, ∃ y ∈ v.writes, y.done = true) → LineReady s s1 c o w.va true false name →
    ∃ s' o' u', Runs (.perform (.line c e ui j)) s s' ∧ Stored s1 s' name w.bytes ∧ s'.engHead c e = some o' ∧ o'.units[ui]? = some u' ∧
      u'.writes = u.writes.set k { w with done := true } ∧
      (∀ a, w.att = some a → ∃ x, s'.arrivals = s1.arrivals ++ [x] ∧ x.pa = a ∧ x.n = w.bytes.length ∧ x.who = o.who)) ∧
  (∀ (s : State) (c : Nat) (e : Eng) (o : EngOp) (ui : Nat) (u : EUnit), TakeUp s c e o ui u →
    (∀ (op : ElemOp) (f : VFmt) (d : Nat) (xs : List ESrc) (val : Nat → Nat × BitVec 9), o.job = .elem op f d xs →
      let g := stepOf f xs
      let m := min g (o.vl - u.key * g)
      (∀ va h, ESrc.strm va h ∈ xs → h = f ∨ op = .cvt h) → (∀ i < m, elemWant op f o.rnd (u.key * g + i) (srcElem u f xs 0 i) (srcElem u f xs 1 i) (srcElem u f xs 2 i) = some (val i)) →
      TakenUp s c e ui (fun _ o' u' => Writes u' [(d + u.key * g * sizeOf_ f, elemBytes (sizeOf_ f) m (fun i => (val i).1))] ∧
        o'.flags = flagsOver m val o.flags)) ∧
    (∀ (mx : Bool) (f : VFmt) (d x n : Nat), o.job = .fold mx f d x → (got u 0).length = n * sizeOf_ f →
      let r := foldWant mx f o.rnd n (elemIn (sizeOf_ f) (got u 0))
      TakenUp s c e ui (fun _ o' u' => Writes u' [(d, leBytes (sizeOf_ f) r.1)] ∧ o'.flags = o.flags ||| r.2)) ∧
    (∀ (f : VFmt) (d x : Nat), o.job = .trn f d x → (got u 0).length = 1024 * sizeOf_ f →
      TakenUp s c e ui (fun _ o' u' => o'.flags = o.flags ∧
        Writes u' [(d, elemBytes (sizeOf_ f) 1024 (fun i => elemIn (sizeOf_ f) (got u 0) (i % 32 * 32 + i / 32)))])) ∧
    (∀ (f : VFmt) (d x y n : Nat) (r : Fin 16), o.job = .cmpr f d x y → o.count = some r → (got u 0).length = n * sizeOf_ f →
      (got u 1).length = n * sizeOf_ f →
      let kept := (List.range n).filter (fun i => elemIn (sizeOf_ f) (got u 1) i != 0)
      TakenUp s c e ui (fun _ o' u' => (.g r, BitVec.ofNat 64 kept.length) ∈ o'.outs ∧
        (∀ p ∈ o.scaled, (.a p.1, p.2.1 + BitVec.ofNat 64 (kept.length * p.2.2)) ∈ o'.outs) ∧
        Writes u' [(d, kept.flatMap (fun i => leBytes (sizeOf_ f) (elemIn (sizeOf_ f) (got u 0) i)))])) ∧
    (∀ (f : VFmt) (d y : Nat) (p : Fin 8) (base : Word), o.job = .gath f false d p base y →
      let off := fun (i : Nat) => base + (BitVec.ofNat 32 (elemIn 4 (got u 0) i)).signExtend 64 * BitVec.ofNat 64 (sizeOf_ f)
      let va := fun (i : Nat) => (o.segs[p]).base.toNat + (off i).toNat
      (u.phase ≠ 0 → TakenUp s c e ui (fun _ _ u' => Writes u' [(d, got u 3)])) ∧
      (u.phase = 0 → 0 < o.vl → AloneIn s c e → (got u 0).length = o.vl * 4 →
        (∀ i < o.vl, (o.segs[p]).grants (off i).toNat (sizeOf_ f) ⟨true, false, false⟩ = true ∧ va i % sizeOf_ f = 0 ∧
          (s.rangeSpace c (va i) (sizeOf_ f) = some .glob ∨
            ∃ q, s.rangeSpace c (va i) (sizeOf_ f) = some (.sp Config.pkg c q) ∧ (s.core c).xb.toNat ≤ q)) →
        TakenUp s c e ui (fun _ _ u' => u'.loaded = false ∧ u'.phase = 1 ∧
          u'.reads = u.reads ++ (List.range o.vl).map (fun i => ⟨3, va i, sizeOf_ f, false, none⟩)))) ∧
    (∀ (f : VFmt) (x y : Nat) (p : Fin 8) (base : Word), o.job = .scat f p base x y → AloneIn s c e → (got u 0).length = o.vl * 4 →
      let off := fun (i : Nat) => base + (BitVec.ofNat 32 (elemIn 4 (got u 0) i)).signExtend 64 * BitVec.ofNat 64 (sizeOf_ f)
      let va := fun (i : Nat) => (o.segs[p]).base.toNat + (off i).toNat
      (∀ i < o.vl, (o.segs[p]).grants (off i).toNat (sizeOf_ f) ⟨false, true, false⟩ = true ∧ va i % sizeOf_ f = 0 ∧
        (s.rangeSpace c (va i) (sizeOf_ f) = some .glob ∨
          ∃ q, s.rangeSpace c (va i) (sizeOf_ f) = some (.sp Config.pkg c q) ∧ (s.core c).xb.toNat ≤ q)) →
      TakenUp s c e ui (fun _ _ u' => u'.loaded = true ∧
        u'.writes = (List.range o.vl).map (fun i => ⟨va i, ((got u 1).drop (i * sizeOf_ f)).take (sizeOf_ f), none, false⟩))) ∧
    (∀ (f src : VFmt) (rows cols d x : Nat) (val : Nat → Nat × BitVec 9), o.job = .pack f src rows cols d x →
      (got u 0).length = rows * cols * sizeOf_ src →
      (∀ i < rows * cols, val i = if src = f then (elemIn (sizeOf_ f) (got u 0) i, 0) else convWant src f o.rnd (elemIn (sizeOf_ src) (got u 0) i)) →
      let b := encodeTile (if f = .e4 then 0 else 1) rows cols ((List.range (rows * cols)).map (fun i => (val i).1))
      TakenUp s c e ui (fun _ o' u' => Writes u' [(d, b)] ∧ o'.flags = flagsOver (rows * cols) val o.flags ∧
        (∀ p v, o.wait = true → o.late = some (p, v) → (.a p, v + BitVec.ofNat 64 ((b.length + 7) / 8 * 8)) ∈ o'.outs))) ∧
    (∀ (f : VFmt) (d x : Nat) (p : Fin 8) (off : Word) (ef rows cols : Nat) (l : List Nat), o.job = .unpk f d x p off → u.phase ≠ 0 → AloneIn s c e →
      let len := leNat ((got u 0).take 8) / 2 ^ 30 % 2 ^ 12
      8 ≤ (got u 0).length → 8 < len → (o.segs[p]).grants off.toNat len ⟨true, false, false⟩ = true → (s.rangeSpace c x len).isSome = true →
      decodeTile ((got u 0 ++ got u 3).take len) = some (ef, rows, cols, l) → l.length = o.vl →
      let val := fun (i : Nat) => convWant (if ef = 0 then .e4 else .e5) f o.rnd (l.getD i 0)
      TakenUp s c e ui (fun _ o' u' => Writes u' [(d, elemBytes (sizeOf_ f) o.vl (fun i => (val i).1))] ∧ o'.flags = flagsOver o.vl val o.flags)) ∧
    (∀ (d x n : Nat), o.job = .cpy d x n → 0 < n → u.key < lineCount d n → (got u 0).length = lineHi d n u.key - lineLo d u.key →
      TakenUp s c e ui (fun _ _ u' => Writes u' [(lineLo d u.key, got u 0)] ∧ ∀ w ∈ u'.writes, w.att = o.att)) ∧
    (∀ (d x : Nat) (v : Word), o.job = .cpy2 d x v →
      TakenUp s c e ui (fun _ _ u' => Writes u' [(d + u.key * (v.extractLsb' 0 16).toNat, got u 0)] ∧ ∀ w ∈ u'.writes, w.att = o.att)) ∧
    (∀ (off x n : Nat) (cores : List Nat), o.job = .cpym off x n cores → 0 < n → u.key < lineCount off n →
      TakenUp s c e ui (fun _ _ u' => Writes u' (cores.map (fun k => (s.aperture k (lineLo off u.key), got u 0))))))

namespace Sys2Proof.Claims

/-- R226: what a matrix instruction that reads no line does as it starts. -/
def Starts (s : State) (c : Nat) (o : EngOp) (P : State → EngOp → Prop) : Prop :=
  ∃ s' e, Runs (.engineOpStart c .mat) s s' ∧ s'.engHead c .mat = some e ∧ e.started = true ∧ e.tag = o.tag ∧ e.trap = none ∧ s'.mem = s.mem ∧
    P s' e

/-- One accumulator holds these words, and the others what they held. -/
def AccIs (s s' : State) (c : Nat) (k : BitVec 4) (val : Nat → Nat) : Prop :=
  (s'.core c).accWords k = (List.range 1024).map val ∧
  ∀ p, p.1 / 1024 ≠ k.toNat → (p ∈ (s'.core c).acc ↔ p ∈ (s.core c).acc)

/-- The one unit of an operation is to write these bytes. -/
def WritesOnly (e : EngOp) (va : Nat) (b : List Byte) : Prop := ∃ u, e.units = [u] ∧ Writes u [(va, b)]

/-- A sum in INT32, clamped with SAT (R58, R74). -/
def clampSum (v : Int) : Nat × BitVec 9 :=
  let r := max (-(2 ^ 31 : Int)) (min (2 ^ 31 - 1) v)
  ((BitVec.ofInt 32 r).toNat, if r = v then 0 else 0x20)

/-- The value of a number, and of anything else 0. -/
def ratV : FV → Rat
  | .num neg m e _ => ratOf neg m e
  | _ => 0

/-- The value is a number. -/
def IsNum (v : FV) : Prop := ∃ neg m e, v = .num neg m e false

/-- R224: the elements of an operand of an `MMA`: a dense tile's, or those of a well-formed coded tile of its shape and format. -/
def mmaOperand (f : MFmt) (first rest : List Byte) : Option (List Nat) :=
  let coded := fun (ef : Nat) =>
    match decodeTile ((first ++ rest).take (leNat (first.take 8) / 2 ^ 30 % 2 ^ 12)) with
    | some (g, 32, 32, l) => if g = ef then some l else none
    | _ => none
  match f with
  | .c4 => coded 0
  | .c5 => coded 1
  | .f16 | .bf16 => some ((List.range (first.length / 2)).map (elemIn 2 first))
  | .i8 => some ((List.range first.length).map (elemIn 1 first))

/-- The floating input formats of an `MMA`. -/
def mmaFmtOf : MFmt → Fmt
  | .c4 => fmtE4 | .c5 => fmtE5 | .f16 => fmt16 | .bf16 => fmtB16 | .i8 => fmt32

/-- Factor k of element (i, j) in B, which is stored transposed where tb holds (R72). -/
def bAt (tb : Bool) (b : List Nat) (k j : Nat) : Nat := b.getD (if tb then 32 * j + k else 32 * k + j) 0

end Sys2Proof.Claims

open Sys2Proof.Claims

/-- R86, R100, R137, R222, R225, R232 to R234, R314: a started `MZERO` leaves its accumulator +0 and the others as they were. R72 to R76, R224,
R226: `MADD`, `MLDA` and `MSCAL` leave their accumulator with the sums, the words read or the products, and the others as they were; `MSTA`, `MSTC`
and `MRSSQ` are to write the conversions of its words, the coded tile of their narrowings, or the sums of squares of its rows in the order of
R76; an `MMA` keeps its accumulator in the shadow as it starts and then adds the exact product, rounded once, or clamped in INT32. A started
`DEPO` sends its deposit; a completed operation leaves its queue, lowers its counter, adds its flags and no longer counts for its thread,
which goes on if it waited; a replayed `MMA` has its accumulator as the shadow kept it; the bytes of a line move COUNT, and GEN by the times
TARGET goes into it, as a release of the copier at `.pk` (R136); a refill puts the last frames of the pool, as many as R314 says, into the empty stock.
The model's readings in it: log 38, 40, 86. -/
def Obligations.EngineEvents : Prop :=
  (∀ (s : State) (c : Nat) (o : EngOp) (k : BitVec 4), s.engHead c .mat = some o → o.started = false → (s.core c).stopped = false →
    o.job = .mzero k → s.pairHeld c o.tag = false → o.trap = none → (s.core c).marks = [] →
    ∃ s' e, Runs (.engineOpStart c .mat) s s' ∧ s'.engHead c .mat = some e ∧ e.tag = o.tag ∧ e.finished = true ∧ e.trap = none ∧
      (∀ p ∈ (s'.core c).acc, p.1 / 1024 ≠ k.toNat) ∧
      (∀ p, p.1 / 1024 ≠ k.toNat → (p ∈ (s'.core c).acc ↔ p ∈ (s.core c).acc)) ∧ s'.mem = s.mem) ∧
  (∀ (s : State) (c : Nat) (o : EngOp), MayStart s c .mat o → (s.core c).accSynd = [] → s.savedOf? o.who = none →
    let acc := fun (k : BitVec 4) (i : Nat) => ((s.core c).accWords k).getD i 0
    (∀ k x y m sclp, o.job = .mma k x y m sclp → Starts s c o (fun s' _ =>
      (s'.core c).mat.shadow = some (k.toNat, ((s.core c).accWords k).map (BitVec.ofNat 32)) ∧ (s'.core c).acc = (s.core c).acc)) ∧
    (∀ k src int, o.job = .madd k src int →
      let val := fun (i : Nat) =>
        if int then clampSum ((BitVec.ofNat 32 (acc k i)).toInt + (BitVec.ofNat 32 (acc src i)).toInt)
        else rounded fmt32 false 0 ((fmt32.value (acc k i)).add 0 (fmt32.value (acc src i)))
      Starts s c o (fun s' e => AccIs s s' c k (fun i => (val i).1) ∧ e.finished = true ∧ e.flags = flagsOver 1024 val o.flags)) ∧
    (∀ k x f int, o.job = .msta k x f int →
      let val := fun (i : Nat) => convWant (if int then .i32 else .f32) f o.rnd (acc k i)
      Starts s c o (fun s' e => WritesOnly e x (elemBytes (sizeOf_ f) 1024 (fun i => (val i).1)) ∧ e.flags = flagsOver 1024 val o.flags ∧
        (s'.core c).acc = (s.core c).acc)) ∧
    (∀ k x e5, o.job = .mstc k x e5 →
      let val := fun (i : Nat) => convWant .f32 (if e5 then .e5 else .e4) o.rnd (acc k i)
      let b := encodeTile (if e5 then 1 else 0) 32 32 ((List.range 1024).map (fun i => (val i).1))
      Starts s c o (fun s' e => WritesOnly e x b ∧ e.flags = flagsOver 1024 val o.flags ∧ (s'.core c).acc = (s.core c).acc ∧
        (∀ p v, o.wait = true → o.late = some (p, v) → (.a p, v + BitVec.ofNat 64 ((b.length + 7) / 8 * 8)) ∈ e.outs))) ∧
    (∀ k x, o.job = .mrssq k x →
      let step := fun (r : FR) => rounded fmt32 false o.rnd r
      let v := fmt32.value
      let row := fun (i : Nat) => canonical fmt32 ((fixedOrder (fun a => step ((v a).mul (v a))) (fun p a => step ((v a).fma o.rnd (v a) (v p)))
        (fun p q => step ((v p).add o.rnd (v q))) 32 (fun j => acc k (32 * i + j))).getD (0, 0))
      Starts s c o (fun s' e => WritesOnly e x (elemBytes 4 32 (fun i => (row i).1)) ∧ e.flags = flagsOver 32 row o.flags ∧
        (s'.core c).acc = (s.core c).acc))) ∧
  (∀ (s : State) (c : Nat) (o : EngOp) (ui : Nat) (u : EUnit), TakeUp s c .mat o ui u → (s.core c).accSynd = [] →
    let acc := fun (k : BitVec 4) (i : Nat) => ((s.core c).accWords k).getD i 0
    (∀ k x, o.job = .mlda k x → (got u 0).length = 4096 →
      TakenUp s c .mat ui (fun s' o' _ => AccIs s s' c k (elemIn 4 (got u 0)) ∧ o'.flags = o.flags)) ∧
    (∀ k x, o.job = .mscal k x → (got u 0).length = 128 →
      let val := fun (i : Nat) => rounded fmt32 false 0 ((fmt32.value (acc k i)).mul (fmt32.value (elemIn 4 (got u 0) (i / 32))))
      TakenUp s c .mat ui (fun s' o' _ => AccIs s s' c k (fun i => (val i).1) ∧ o'.flags = flagsOver 1024 val o.flags)) ∧
    (∀ k x y m sclp a b, o.job = .mma k x y m sclp → AloneIn s c .mat → (m.fmt = .c4 ∨ m.fmt = .c5 → u.phase ≠ 0) →
      mmaOperand m.fmt (got u 0) (got u 3) = some a → mmaOperand m.fmt (got u 1) (got u 4) = some b → a.length = 1024 → b.length = 1024 →
      (m.fmt = .i8 →
        let val := fun (i : Nat) => clampSum ((BitVec.ofNat 32 (acc k i)).toInt + ((List.range 32).map (fun q =>
          (BitVec.ofNat 8 (a.getD (i / 32 * 32 + q) 0)).toInt * (BitVec.ofNat 8 (bAt m.tb b q (i % 32))).toInt)).sum)
        TakenUp s c .mat ui (fun s' o' _ => AccIs s s' c k (fun i => (val i).1) ∧ o'.flags = flagsOver 1024 val o.flags)) ∧
      (m.fmt ≠ .i8 →
        let v := (mmaFmtOf m.fmt).value
        let scale := fun (i : Nat) => fmt32.value (if m.scale = 0 then 0x3F800000 else elemIn 4 (got u 2) i)
        (∀ i < 1024, IsNum (v (a.getD i 0)) ∧ IsNum (v (b.getD i 0))) → IsNum (scale 0) → IsNum (scale 1) →
        TakenUp s c .mat ui (fun s' o' _ => (∃ g, o'.flags = o.flags ||| g ∧ g &&& ~~~0x05 = 0) ∧ ∃ val, AccIs s s' c k val ∧ ∀ i < 1024,
          let sum := ((List.range 32).map (fun q => ratV (v (a.getD (i / 32 * 32 + q) 0)) * ratV (v (bAt m.tb b q (i % 32))))).sum
          ∃ n p q, ratOf n p q = ratV (scale 0) * ratV (scale 1) * sum ∧ (sum = 0 → p = 0 ∧ n = false) ∧
            let r := (fmt32.round 0 ((fmt32.value (acc k i)).add 0 (.num n p q false)).1).1
            val i = if m.eco = true ∧ r / 2 ^ 23 % 256 ≠ 255 then r / 4 * 4 else r)))) ∧
  (∀ (s : State) (c : Nat) (o : EngOp) (d : Deposit), s.engHead c .copy = some o → o.started = false → (s.core c).stopped = false →
    o.job = .depo d → s.pairHeld c o.tag = false → (s.core c).marks = [] →
    ∃ s' e, Runs (.engineOpStart c .copy) s s' ∧ s'.engHead c .copy = some e ∧ e.started = true ∧ e.tag = o.tag ∧
      s'.deps = s.deps ++ [{ d with tag := s.nextTag, src := some (c, o.tag) }] ∧ s'.mem = s.mem) ∧
  (∀ (s : State) (c : Nat) (e : Eng) (o : EngOp) (t : Thread) (c' : Nat) (i : Fin 8), s.engHead c e = some o → o.finished = true →
    o.job.isTile = false → o.trap = none → o.move = none → (s.core c).marks = [] → s.ownerless = [] →
    (∀ x, s.thread? o.who = some x → x.markers = []) → s.threadAt c' i = some t → t.id = o.who →
    ∃ s' u, Runs (.engineOpComplete c e) s s' ∧ ((s'.core c).engine e).queue = ((s.core c).engine e).queue.tail ∧
      s'.threadAt c' i = some u ∧ u.engOps = t.engOps.filter (fun x => x != o.tag) ∧ u.sst = t.sst ||| o.flags ∧
      (t.status = .ready → u.status = .ready) ∧ (o.wait = true → t.status = .engineWait o.tag → u.status = .ready) ∧
      (∀ k, o.cnt = some k → let x := (s.core c).cc[k.toFin]
        (s'.core c).cc[k.toFin] = ⟨if x.val = 0 then 0 else x.val - 1, x.out - 1⟩)) ∧
  (∀ (s : State) (c : Nat) (o : EngOp) (a : Nat) (w : List (BitVec 32)), s.engHead c .mat = some o → (s.core c).mat.retry = true →
    (s.core c).stopped = false → s.faultQ = [] → s.detentions = [] → (s.core c).mat.shadow = some (a, w) → w.length = 1024 → a < 16 →
    ∃ s', Runs (.mmaReplay c) s s' ∧ (s'.core c).mat.retry = false ∧ s'.mem = s.mem ∧
      (s'.core c).accWords (BitVec.ofNat 4 a) = w.map BitVec.toNat) ∧
  (∀ (s : State) (i : Nat) (a : Arrival), s.arrivals.find? (fun x => x.tag == i) = some a → s.fenced (spOf a.pa).2.1 = false → Sound s →
    s.arrivalWaits (lineOf a.pa) = false →
    let target := s.rawNat a.pa 4
    let count := (s.rawNat (a.pa + 4) 4 + a.n) % 2 ^ 32
    let gen := s.rawNat (a.pa + 8) 4
    let newCount := if target = 0 then count else count % target
    let newGen := if target = 0 then gen else (gen + count / target) % 2 ^ 32
    (newGen ≠ gen → s.signalWait a.who = none) →
    ∃ s', Runs (.attendanceArrival i) s s' ∧ s'.arrivals = s.arrivals.filter (fun x => x.tag != i) ∧
      Stored s s' (a.pa + 4) (leBytes 4 newCount ++ if newGen = gen then [] else leBytes 4 newGen ++ leBytes 4 0) ∧
      (newGen ≠ gen → ⟨(a.pa + 8) / 8 * 8, .pk, a.lcore, a.slot⟩ ∈ s'.relRec)) ∧
  (∀ (s : State) (i : Nat) (f : FaultEntry) (m : Msg) (g : Nat × Nat × Word), (s.faultQ.filter (fun f => f.kind == .stock))[i]? = some f →
    f.what = .access m → m.gran = some g → s.stockOf m.bank g.2.1 = [] → s.poolFree g.2.1 = true → Sound s →
    let n := s.rawNat g.2.1 4
    let k := min 8 ((n + 11) / 12)
    ∃ s', Runs (.stockRefill i) s s' ∧
      s'.stockOf m.bank g.2.1 = (List.range k).map (fun j => s.rawNat (g.2.1 + 16 + 8 * (n - k + j)) 8))

/-! ## Handles (R102 to R119, R240 to R250) -/

namespace Sys2Proof.Claims

/-- The pointer p names a handle at the place `name`, which the port of s opens with the right asked for and leaves s1, and nothing of its
page is parked (R184, R240). -/
def HandleTo (s s1 : State) (t : Thread) (p : Fin 8) (need : Need) (name : Nat) : Prop :=
  let va := t.segs[p].base.toNat + (t.av p).toNat
  (t.segs[p]).grants (t.av p).toNat 8 need = true ∧ va % 8 = 0 ∧ s.spaceOf s.cur.core va = some .glob ∧
  (∃ x, s.port (quadOf s.cur.core) t.part t.id.ctx.toNat va .handle need = (.ok x, s1) ∧ x.name = name) ∧ s1.faultQ = []

/-- The thread reads w at a handle's home: the access tables on the way grant R, no storage is damaged, nothing is ahead of it on its path or in
the bank's FIFO, no other party holds the line, and it is no device register (R113, R124, R125, R273). -/
def WordAt (s : State) (t : Thread) (name w : Nat) : Prop :=
  Sound s ∧ s.cacheBad = [] ∧ s.grantsTo s.cur.core t.part (bankOf name) name 1 = true ∧ s.lineAhead s.cur.core t.id (lineOf name) = false ∧
  isDev name = false ∧ w = s.rawNat name 8

/-- Both. -/
def HandleAt (s s1 : State) (t : Thread) (p : Fin 8) (need : Need) (name w : Nat) : Prop :=
  HandleTo s s1 t p need name ∧ WordAt s1 t name w

/-- Reading a VALUE word acquires at `.pk`: SCOPEMISS is set where the word's release record does not match (R135, R136). -/
def acquired (s : State) (name : Nat) : State :=
  if s.acquireAt name .pk s.cur.core s.cur.slot then s else s.modMe (fun u => { u with sst := u.sst ||| 0x80 })

/-- Table 5-3: format codes, and bytes of an element; a coded tile has none. -/
def tileCode : TFmt → Nat
  | .f32 => 0 | .f16 => 1 | .bf16 => 2 | .i32 => 3 | .i16 => 4 | .i8 => 5 | .e4 => 6 | .e5 => 7 | .c4 => 8 | .c5 => 9
def tileElem : TFmt → Option Nat
  | .f32 | .i32 => some 4
  | .f16 | .bf16 | .i16 => some 2
  | .i8 | .e4 | .e5 => some 1
  | .c4 | .c5 => none

/-- A pointer names n bytes of global memory or of a scratchpad of the package with the right and alignment asked for (R240). -/
def TileAt (s : State) (t : Thread) (p : Fin 8) (n align : Nat) (need : Need) : Prop :=
  let va := t.segs[p].base.toNat + (t.av p).toNat
  (t.segs[p]).grants (t.av p).toNat n need = true ∧ va % align = 0 ∧
  (s.rangeSpace s.cur.core va n = some .glob ∨ ∃ c o, s.rangeSpace s.cur.core va n = some (.sp Config.pkg c o))

/-- The word of a handle in a state (Table 5-1): its state code, and the fields of format, rows and columns with its low bits. -/
def handleOf (st fmt rows cols low : Nat) : Nat := st * 2 ^ 62 + fmt * 2 ^ 58 + rows * 2 ^ 53 + cols * 2 ^ 48 + low

/-- Two ranges share no byte. -/
def Apart (a n b m : Nat) : Prop := a + n ≤ b ∨ b + m ≤ a

end Sys2Proof.Claims

open Sys2Proof.Claims

/-- R246 to R248, R108, R109, R111, R136, Tables 5-1 and 5-2: `HTEST` gives the word and whether it is VALUE, which then is an acquire; `FORCE` gives the word of a VALUE
handle, traps `POISON` on a poisoned one with its pointer offset, and claims a SUSPENDED one: the word becomes EVALUATING, the claim
record names the thread, a forcing frame of 16 bytes stands in the window stack, and the thread stays at the instruction; `SPARK` puts the
address into the core's pool, which holds 32.
The model's readings in it: log 47. -/
def Obligations.HandleReadResults : Prop :=
  ∀ (s s1 : State) (t : Thread) (p : Fin 8) (name w : Nat), t.oar = none →
    (∀ d pr, Issues s t [.a p] [d] [pr] → HandleAt s s1 t p ⟨true, false, false⟩ name w →
      Runs (.htest d p pr) s (((((if w / 2 ^ 62 = 0 then acquired s1 name else s1).write d (BitVec.ofNat 64 w))).modMe
        (fun u => u.setP pr (w / 2 ^ 62 == 0))).advance t)) ∧
    (∀ d, Issues s t [.a p] [d] [] → HandleAt s s1 t p ⟨true, false, false⟩ name w → t.walk = none → w / 2 ^ 58 % 16 ≤ 9 →
      (w / 2 ^ 62 = 0 → Runs (.force d p) s (((acquired (s1.modMe (fun u => { u with walk := none })) name).write d (BitVec.ofNat 64 w)).advance t)) ∧
      (w / 2 ^ 62 = 3 → w / 2 ^ 8 % 2 ^ 40 = 0 → w % 256 = 1 ∨ w % 256 = 2 →
        Runs (.force d p) s ((s1.modMe (fun u => { u with walk := none })).userTrap 0x0B (t.av p) t.pc)) ∧
      (w / 2 ^ 62 = 1 → w / 2 ^ 32 % 2 ^ 16 = 0 → t.wsp.toNat + 16 ≤ t.wsl.toNat → s1.claimOf? name = none →
        s1.waiterFree (bankOf name) = true → Apart name 8 (s1.stackKey t t.wsp.toNat) 16 →
        ∃ s' u c f, Runs (.force d p) s s' ∧ s'.me = some u ∧ u.pc = t.pc ∧ u.status = .ready ∧ u.wsp = t.wsp + 16 ∧
          s'.claimOf? name = some c ∧ (∃ b, c.claimant = some (t.id, b)) ∧ c.cell = w % 2 ^ 32 ∧ s'.rawNat name 8 / 2 ^ 62 = 2 ∧
          (u.walk.map (·.frames)) = some [f] ∧ f.pa = name ∧ RegsBut t u [])) ∧
    (Issues s t [.a p] [] [] → (t.segs[p]).grants (t.av p).toNat 8 ⟨true, false, false⟩ = true →
      let va := t.segs[p].base.toNat + (t.av p).toNat
      va % 8 = 0 → Runs (.spark p) s ((s.modCore s.cur.core (fun k =>
        { k with sparks := k.sparks ++ if k.sparks.length < 32 then [(t.id.ctx.toNat, va)] else [] })).advance t))

/-- R243 to R245, R249, R105, R118, Tables 5-1, 5-4 and 5-6: with the thread drained, over a handle word that is VALUE or POISON: `HVAL` writes
a VALUE word for its tile, as a release at `.pk`; `SUSP`, where the arena grants a cell and Table 5-5 accepts its operands, a SUSPENDED
word of the result's shape that names the cell; `APPLY` a SUSPENDED word, and a task that forces it. A word that is SUSPENDED or EVALUATING
traps `ILLEGAL` under `HVAL`. `HFILL` of the handle that its program evaluates leaves a VALUE word and no claim record.
The model's readings in it: log 49, 51. -/
def Obligations.HandleWriteResults : Prop :=
  ∀ (s : State) (t : Thread), t.oar = none → t.drained s.cur.core .pk = true →
    (∀ (d x : Fin 8) (sh : TShape) (s1 : State) (name w : Nat), let n := (sh.rows.toNat + 1) * (sh.cols.toNat + 1)
      NotSpark t → Issues s t [.a d, .a x] [] [] → HandleAt s s1 t d ⟨false, true, false⟩ name w →
      s1.grantsTo s.cur.core t.part (bankOf name) name 2 = true →
      TileAt s1 t x ((tileElem sh.fmt).elim 8 (n * ·)) ((tileElem sh.fmt).getD 8) ⟨true, false, false⟩ →
      (w / 2 ^ 62 ∈ [0, 3] → ∃ s' u, Runs (.hval d x sh) s s' ∧ s'.me = some u ∧ u.pc = s'.succ t ∧ RegsBut t u [] ∧
        Stored s1 s' name (leBytes 8 (handleOf 0 (tileCode sh.fmt) sh.rows.toNat sh.cols.toNat
          (t.segs[x].base.toNat + (t.av x).toNat))) ∧
        ⟨name / 8 * 8, .pk, s.logOf s.cur.core, s.cur.slot⟩ ∈ s'.relRec) ∧
      (w / 2 ^ 62 ∈ [1, 2] → ∃ s' : State, Runs (.hval d x sh) s (s'.userTrap 0x01 (t.av d) t.pc) ∧ s'.mem = s1.mem)) ∧
    (∀ (d x : Fin 8) (y : Option (Fin 8)) (pl : Fin 8) (op : TileOp) (res : Option TFmt) (s1 s2 s3 : State)
      (dn w xn wx yn wy r rows cols idx : Nat),
      let ws := wx :: (y.map (fun _ => wy)).toList
      let key := s3.cellAt t idx
      NotSpark t → Issues s t ([.a d, .a x] ++ y.toList.map Operand.a ++ [.a pl]) [] [] → t.walk = none →
      HandleTo s s1 t d ⟨false, true, false⟩ dn → HandleTo s1 s2 t x ⟨true, false, false⟩ xn →
      (y = none ∧ s3 = s2 ∨ ∃ p, y = some p ∧ HandleTo s2 s3 t p ⟨true, false, false⟩ yn ∧ WordAt s3 t yn wy) →
      WordAt s3 t xn wx → WordAt s3 t dn w → s3.grantsTo s.cur.core t.part (bankOf dn) dn 2 = true → s3.grantsTo s.cur.core t.part (bankOf key) key 2 = true →
      tileResult (TileOp.cell op).1 (TileOp.cell op).2 (res.map tileCode) ws = some (r, rows, cols) → 1 ≤ rows → 1 ≤ cols →
      rows ≤ 32 → cols ≤ 32 →
      TileAt s3 t pl (placeBytes r rows cols) (tileAlign r) ⟨false, true, false⟩ → s3.allocCell t = some idx →
      Apart dn 8 key 64 → w / 2 ^ 62 ∈ [0, 3] →
      ∃ s' u, Runs (.susp d x y pl op res) s s' ∧ s'.me = some u ∧ u.pc = s'.succ t ∧ RegsBut t u [] ∧
        s'.rawNat dn 8 = handleOf 1 r (rows - 1) (cols - 1) idx ∧
        (s'.ctx t.part t.id.ctx.toNat).suse = (s3.ctx t.part t.id.ctx.toNat).suse + 1 ∧
        idx ∈ (s'.ctx t.part t.id.ctx.toNat).cells) ∧
    (∀ (d : Fin 8) (e : Fin 16) (arg pl : Fin 8) (sh : TShape) (s1 : State) (name w idx : Nat),
      let n := (sh.rows.toNat + 1) * (sh.cols.toNat + 1)
      let k := s1.core s.cur.core
      NotSpark t → Issues s t [.a d, .g e, .a arg, .a pl] [] [] → HandleAt s s1 t d ⟨false, true, false⟩ name w →
      s1.grantsTo s.cur.core t.part (bankOf name) name 2 = true →
      s1.grantsTo s.cur.core t.part (bankOf (s1.cellAt t idx)) (s1.cellAt t idx) 2 = true → TileAt s1 t arg 1 1 ⟨true, false, false⟩ →
      TileAt s1 t pl ((tileElem sh.fmt).elim 4096 (n * ·)) ((tileElem sh.fmt).getD 8) ⟨false, true, false⟩ →
      (t.gv e).getLsbD 0 = false → (t.gv e).toNat / 2 % 32 ≠ 0 → k.taskCount (min t.prio 3) < 64 → s1.allocCell t = some idx →
      Apart name 8 (s1.cellAt t idx) 64 → w / 2 ^ 62 ∈ [0, 3] →
      ∃ s' u x, Runs (.apply d e arg pl sh) s s' ∧ s'.me = some u ∧ u.pc = s'.succ t ∧ RegsBut t u [] ∧
        s'.rawNat name 8 = handleOf 1 (tileCode sh.fmt) sh.rows.toNat sh.cols.toNat idx ∧
        (s'.core s.cur.core).tasks = k.tasks ++ [x] ∧ x.handle.toNat = t.segs[d].base.toNat + (t.av d).toNat ∧ x.applyt = true ∧
        x.entry = (t.gv e).setWidth 19 ∧ x.args.toNat = t.segs[arg].base.toNat + (t.av arg).toNat ∧ x.state = 1 ∧ x.ctx = t.id.ctx) ∧
    (∀ (p : Fin 8) (s1 : State) (name w : Nat) (h : Hold) (l : List Hold) (k : Walk) (f : ForceFrame) (fs : List ForceFrame) (b : Bool),
      Issues s t [.a p] [] [] → HandleAt s s1 t p ⟨false, true, false⟩ name w →
      s1.grantsTo s.cur.core t.part (bankOf name) name 2 = true → t.held = [] →
      t.holds = h :: l → h.walk = some k → k.frames = f :: fs → f.pa = name → s1.claimant? name = some (t.id, b) →
      ∃ s' u, Runs (.hfill p) s s' ∧ s'.me = some u ∧ u.pc = s'.succ t ∧ u.visible = true ∧ RegsBut t u [] ∧
        s'.rawNat name 8 / 2 ^ 62 = 0 ∧ s'.claimOf? name = none)

/-! ## Tasks, draws, messages, barriers, reductions and launches (R162, R251 to R260) -/

namespace Sys2Proof.Claims

/-- The thread runs as a member of the launch with this sequence number, in no evaluation. -/
def InLaunch (t : Thread) (q : BitVec 32) : Prop := (∃ ro st, t.kind = .launch q ro st) ∧ t.holds = []

/-- A draw gives d and the predicate what it has: an index and 1, or all-ones and 0; nothing else of the registers changes (R252). -/
def Draws (d : Operand) (pr : BitVec 5) (s s' : State) (t : Thread) (v : Word) (found : Bool) : Prop :=
  ∃ u, Runs (.next d pr) s s' ∧ s'.me = some u ∧ u.pc = s.succ t ∧ (∀ r ∈ regsOf d, u.cell r = .of v) ∧
    (pr ≠ 0 → u.p pr = found) ∧ u.p 0 = true ∧ RegsBut t u (regsOf d) ∧ s'.mem = s.mem

/-- Identities of the operations of a reduction (Table 12-5). -/
def identities : List (RednOp × Word) :=
  [(.add, 0), (.min, 2 ^ 63 - 1), (.max, 2 ^ 63), (.and, -1), (.or, 0), (.xor, 0), (.fadd, 0), (.fmax, 0xFFF0000000000000)]

/-- A reduction done by one member: d, p31, a visible side effect, and nothing else of the registers (R258, R259). -/
def Reduces (i : Instr) (d : Operand) (s : State) (t : Thread) (v : Word) (p : Bool) : Prop :=
  ∃ s' u, Runs i s s' ∧ s'.me = some u ∧ u.pc = s.succ t ∧ (∀ r ∈ regsOf d, u.cell r = .of v) ∧ u.p 31 = p ∧ u.visible = true ∧
    RegsBut t u (regsOf d) ∧ u.sst = t.sst ∧ s'.mem = s.mem

/-- The thread waits as given, at the same instruction and with the same registers. -/
def Waits (s' : State) (t : Thread) (w : Wait) : Prop :=
  ∃ u, s'.me = some u ∧ u.status = .parked w ∧ u.pc = t.pc ∧ RegsBut t u []

end Sys2Proof.Claims

open Sys2Proof.Claims

/-- R162, R22: with the thread drained, no engine operation of it open and no evaluation under way, `HALT` frees its slot and changes no
memory; a task's descriptor retires; the last thread of a launch ends it, and any other leaves it one live thread fewer. R251, Table 19-6:
`TASK` with no handle puts an eligible descriptor into its core's queue, of its context, image tag and priority, with its entry, argument
block, `fmtp`, `sclp`, `sbud` and draw state; a count above 8 traps `ILLEGAL`. -/
def Obligations.HaltAndTaskResults : Prop :=
  (∀ (s : State) (t : Thread), Issues s t [] [] [] → t.oar = none → t.drained s.cur.core .pd = true → t.engOps = [] → t.holds = [] →
    s.outstanding [t.id] = false → ∃ s', Runs .halt s s' ∧ (s'.slot s.cur.core s.cur.slot).occ = .free ∧ s'.mem = s.mem ∧ s'.placeOf? t.id = none ∧
      (∀ n, t.kind = .task n → s'.desc? n = none) ∧
      ∀ q ro st l, t.kind = .launch q ro st → s.launches.find? (fun x => x.part == t.part && x.seq == q) = some l →
        (l.live ≤ 1 → q ∈ (s'.partn t.part).ended ∧ ∀ x ∈ s'.launches, ¬(x.part = t.part ∧ x.seq = q)) ∧
        (1 < l.live → s'.launches.find? (fun x => x.part == t.part && x.seq == q) = some { l with live := l.live - 1 })) ∧
  (∀ (s : State) (t : Thread) (e : Fin 16) (arg : Fin 8) (n : Fin 16), Issues s t [.g e, .a arg, .g n] [] [] →
    let k := s.core s.cur.core
    (8 < (t.gv n).toNat → Runs (.task e arg n) s (s.userTrap 0x01 (t.gv n) t.pc)) ∧
    (t.gv n = 0 → NotSpark t → t.oar = none → t.drained s.cur.core .pk = true → (t.gv e).getLsbD 0 = false →
      (t.gv e).toNat / 2 % 32 ≠ 0 → TileAt s t arg 1 1 ⟨true, false, false⟩ → k.taskCount (min t.prio 3) < 64 →
      (∀ x ∈ k.tasks, x.num ≠ s.nextTag) →
      ∃ s' u x, Runs (.task e arg n) s s' ∧ s'.me = some u ∧ u.pc = s.succ t ∧ u.visible = true ∧ RegsBut t u [] ∧ s'.mem = s.mem ∧
        (s'.core s.cur.core).tasks = k.tasks ++ [x] ∧ x.state = 1 ∧ x.depc = 0 ∧ x.ctx = t.id.ctx ∧ x.itag = k.itag ∧
        x.entry = (t.gv e).setWidth 19 ∧ x.args = BitVec.ofNat 48 (t.segs[arg].base.toNat + (t.av arg).toNat) ∧
        x.prio.toNat = min t.prio 3 ∧ x.fmtp = t.fmtp.setWidth 48 ∧ x.sclp = t.sclp.setWidth 48 ∧ x.sbud = t.sbud ∧ x.cds = t.cds ∧
        x.restart = 0 ∧ x.applyt = false))

/-- R252, R253, R20: `NEXT` takes the lowest index of the range unit of its launch on its home core, with its predicate 1; with no index
left, none on its way and no core to steal from it gives all-ones and 0; otherwise it waits for a steal, and takes the index or the
exhaustion that it brings. `RANGE` gives hi and lo and changes nothing. A task's traps `ILLEGAL` with value 0.
The model's readings in it: log 55. -/
def Obligations.DrawResults : Prop :=
  ∀ (s : State) (t : Thread) (q : BitVec 32) (d : Operand),
    let home := s.homeOf t
    let unit := s.rangeOf? home t.part q.toNat
    (s.core home).marks = [] → (home ≠ s.cur.core → s.fenced home = false) →
    (∀ pr, Issues s t [] [d] [pr] → InLaunch t q →
      (∀ r, t.carried = none → unit = some r → r.lo < r.hi →
        ∃ s', Draws d pr s s' t (BitVec.ofNat 64 (r.lo % 2 ^ 32)) true ∧ s'.rangeOf? home t.part q.toNat = some { r with lo := r.lo + 1 }) ∧
      (∀ r, t.carried = none → unit = some r → r.hi ≤ r.lo → (∀ x ∈ s.steals, ¬(x.thief = home ∧ x.part = t.part ∧ x.seq = q.toNat)) →
        (s.victims home r = [] → ∃ s', Draws d pr s s' t (BitVec.allOnes 64) false) ∧
        (∀ v l, s.victims home r = v :: l → ∃ s' x, Runs (.next d pr) s s' ∧ s'.steals = s.steals ++ [x] ∧ x.thief = home ∧
          x.victim = v ∧ x.left = l ∧ x.who = [t.id] ∧ x.part = t.part ∧ x.seq = q.toNat ∧ Waits s' t (.next x.tag))) ∧
      (∀ v, t.carried = some (0, v) → ∃ s', Draws d pr s s' t v true) ∧
      (∀ v, t.carried = some (1, v) → ∃ s', Draws d pr s s' t (BitVec.allOnes 64) false)) ∧
    (Issues s t [] [d] [] → InLaunch t q →
      Runs (.range d) s ((s.write d (match unit with
        | some r => BitVec.ofNat 64 (r.hi % 2 ^ 32 * 2 ^ 32 + r.lo % 2 ^ 32)
        | none => 0)).advance t)) ∧
    (∀ n pr, Issues s t [] [d] [pr] → Issues s t [] [d] [] → t.kind = .task n →
      Runs (.next d pr) s (s.userTrap 0x01 0 t.pc) ∧ Runs (.range d) s (s.userTrap 0x01 0 t.pc))

/-- R255, R256, R40: `SEND` reads its sources and traps `ILLEGAL` for a word that names no slot; else it sends its value to the slot and waits,
and then, with no source read again, gives d the answer that came. `QCNT` counts the entries of a queue, with none popped. R257: `BAR.ln` only goes on; away from its home core a
member first migrates home; there, drained in the extent of its scope, it joins the group of its unit and waits, and goes on once the
group has completed; a task's traps `ILLEGAL` with value 0.
The model's readings in it: log 53, 54. -/
def Obligations.MessageAndBarrierResults : Prop :=
  (∀ (s : State) (t : Thread) (d : Operand),
    (∀ (x : Fin 16) (y : Operand) (r : Word), Issues s t [] [d] [] → t.carried = some (3, r) →
      Runs (.send d x y) s (((s.modMe (fun u => { u with carried := none, spare := false })).write d r).advance t)) ∧
    (∀ (x : Fin 16) (y : Operand), Issues s t [.g x, y] [d] [] →
      let n := (t.gv x).toNat
      ((∀ r, t.carried ≠ some (3, r)) → (∀ m ∈ s.sends, m.who ≠ t.id) →
        (2 ^ 15 ≤ n ∨ 3968 ≤ n % 4096 → Runs (.send d x y) s ((s.pop y).userTrap 0x01 (t.gv x) t.pc)) ∧
        (n < 2 ^ 15 → n % 4096 < 3968 → NotSpark t → ∃ (s' : State) (m : SendMsg), Runs (.send d x y) s s' ∧
          s'.sends = s.sends ++ [m] ∧ m.who = t.id ∧ m.part = t.part ∧ m.lcore = n % 4096 ∧ m.slot.val = n / 4096 % 8 ∧
          m.val = s.peek t y ∧ m.src = s.cur.core ∧ m.there = false ∧ Waits s' t (.send m.lcore m.slot) ∧ s'.mem = s.mem))) ∧
    (Issues s t [] [d] [] →
      (∀ k, (∀ e ∈ (s.core s.cur.core).q[k], ∃ w, e = .val w) →
        Runs (.qcnt d (.q k)) s ((s.write d (BitVec.ofNat 64 ((s.core s.cur.core).q[k]).length)).advance t)) ∧
      Runs (.qcnt d .rq) s ((s.write d (BitVec.ofNat 64 (s.slot s.cur.core s.cur.slot).rq.length)).advance t))) ∧
  (∀ (s : State) (t : Thread) (sc : Scope), Issues s t [] [] [] →
    (∀ n, t.kind = .task n → Runs (.bar sc) s (s.userTrap 0x01 0 t.pc)) ∧
    ∀ q, InLaunch t q →
      Runs (.bar .ln) s (s.advance t) ∧
      (sc ≠ .ln → s.cur.core ≠ s.homeOf t → MayLeave s t t.id.hcore.toNat →
        ∃ s', Runs (.bar sc) s s' ∧ Leaves s s' t t.id.hcore.toNat) ∧
      (sc ≠ .ln → s.cur.core = s.homeOf t →
        (∀ v, t.carried = some (4, v) → Runs (.bar sc) s ((s.modMe (fun u => { u with carried := none })).advance t)) ∧
        ((∀ v, t.carried ≠ some (4, v)) → (∀ g ∈ s.bars, t.id ∉ g.members) → t.oar = none → t.drained s.cur.core sc = true →
          ∃ s' g, Runs (.bar sc) s s' ∧ g ∈ s'.bars ∧ t.id ∈ g.members ∧ g.part = t.part ∧ g.seq = q ∧ g.scope = sc ∧
            g.unit = unitNo sc s.cur.core ∧ Waits s' t (.bar g.id) ∧ s'.mem = s.mem)))

/-- R258, R259, Tables 12-5 and 12-6: `REDN` with count 0 gives the identity of its operation and p31 = 0, and with count 1 its own operand
and p31 = 1; a count above the live members traps `REDCOUNT` (0x12); a count that the live members allow joins a group with its operand
and waits, and then takes the result with p31 = 1. R351: while a full group of the unit and the operation has not completed, it waits before it
joins one. -/
def Obligations.NetworkReductionResults : Prop :=
  ∀ (s : State) (t : Thread) (d : Operand) (x n : Fin 16) (op : RednOp) (sc : Scope),
    let i := Instr.redn d x n op sc
    let k := (t.gv n).toNat
    let live := s.liveIn t.part t.id.ctx.toNat sc (unitNo sc s.cur.core)
    sc ≠ .ln → Issues s t [.g x, .g n] [d] [31] → NotSpark t →
    (∀ v, t.carried = some (2, v) → ∃ s' u, Runs i s s' ∧ s'.me = some u ∧ u.pc = s.succ t ∧ (∀ r ∈ regsOf d, u.cell r = .of v) ∧
      u.p 31 = true ∧ RegsBut t u (regsOf d) ∧ s'.mem = s.mem) ∧
    (t.carried = none → (∀ g ∈ s.redns, ∀ m ∈ g.members, m.1 ≠ t.id) →
      (1 < k → live < k → Runs i s (s.userTrap 0x12 (t.gv n) t.pc)) ∧
      (t.oar = none → t.drained s.cur.core sc = true →
        (∀ v, (op, v) ∈ identities → k = 0 → Reduces i d s t v false) ∧
        (k = 1 → Reduces i d s t (t.gv x) true) ∧
        (1 < k → k ≤ live → (∃ g ∈ s.redns, g.part = t.part ∧ g.ctx = t.id.ctx.toNat ∧ g.scope = sc ∧ g.unit = unitNo sc s.cur.core ∧ g.op = op ∧
          g.count ≤ g.members.length) → Runs i s (s.park .issue)) ∧
        (1 < k → k ≤ live → (∀ g ∈ s.redns, g.members.length < g.count) → ∃ s' g, Runs i s s' ∧ g ∈ s'.redns ∧ (∃ m ∈ g.members, m.1 = t.id ∧ m.2.2 = t.gv x) ∧ g.part = t.part ∧
          g.ctx = t.id.ctx.toNat ∧ g.scope = sc ∧ g.op = op ∧ g.count = k ∧ g.members.length ≤ k ∧ Waits s' t (.redn g.id) ∧
          s'.mem = s.mem)))

/-- R260, R293: `LAUNCH` of a record of its own context, in its own scratchpad, with room in its die's device queue: the record enters the
queue, its priority no higher than the issuer's, and d is its launch sequence number: the partition's last one plus 1.
The model's readings in it: log 46. -/
def Obligations.LaunchResults : Prop :=
  ∀ (s : State) (t : Thread) (d : Operand) (p : Fin 8) (off : Nat),
    let va := t.segs[p].base.toNat + (t.av p).toNat
    let key := spKey Config.pkg s.cur.core off
    let w := s.rawNat key 64
    let prio := w / 2 ^ 31 % 4
    let die := coreDie s.cur.core
    Issues s t [.a p] [d] [] → NotSpark t → t.prio ≤ 3 → t.oar = none → t.drained s.cur.core .pk = true →
    (t.segs[p]).grants (t.av p).toNat 64 ⟨true, false, false⟩ = true → va % 64 = 0 →
    s.cur.core < 4096 → s.spaceOf s.cur.core va = some (.sp Config.pkg s.cur.core off) → (s.core s.cur.core).xb.toNat ≤ off →
    s.hallHit s.cur.core va 64 false = false → Sound s → s.cacheBad = [] → s.lineAhead s.cur.core t.id (lineOf key) = false →
    (w / 2 ^ 19 % 2 ^ 12 ≠ t.id.ctx.toNat → Runs (.launch d p) s (s.userTrap 0x01 (BitVec.ofNat 64 (w / 2 ^ 19 % 2 ^ 12)) t.pc)) ∧
    (w / 2 ^ 19 % 2 ^ 12 = t.id.ctx.toNat → (s.devQ.filter (fun x => x.1 == die)).length < 16 →
      ∃ s' u r, Runs (.launch d p) s s' ∧ s'.me = some u ∧ u.pc = s.succ t ∧ s'.devQ = s.devQ ++ [(die, r)] ∧ r.part = t.part ∧
        (∀ n, (s.partn t.part).seq = some n → r.seq = n + 1) ∧ (s'.partn t.part).seq = some r.seq ∧
        r.bytes = leBytes 64 (w - prio * 2 ^ 31 + max prio t.prio * 2 ^ 31) ∧
        (∀ x ∈ regsOf d, u.cell x = .of (r.seq.setWidth 64)) ∧ RegsBut t u (regsOf d) ∧ u.visible = true ∧ s'.mem = s.mem)

/-! ## Privileged instructions (R275 to R285) -/

namespace Sys2Proof.Claims

/-- Eight lines of a save block at a pointer, in the own scratchpad at an offset at or above `xb`, with the right asked for. -/
def OwnBlock (s : State) (t : Thread) (p : Fin 8) (off : Nat) (write : Bool) : Prop :=
  let va := t.segs[p].base.toNat + (t.av p).toNat
  s.cur.core < 4096 ∧ (t.segs[p]).grants (t.av p).toNat 512 ⟨!write, write, false⟩ = true ∧ va % 64 = 0 ∧ (s.core s.cur.core).xb.toNat ≤ off ∧
  s.hallHit s.cur.core va 512 write = false ∧ (s.rangeSpace s.cur.core va 512).isSome = true ∧
  ∀ i < 8, s.spaceOf s.cur.core (va + 64 * i) = some (.sp Config.pkg s.cur.core (off + 64 * i))

/-- The instruction is complete with this value in d: the thread is at the next head, and its other registers stay. -/
def Gives (i : Instr) (s s' : State) (t : Thread) (d : Operand) (v : Word) : Prop :=
  ∃ u, Runs i s s' ∧ s'.me = some u ∧ u.pc = s'.succ t ∧ u.status = .ready ∧ (∀ r ∈ regsOf d, u.cell r = .of v) ∧ RegsBut t u (regsOf d)

/-- A target word names a slot of a core whose die grants CFG to the thread's partition (R255, R273, R275). -/
def MayTarget (s : State) (t : Thread) (n : Nat) : Prop :=
  n < 2 ^ 15 ∧ n % 4096 < 3968 ∧ (s.rights 2 (coreDie (s.physOf (n % 4096))) t.part).getLsbD 4 = true

/-- A rectangle word of R280. -/
def RectOk (n : Nat) : Prop := n < 2 ^ 13 ∧ n / 2 ^ 3 % 4 ≤ n / 2 ^ 5 % 4 ∧ n / 2 ^ 7 % 8 ≤ n / 2 ^ 10 % 8

end Sys2Proof.Claims

open Sys2Proof.Claims

/-- R276 to R285, in supervisor mode with the operands ready. `IDLE` takes a held doorbell. `CTXSV` saves the thread of another slot that
is at a boundary and drained, and leaves the slot free; `CTXLD` brings a block's thread to a free slot, READY at its saved PC. `TLBINV`
tells every port. `DIAGST` and `DIAGLD` write and read a word pair of an accumulator with its check bits, or send an access that does.
`DETAIN` starts a Detention, or is held back or absorbed by one in progress (R330); `LMAPW` binds a logical id to an idle core; `SCANT` tests an idle core; `DFRZ` starts a freeze; `SLOTKILL`,
`SLOTKILL.ctx` and `PREEMPT` act on the thread that a word names, at its arrival where it is on its way, and one kill is all that it gets;
`MATW` sets rights.
The model's readings in it: log 20, 64, 65, 66, 67, 68, 70. -/
def Obligations.PrivilegedResults : Prop :=
  ∀ (s : State) (t : Thread) (d : Operand) (x y z : Fin 16) (p : Fin 8), t.mode = true →
    let c := s.cur.core
    let n := (t.gv x).toNat
    (Issues s t [] [] [] → (s.slot c s.cur.slot).bell = true →
      Runs .idle s ((s.modSlot c s.cur.slot (fun sl => { sl with bell := false })).advance t)) ∧
    (∀ off, Issues s t [.g x, .a p] [d] [] → t.carried = none → t.oar = none → n < 8 → OwnBlock s t p off true →
      (s.threadAt c (Fin.ofNat 8 n) = none → Runs (.ctxsv d x p) s (s.takeAnswer t d 0)) ∧
      (Fin.ofNat 8 n = s.cur.slot → Runs (.ctxsv d x p) s (s.takeAnswer t d 0)) ∧
      (∀ u, s.threadAt c (Fin.ofNat 8 n) = some u → u.id ≠ t.id → (u.status = .ready ∧ u.answered = false) ∨ u.status = .parked .issue →
        u.oar = none → u.drained c .pd = true → u.lead = false → u.unsound = false → s.badRecv u = false →
        ∃ s', Gives (.ctxsv d x p) s s' t d 1 ∧ (s'.slot c (Fin.ofNat 8 n)).occ = .free ∧
          ∃ e ∈ (s'.core (s.homeOf u)).saved, e.t.id = u.id ∧ e.manual = true ∧
            e.lines = (List.range 8).map (fun i => spKey Config.pkg c (off + 64 * i)))) ∧
    (∀ off, let b := s.raw (spKey Config.pkg c off) 512
      let id := blockId b
      Issues s t [.g x, .a p] [d] [] → t.oar = none → n < 8 → OwnBlock s t p off false → Sound s → s.cacheBad = [] →
      (∀ i < 8, s.lineAhead c t.id (lineOf (spKey Config.pkg c (off + 64 * i))) = false) →
      (s.centry t.part id.ctx.toNat).testBit 451 = true → id.hcore.toNat < 3968 →
      (s.threadAt c (Fin.ofNat 8 n) ≠ none → Runs (.ctxld d x p) s (s.takeAnswer t d 0)) ∧
      ((s.slot c (Fin.ofNat 8 n)).occ = .free → BitVec.ofNat 16 (blockField b 216 8 / 2 ^ 25) = (s.core c).itag →
        ∃ s' v, Gives (.ctxld d x p) s s' t d 1 ∧ (s'.slot c (Fin.ofNat 8 n)).occ = .thread v ∧ v.status = .ready ∧
          v.pc = BitVec.ofNat 64 (blockField b 0 8 % 2 ^ 19) ∧ v.id.ctx = id.ctx ∧ v.id.hcore = id.hcore ∧ v.id.hslot = id.hslot ∧
          (∀ k : Fin 16, (v.gv k).toNat = blockField b (16 + 8 * k.val) 8) ∧
          (∀ k : Fin 8, (v.av k).toNat = blockField b (144 + 8 * k.val) 8) ∧ s'.mem = s.mem)) ∧
    (∀ (i : Instr) (l : List Operand) (page : Option (Nat × Nat)) (whole : Bool),
      (i, l, page, whole) ∈ [(Instr.tlbinvCtx, ([] : List Operand), (none : Option (Nat × Nat)), false),
        (.tlbinvPage x, [.g x], some (n, 1), false), (.tlbinvPart, [], none, true)] → Issues s t l [] [] →
      (∀ v, t.carried = some (9, v) → Runs i s ((s.modMe (fun u => { u with carried := none })).advance t)) ∧
      (t.carried = none → t.oar = none → t.drained c .pk = true → ∃ s' v, Runs i s s' ∧ s'.invals = s.invals ++ [v] ∧
        v.ctx = t.id.ctx.toNat ∧ v.part = t.part ∧ v.page = page ∧ v.whole = whole ∧ v.who = some t.id ∧ (∀ q < 1024, q ∈ v.left) ∧
        Waits s' t (.remote v.tag) ∧ s'.mem = s.mem)) ∧
    (t.oar = none → let a := BitVec.ofNat 4 (n / 1024)
      let j := n % 1024
      let w := (s.core c).accWords a
      (Issues s t [.g x, .g y, .g z] [] [] →
        (n < 2 ^ 14 → n % 2 = 0 → ∃ s', Runs (.diagst x y z .acc) s s' ∧ s'.me = some { t with pc := s.succ t, status := .ready } ∧
          (s'.core c).accWords a = (w.set j ((t.gv y).toNat % 2 ^ 32)).set (j + 1) ((t.gv y).toNat / 2 ^ 32) ∧
          (s'.core c).accSyndAt a (j / 2) = (t.gv z).setWidth 8 ^^^ ecc (t.gv y) ∧ s'.mem = s.mem) ∧
        (∀ off, c < 4096 → s.spaceOf c n = some (.sp Config.pkg c off) → n % 8 = 0 → 0x800000000000 ≤ n → n < 0x802000000000 →
          ∃ (s' : State) (m : Msg), Runs (.diagst x y z .sp) s s' ∧ m ∈ s'.net ∧ m.pa = spKey Config.pkg c off ∧ m.who = t.id ∧
            m.op = .diagSt (t.gv y) ((t.gv z).setWidth 8) false ∧ s'.mem = s.mem)) ∧
      (Issues s t [.g x] [d, .g z] [] →
        (n < 2 ^ 14 → n % 2 = 0 → let v := BitVec.ofNat 64 (w.getD j 0 + w.getD (j + 1) 0 * 2 ^ 32)
          Runs (.diagld d x z .acc) s (((s.write d v).write (.g z)
            (((s.core c).accSyndAt a (j / 2) ^^^ ecc v).setWidth 64)).advance t)) ∧
        (∀ off, c < 4096 → s.spaceOf c n = some (.sp Config.pkg c off) → n % 8 = 0 → 0x800000000000 ≤ n → n < 0x802000000000 →
          ∃ (s' : State) (m : Msg), Runs (.diagld d x z .sp) s s' ∧ m ∈ s'.net ∧ m.pa = spKey Config.pkg c off ∧ m.who = t.id ∧
            m.op = .diagLd z false ∧ s'.mem = s.mem))) ∧
    (Issues s t [.g x] [d] [] →
      (∀ v, t.carried = some (8, v) → Runs (.detain d x) s (s.takeAnswer t d v)) ∧
      (RectOk n → inRect n c = false → (s.rights 2 (n % 8) t.part).getLsbD 4 = true → t.carried = none →
        ((∀ e ∈ s.detentions, e.stage ≠ 0 → rectsMeet e.rect n = false) →
          ∃ s' e, Runs (.detain d x) s s' ∧ e ∈ s'.detentions ∧ e.who = some t.id ∧ e.origin = c ∧ e.rect = n ∧ e.stage = 1 ∧ e.lost = 0 ∧
            Waits s' t (.remote e.id) ∧ ∀ k ∈ rectCores n, (s'.core k).stopped = true) ∧
        ((∃ e ∈ s.detentions, e.stage ≠ 0 ∧ rectsMeet e.rect n = true) →
          (∀ e ∈ s.detentions, e.stage ≠ 0 → rectsMeet e.rect n = true → inRect e.rect c = false) →
          ∃ s' e, Runs (.detain d x) s s' ∧ s'.detentions = s.detentions ++ [e] ∧ e.who = some t.id ∧ e.origin = c ∧ e.rect = n ∧
            e.stage = 0 ∧ Waits s' t (.remote e.id)) ∧
        ((∃ e ∈ s.detentions, e.stage ≠ 0 ∧ rectsMeet e.rect n = true ∧ inRect e.rect c = true) →
          ∃ s' w, Runs (.detain d x) s s' ∧ s'.detentions = s.detentions ∧ Waits s' t (.remote w))) ∧
      (¬RectOk n ∨ inRect n c = true → t.carried = none → Runs (.detain d x) s (s.userTrap 0x01 (s.encHere t) t.pc))) ∧
    (Issues s t [.g x, .g y] [d] [] → let new := (t.gv y).toNat
      n < 3968 → new < 4096 → new / 512 = n / 496 → (s.rights 2 (n / 496) t.part).getLsbD 4 = true →
      (new = s.physOf n → (s.core new).scan = none → Runs (.lmapw d x y) s ((s.write d (t.gv y)).advance t)) ∧
      (new = s.physOf n → (s.core new).scan ≠ none → Runs (.lmapw d x y) s ((s.write d (BitVec.allOnes 64)).advance t)) ∧
      (new ≠ s.physOf n → s.logOf? new ≠ none ∨ s.coreIdle (s.physOf n) = false ∨ s.coreIdle new = false →
        Runs (.lmapw d x y) s ((s.write d (BitVec.allOnes 64)).advance t)) ∧
      (new ≠ s.physOf n → s.logOf? new = none → s.coreIdle (s.physOf n) = true → s.coreIdle new = true →
        ∃ s', Gives (.lmapw d x y) s s' t d (BitVec.ofNat 64 (s.physOf n)) ∧ s'.physOf n = new ∧
          (∀ l, l ≠ n → s'.physOf l = s.physOf l) ∧ s'.mem = s.mem)) ∧
    (Issues s t [.g x] [d] [] →
      (∀ v, t.carried = some (6, v) → Runs (.scant d x) s (s.takeAnswer t d v)) ∧
      (t.carried = none → n < 3968 → (s.rights 2 (n / 496) t.part).getLsbD 4 = true →
        (s.physOf n = c ∨ s.coreIdle (s.physOf n) = false → Runs (.scant d x) s ((s.write d 3).advance t)) ∧
        (s.physOf n ≠ c → s.coreIdle (s.physOf n) = true → ∃ s' e, Runs (.scant d x) s s' ∧
          (s'.core (s.physOf n)).scan = some e ∧ e.who = some t.id ∧ e.at_ = s.time.toNat ∧ e.abort = none ∧
          Waits s' t (.remote e.id)))) ∧
    (Issues s t [] [] [] →
      (∀ v, t.carried = some (7, v) → Runs .dfrz s ((s.modMe (fun u => { u with carried := none })).advance t)) ∧
      (t.carried = none → ∃ s' f, Runs .dfrz s s' ∧ s'.fatals = s.fatals ++ [f] ∧ f.part = s.partOf c ∧ f.cause = 0x80 ∧ f.pc = t.pc ∧
        f.who = some t.id ∧ (∃ id, Waits s' t (.remote id)) ∧ s'.mem = s.mem)) ∧
    (Issues s t [.g x] [d] [] → MayTarget s t n →
      (∀ i ∈ [Instr.slotkill d x, .slotkillCtx d x, .preempt d x], s.target? n = none → Runs i s ((s.write d 0).advance t)) ∧
      ∀ u, s.target? n = some u →
        (u.doomed = true → Runs (.slotkill d x) s ((s.write d 0).advance t) ∧ Runs (.slotkillCtx d x) s ((s.write d 0).advance t)) ∧
        (u.doomed = false → s.placeOf? u.id ≠ none →
          (∃ s', Runs (.slotkill d x) s s' ∧ s'.placeOf? u.id = none ∧ (u.id ≠ t.id → ∃ v, s'.me = some v ∧
            v.pc = s.succ t ∧ (∀ r ∈ regsOf d, v.cell r = .of 1) ∧ RegsBut t v (regsOf d))) ∧
          (∃ s' f, Runs (.slotkillCtx d x) s s' ∧ s'.ctxThreads u.part u.id.ctx.toNat = [] ∧ s'.fatals = s.fatals ++ [f] ∧
            f.part = s.partOf c ∧ f.who = some u.id ∧ f.ctx = some u.id.ctx.toNat)) ∧
        (u.doomed = false → s.placeOf? u.id = none → s.thread? u.id = some u →
          (∃ s' v, Gives (.slotkill d x) s s' t d 1 ∧ s'.thread? u.id = some v ∧ v.pending = some .kill ∧ s'.mem = s.mem) ∧
          (∃ s' v cause, Gives (.slotkillCtx d x) s s' t d 1 ∧ s'.thread? u.id = some v ∧ v.pending = some (.killCtx c cause) ∧
            s'.fatals = s.fatals ∧ s'.mem = s.mem)) ∧
        (u.prio = 0 → Runs (.preempt d x) s ((s.write d 0).advance t)) ∧
        (u.prio ≠ 0 → u.pending = none → s.thread? u.id = some u → ∃ s' v, Gives (.preempt d x) s s' t d 1 ∧ s'.thread? u.id = some v ∧ v.pending = some .preempt ∧ s'.mem = s.mem)) ∧
    (Issues s t [.g x, .g y, .g z] [d] [] → let kind := n / 4096
      let idx := n % 4096
      let part := (t.gv y).toNat
      let r := (t.gv z).toNat
      n < 2 ^ 14 → idx < [96, 16, 8, 16].getD kind 0 → part < 16 → r < 32 → (s.rights kind idx t.part).getLsbD 4 = true →
      ∃ s', Gives (.matw d x y z) s s' t d ((s.rights kind idx part).setWidth 64) ∧ (s'.rights kind idx part).toNat = r ∧
        (∀ k i q, (k, i, q) ≠ (kind, idx, part) → s'.rights k i q = s.rights k i q) ∧ s'.mem = s.mem)

/-! ## What reaches a core and what fills its slots (R20 to R37, R255) -/

namespace Sys2Proof.Claims

/-- The segment set of a context can be read: its slices grant R, and no stored word has an error (R49, R273, R319). -/
def SegsRead (s : State) (part ctx : Nat) (sup : Bool) : Prop :=
  Sound s ∧ ∀ i : Fin 8, s.grants (bankOf (s.segBase part ctx sup + 16 * i.val)) part 1 = true

end Sys2Proof.Claims

open Sys2Proof.Claims

/-- R29, R36, R255, R26, R28: a wake makes the thread READY that still waits for it, and changes no other. A deposit enters the buffer of its
thread's core while that has room, lands in its register once that is EMPTY, but not in the cycle of an `EMPT` of it, and is discarded where
its slot holds no thread; one for a thread that is away by migration goes to the core where the thread is. A message is
accepted into a queue with room, waits at a full one, and is discarded where its slot is free; its sender learns which. A migrating thread
takes its home slot, with the segments of its context, or else enters the inbound buffer while that has room. R347, R349: each waits for what left its sender for the
same core before it, a wake for what left its slice for its line.
The model's readings in it: log 11, 60, 61, 69, 92, 98. -/
def Obligations.ArrivalsAtACore : Prop :=
  (∀ (s : State) (i : Nat) (w : Wake) (c : Nat) (j : Fin 8) (t : Thread), s.wakes.find? (fun x => x.tag == i) = some w →
    s.placeOf? w.who = some (c, j) → s.threadAt c j = some t → s.fenced c = false →
    (s.wakeNext w c = false → Runs (.wakeMessage i) s s) ∧
    (s.wakeNext w c = true → ∃ s', Runs (.wakeMessage i) s s' ∧ s'.wakes = s.wakes.filter (fun x => x.tag != i) ∧ s'.mem = s.mem ∧
      ((∃ x, w.wait = .inl x ∧ t.status = .parked x ∧ ∀ k, x ≠ .attend k) ∨ (∃ g r, w.wait = .inr g ∧ t.status = .dropped g r) →
        s'.threadAt c j = some { t with status := .ready }) ∧
      (∀ k, w.wait = .inl (.attend k) → t.status = .parked (.attend k) →
        s'.threadAt c j = some { t with status := .ready, carried := some (12, 0) }) ∧
      ((∀ x, w.wait = .inl x → t.status.waits x = false) → (∀ g r, w.wait = .inr g → t.status ≠ .dropped g r) →
        s'.cores = s.cores))) ∧
  (∀ (s : State) (i : Nat) (d : Deposit), s.deps.find? (fun x => x.tag == i) = some d → d.who = none →
    let c := s.physOf d.lcore
    s.fenced c = false →
    (d.src.all (fun x => s.chanFirst x.1 d.lcore d.tag) = false → Runs (.depositArrival i) s s) ∧
    (d.src.all (fun x => s.chanFirst x.1 d.lcore d.tag) = true →
    (∀ t, (s.slot c d.slot).occ = .thread t → t.part = d.part → t.id.ctx.toNat = d.ctx → (s.core c).depBuf.length < 4 →
      ∃ s', Runs (.depositArrival i) s s' ∧ s'.deps = s.deps.filter (fun x => x.tag != i) ∧ s'.mem = s.mem ∧
        (s'.core c).depBuf = (s.core c).depBuf ++ [{ d with who := some t.id }]) ∧
    (∀ t, (s.slot c d.slot).occ = .thread t → t.part = d.part → t.id.ctx.toNat = d.ctx → 4 ≤ (s.core c).depBuf.length →
      Runs (.depositArrival i) s s) ∧
    (∀ w prio st k j, (s.slot c d.slot).occ = .away w prio d.part st → w.ctx.toNat = d.ctx → s.placeOf? w = some (k, j) → s.fenced k = false →
      (s.core k).depBuf.length < 4 → ∃ s', Runs (.depositArrival i) s s' ∧ s'.deps = s.deps.filter (fun x => x.tag != i) ∧ s'.mem = s.mem ∧
        (s'.core k).depBuf = (s.core k).depBuf ++ [{ d with who := some w, slot := j }]) ∧
    ((s.slot c d.slot).occ = .free → (s.slot c d.slot).left = none → ∃ s', Runs (.depositArrival i) s s' ∧ s'.deps = s.deps.filter (fun x => x.tag != i) ∧
      s'.mem = s.mem ∧ (s'.core c).depBuf = (s.core c).depBuf ∧
      ∀ k tag, d.src = some (k, tag) → ∀ o ∈ (s'.core k).copy.queue, o.tag = tag → o.landed = true))) ∧
  (∀ (s : State) (c i : Nat) (j : Fin 8) (d : Deposit) (t : Thread), (s.core c).depBuf.find? (fun x => x.tag == i) = some d →
    d.who = some t.id → s.placeOf? t.id = some (c, j) → s.threadAt c j = some t → s.fenced c = false →
    firstFor d (s.core c).depBuf = true → (s.core c).marks = [] → let r := regOfCode d.code
    ((t.cell r).full = false → (t.cell r).pend = none → t.emptied ≠ some (d.code, s.time.toNat) → ∃ s' u, Runs (.depositLand c i) s s' ∧ s'.threadAt c j = some u ∧
      u.cell r = .of d.val ∧ RegsBut t u [r] ∧ u.pc = t.pc ∧ (s'.core c).depBuf = (s.core c).depBuf.filter (fun x => x.tag != i) ∧
      s'.mem = s.mem) ∧
    ((t.cell r).full = true ∨ (t.cell r).pend ≠ none ∨ t.emptied = some (d.code, s.time.toNat) → Runs (.depositLand c i) s s)) ∧
  (∀ (s : State) (i : Nat) (m : SendMsg) (sender : Thread), s.sends.find? (fun x => x.tag == i) = some m →
    let c := s.physOf m.lcore
    let sl := s.slot c m.slot
    s.fenced c = false → s.thread? m.who = some sender → s.pairHeld m.src m.tag = false →
    (m.there = false → s.chanFirst m.src m.lcore m.tag = false → Runs (.messageArrival i) s s) ∧
    (m.there = true ∨ s.chanFirst m.src m.lcore m.tag = true →
    (∀ t, sl.occ = .thread t → t.part = m.part → t.id.ctx = m.who.ctx → sl.rq.length < 16 →
      ∃ s' u, Runs (.messageArrival i) s s' ∧ (s'.slot c m.slot).rq = sl.rq ++ [m.val] ∧ s'.thread? m.who = some u ∧
        u.carried = some (3, 1) ∧ s'.sends = s.sends.filter (fun x => x.tag != m.tag) ∧ s'.mem = s.mem) ∧
    (∀ t, sl.occ = .thread t → t.part = m.part → t.id.ctx = m.who.ctx → 16 ≤ sl.rq.length → sender.spare = false →
      ∃ s', Runs (.messageArrival i) s s' ∧ { m with there := true } ∈ s'.sends ∧ s'.cores = s.cores ∧ s'.mem = s.mem) ∧
    (sl.occ = .free → ∃ s' u, Runs (.messageArrival i) s s' ∧ (s'.slot c m.slot).rq = sl.rq ∧ s'.thread? m.who = some u ∧
      u.carried = some (3, 0) ∧ s'.sends = s.sends.filter (fun x => x.tag != m.tag) ∧ s'.mem = s.mem))) ∧
  (∀ (s : State) (i : Nat) (m : Mig), s.migs.find? (fun x => x.tag == i) = some m →
    let c := s.physOf m.dest
    let h := m.t.id.hslot
    s.shut c = false → s.migDropped m = false →
    (s.chanFirst m.src m.dest m.tag = false → Runs (.migrationArrival i) s s) ∧
    (s.chanFirst m.src m.dest m.tag = true →
    (∀ prio part st, (s.slot c h).occ = .away m.t.id prio part st → c = s.homeOf m.t → m.t.tag = (s.core c).itag →
      SegsRead s m.t.part m.t.id.ctx.toNat m.t.mode → ∃ s', Runs (.migrationArrival i) s s' ∧ s'.migs = s.migs.filter (fun x => x.tag != i) ∧
        s'.threadAt c h = some { m.t with segs := s.segsFor m.t } ∧ s'.mem = s.mem) ∧
    (c ≠ s.homeOf m.t → (s.core c).migBuf.length < 4 →
      ∃ s', Runs (.migrationArrival i) s s' ∧ s'.migs = s.migs.filter (fun x => x.tag != i) ∧
        (s'.core c).migBuf = (s.core c).migBuf ++ [(m.t, s.logOf m.src)] ∧ s'.mem = s.mem) ∧
    (c ≠ s.homeOf m.t → 4 ≤ (s.core c).migBuf.length → Runs (.migrationArrival i) s s)))

/-- R25, R26, R23, R299: a free slot of a core with nothing SAVED takes a thread of the inbound buffer; else the first eligible task, at its
entry with its argument block in g0, and its descriptor runs; else a spark, below priority 3. A core with a free slot and nothing of its own
to start takes the oldest task that it may place from the first core of its search order that has one. R21: a victim with two indices or
more keeps the lower half, rounded up, and gives the upper; the thief's thread takes its first index; after a failure the next victim is
asked, and after the last the thread learns of exhaustion.
The model's readings in it: log 63, 87, 100. -/
def Obligations.SlotsTasksAndSteals : Prop :=
  (∀ (s : State) (c : Nat) (j : Fin 8), s.shut c = false → (s.slot c j).occ = .free → (s.core c).saved = [] → (s.core c).marks = [] →
    (∀ t src l, (s.core c).migBuf = (t, src) :: l → (s.slotsCtx c = none ∨ s.slotsCtx c = some (t.part, t.id.ctx.toNat)) →
      t.tag = (s.core c).itag → SegsRead s t.part t.id.ctx.toNat t.mode →
      ∃ s', Runs (.slotFill c j) s s' ∧ s'.threadAt c j = some { t with segs := s.segsFor t } ∧
        (s'.core c).migBuf = l.filter (fun x => x.1.id != t.id) ∧ s'.mem = s.mem) ∧
    (∀ d, (s.core c).migBuf = [] → s.nextTask c = some d → d.redun = none →
      SegsRead s (s.partOf c) d.ctx.toNat (entSupv (s.centry (s.partOf c) d.ctx.toNat)) → ∃ s' u x, Runs (.slotFill c j) s s' ∧ s'.threadAt c j = some u ∧ u.pc = d.entry.setWidth 64 ∧ u.kind = .task d.num ∧
        u.prio = d.prio.toNat ∧ u.status = .ready ∧ u.id.ctx = d.ctx ∧ u.id.hslot = j ∧ u.gCell 0 = .of (d.args.setWidth 64) ∧
        u.cds = d.cds ∧ u.sbud = d.sbud ∧ u.fmtp = d.fmtp.setWidth 64 ∧ u.sclp = d.sclp.setWidth 64 ∧ u.pw = 1 ∧
        (∀ n : Fin 16, n ≠ 0 → u.gCell n = .of 0) ∧ (∀ n : Fin 8, u.a[n] = .of 0) ∧
        s'.desc? d.num = some x ∧ x.state = 2 ∧ s'.mem = s.mem) ∧
    (∀ p x va l, (s.core c).migBuf = [] → (s.core c).tasks = [] → s.workCtx c = some (p, x) → (s.core c).sparks = (x, va) :: l → x < 4096 →
      SegsRead s (s.partOf c) x (entSupv (s.centry (s.partOf c) x)) → ∃ s' u, Runs (.slotFill c j) s s' ∧ s'.threadAt c j = some u ∧ u.kind = .spark va ∧ u.prio = 4 ∧ u.gCell 0 = .of 0 ∧
        u.status = .ready ∧ (s'.core c).sparks = l ∧ s'.mem = s.mem)) ∧
  (∀ (s : State) (thief victim : Nat) (d : Desc) (before after : List Nat), s.shut thief = false → s.shut victim = false →
    thief ≠ victim → s.partOf victim = s.partOf thief → (∃ j, (s.slot thief j).occ = .free) → (s.core thief).saved = [] →
    s.nextTask thief = none → (s.core victim).marks = [] → (s.core victim).tasks.find? (s.startable thief) = some d → (s.core thief).taskCount d.prio.toNat < 64 →
    (s.tryOrder (s.logOf thief) (List.range 3968)).map s.physOf = before ++ victim :: after → (∀ c ∈ before, (s.core c).tasks = []) →
    ∃ s', Runs (.taskSteal thief victim) s s' ∧ (s'.core victim).tasks = (s.core victim).tasks.filter (fun x => x.num != d.num) ∧
      (s'.core thief).tasks = (s.core thief).tasks ++ [d] ∧ s'.mem = s.mem) ∧
  (∀ (s : State) (i : Nat) (x : Steal), s.steals.find? (fun y => y.tag == i && y.reply.isNone) = some x →
    let c := s.physOf x.victim
    s.fenced c = false → (s.core c).marks = [] →
    ((s.core c).scan ≠ none → ∃ s', Runs (.stealRequest i) s s' ∧ s'.cores = s.cores ∧ { x with reply := some none } ∈ s'.steals) ∧
    (∀ r, (s.core c).scan = none → s.rangeOf? c x.part x.seq = some r → r.lo + 2 ≤ r.hi → let keep := r.lo + (r.hi - r.lo + 1) / 2
      ∃ s', Runs (.stealRequest i) s s' ∧ s'.rangeOf? c x.part x.seq = some { r with hi := keep } ∧
        { x with reply := some (some (keep, r.hi)) } ∈ s'.steals ∧ s'.mem = s.mem) ∧
    ((s.rangeOf? c x.part x.seq = none ∨ ∃ r, s.rangeOf? c x.part x.seq = some r ∧ r.hi ≤ r.lo + 1) →
      ∃ s', Runs (.stealRequest i) s s' ∧ s'.cores = s.cores ∧ { x with reply := some none } ∈ s'.steals)) ∧
  (∀ (s : State) (i : Nat) (x : Steal), s.steals.find? (fun y => y.tag == i) = some x → s.fenced x.thief = false →
    (∀ r lo hi w t, x.reply = some (some (lo, hi)) → s.rangeOf? x.thief x.part x.seq = some r → lo < hi → x.who = [w] →
      s.thread? w = some t → ∃ s' u, Runs (.stealReply i) s s' ∧
        s'.rangeOf? x.thief x.part x.seq = some { r with lo := lo + 1, hi := hi } ∧ s'.thread? w = some u ∧
        u.carried = some (0, BitVec.ofNat 64 (lo % 2 ^ 32)) ∧ u.drew = lo :: t.drew ∧ (∃ k ∈ s'.wakes, k.who = w ∧ k.wait = .inl (.next i)) ∧
        (∀ y ∈ s'.steals, y.tag ≠ i)) ∧
    (∀ v l, x.reply = some none → x.left = v :: l → ∃ s', Runs (.stealReply i) s s' ∧ s'.cores = s.cores ∧
      { x with victim := v, left := l, reply := none } ∈ s'.steals) ∧
    (∀ w t, x.reply = some none → x.left = [] → x.who = [w] → s.thread? w = some t → ∃ s' u v, Runs (.stealReply i) s s' ∧
      s'.thread? w = some u ∧ u.carried = some (1, v) ∧ (∃ k ∈ s'.wakes, k.who = w ∧ k.wait = .inl (.next i)) ∧
      (∀ y ∈ s'.steals, y.tag ≠ i)))

/-! ## The launch path, barriers and reductions (R17 to R22, R257, R258, R288 to R297) -/

namespace Sys2Proof.Claims

/-- A thread of a launch as R18, R19 and R297 start it: j is its core's place in the rectangle, i its slot. -/
def StartsAs (l : Launch) (j : Nat) (i : Fin 8) (u : Thread) : Prop :=
  let role := BitVec.ofNat 2 (l.r.roles.toNat / 4 ^ i.val)
  let ordinal := j * (l.r.nslot.toNat + 1) + i.val
  u.pc = l.r.entry.setWidth 64 ∧ u.kind = .launch l.seq role (l.r.mode || l.r.redun) ∧ u.prio = l.r.prio.toNat ∧ u.status = .ready ∧
  u.id.ctx = l.r.ctx ∧ u.id.hslot = i ∧ u.gCell 0 = .of (l.r.args.setWidth 64) ∧ u.gCell 1 = .of (role.setWidth 64) ∧
  u.gCell 2 = .of (BitVec.ofNat 64 ordinal) ∧ u.gCell 3 = .of 0 ∧ u.a = Vector.replicate 8 (.of 0) ∧ u.pw = 1 ∧
  u.fmtp = l.r.fmtp.setWidth 64 ∧ u.sclp = l.r.sclp.setWidth 64 ∧ u.sbud = l.r.sbud ∧
  u.cds = BitVec.ofNat 32 (l.seq.toNat * 65536 + ordinal)

/-- Operations of a reduction that no order changes, with their identities (Table 12-5). -/
def foldRows : List (RednOp × (Word → Word → Word) × Word) :=
  [ (.add, fun x y => x + y, 0), (.and, fun x y => x &&& y, BitVec.allOnes 64), (.or, fun x y => x ||| y, 0),
    (.xor, fun x y => x ^^^ y, 0), (.min, fun x y => if x.toInt ≤ y.toInt then x else y, 2 ^ 63 - 1),
    (.max, fun x y => if x.toInt ≤ y.toInt then y else x, 2 ^ 63) ]

/-- A member of a group that completes: it carries its answer, and a wake for its wait is on its way (R29). -/
def Answered (s s' : State) (w : Ident) (wait : Wait) (c : Nat × Word) : Prop :=
  (∃ k ∈ s'.wakes, k.who = w ∧ k.wait = .inl wait) ∧
  ∀ t, s.thread? w = some t → ∃ u, s'.thread? w = some u ∧ u.carried = some c

end Sys2Proof.Claims

open Sys2Proof.Claims

/-- R290 to R293, Tables 19-3 and 19-4: a tail write counts once the module is READY, where the function's access table
grants W (R355), unless it would overfill the ring; before READY it is answered busy (R359). The launch unit
takes the record at the head of a queue that is not empty: the next sequence number, the head moved on, the status entry written where the
slice grants it; an accepted record waits in order with its priority no lower than PMAX, and a refused one's number has ended. A device
record is taken with the number it has, once no line that its checks read is reserved (R125, R307); a refused one posts an event record. A reserved bit or DEPK 3 gives status 1, and a context that
is not LIVE status 2.
The model's readings in it: log 46, 57, 76, 78. -/
def Obligations.LaunchRecordResults : Prop :=
  (∀ (s : State) (part q : Nat) (v : BitVec 32), let x := (s.partn part).queue q
    (s.bustat.toNat % 256 = 0 → s.bustat.toNat / 256 ≠ 5 →
      Runs (.qtail part q v) s { s with hostOut := s.hostOut ++ [(part, leBytes 8 (2 * 2 ^ 32))] }) ∧
    (s.bustat.toNat % 256 ≠ 0 → Runs (.qtail part q v) s s) ∧
    (s.bustat = 0x500 →
    ((s.rights 3 part part).getLsbD 1 = false → ∃ s', Runs (.qtail part q v) s s' ∧ (s'.partn part).queue q = x ∧
      s'.hostOut = s.hostOut ++ [(part, [])] ∧
      (MayPost s part → (s'.partn part).evN = (s.partn part).evN + 1)) ∧
    ((s.rights 3 part part).getLsbD 1 = true →
    ((v - x.head).toNat ≤ 2 ^ x.size → ∃ s', Runs (.qtail part q v) s s' ∧ (s'.partn part).queue q = { x with tail := v } ∧
      (∀ r, r ≠ q → (s'.partn part).queue r = (s.partn part).queue r) ∧ { s' with parts := s.parts } = s) ∧
    (2 ^ x.size < (v - x.head).toNat → ∃ s', Runs (.qtail part q v) s s' ∧ s'.partn part = s.partn part ∧
      { s' with parts := s.parts } = s)))) ∧
  (∀ (s : State) (part q : Nat) (n : BitVec 32), let x := (s.partn part).queue q
    let pos := x.head.toNat % 2 ^ x.size
    let key := x.base.toNat + 64 * pos
    let at_ := x.stat.toNat + 8 * pos
    let w := s.rawNat key 64
    let st := ((s.newSeq part).2.recordStatus part w).1
    (x.head = x.tail ∨ (s.lineQ (lineOf key)).holder ≠ none → Runs (.launchRecordTake (.host part q)) s s) ∧
    (x.head ≠ x.tail → (s.lineQ (lineOf key)).holder = none → s.recordBusy part w = false → (s.partn part).seq = some n → Sound s → s.cacheBad = [] → isDram key = true → s.grants (bankOf key) part 1 = true →
      s.grants (bankOf at_) part 2 = true → ∃ s', Runs (.launchRecordTake (.host part q)) s s' ∧ (s'.partn part).seq = some (n + 1) ∧
        ((s'.partn part).queue q).head = x.head + 1 ∧ Stored s s' at_ (leBytes 8 ((n + 1).toNat + st * 2 ^ 32)) ∧
        (st ≠ 0 → s'.launches = s.launches ∧ n + 1 ∈ (s'.partn part).ended) ∧
        (st = 0 → ∃ l, s'.launches = s.launches ++ [l] ∧ l.part = part ∧ l.seq = n + 1 ∧ l.queue = .host part q ∧
          l.dispatched = false ∧ l.running = false ∧ l.r.ctx.toNat = w / 2 ^ 19 % 2 ^ 12 ∧ l.r.entry.toNat = w % 2 ^ 19 ∧
          l.r.prio.toNat = max (w / 2 ^ 31 % 4) (s'.centry part l.r.ctx.toNat / 2 ^ 448 % 4)))) ∧
  (∀ (s : State) (die : Nat) (r : DevRec), s.devQ.find? (fun x => x.1 == die) = some (die, r) →
    let w := leNat r.bytes
    let st := (s.recordStatus r.part w).1
    (s.recordBusy r.part w = true → Runs (.launchRecordTake (.device die)) s s) ∧
    (s.recordBusy r.part w = false → ∃ s', Runs (.launchRecordTake (.device die)) s s' ∧
      s'.devQ = s.devQ.filter (fun x => !(x.1 == die && x.2.part == r.part && x.2.seq == r.seq)) ∧
      (st = 0 → ∃ l, s'.launches = s.launches ++ [l] ∧ l.part = r.part ∧ l.seq = r.seq ∧ l.queue = .device die ∧
        l.dispatched = false ∧ l.r.ctx.toNat = w / 2 ^ 19 % 2 ^ 12 ∧ s'.mem = s.mem) ∧
      (st ≠ 0 → s'.launches = s.launches ∧ ((s.partn r.part).seq = some r.seq → r.seq ∈ (s'.partn r.part).ended) ∧
        (MayPost s r.part → (s'.partn r.part).evN = (s.partn r.part).evN + 1)))) ∧
  (∀ (s : State) (part w : Nat), (w.testBit 511 = true ∨ w / 2 ^ 38 % 4 = 3 → (s.recordStatus part w).1 = 1) ∧
    (recordBad w = false → (s.centry part (w / 2 ^ 19 % 2 ^ 12)).testBit 451 = false → (s.recordStatus part w).1 = 2))

/-- R17 to R20, R294 to R297: a launch that is first among the heads and can dispatch gives each core of its rectangle, the j-th of k, the
j-th part of its index range, reserves its slots, and notes the cores that need the image. The image's bytes go to offset 0 of a core that
is ready, with `xb` its length and `itag` its tag. Once every slot is reserved and every image loaded, one thread starts in each, at the
entry, with the argument block, the role and the ordinal in g0 to g2.
The model's readings in it: log 56, 58. -/
def Obligations.DispatchResults : Prop :=
  (∀ (s : State) (part seq : Nat) (l : Launch), s.launch? part seq = some l → l.running = false → l.dispatched = false →
    let cs := l.r.cores.map s.physOf
    (s.mayTake l = false → Runs (.launchDispatch part seq) s s) ∧
    (s.mayTake l = true → l.r.prio ≠ 0 → l.err = 0 → s.canDispatch l = true →
      ∃ s' k, Runs (.launchDispatch part seq) s s' ∧ s'.launch? part seq = some k ∧ k.dispatched = true ∧ k.running = false ∧
        k.load = cs.filter (fun c => (s.core c).itag != l.tag) ∧
        (∀ j (h : j < cs.length), ⟨l.part, l.seq.toNat, l.r.first.toNat + l.r.count.toNat * j / cs.length,
          l.r.first.toNat + l.r.count.toNat * (j + 1) / cs.length,
          (l.r.lix0.toNat, l.r.lix1.toNat, l.r.die0.toNat, l.r.die1.toNat)⟩ ∈ (s'.core cs[j]).ranges) ∧
        (∀ c ∈ cs, ∀ i : Fin 8, i.val ≤ l.r.nslot.toNat → (s.slot c i).occ = .free →
          (s'.slot c i).occ = .launch l.part l.seq.toNat) ∧ s'.mem = s.mem)) ∧
  (∀ (s : State) (part seq core : Nat) (l : Launch) (names : Nat → Nat), s.launch? part seq = some l → s.loadReady l core = true →
    Sound s → s.cacheBad = [] → core < 4096 → (∀ i < l.len / 64, s.unitName part l.r.ctx.toNat (l.src + 64 * i) true = some (names i, none) ∧
      isDram (names i) = true ∧ s.grants (bankOf (names i)) part 1 = true) →
    ∃ s' k, Runs (.imageLoad part seq core) s s' ∧
      Stored s s' (spKey Config.pkg core 0) ((List.range (l.len / 64)).flatMap (fun i => s.raw (names i) 64)) ∧
      (s'.core core).xb = BitVec.ofNat 64 l.len ∧ (s'.core core).itag = l.tag ∧ s'.launch? part seq = some k ∧
      k.load = l.load.filter (· != core)) ∧
  (∀ (s : State) (part seq : Nat) (l : Launch), s.launch? part seq = some l → l.running = false → l.dispatched = true →
    let cs := l.r.cores.map s.physOf
    let n := l.r.nslot.toNat + 1
    l.load = [] → l.blocks = [] → l.r.redun = false → cs.Nodup →
    SegsRead s l.part l.r.ctx.toNat (entSupv (s.centry l.part l.r.ctx.toNat)) →
    (∀ c ∈ cs, ∀ i : Fin 8, (s.slot c i).occ = if i.val < n then .launch l.part l.seq.toNat else .free) →
    ∃ s' k, Runs (.launchDispatch part seq) s s' ∧ s'.launch? part seq = some k ∧ k.running = true ∧ k.live = cs.length * n ∧
      (∀ j (h : j < cs.length), ∀ i : Fin 8, (s'.slot cs[j] i).nf = 0 ∧
        (i.val < n → ∃ u, s'.threadAt cs[j] i = some u ∧ StartsAs l j i u)) ∧ s'.mem = s.mem)

/-- R257, R258, R263: a barrier at which every live member of its unit has arrived completes: every member goes on behind its `BAR`, in strict
mode at a turn 7 past the cycle of the last arrival, with every member READY at once; until then nothing changes. A reduction group that holds its count gives every member the combination of their operands, and ORs its flags into their `sst`;
two FP64 operands are added in the order of core and slot, rounded to nearest even.
The model's readings in it: log 54. -/
def Obligations.GroupCompletions : Prop :=
  (∀ (s : State) (i : Nat) (g : BarGroup), s.bars.find? (fun x => x.id == i) = some g →
    let behind := fun (c : Nat) (t : Thread) => { t with pc := succPc (s.lineAt c (pcBase t.pc).toNat) t.pc }
    let inStrict : Prop := g.scope = .co ∧ (s.core g.unit).strict = true
    let due : Prop := (s.core g.unit).strictTurn s.time.toNat = 7 ∧ g.lastAt < s.time.toNat
    ((∀ x ∈ s.launchThreads g.part g.seq, unitNo g.scope x.2 = g.unit → x.1 ∈ g.members) → g.members.Nodup →
      (¬inStrict → ∃ s', Runs (.barrierComplete i) s s' ∧ s'.bars = s.bars.filter (fun x => x.id != i) ∧ s'.mem = s.mem ∧
        ∀ w ∈ g.members, (∃ k ∈ s'.wakes, k.who = w ∧ k.wait = .inl (.bar i)) ∧
          (∀ c j t, s.placeOf? w = some (c, j) → s.threadAt c j = some t → s'.threadAt c j = some (behind c t)) ∧
          (∀ t, s.placeOf? w = none → s.thread? w = some t → ∃ u, s'.thread? w = some u ∧ u.carried = some (4, 0))) ∧
      (inStrict → due → ∃ s', Runs (.barrierComplete i) s s' ∧ s'.bars = s.bars.filter (fun x => x.id != i) ∧ s'.mem = s.mem ∧
        ∀ w ∈ g.members, ∀ c j t, s.placeOf? w = some (c, j) → s.threadAt c j = some t →
          s'.threadAt c j = some { behind c t with status := .ready }) ∧
      (inStrict → ¬due → Runs (.barrierComplete i) s s)) ∧
    ((∃ x ∈ s.launchThreads g.part g.seq, unitNo g.scope x.2 = g.unit ∧ x.1 ∉ g.members) → Runs (.barrierComplete i) s s)) ∧
  (∀ (s : State) (i : Nat) (g : RednGroup), s.redns.find? (fun x => x.id == i) = some g →
    (g.members.length < g.count → Runs (.reductionComplete i) s s) ∧
    (∀ f e, (g.op, f, e) ∈ foldRows → g.count ≤ g.members.length → ∃ s', Runs (.reductionComplete i) s s' ∧
      s'.redns = s.redns.filter (fun x => x.id != i) ∧
      ∀ m ∈ g.members, Answered s s' m.1 (.redn i) (2, (g.members.map (fun m => m.2.2)).foldl f e)) ∧
    (∀ a b : Ident × Nat × Word, g.op = .fadd → g.members = [a, b] → a.2.1 ≤ b.2.1 → g.count = 2 →
      let r := fres fmt64 0 (FV.add 0 (fmt64.value a.2.2.toNat) (fmt64.value b.2.2.toNat))
      ∃ s', Runs (.reductionComplete i) s s' ∧ Answered s s' a.1 (.redn i) (2, r.1) ∧ Answered s s' b.1 (.redn i) (2, r.1) ∧
        ∀ t, s.thread? a.1 = some t → ∃ u, s'.thread? a.1 = some u ∧ u.sst = t.sst ||| r.2))

/-! ## Pages, windows and Roll Call (R46, R108, R119, R200, R201, R278, R304, R305, R316, R317) -/

namespace Sys2Proof.Claims

/-- A window lies in its spill slot: values, full bits and zeros (Table 2-3). -/
def windowBytes (w : Vector RegCell 8) : List Byte :=
  (w.toList.map (fun c => leBytes 8 c.val.toNat)).flatten ++
    [BitVec.ofNat 8 (((List.range 8).map (fun i => if ((w.toList.getD i (.of 0)).full) then 2 ^ i else 0)).sum)] ++ List.replicate 15 0

end Sys2Proof.Claims

open Sys2Proof.Claims

/-- R200, R316: a page response that names no outstanding request, or a stale GEN, is counted and nothing else happens; a success removes
the request, and what the posting home parked stands in front of anything later there, placed anew from the table where it waited for a frame; a failure kills the context with `PAGEFAIL` (0x42) and a
Report Card. R278: an acknowledgement removes the port's entries; the last one answers the `TLBINV`. R201, R317: a move is refused with
status 1 for a leaf with V 0 or a page of class 4; one accepted marks the page; issued again with no line of the page reserved it copies a
plain page, writes the leaf, and shoots the page down at every port. A second command of the function meanwhile is refused with status 2
(R356).
The model's readings in it: log 72, 73. -/
def Obligations.PageEvents : Prop :=
  (∀ (s : State) (part : Nat) (tag gen : BitVec 32) (ok : Bool), s.bustat = 0x500 → (s.rights 3 part part).getLsbD 1 = true →
    let dropped := ∃ s', Runs (.pageResponse part tag gen ok) s s' ∧ (s'.partn part).discards = (s.partn part).discards + 1 ∧
      { s' with parts := s.parts } = s
    ((∀ r ∈ s.pageReqs, ¬(r.part = part ∧ r.tag = tag ∧ r.posted = true)) → dropped) ∧
    ∀ r, s.pageReqs.find? (fun r => r.part == part && r.tag == tag && r.posted) = some r →
      let live := s.centry part r.ctx / 2 ^ 160 % 2 ^ 32
      (gen ≠ r.gen ∨ gen.toNat ≠ live → dropped) ∧
      (gen = r.gen → gen.toNat = live →
        (∀ b f m, ok = true → r.unit = .home b → s.faultQ = [f] → f.unit = .home b → f.part = part → f.ctx = r.ctx → f.what = .access m →
          f.kind ∉ [.moving, .stock] → m.bank = b → s.samePage r.part r.ctx r.va f.va = true →
          (f.kind ≠ .frame → ∃ s', Runs (.pageResponse part tag gen ok) s s' ∧
            s'.pageReqs = s.pageReqs.filter (fun x => x.tag != r.tag) ∧ s'.faultQ = [] ∧ s'.inbox = m :: s.inbox ∧ s'.mem = s.mem ∧
            s'.cores = s.cores) ∧
          (∀ x, f.kind = .frame → m.rlx = false →
            ((({ s.dropCached r with faultQ := [] } : State).note (f.unit.source m.core) 0x11 f.noted).port (quadOf m.core) m.part m.who.ctx.toNat m.va m.acc m.need).1 = .ok x →
            ∃ s' m', Runs (.pageResponse part tag gen ok) s s' ∧ s'.pageReqs = s.pageReqs.filter (fun x => x.tag != r.tag) ∧ s'.faultQ = [] ∧
              s'.inbox = m' :: s.inbox ∧ m'.tag = m.tag ∧ m'.who = m.who ∧ m'.op = m.op ∧ m'.pa = x.name ∧ m'.bank = bankOf x.name)) ∧
        (ok = false → ∃ s' f, Runs (.pageResponse part tag gen ok) s s' ∧ (s'.ctx part r.ctx).killed = true ∧
          s'.ctxThreads part r.ctx = [] ∧ s'.fatals = s.fatals ++ [f] ∧ f.cause = 0x42 ∧ f.ctx = some r.ctx ∧
          (MayPost s part → (s'.partn part).evN = (s.partn part).evN + 1)))) ∧
  (∀ (s : State) (i port : Nat) (v : Inval), s.invals.find? (fun x => x.tag == i) = some v → port ∈ v.left →
    (∀ q, q ∈ v.left → q ≠ port → ∃ s' k, Runs (.portAck i port) s s' ∧ k ∈ s'.invals ∧ k.tag = i ∧
      k.left = v.left.filter (· != port) ∧ s'.cores = s.cores ∧ s'.mem = s.mem ∧
      ∀ e, e ∈ s'.tlb ↔ e ∈ s.tlb ∧ ¬(e.port = port ∧ e.part = v.part ∧ (v.whole = true ∨ e.ctx = v.ctx) ∧
        (v.page = none ∨ ∃ a n, v.page = some (a, n) ∧ e.base < a + n ∧ a < e.base + pageBytes (lfSize e.leaf.toNat)))) ∧
    (∀ w t id, (∀ q ∈ v.left, q = port) → v.who = some w → s.thread? w = some t → t.status = .parked (.remote id) →
      ∃ s', Runs (.portAck i port) s s' ∧ s'.invals = s.invals.filter (fun x => x.tag != i) ∧ Answered s s' w (.remote id) (9, 0))) ∧
  (∀ (s : State) (part ctx : Nat) (tag : BitVec 16) (va : BitVec 48) (leaf : Word), s.bustat = 0x500 → (s.rights 3 part part).getLsbD 1 = true →
    let answer := fun (st : Nat) => (part, leBytes 8 (tag.toNat * 2 ^ 16 + st * 2 ^ 32))
    (∀ base size old k, (∀ v ∈ s.moves, v.part ≠ part) → s.walk part ctx va.toNat = .leaf base size old k →
      (leaf.getLsbD 0 = false ∨ lfCls old.toNat = 4 ∨ lfCls leaf.toNat = 4 ∨ (s.centry part ctx).testBit 451 = false →
        ∃ s', Runs (.pagemove ⟨part, tag⟩ ctx va leaf) s s' ∧ s'.hostOut = s.hostOut ++ [answer 1] ∧ s'.moves = s.moves ∧ s'.mem = s.mem) ∧
      (leaf.getLsbD 0 = true → lfCls old.toNat ≠ 4 → lfCls leaf.toNat = lfCls old.toNat → lfSize leaf.toNat = size →
        lfBad leaf.toNat = false → (s.centry part ctx).testBit 451 = true →
        ∃ s' v, Runs (.pagemove ⟨part, tag⟩ ctx va leaf) s s' ∧ s'.moves = s.moves ++ [v] ∧ v.part = part ∧ v.ctx = ctx ∧ v.base = base ∧
          v.size = pageBytes size ∧ v.oldLeaf = old ∧ v.newLeaf = leaf ∧ v.cmd = tag ∧ v.shot = none ∧ s'.mem = s.mem)) ∧
    (∀ v, s.moves.find? (fun v => v.part == part) = some v → v.cmd ≠ tag →
      ∃ s', Runs (.pagemove ⟨part, tag⟩ ctx va leaf) s s' ∧ s'.hostOut = s.hostOut ++ [answer 2] ∧ s'.moves = s.moves ∧ s'.mem = s.mem) ∧
    (∀ v base size e k, let o := lfPa v.oldLeaf.toNat
      let n := lfPa v.newLeaf.toNat
      s.moves.find? (fun v => v.part == part) = some v → v.part = part → v.ctx = ctx → v.base ≤ va.toNat → va.toNat < v.base + v.size →
      v.newLeaf = leaf → v.cmd = tag → v.shot = none → s.moveClear v = true → s.faultQ = [] → lfCls v.oldLeaf.toNat = 0 → lfCls v.newLeaf.toNat = 0 →
      lfSwz v.oldLeaf.toNat = 0 → lfSwz v.newLeaf.toNat = 0 → Sound s →
      s.walk part ctx v.base = .leaf base size e k → size ≠ 1 → Apart n v.size k 8 →
      ∃ s' x, Runs (.pagemove ⟨part, tag⟩ ctx va leaf) s s' ∧ (∀ i < v.size, Memory.read s'.mem (n + i) = Memory.read s.mem (o + i)) ∧
        s'.rawNat k 8 = leaf.toNat ∧ s'.invals = s.invals ++ [x] ∧ x.part = part ∧ x.ctx = ctx ∧ x.page = some (v.base, v.size) ∧
        (∀ q < 1024, q ∈ x.left) ∧ { v with shot := some x.tag } ∈ s'.moves))

/-- R46, R158, Table 2-3: with four windows resident a spill takes two cycles in which no slot of the core issues, and the second writes the
oldest window to its slot in the window stack, unless a register of it is pending; a call that has found no bubble for 32 cycles takes issue
cycles for it; a return's wait of 4 cycles reloads its caller's window, once fewer than four are resident. R108: a refused claim is tried again
once its cycle has come. R304, R305, R119: a thread parked on one wait for 4,096 cycles sends a token along it; a token moves on along the
wait of the party that it reaches, and is discarded at the 65th hop and at a party that does not wait; back at its origin it gives a
blocked push the reserve entry, or traps `CYCLE` (0x0A).
The model's readings in it: log 19, 63, 71. -/
def Obligations.WindowAndRollCallEvents : Prop :=
  (∀ (s : State) (c : Nat) (j : Fin 8) (t : Thread), s.threadAt c j = some t →
    (∀ (i : Instr) (r : Resident) (l : List Resident) (busy : Bool), t.resident = l ++ [r] → 3 ≤ t.resident.length → Sound s →
      s.ownBusy t (s.stackKey t r.base) 80 = false → (s.core c).stopped = false → c = s.homeOf t →
      (i = .windowSpill c j ∧ busy = false ∨
        i = .forcedSpill c j ∧ (t.status = .parked .spill ∨ t.status = .parked .reload) ∧
          max t.parkedAt ((s.core c).bubbleAt.getD 0) + 32 ≤ s.time.toNat ∧ busy = true) → let now := some s.time.toNat
      ((s.core c).issuedAt = now ∨ (s.core c).bubbleAt = now → Runs i s s) ∧
      ((∃ k : Fin 8, (r.win[k]).pend ≠ none) → Runs i s s) ∧
      ((s.core c).issuedAt ≠ now → (s.core c).bubbleAt ≠ now → (∀ k : Fin 8, (r.win[k]).pend = none ∧ (r.win[k]).bad = false) →
        ∃ s', Runs i s s' ∧ (s'.core c).bubbleAt = now ∧ (busy = true → (s'.core c).issuedAt = now) ∧
          ((s.slot c j).spillAt = none → (s'.slot c j).spillAt = now ∧ s'.threadAt c j = some t ∧ s'.mem = s.mem) ∧
          ((s.slot c j).spillAt ≠ none → (s'.slot c j).spillAt = none ∧ s'.threadAt c j = some { t with resident := l } ∧
            Stored s s' (s.stackKey t r.base) (windowBytes r.win)))) ∧
    (t.status = .parked .reload → t.parkedAt + 4 ≤ s.time.toNat → Sound s → s.ownBusy t (s.stackKey t (t.wsp.toNat - 96)) 80 = false →
      96 ≤ t.wsp.toNat → (∀ r ∈ t.resident, r.base ≠ t.wsp.toNat - 96) → (3 ≤ t.resident.length → Runs (.windowReload c j) s s) ∧
      (t.resident.length < 3 → let key := s.stackKey t (t.wsp.toNat - 96)
      ∃ s' r, Runs (.windowReload c j) s s' ∧ s'.threadAt c j = some { t with resident := r :: t.resident } ∧
        r.base = t.wsp.toNat - 96 ∧ s'.mem = s.mem ∧ ∀ k : Fin 8, (r.win[k]).val.toNat = s.rawNat (key + 8 * k.val) 8 ∧
          (r.win[k]).full = (s.rawNat (key + 64) 1).testBit k.val)) ∧
    (∀ va pa due, t.status = .parked (.retry va pa due) →
      (due ≤ s.time.toNat → ∃ s', Runs (.claimRetry c j) s s' ∧
        s'.threadAt c j = some { t with status := .parked (.retry va pa 0) } ∧ OnlyCores s s') ∧
      (s.time.toNat < due → Runs (.claimRetry c j) s s)) ∧
    (∀ va pa w b, t.status = .parked (.handle va pa) → s.claimant? pa = some (w, b) →
      (s.time.toNat < t.parkedAt + 4096 * (t.rolled + 1) → Runs (.rollCallSend c j) s s) ∧
      (t.parkedAt + 4096 * (t.rolled + 1) ≤ s.time.toNat → s.tokens = [] → ∃ s' k, Runs (.rollCallSend c j) s s' ∧ s'.tokens = [k] ∧
        k.origin = t.id ∧ k.to_ = w ∧ k.hops = 1 ∧ k.queues = false ∧ k.since = t.parkedAt ∧ s'.mem = s.mem))) ∧
  (∀ (s : State) (i c : Nat) (j : Fin 8) (k : Token) (t : Thread), s.tokens.find? (fun x => x.tag == i) = some k →
    s.placeOf? k.to_ = some (c, j) → s.threadAt c j = some t →
    ((∀ w, t.status ≠ .parked w) ∨ 64 < k.hops →
      ∃ s', Runs (.rollCall i) s s' ∧ s'.tokens = s.tokens.filter (fun x => x.tag != i) ∧ { s' with tokens := s.tokens } = s) ∧
    (∀ va pa w b, t.status = .parked (.handle va pa) → k.hops ≤ 64 → k.to_ ≠ k.origin → s.claimant? pa = some (w, b) → s.tokens = [k] →
      ∃ s' x, Runs (.rollCall i) s s' ∧ s'.tokens = [x] ∧ x.origin = k.origin ∧ x.to_ = w ∧ x.hops = k.hops + 1 ∧ x.queues = false ∧
        s'.cores = s.cores ∧ s'.mem = s.mem) ∧
    (k.hops ≤ 64 → k.to_ = k.origin → t.parkedAt = k.since →
      (∀ n, t.status = .parked (.queue n true) → k.queues = true → (s.core c).qSpare[n] = false →
        ∃ s', Runs (.rollCall i) s s' ∧ s'.threadAt c j = some { t with spare := true } ∧ s'.mem = s.mem) ∧
      (∀ n, t.status = .parked (.queue n false) → k.queues = true → (s.core c).qSpare[n] = false →
        ∃ s', Runs (.rollCall i) s s' ∧ s'.cores = s.cores ∧ s'.mem = s.mem) ∧
      (∀ n, t.status = .parked (.reg n) → k.queues = false → s.thread? t.id = some t → t.walk = none → t.holds = [] → NotSpark t → t.mode = false →
        t.badCsr = [] → s.handlerOk c t.xh = true → ∃ s' u, Runs (.rollCall i) s s' ∧ s'.threadAt c j = some u ∧ u.xcause = 0x0A ∧
          u.xval = BitVec.ofNat 64 n ∧ u.xpc = t.pc ∧ u.pc = t.xh ∧ u.status = .ready ∧ s'.mem = s.mem)))

/-! ## Detentions, errors and the scan test (R31, R259, R282, R318 to R332, R353, R360) -/

/-- R31, R327 to R330, Table 21-4: the notice empties the rectangle: a restartable task that ran is eligible again, another unit is lost with
`MCE`, one for each index that it had drawn, and counted, and the range units inside hold no index (R21); the reset leaves its cores as after reset but for image, task queues, slot
bookkeeping and the slots kept for threads that run elsewhere, with memory as it was; the
rejoin lifts the fence, and a waiting `DETAIN` learns the count. Stages are taken in their order.
The model's readings in it: log 69, 72. -/
def Obligations.DetentionEvents : Prop :=
  (∀ (s : State) (i : Nat) (d : Detention), s.detentions.find? (fun x => x.id == i && x.stage == 1) = some d →
    ∃ s' x, Runs (.detentionNotice i) s s' ∧ x ∈ s'.detentions ∧ x.id = i ∧ x.stage = 2 ∧ x.rect = d.rect ∧ x.origin = d.origin ∧
      (∀ c ∈ rectCores d.rect, (s'.core c).threads = [] ∧ (s'.core c).saved = [] ∧ ∀ r ∈ (s'.core c).ranges, r.lo = r.hi) ∧
      (∀ c j t, s.inside d.rect = [(c, j, t, false)] →
        (∀ q ro st, t.kind = .launch q ro st → x.lost = d.lost + 1 ∧
          ((∀ k < 4096, s.grants (bankOf ((s.partn t.part).evq.toNat + 16 * k)) t.part 2 = true) →
            (s'.partn t.part).evN = (s.partn t.part).evN + max 1 t.drew.length)) ∧
        (∀ n y, t.kind = .task n → t.visible = false → s.desc? n = some y → y.depc = 0 →
          x.lost = d.lost ∧ ∃ z, s'.desc? n = some z ∧ z.state = 1) ∧
        (∀ n, t.kind = .task n → t.visible = true → x.lost = d.lost + 1 ∧ s'.desc? n = none))) ∧
  (∀ (s : State) (i : Nat), (∀ d ∈ s.detentions, ¬(d.id = i ∧ d.stage = 1)) → Runs (.detentionNotice i) s s) ∧
  (∀ (s : State) (i : Nat) (d : Detention), s.detentions.find? (fun x => x.id == i && x.stage == 2) = some d →
    ∃ s' x, Runs (.detentionReset i) s s' ∧ x ∈ s'.detentions ∧ x.id = i ∧ x.stage = 3 ∧ s'.mem = s.mem ∧
      ∀ c ∈ rectCores d.rect, let k := s.core c
        let k' := s'.core c
        k'.stopped = true ∧ k'.xb = k.xb ∧ k'.itag = k.itag ∧ k'.csave = k.csave ∧ k'.tasks = k.tasks ∧ k'.acc = [] ∧ k'.sparks = [] ∧
        k'.depBuf = [] ∧ k'.ranges = [] ∧ k'.cc = Vector.replicate 8 ⟨0, 0⟩ ∧ k'.q = Vector.replicate 4 [] ∧
        k'.mat.queue = [] ∧ k'.vec.queue = [] ∧ k'.copy.queue = [] ∧
        ∀ j : Fin 8, ((∀ w p q b, (s.slot c j).occ ≠ .away w p q b) → (s'.slot c j).occ = .free) ∧
          (∀ w p q b, (s.slot c j).occ = .away w p q b → (s'.slot c j).occ = .away w p q b) ∧ (s'.slot c j).rq = [] ∧ (s'.slot c j).nf = 0 ∧ (s'.slot c j).inc = (s.slot c j).inc ∧
          (s'.slot c j).wsb = (s.slot c j).wsb ∧ (s'.slot c j).wsl = (s.slot c j).wsl) ∧
  (∀ (s : State) (i : Nat) (d : Detention), s.detentions = [d] → d.id = i → d.stage = 3 →
    (∀ c ∈ rectCores d.rect, (s.core c).scan = none ∧ s.mustLeave c = false) →
    ∃ s', Runs (.detentionRejoin i) s s' ∧ s'.detentions = [] ∧ s'.lmap = s.lmap ∧ s'.mem = s.mem ∧
      (∀ c ∈ rectCores d.rect, (s'.core c).stopped = false ∧ s'.fenced c = false) ∧
      ∀ w t id, d.who = some w → s.thread? w = some t → t.status = .parked (.remote id) →
        Answered s s' w (.remote id) (8, BitVec.ofNat 64 d.lost))

/-- R318 to R322: an error flips stored bits and check bits of one word in place; an entry of a Diary ring that cannot be corrected reads as
type 0x3D (R333), and a source that fails its parity check is consumed. A pass over a line finds it clean, or corrects a word with
one wrong data bit, or records the line as lost; only storage that exists is named. R320, R323, R324: a second failure of a flit, and an
output that has waited 1,024 cycles for its Marker thread, are consumed: the core's mapped Detention starts; a first failure is resent, and
an `MMA` that awaits an operand starts again (R225). R321: an error in a slice's cache leaves the memory behind it as it was. R282, R332, R353: a scan
test ends after 250,000 cycles with the signature's verdict, or aborted with 2, which is also its record where no thread receives it (R353). R360: the debug port reads a word with its check bits under
partition 0's DIAG right.
The model's readings in it: log 31 (a cached error), 69, 73 (a resent flit), 74. -/
def Obligations.ErrorEvents : Prop :=
  (∀ (s : State) (data : Word) (chk : BitVec 8), let flip : BitVec 72 := chk ++ data
    (∀ l pa k, (l = .dram pa ∨ l = .cell pa) ∧ isDram pa = true ∧ k = pa ∨
        (∃ c o, l = .spad c o ∧ k = spKey Config.pkg c o) → MemOk s → let w := k / 8 * 8
      ∃ s', Runs (.storageError l flip) s s' ∧ Stored s s' w (leBytes 8 ((BitVec.ofNat 64 (s.rawNat w 8)) ^^^ data).toNat) ∧
        s'.syndAt w = s.syndAt w ^^^ chk ^^^ ecc data ∧ s'.cores = s.cores) ∧
    (∀ pa, isDram pa = true → Sound s → s.cacheBad = [] → eccClass (chk ^^^ ecc data) = .bad → let w := pa / 8 * 8
      ∃ s', Runs (.storageError (.cache pa) flip) s s' ∧ s'.mem = s.mem ∧
        s'.cacheBad = [(w, BitVec.ofNat 64 (s.rawNat w 8) ^^^ data, chk ^^^ ecc data)]) ∧
    (∀ pa, isDram pa = false → exec (.storageError (.dram pa) flip) s = .fault .noStorage ∧
      exec (.storageError (.cache pa) flip) s = .fault .noStorage) ∧
    (∀ c j r t, s.threadAt c j = some t → ∃ s' u, Runs (.storageError (.reg c j r) flip) s s' ∧ s'.threadAt c j = some u ∧
      (u.cell r).val = (t.cell r).val ^^^ data ∧ RegsBut t u [r] ∧ s'.mem = s.mem) ∧
    (∀ c (n : Fin 4) j w, (s.core c).q[n][j]? = some (.val w) → ∃ s', Runs (.storageError (.queue c n j) flip) s s' ∧
      (s'.core c).q[n] = (s.core c).q[n].set j (.val (w ^^^ data)) ∧
      (∀ k, k ∈ (s'.core c).badQ[n] ↔ if k = j ∧ (parity64 data ^^ chk.getLsbD 0) = true then k ∉ (s.core c).badQ[n] else k ∈ (s.core c).badQ[n]) ∧
      { s' with cores := s.cores } = s) ∧
    (∀ src i, (s.diaryOf src).errs = [] → i < (s.diaryOf src).recs.length → eccClass (chk ^^^ ecc data) = .bad →
      ∃ s', Runs (.storageError (.diary src i) flip) s s' ∧ (s'.diaryOf src).recs = (s.diaryOf src).recs ∧
        (s'.diaryOf src).stored[i]? = some (BitVec.ofNat 64 (0x3D * 2 ^ 58)) ∧ { s' with diary := s.diary } = s)) ∧
  (∀ (s : State) (t : Thread) (d x : Operand) (w : Bool), s.me = some t → s.waits t [x] [d] [] = none → s.parityFails t [x] [] = true →
    Runs (.mov d x w) s (s.consume s.cur.core)) ∧
  (∀ (s : State) (b : Bank) (line : Nat), line % 64 = 0 → bankOf line = b → isDram line = true → s.cacheBad = [] →
    (Sound s → Runs (.scrub b line) s s) ∧
    (∀ w c, MemOk s → s.lost = [] → s.synd = [(w, c)] → w % 8 = 0 → line ≤ w → w < line + 64 →
      (∀ i, eccClass c = .data i → ∃ s', Runs (.scrub b line) s s' ∧ s'.synd = [] ∧
        Stored s s' w (leBytes 8 ((BitVec.ofNat 64 (s.rawNat w 8)) ^^^ (1 <<< i)).toNat)) ∧
      (eccClass c = .bad → ∃ s', Runs (.scrub b line) s s' ∧ s'.lost = [(b, line)] ∧ s'.mem = s.mem))) ∧
  (∀ (s : State) (b : Bank) (line : Nat), line % 64 ≠ 0 ∨ bankOf line ≠ b → exec (.scrub b line) s = .fault .noStorage) ∧
  (∀ (s : State) (c : Nat) (i : Instr), s.detentions = [] →
    (i = .flitResent c true ∨ ∃ j t e, i = .markerTimeout c j ∧ s.threadAt c j = some t ∧ t.lead = true ∧ (s.core c).stopped = false ∧
      (s.slot c (j + 4)).trail.find? (fun e => e.out) = some e ∧ e.at_ + 1024 ≤ s.time.toNat) →
    ∃ s' d, Runs i s s' ∧ s'.detentions = [d] ∧ d.origin = c ∧ d.rect = s.mapRect c ∧ d.who = none ∧ d.stage = 1 ∧
      (∀ k ∈ rectCores d.rect, (s'.core k).stopped = true) ∧ s'.mem = s.mem) ∧
  (∀ (s : State) (c : Nat), (s.mmaAwaits c = false → Runs (.flitResent c false) s s) ∧
    (s.mmaAwaits c = true → ∃ s', Runs (.flitResent c false) s s' ∧ (s'.core c).mat.retry = true ∧ OnlyCores s s')) ∧
  (∀ (s : State) (c : Nat) (fail : Bool) (x : Scan), (s.core c).scan = some x → s.fenced c = false →
    let heard : Prop := ∃ w t, x.who = some w ∧ s.thread? w = some t ∧ t.status = .parked (.remote x.id)
    let ends := fun (r : Nat) => ∃ s', Runs (.scanTestEnd c fail) s s' ∧ (s'.core c).scan = none ∧
      (s'.core c).acc = [] ∧ (s'.core c).cc = Vector.replicate 8 ⟨0, 0⟩ ∧ ((s'.core c).scanResult = some true ↔ r = 1 ∧ heard) ∧ s'.mem = s.mem ∧
      ∀ w t id, x.who = some w → s.thread? w = some t → t.status = .parked (.remote id) →
        Answered s s' w (.remote id) (6, BitVec.ofNat 64 r)
    (x.abort = none → s.time.toNat < x.at_ + 250000 → Runs (.scanTestEnd c fail) s s) ∧
    (x.abort = none → x.at_ + 250000 ≤ s.time.toNat → ends fail.toNat) ∧
    (∀ r, x.abort = some r → r < x.at_ + 247500 → ends 2) ∧
    (∀ r, x.abort = some r → x.at_ + 247500 ≤ r → ends (if x.at_ + 250000 ≤ s.time.toNat then fail.toNat else 2))) ∧
  (∀ (s : State) (c o : Nat), let w := spKey Config.pkg c o / 8 * 8
    let v := BitVec.ofNat 64 (s.rawNat w 8)
    ((s.rights 3 0 0).getLsbD 3 = true → Runs (.debugRead (.spad c o)) s { s with
      hostOut := s.hostOut ++ [(0, leBytes 8 v.toNat ++ [s.syndAt w ^^^ ecc v])] }) ∧
    ((s.rights 3 0 0).getLsbD 3 = false → Runs (.debugRead (.spad c o)) s { s with hostOut := s.hostOut ++ [(0, [])] }))

/-! ## The Diary, the Report Card, resets and the host (R6, R276, R326, R333 to R345, R355 to R359) -/

/-- R334, R338 to R345: of several freezes of a partition any may reach a place first; a partition's freeze reaches a source that still records, which writes the freeze record and stops; with every
source frozen the rings are gathered, then the capsule is signed and stored, its faults are done with, the sources record again and a
waiting `DFRZ` goes on; a time mark comes once in 2^22 cycles. `CAPINFO`, `CAPREAD` and `CAPCLEAR` answer partition 0 under its rights. A
cold reset keeps the flash ring and the marks of failed cores (R331); a warm reset keeps memory, the Diary, the registers whose reset is a dash, and the capsule store, whose capsule in the making is incomplete, with some of its rings.
The model's readings in it: log 75, 79, 83. -/
def Obligations.DiaryCapsuleAndResetEvents : Prop :=
  (∀ (s : State) (part k : Nat), (∀ f, s.firstFatal part k = some f → f ∈ s.fatals ∧ f.part = part ∧ f.own = true) ∧
    ((∃ f ∈ s.fatals, f.part = part ∧ f.own = true) → (s.firstFatal part k).isSome = true)) ∧
  (∀ (s : State) (src : Source) (f : Fatal), s.firstFatal (s.srcPart src) (sourceCode src) = some f →
    ((s.diaryOf src).frozen = true → Runs (.freeze src) s s) ∧
    ((s.diaryOf src).frozen = false → ∃ s', Runs (.freeze src) s s' ∧ (s'.diaryOf src).frozen = true ∧
      (∀ x, x ≠ src → s'.diaryOf x = s.diaryOf x) ∧ { s' with diary := s.diary } = s ∧
      ((s.diaryOf src).recs = [] → (s.diaryOf src).count = 0 → (s.diaryOf src).missed = 0 → (s'.diaryOf src).recs =
        [BitVec.ofNat 64 (0x3F * 2 ^ 58 + s.time.toNat / 16 % 2 ^ 18 * 2 ^ 40 + (f.cause.toNat * 2 ^ 8 + f.ctx.getD 0 % 2 ^ 8))]))) ∧
  (∀ (s : State) (src : Source), let now := s.time.toNat / 2 ^ 22
    (now < (s.diaryOf src).mark → Runs (.timeMark src) s s) ∧
    ((s.diaryOf src).mark ≤ now → ∃ s', Runs (.timeMark src) s s' ∧ (s'.diaryOf src).mark = now + 1 ∧ { s' with diary := s.diary } = s)) ∧
  (∀ (s : State) (f : Fatal), s.cardFatal = some f →
    ((∃ x ∈ s.sourcesOf f.part, (s.diaryOf x).frozen = false) → Runs .reportCard s s) ∧
    ((∀ x ∈ s.sourcesOf f.part, (s.diaryOf x).frozen = true) →
      (s.capsule.state = 0 → ∃ s', Runs .reportCard s s' ∧ s'.capsule.state = 1 ∧ s'.fatals = s.fatals ∧
        s'.capsule.flash = s.capsule.flash) ∧
      (s.capsule.state = 1 → Memory.wf s.capsule.store = true → ∃ s' e, Runs .reportCard s s' ∧ s'.capsule.state = 2 ∧
        s'.capsule.seq = s.capsule.seq + 1 ∧ e ∈ s'.capsule.flash ∧ e.seq = s.capsule.seq + 1 ∧ e.state = 2 ∧
        e.hash = BitVec.ofNat 256 (leNat (sha256 (Memory.reads s'.capsule.store 0x1000 0x218F000))) ∧
        Memory.reads s'.capsule.store 0x1000 4 = [0x40, 0xD2, 0x55, 0xCA] ∧ Memory.read s'.capsule.store 0x1038 = f.cause ∧
        Memory.read s'.capsule.store 0x1039 = BitVec.ofNat 8 f.part ∧ (∀ x ∈ s'.fatals, x.part ≠ f.part ∧ x.late = false) ∧
        (∀ x ∈ s.sourcesOf f.part, (s'.diaryOf x).frozen = false) ∧ (s'.partn f.part).pending.getLsbD 3 = true ∧
        ∀ w t id, f.cause = 0x80 → f.who = some w → s.thread? w = some t → t.status = .parked (.remote id) →
          Answered s s' w (.remote id) (7, 0)) ∧
      (s.capsule.state = 2 → ∃ s', Runs .reportCard s s' ∧ s'.capsule.state = 2 ∧ s'.capsule.count = s.capsule.count + 1 ∧
        s'.capsule.flash = s.capsule.flash ∧ ∀ x ∈ s'.fatals, x.part ≠ f.part))) ∧
  (∀ s : State, Runs .coldReset s { State.reset with
    capsule := { Capsule.reset with flash := s.capsule.flash, seq := s.capsule.seq }, agenda := s.agenda, nextTag := s.nextTag
    cores := (s.cores.filter (fun x => x.2.failed)).map (fun x => (x.1, { Core.reset with failed := true })) }) ∧
  (∀ s : State, ∃ s', Runs .warmReset s s' ∧ s'.mem = s.mem ∧ s'.time = s.time ∧ s'.synd = s.synd ∧ s'.lost = s.lost ∧
    (∀ c, s'.core c = { Core.reset with xb := (s.core c).xb, itag := (s.core c).itag, csave := (s.core c).csave, failed := (s.core c).failed }) ∧
    (∀ p, s'.partn p = { Part.reset with ctab := (s.partn p).ctab, evq := (s.partn p).evq }) ∧
    (∀ x, (s'.diaryOf x).recs = (s.diaryOf x).recs ∧ (s'.diaryOf x).frozen = false) ∧
    (s.capsule.state ≠ 1 → s'.capsule = s.capsule) ∧
    (s.capsule.state = 1 → s'.capsule.state = 3 ∧ s'.capsule.count = s.capsule.count ∧ s'.capsule.seq = s.capsule.seq ∧
      ∀ x ∈ s'.capsule.store, x ∈ s.capsule.store) ∧ s'.capsule.flash = s.capsule.flash ∧ s'.net = [] ∧ s'.inbox = [] ∧ s'.lines = [] ∧ s'.launches = [] ∧ s'.faultQ = [] ∧ s'.tlb = [] ∧
    s'.claims = [] ∧ s'.detentions = [] ∧ s'.acl = [] ∧ s'.lmap = [] ∧ s'.bustat = 0) ∧
  (∀ (s : State) (tag : BitVec 16), s.bustat = 0x500 → s.moves = [] → s.capsule.state ≠ 1 → MayPost s 0 →
    let k := s.capsule
    let answer := fun (st : Nat) (b : List Byte) => s.hostOut ++ [(0, leBytes 8 (tag.toNat * 2 ^ 16 + st * 2 ^ 32) ++ b)]
    let refused := fun (i : Instr) => ∃ s', Runs i s s' ∧ s'.hostOut = s.hostOut ++ [(0, [])] ∧ s'.capsule = k ∧
      (s'.partn 0).evN = (s.partn 0).evN + 1
    ((s.rights 3 0 0).getLsbD 0 = true →
      (∃ s', Runs (.capinfo ⟨0, tag⟩) s s' ∧ s'.capsule = k ∧ s'.hostOut = answer 0 (k.bytes 0 8 ++ k.bytes 0x1000 256 ++
        (match k.flash.getLast? with
          | some e => leBytes 8 e.seq ++ leBytes 32 e.hash.toNat ++ leBytes 64 e.sig.toNat ++ leBytes 8 (e.state.toNat + e.cleared.toNat * 256)
          | none => []))) ∧
      (∀ off n, n ≤ 4096 → off + n ≤ 2 ^ 26 → ∃ s', Runs (.capread ⟨0, tag⟩ off n) s s' ∧ s'.capsule = k ∧
        s'.hostOut = answer 0 ((List.range n).map (fun i => k.byte (off + i)))) ∧
      (∀ off n, 4096 < n ∨ 2 ^ 26 < off + n → ∃ s', Runs (.capread ⟨0, tag⟩ off n) s s' ∧ s'.hostOut = answer 1 [])) ∧
    ((s.rights 3 0 0).getLsbD 0 = false → refused (.capinfo ⟨0, tag⟩) ∧ ∀ off n, refused (.capread ⟨0, tag⟩ off n)) ∧
    ((s.rights 3 0 0).getLsbD 4 = true → ∃ s', Runs (.capclear ⟨0, tag⟩) s s' ∧ s'.hostOut = answer 0 [] ∧ s'.capsule.state = 0 ∧
      s'.capsule.count = 0 ∧ s'.capsule.store = [] ∧ s'.capsule.seq = k.seq ∧ s'.capsule.flash.length = k.flash.length ∧
      ∀ e ∈ s'.capsule.flash, e.cleared = true) ∧
    ((s.rights 3 0 0).getLsbD 4 = false → refused (.capclear ⟨0, tag⟩)))

/-- R6, R272, R276, R291, R315, R326, R355 to R357: `PARTCFG` is taken from partition 0 in its stage of bring-up only; `DOORBELL` is held for
its slot and wakes an `IDLE`; an answer carries its command's TAG; a register takes what its access code lets it: QSIZE 4 to 12, pending bits
cleared by writing 1 but for those set in the same cycle, a Detention map entry all but its DIE, and none after a failed
bring-up; a function's window is written where its access table grants W, and else `ACCESS` is posted; the
device-memory window writes and reads DRAM that the access tables open, and a refused access answers NACK and posts `ACCESS`; `BUSTAT` is read
at its place, also after a failed bring-up (R358, R359); a submitted record whose CODE is no command's is answered with STATUS 3 (R356).
The model's readings in it: log 17, 76, 77, 78. -/
def Obligations.HostEvents : Prop :=
  (∀ (s : State) (part : Nat) (tag : BitVec 16) (arg : BitVec 480), let p := Config.cfgPart arg % 16
    let answer := fun (st : Nat) => s.hostOut ++ [(part, leBytes 8 (tag.toNat * 2 ^ 16 + st * 2 ^ 32))]
    (s.rights 3 part part).getLsbD 1 = true →
    (s.bustat.toNat % 256 = 0 → s.mailBusy part = true → ∃ s', Runs (.partcfg ⟨part, tag⟩ arg) s s' ∧ s'.hostOut = answer 2) ∧
    (s.bustat.toNat % 256 = 0 → s.mailBusy part = false → part = 0 → s.bustat.toNat / 256 < 4 → ∃ s', Runs (.partcfg ⟨part, tag⟩ arg) s s' ∧
      s'.hostOut = answer 2) ∧
    (s.bustat = 0x400 → s.mailBusy part = false → part = 0 → ∃ s', Runs (.partcfg ⟨part, tag⟩ arg) s s' ∧ s'.hostOut = answer 0 ∧
      (s'.partn p).routers = Config.cfgRouters arg ∧ (s'.partn p).slices = Config.cfgSlices arg ∧
      (s'.partn p).regions = Config.cfgRegions arg ∧ (s'.partn p).owned = Config.cfgQueues arg ∧ s'.mem = s.mem) ∧
    (s.mailBusy part = false → s.bustat = 0x500 ∨ s.bustat = 0x400 ∧ part ≠ 0 → ∃ s', Runs (.partcfg ⟨part, tag⟩ arg) s s' ∧ s'.hostOut = answer 1)) ∧
  (∀ (s : State) (part core : Nat) (tag : BitVec 16) (j : Fin 8), s.bustat = 0x500 → s.moves = [] →
    (s.rights 3 part part).getLsbD 1 = true → let c := s.physOf core
    let answer := fun (st : Nat) => s.hostOut ++ [(part, leBytes 8 (tag.toNat * 2 ^ 16 + st * 2 ^ 32))]
    (s.partOf c = part → ∃ s', Runs (.doorbell ⟨part, tag⟩ core j) s s' ∧ (s'.slot c j).bell = true ∧ s'.hostOut = answer 0 ∧
      ∀ t, s.threadAt c j = some t → ∃ u, s'.threadAt c j = some u ∧ u.pc = t.pc ∧
        (t.status = .parked .idle → u.status = .ready) ∧ (t.status = .ready → u = t)) ∧
    (s.partOf c ≠ part → ∃ s', Runs (.doorbell ⟨part, tag⟩ core j) s s' ∧ s'.cores = s.cores ∧ s'.hostOut = answer 1)) ∧
  (∀ (s : State) (p q : Nat) (v : Word), let x := (s.partn p).queue q
    let sets := fun (r : HostReg) (y : HostQ) => ∃ s', Runs (.registerWrite r v) s s' ∧ (s'.partn p).queue q = y ∧
      { s' with parts := s.parts } = s
    (s.bustat.toNat % 256 ≠ 0 → ∀ r, Runs (.registerWrite r v) s s) ∧
    (s.bustat.toNat % 256 = 0 → (s.rights 3 p p).getLsbD 1 = false → ∃ s', Runs (.registerWrite (.qbase p q) v) s s' ∧
      (s'.partn p).queue q = x ∧ s'.hostOut = s.hostOut ++ [(p, [])] ∧ (MayPost s p → (s'.partn p).evN = (s.partn p).evN + 1)) ∧
    (s.bustat.toNat % 256 = 0 → (s.rights 3 p p).getLsbD 1 = true → (s.rights 3 0 0).getLsbD 1 = true →
    sets (.qbase p q) { x with base := v } ∧ sets (.qstat p q) { x with stat := v } ∧
    (4 ≤ v.toNat → v.toNat ≤ 12 → sets (.qsize p q) { x with size := v.toNat }) ∧
    (v.toNat < 4 ∨ 12 < v.toNat → sets (.qsize p q) { x with size := 4 }) ∧
    Runs (.registerWrite (.qhead p q) v) s s ∧ Runs (.registerWrite .bustat v) s s ∧
    (∃ s', Runs (.registerWrite (.prBase p) v) s s' ∧ (s'.partn p).prBase = v ∧ { s' with parts := s.parts } = s) ∧
    (s.pageReqs = [] → ∃ s', Runs (.registerWrite (.prHead p) v) s s' ∧ (s'.partn p).prHead = v.setWidth 32 ∧
      { s' with parts := s.parts } = s) ∧
    (∃ s', Runs (.registerWrite (.intPending p) v) s s' ∧ (s'.partn p).pending = (s.partn p).pending &&&
        ~~~(v.setWidth 32 &&& ~~~(if (s.partn p).raised.1 = s.time.toNat then (s.partn p).raised.2 else 0)) ∧
      { s' with parts := s.parts } = s) ∧
    (∃ s', Runs (.registerWrite (.intEnable p) v) s s' ∧ (s'.partn p).enable = v.setWidth 32 &&& 0x1F ∧ { s' with parts := s.parts } = s) ∧
    (∀ die router, (s.rights 2 die p).getLsbD 4 = true → ∃ s', Runs (.registerWrite (.detMap p die router) v) s s' ∧
      s'.detMap.find? (fun e => e.1 == (die, router)) = some ((die, router), (v &&& 0x1FF8) ||| BitVec.ofNat 64 (die % 8)) ∧ { s' with detMap := s.detMap } = s) ∧
    (∀ die router, (s.rights 2 die p).getLsbD 4 = false → ∃ s', Runs (.registerWrite (.detMap p die router) v) s s' ∧
      s'.detMap = s.detMap ∧ (MayPost s p → (s'.partn p).evN = (s.partn p).evN + 1)))) ∧
  (∀ (s : State) (part pa n : Nat) (b : List Byte), pa < 2 ^ 52 → s.bustat.toNat % 256 = 0 → Sound s → s.cacheBad = [] →
    (∀ q ∈ s.lines, q.holder = none) →
    (s.windowOk part (hostPieces pa b.length) 1 = true →
      ∃ s', Runs (.deviceMemoryWindowAccess part pa (some b) n) s s' ∧ Stored s s' pa b ∧ s'.hostOut = s.hostOut) ∧
    (s.windowOk part (hostPieces pa n) 0 = true →
      Runs (.deviceMemoryWindowAccess part pa none n) s { s with hostOut := s.hostOut ++ [(part, s.raw pa n)] }) ∧
    (s.windowOk part (hostPieces pa n) 0 = false → ∃ s', Runs (.deviceMemoryWindowAccess part pa none n) s s' ∧
      s'.hostOut = s.hostOut ++ [(part, [])] ∧ (MayPost s part → (s'.partn part).evN = (s.partn part).evN + 1))) ∧
  (∀ (s : State) (part off n : Nat) (b : List Byte),
    let at_ := fun (o : Nat) (w : Option (List Byte)) (k : Nat) => Instr.deviceMemoryWindowAccess part (2 ^ 52 + o) w k
    ((s.rights 3 part part).getLsbD 0 = true → Runs (at_ 0x3010 none 8) s { s with
      hostOut := s.hostOut ++ [(part, leBytes 8 s.bustat.toNat)], nextTag := s.nextTag + 1 }) ∧
    (s.bustat.toNat % 256 = 0 → 0x4000 ≤ off ∨ (s.rights 3 part part).getLsbD 0 = false → ∃ s', Runs (at_ off none n) s s' ∧
      s'.hostOut = s.hostOut ++ [(part, [])] ∧ s'.cores = s.cores ∧ (MayPost s part → (s'.partn part).evN = (s.partn part).evN + 1)) ∧
    (s.bustat = 0x500 → s.moves = [] → (s.rights 3 part part).getLsbD 1 = true → let r := leNat (s.partn part).mbox
      r % 256 ∉ [0x01, 0x10, 0x20, 0x30, 0x31, 0x32] → ∃ s', Runs (at_ 0x1040 (some b) n) s s' ∧ s'.cores = s.cores ∧ s'.mem = s.mem ∧
        s'.hostOut = s.hostOut ++ [(part, leBytes 8 (r / 2 ^ 16 % 2 ^ 16 * 2 ^ 16 + 3 * 2 ^ 32))]))

/-! ## The whole machine: reset, memory, decoding, and a step -/

/-- R273, Tables 19-4 and 25-3, R93, R327, R341: after reset every access table holds 0x1F for partition 0 and 0 for the others, every
host launch queue register its value of Table 19-4, `BUSTAT` and the capsule state 0; no core runs a thread or holds an accumulator or
counter value, and nothing is in flight. Memory has its canonical form; the zeros of `time` and `csave` are the model's own (log 1). -/
def Obligations.ResetState : Prop :=
  let s := State.reset
  MemOk s ∧ (∀ k i, s.rights k i 0 = 0x1F) ∧ (∀ k i p, p ≠ 0 → s.rights k i p = 0) ∧
  (∀ p q, (s.partn p).queue q = { base := 0, stat := 0, size := 4, tail := 0, head := 0 }) ∧
  s.bustat = 0 ∧ s.capsule.state = 0 ∧
  (∀ c i, (s.slot c i).occ = .free ∧ (s.slot c i).rq = [] ∧ s.threadAt c i = none) ∧
  (∀ c, (s.core c).acc = [] ∧ (∀ i : Fin 8, ((s.core c).cc[i]).val = 0) ∧ (s.core c).tasks = [] ∧ (s.core c).sparks = [] ∧
    (s.core c).saved = [] ∧ (∀ i : Fin 4, (s.core c).q[i] = [])) ∧
  (∀ p x, (s.ctx p x).suse = 0) ∧ s.stocks = [] ∧ s.detentions = [] ∧ s.net = [] ∧ s.inbox = [] ∧ s.lines = [] ∧
  s.launches = [] ∧ s.claims = [] ∧ s.pageReqs = [] ∧ s.synd = [] ∧ s.lost = [] ∧ s.cacheBad = [] ∧ s.tlb = [] ∧
  s.time = 0 ∧ (∀ c, (s.core c).csave = 0)

/-- The canonical form of memory, addresses rising and no byte listed that an unlisted address reads as, so that equal memories are equal data,
is the model's own choice (DESIGN CHOICE, log 2), by which it holds the bytes of R1: every step keeps it, from any such state, whatever turn
comes next. -/
def Obligations.MemoryStaysCanonical : Prop := Kept MemOk

namespace Sys2Proof.Claims

/-- R41, R34: what an instruction does in its turn, where it is not held for a queue or latch written just before: the hold; or its park, where
it would park even so. -/
def unheld (s : State) (c : Nat) (i : Fin 8) (f : State → Host.Outcome State Fault Refusal) : Host.Outcome State Fault Refusal :=
  match f s with
  | .next s2 =>
    if s2.slotWaits c i (· == .hold) then
      match f (s.modCore c (fun k => { k with qWritten := Vector.replicate 4 none, nfWritten := Vector.replicate 8 none })) with
      | .next s3 =>
        if s3.slotWaits c i (fun w => w.retests)
        then .next (s3.modCore c (fun k => { k with qWritten := (s.core c).qWritten, nfWritten := (s.core c).nfWritten }))
        else .next s2
      | _ => .next s2
    else .next s2
  | o => o

end Sys2Proof.Claims

open Sys2Proof.Claims

/-- R42, R43, R148, R149 (the agenda is the model's own, log 3): a step gives the slot at the front of the agenda its turn. Where the
issue stage takes the slot, the line at the thread's PC reads without an error, the fetch gives a head and tail there, and no handle is
forced of itself, the step is what `exec` answers for the instruction they decode to, in the state whose current slot is that slot, followed
by the count of the issue (R42); one that a queue or latch written just before would hold parks where it would park even so (R41). A privileged opcode in user mode takes `PRIV`, and a word with no meaning traps. Where the issue stage does
not take the slot nothing changes. A well-formed event at the front of the agenda is what `exec` answers for it, unless it belongs after the
issue of a core that has not issued in the cycle; any other is no event of the machine. -/
def Obligations.StepRunsDecodedInstruction : Prop :=
  (∀ (s : State) (c : Nat) (i : Fin 8) (t : Thread) (r : List Turn) (w : Nat × Nat),
    let s0 : State := { s with agenda := r }
    let s1 : State := { s0 with cur := ⟨c, i⟩ }
    s.agenda = .issue c i :: r → (s.slot c i).occ = .thread t → t.pending = none → t.replay = none →
    (s0.canIssue c i = false → step s = .next s0) ∧
    (s0.canIssue c i = true → s0.pairWaits c i t = false → s.synd = [] → s.lost = [] → t.badCsr = [] → (s.core c).marks = [] →
      s1.autoHandle? t = none → s1.fetch c t.pc = .inr w →
      let after := fun (o : Host.Outcome State Fault Refusal) =>
        match o with
        | .next s2 => .next (s1.afterTurn s2 c i t)
        | o => o
      let priv := 0x1E0 ≤ w.1 / 32 % 512 ∧ w.1 / 32 % 512 ≤ 0x1EF
      (∀ j, decode w.1 w.2 = .ok j → (priv → t.mode = true) → step s = after (unheld s1 c i (exec j)) ∧
        ((∀ s2, exec j s1 = .next s2 → s2.slotWaits c i (· == .hold) = false) → step s = after (exec j s1))) ∧
      (priv → t.mode = false → step s = after (unheld s1 c i (fun s => .next (s.supTrap cPRIV (encVal w) t.pc)))) ∧
      (∀ e, decode w.1 w.2 = .error e → (priv → t.mode = true) →
        step s = after (unheld s1 c i (if e = .unassigned then exec (.unassignedOpcode (BitVec.ofNat 9 (w.1 / 32)))
          else fun s => .next (s.userTrap cILLEGAL (encVal w) t.pc)))) ∧
      (t.lead = false → ∀ s2 : State, s1.afterTurn s2 c i t = s2.modCore c (Core.noteIssue i s.time.toNat)))) ∧
  (∀ (s : State) (j : Instr) (r : List Turn), s.agenda = .event j :: r →
    let s0 : State := { s with agenda := r }
    let strikes := match j with | .storageError _ _ => true | _ => false
    let shared := fun (s2 : State) => if strikes then s2 else s0.syncPairs s2
    (j.isEvent = true → j.wf = true →
      ((s0.afterIssueOf j).any s0.issuing = false → step s = match exec j s0 with | .next s2 => .next (shared s2) | o => o) ∧
      ((s0.afterIssueOf j).any s0.issuing = true → step s = .next (shared s0))) ∧
    (∀ s2 : State, (∀ x ∈ s2.cores, ∀ i : Fin 8, ∀ m, (x.2.slots[i]).occ ≠ .marker m) → s0.syncPairs s2 = s2) ∧
    (j.isEvent = false ∨ j.wf = false → step s = .fault .noSuchEvent))

/-- The worked line of Table 7-9, and words written out from Tables 7-2, 7-3, 7-6 to 7-8 (R139 to R152): each decodes to its instruction;
an unassigned opcode, a tail code that does not suit, and a nonzero reserved bit are refused under checks 1, 3 and 5 of R149. -/
def Obligations.WordsDecode : Prop :=
  let line : List Byte :=
    [0x80, 0x21, 0x01, 0xC9, 0x02, 0x44, 0x03, 0x94, 0x40, 0, 0, 0, 0, 0, 0, 0, 0, 0, 0, 0, 0, 0, 0, 0, 0, 0, 0, 0, 0, 0, 0, 0] ++
    [0, 0, 0, 0, 0, 0, 0, 0, 0, 0, 0, 0, 0, 0, 0, 0, 0, 0, 0, 0, 0x10, 0, 0, 0x8B, 0x40, 0x08, 0x05, 0, 0, 0, 0x80, 0xF7]
  decodeAt line 1 = some (.movi (.g 1) 5) ∧ decodeAt line 2 = some (.add (.g 2) (.g 1) (.g 1) false) ∧
  decodeAt line 3 = some (.ld (.g 3) 1 .d 16) ∧ decodeAt line 4 = some .halt ∧ decodeAt line 5 = none ∧
  decode 0b1000000010000011 0xF7FFFFC2 = .ok (.br 3 ⟨-2, 2⟩) ∧
  decode 0b0000100101110011 0 = .ok (.empt (.a 3)) ∧
  decode 0b1000110110100100 0b00001110101111000000000000000101 = .ok (.sel (.g 4) (.g 1) (.q 2) 5) ∧
  decode 0b1001110001000011 0xF0000000 = .ok (.csrr (.g 3) 0) ∧
  decode 0xD502 0xA79A00000004 = .ok (.ldaq (.g 2) 4 .w .di 4) ∧
  decode 0b1101100010000001 0x90E500000008 = .ok (.aadd (.g 1) 2 (.g 3) ⟨.pk, true, false, true, 8⟩) ∧
  decode 0b1010000000010010 0x847C2A00 = .ok (.vadd .f32 ⟨true, 2⟩ ⟨2, true⟩ ⟨0, false⟩ (.strm ⟨1, false⟩)) ∧
  decode 0b1010100000000011 0x847CC100 = .ok (.mma 3 0 1 ⟨.bf16, ⟨false, 0⟩, false, true, 0⟩) ∧
  decode 0b1010110000010011 0xA0AA0500 = .ok (.cpy ⟨3, false⟩ ⟨4, true⟩ 2 (some 5) ⟨false, 1⟩) ∧
  decode 0b0111000001000010 0x8F80 = .ok (.force (.g 2) 1) ∧
  decode 0b0111010000000000 0x3F80 = .ok (.mig 7) ∧
  decode 0b0111110010100000 0x1F81 = .ok (.tlbinvPage 3) ∧
  decode 0b0000000111100000 0 = .error .unassigned ∧ decode 0b1000010000000010 0 = .error .tail ∧
  decode 0b0100010000000010 0b0000100001000010 = .error .field

/-- R139 to R154: every well-formed instruction has a head and a tail of the length that the head's tail code names, the decoder reads them
back as that instruction with every operand, and so it does from the bytes of a line that holds nothing else. -/
def Obligations.DecodeEncode : Prop :=
  ∀ i : Instr, i.wf = true → i.isEvent = false → ∃ h t, encode i = some (h, t) ∧ h < 2 ^ 16 ∧ t < 2 ^ (16 * tailLen (h / 16384)) ∧
    decode h t = .ok i ∧ decodeAt (oneHeadLine h t).bytes 1 = some i
end

