-- ==== Sys2Proof/Laws/Memory.lean ====
section
/-! SUPPORT. Memory: a write is read back and leaves every other byte alone, and every operation keeps the canonical form. -/

set_option Elab.async false

namespace Sys2Proof.Machine

/-! ## The canonical form -/

/-- A lower bound that no listed address meets. -/
def Memory.above (lo : Option Nat) (a : Nat) : Prop := ∀ l, lo = some l → l < a

theorem Memory.wfAbove_cons {lo : Option Nat} {k : Nat} {b : Byte} {r : Memory} :
    Memory.wfAbove lo ((k, b) :: r) = true ↔
      Memory.above lo k ∧ b ≠ memDefault ∧ Memory.wfAbove (some k) r = true := by
  cases lo <;> simp [Memory.wfAbove, Memory.above, and_assoc]

theorem Memory.above_mono {lo : Option Nat} {k a : Nat} (h : Memory.above lo k) (ha : k ≤ a) : Memory.above lo a :=
  fun l e => Nat.lt_of_lt_of_le (h l e) ha

theorem Memory.wfAbove_weaken {lo : Option Nat} {k : Nat} {m : Memory} (h : Memory.above lo k)
    (w : Memory.wfAbove (some k) m = true) : Memory.wfAbove lo m = true := by
  cases m with
  | nil => rfl
  | cons x r =>
    obtain ⟨j, b⟩ := x
    rw [Memory.wfAbove_cons] at w ⊢
    exact ⟨Memory.above_mono h (Nat.le_of_lt (w.1 k rfl)), w.2⟩

/-- An address below every listed one reads the default. -/
theorem Memory.read_below {k a : Nat} {m : Memory} (w : Memory.wfAbove (some k) m = true) (h : a ≤ k) :
    Memory.read m a = memDefault := by
  cases m with
  | nil => rfl
  | cons x r =>
    obtain ⟨j, b⟩ := x
    rw [Memory.wfAbove_cons] at w
    have := w.1 k rfl
    simp [Memory.read, show j ≠ a by omega, show a < j by omega]

theorem Memory.write_wfAbove {lo : Option Nat} {m : Memory} (a : Nat) (b : Byte) (h : Memory.above lo a)
    (w : Memory.wfAbove lo m = true) : Memory.wfAbove lo (Memory.write m a b) = true := by
  induction m generalizing lo with
  | nil =>
    by_cases hb : b = memDefault
    · simp [Memory.write, hb, Memory.wfAbove]
    · simp only [Memory.write, hb, if_false, Memory.wfAbove_cons]
      exact ⟨h, hb, rfl⟩
  | cons x r ih =>
    obtain ⟨k, c⟩ := x
    have w' := Memory.wfAbove_cons.mp w
    simp only [Memory.write]
    split
    · next e =>
      subst e
      split
      · exact Memory.wfAbove_weaken w'.1 w'.2.2
      · next hb => exact Memory.wfAbove_cons.mpr ⟨h, hb, w'.2.2⟩
    · split
      · next hlt =>
        split
        · exact w
        · next hb =>
          refine Memory.wfAbove_cons.mpr ⟨h, hb, Memory.wfAbove_cons.mpr ⟨?_, w'.2⟩⟩
          intro l e
          cases e
          exact hlt
      · next hne hlt =>
        refine Memory.wfAbove_cons.mpr ⟨w'.1, w'.2.1, ih ?_ w'.2.2⟩
        intro l e
        cases e
        omega

/-- A write keeps the canonical form. -/
theorem Memory.write_wf {m : Memory} (a : Nat) (b : Byte) (w : Memory.wf m = true) :
    Memory.wf (Memory.write m a b) = true :=
  Memory.write_wfAbove a b (fun _ e => by cases e) w

/-- Consecutive writes keep the canonical form. -/
theorem Memory.writes_wf {m : Memory} (a : Nat) (bs : List Byte) (w : Memory.wf m = true) :
    Memory.wf (Memory.writes m a bs) = true := by
  induction bs generalizing m a with
  | nil => exact w
  | cons b r ih => exact ih (a + 1) (Memory.write_wf a b w)

theorem Memory.wfAbove_filter {lo : Option Nat} {m : Memory} (p : Host.Cell → Bool) (w : Memory.wfAbove lo m = true) :
    Memory.wfAbove lo (m.filter p) = true := by
  induction m generalizing lo with
  | nil => rfl
  | cons x r ih =>
    obtain ⟨k, b⟩ := x
    have w' := Memory.wfAbove_cons.mp w
    rw [List.filter_cons]
    split
    · exact Memory.wfAbove_cons.mpr ⟨w'.1, w'.2.1, ih w'.2.2⟩
    · exact Memory.wfAbove_weaken w'.1 (ih w'.2.2)

/-- Taking entries out keeps the canonical form. -/
theorem Memory.filter_wf {m : Memory} (p : Host.Cell → Bool) (w : Memory.wf m = true) : Memory.wf (m.filter p) = true :=
  Memory.wfAbove_filter p w

/-- Two canonical lists, the second above a bound that the first stays below. -/
theorem Memory.wfAbove_append {lo : Option Nat} {m n : Memory} (k : Nat) (hk : Memory.above lo k)
    (hm : ∀ x ∈ m, x.1 < k) (wm : Memory.wfAbove lo m = true) (wn : Memory.wfAbove none n = true)
    (hn : ∀ x ∈ n, k ≤ x.1) : Memory.wfAbove lo (m ++ n) = true := by
  induction m generalizing lo with
  | nil =>
    cases n with
    | nil => rfl
    | cons x r =>
      obtain ⟨j, b⟩ := x
      have w' := Memory.wfAbove_cons.mp wn
      exact Memory.wfAbove_cons.mpr ⟨Memory.above_mono hk (hn (j, b) (by simp)), w'.2⟩
  | cons x r ih =>
    obtain ⟨j, b⟩ := x
    have w' := Memory.wfAbove_cons.mp wm
    refine Memory.wfAbove_cons.mpr ⟨w'.1, w'.2.1, ih ?_ (fun y hy => hm y (by simp [hy])) w'.2.2⟩
    intro l e
    cases e
    exact hm (j, b) (by simp)

theorem Memory.wfAbove_shift {lo : Option Nat} {m : Memory} (src dst : Nat) (hm : ∀ x ∈ m, src ≤ x.1)
    (w : Memory.wfAbove lo m = true) :
    Memory.wfAbove none (m.map (fun x => (x.1 - src + dst, x.2))) = true := by
  induction m generalizing lo with
  | nil => rfl
  | cons x r ih =>
    obtain ⟨j, b⟩ := x
    have w' := Memory.wfAbove_cons.mp w
    have ih' := ih (fun y hy => hm y (by simp [hy])) w'.2.2
    refine Memory.wfAbove_cons.mpr ⟨(fun _ e => by cases e), w'.2.1, ?_⟩
    cases r with
    | nil => rfl
    | cons y q =>
      obtain ⟨i, c⟩ := y
      have hj := hm (j, b) (by simp)
      have hij := (Memory.wfAbove_cons.mp w'.2.2).1 j rfl
      rw [List.map_cons] at ih' ⊢
      refine Memory.wfAbove_cons.mpr ⟨?_, (Memory.wfAbove_cons.mp ih').2⟩
      intro l e
      cases e
      simp only at hj ⊢
      omega

/-- Copying a range keeps the canonical form. -/
theorem Memory.copyRange_wf {m : Memory} (src dst n : Nat) (w : Memory.wf m = true) :
    Memory.wf (Memory.copyRange m src dst n) = true := by
  unfold Memory.copyRange
  rw [List.append_assoc]
  refine Memory.wfAbove_append dst (fun _ e => by cases e) ?_ (Memory.filter_wf _ w) ?_ ?_
  · intro x hx
    have := (List.mem_filter.mp hx).2
    simpa using this
  · refine Memory.wfAbove_append (dst + n) (fun _ e => by cases e) ?_ ?_ (Memory.filter_wf _ w) ?_
    · intro x hx
      obtain ⟨y, hy, rfl⟩ := List.mem_map.mp hx
      have := (List.mem_filter.mp hy).2
      simp only [Bool.and_eq_true, decide_eq_true_eq] at this
      simp only
      omega
    · refine Memory.wfAbove_shift (lo := none) src dst ?_ (Memory.filter_wf _ w)
      intro x hx
      have := (List.mem_filter.mp hx).2
      simp only [Bool.and_eq_true, decide_eq_true_eq] at this
      exact this.1
    · intro x hx
      have := (List.mem_filter.mp hx).2
      simpa using this
  · intro x hx
    rcases List.mem_append.mp hx with hx | hx
    · obtain ⟨y, _, rfl⟩ := List.mem_map.mp hx
      simp only
      omega
    · have := (List.mem_filter.mp hx).2
      simp only [decide_eq_true_eq] at this
      omega

/-- A fold of operations that keep the canonical form keeps it. -/
theorem Memory.foldl_wf {α : Type} (l : List α) (f : Memory → α → Memory)
    (hf : ∀ m a, Memory.wf m = true → Memory.wf (f m a) = true) {m : Memory} (w : Memory.wf m = true) :
    Memory.wf (l.foldl f m) = true := by
  induction l generalizing m with
  | nil => exact w
  | cons a r ih => exact ih (hf m a w)

/-! ## Read after write -/

/-- What a write does to what every address reads, on a canonical memory. -/
theorem Memory.read_write {lo : Option Nat} {m : Memory} (w : Memory.wfAbove lo m = true) (a x : Nat) (b : Byte) :
    Memory.read (Memory.write m a b) x = if x = a then b else Memory.read m x := by
  induction m generalizing lo with
  | nil =>
    by_cases hb : b = memDefault
    · by_cases hx : x = a <;> simp [Memory.write, hb, Memory.read, hx]
    · by_cases hx : x = a
      · simp [Memory.write, hb, Memory.read, hx]
      · simp [Memory.write, hb, Memory.read, hx, show a ≠ x by omega]
  | cons y r ih =>
    obtain ⟨k, c⟩ := y
    have w' := Memory.wfAbove_cons.mp w
    have ih := ih w'.2.2
    simp only [Memory.write]
    by_cases hka : k = a
    · subst hka
      by_cases hb : b = memDefault
      · simp only [hb, if_true]
        by_cases hx : x = k
        · subst hx; simp [Memory.read_below w'.2.2 (Nat.le_refl _)]
        · by_cases hlt : x < k
          · simp [Memory.read_below w'.2.2 (Nat.le_of_lt hlt), Memory.read, hx, hlt, show k ≠ x by omega]
          · simp [Memory.read, hx, hlt, show k ≠ x by omega]
      · by_cases hx : x = k
        · simp [hb, Memory.read, hx]
        · simp [hb, Memory.read, hx, show k ≠ x by omega]
    · by_cases hlt : a < k
      · by_cases hb : b = memDefault
        · simp only [hka, hlt, hb, if_true, if_false]
          by_cases hx : x = a
          · simp [Memory.read, hx, hka, hlt]
          · simp [hx]
        · simp only [hka, hlt, hb, if_true, if_false]
          by_cases hx : x = a
          · simp [Memory.read, hx]
          · by_cases hxa : x < a
            · simp [Memory.read, hx, show a ≠ x by omega, hxa, show k ≠ x by omega, show x < k by omega]
            · simp [Memory.read, hx, show a ≠ x by omega, hxa]
      · simp only [hka, hlt, if_false]
        by_cases hkx : k = x
        · simp [Memory.read, hkx, show x ≠ a by omega]
        · by_cases hxk : x < k
          · simp [Memory.read, hkx, hxk, show x ≠ a by omega]
          · simp [Memory.read, hkx, hxk, ih]

/-- What is written is read back. -/
theorem Memory.read_write_same {m : Memory} (w : Memory.wf m = true) (a : Nat) (b : Byte) :
    Memory.read (Memory.write m a b) a = b := by
  simp [Memory.read_write w]

/-- A write leaves every other byte alone. -/
theorem Memory.read_write_ne {m : Memory} (w : Memory.wf m = true) {a x : Nat} (b : Byte) (h : x ≠ a) :
    Memory.read (Memory.write m a b) x = Memory.read m x := by
  simp [Memory.read_write w, h]

/-- Consecutive writes leave every byte outside them alone. -/
theorem Memory.read_writes_out {m : Memory} (w : Memory.wf m = true) (a : Nat) (bs : List Byte) {x : Nat}
    (h : x < a ∨ a + bs.length ≤ x) : Memory.read (Memory.writes m a bs) x = Memory.read m x := by
  induction bs generalizing m a with
  | nil => rfl
  | cons b r ih =>
    simp only [List.length_cons] at h
    rw [Memory.writes, ih (Memory.write_wf a b w) (a + 1) (by omega), Memory.read_write_ne w b (by omega)]

/-- Consecutive writes are read back byte by byte. -/
theorem Memory.read_writes_in {m : Memory} (w : Memory.wf m = true) (a : Nat) (bs : List Byte) (i : Nat) (h : i < bs.length) :
    Memory.read (Memory.writes m a bs) (a + i) = bs[i] := by
  induction bs generalizing m a i with
  | nil => simp at h
  | cons b r ih =>
    cases i with
    | zero =>
      rw [Memory.writes, Nat.add_zero, Memory.read_writes_out (Memory.write_wf a b w) (a + 1) r (by omega)]
      simp [Memory.read_write_same w]
    | succ i =>
      have := ih (Memory.write_wf a b w) (a + 1) i (by simpa using h)
      rw [Memory.writes, show a + (i + 1) = a + 1 + i by omega, this]
      simp

theorem Memory.reads_length (m : Memory) (a n : Nat) : (Memory.reads m a n).length = n := by
  induction n generalizing a with
  | zero => rfl
  | succ n ih => simp [Memory.reads, ih]

/-- Bytes that were stored are read back as they were written. -/
theorem Memory.reads_writes {m : Memory} (w : Memory.wf m = true) (a : Nat) (bs : List Byte) :
    Memory.reads (Memory.writes m a bs) a bs.length = bs := by
  induction bs generalizing m a with
  | nil => rfl
  | cons b r ih =>
    have h0 := Memory.read_writes_in w a (b :: r) 0 (by simp)
    simp only [Nat.add_zero, List.getElem_cons_zero] at h0
    rw [List.length_cons, Memory.reads, h0, Memory.writes, ih (Memory.write_wf a b w)]

/-! ## Bytes and numbers -/

theorem leBytes_length (n v : Nat) : (leBytes n v).length = n := by
  induction n generalizing v with
  | zero => rfl
  | succ n ih => simp [leBytes, ih]

/-- Little-endian bytes of a number give it back, modulo their width (R1). -/
theorem leNat_leBytes (n v : Nat) : leNat (leBytes n v) = v % 256 ^ n := by
  induction n generalizing v with
  | zero => simp [leBytes, leNat, Nat.mod_one]
  | succ n ih =>
    have h : v % 256 ^ (n + 1) = v % 256 + 256 * (v / 256 % 256 ^ n) := by
      rw [Nat.pow_succ, Nat.mul_comm (256 ^ n) 256, Nat.mod_mul]
    rw [leBytes, leNat, ih, h, BitVec.toNat_ofNat]

end Sys2Proof.Machine
end

