-- ==== Sys2Proof/Laws/State.lean ====
section
/-! SUPPORT. For each update of the state: the fields it leaves as they are. Made field by field, so that no proof unfolds a record
update. -/

set_option Elab.async false

namespace Sys2Proof.Machine

/-! ## `modCore` -/

section
variable (s : State) (c : Nat) (f : Core → Core)
@[simp] theorem State.modCore_time : (s.modCore c f).time = s.time := rfl
@[simp] theorem State.modCore_mem : (s.modCore c f).mem = s.mem := rfl
@[simp] theorem State.modCore_synd : (s.modCore c f).synd = s.synd := rfl
@[simp] theorem State.modCore_lost : (s.modCore c f).lost = s.lost := rfl
@[simp] theorem State.modCore_cacheBad : (s.modCore c f).cacheBad = s.cacheBad := rfl
@[simp] theorem State.modCore_lmap : (s.modCore c f).lmap = s.lmap := rfl
@[simp] theorem State.modCore_net : (s.modCore c f).net = s.net := rfl
@[simp] theorem State.modCore_inbox : (s.modCore c f).inbox = s.inbox := rfl
@[simp] theorem State.modCore_rels : (s.modCore c f).rels = s.rels := rfl
@[simp] theorem State.modCore_replies : (s.modCore c f).replies = s.replies := rfl
@[simp] theorem State.modCore_echoes : (s.modCore c f).echoes = s.echoes := rfl
@[simp] theorem State.modCore_lines : (s.modCore c f).lines = s.lines := rfl
@[simp] theorem State.modCore_relRec : (s.modCore c f).relRec = s.relRec := rfl
@[simp] theorem State.modCore_faultQ : (s.modCore c f).faultQ = s.faultQ := rfl
@[simp] theorem State.modCore_pageReqs : (s.modCore c f).pageReqs = s.pageReqs := rfl
@[simp] theorem State.modCore_tlb : (s.modCore c f).tlb = s.tlb := rfl
@[simp] theorem State.modCore_invals : (s.modCore c f).invals = s.invals := rfl
@[simp] theorem State.modCore_stocks : (s.modCore c f).stocks = s.stocks := rfl
@[simp] theorem State.modCore_descs : (s.modCore c f).descs = s.descs := rfl
@[simp] theorem State.modCore_mapCache : (s.modCore c f).mapCache = s.mapCache := rfl
@[simp] theorem State.modCore_moves : (s.modCore c f).moves = s.moves := rfl
@[simp] theorem State.modCore_claims : (s.modCore c f).claims = s.claims := rfl
@[simp] theorem State.modCore_ctxs : (s.modCore c f).ctxs = s.ctxs := rfl
@[simp] theorem State.modCore_parts : (s.modCore c f).parts = s.parts := rfl
@[simp] theorem State.modCore_acl : (s.modCore c f).acl = s.acl := rfl
@[simp] theorem State.modCore_devQ : (s.modCore c f).devQ = s.devQ := rfl
@[simp] theorem State.modCore_launches : (s.modCore c f).launches = s.launches := rfl
@[simp] theorem State.modCore_steals : (s.modCore c f).steals = s.steals := rfl
@[simp] theorem State.modCore_migs : (s.modCore c f).migs = s.migs := rfl
@[simp] theorem State.modCore_deps : (s.modCore c f).deps = s.deps := rfl
@[simp] theorem State.modCore_sends : (s.modCore c f).sends = s.sends := rfl
@[simp] theorem State.modCore_wakes : (s.modCore c f).wakes = s.wakes := rfl
@[simp] theorem State.modCore_arrivals : (s.modCore c f).arrivals = s.arrivals := rfl
@[simp] theorem State.modCore_ownerless : (s.modCore c f).ownerless = s.ownerless := rfl
@[simp] theorem State.modCore_signals : (s.modCore c f).signals = s.signals := rfl
@[simp] theorem State.modCore_tokens : (s.modCore c f).tokens = s.tokens := rfl
@[simp] theorem State.modCore_bars : (s.modCore c f).bars = s.bars := rfl
@[simp] theorem State.modCore_redns : (s.modCore c f).redns = s.redns := rfl
@[simp] theorem State.modCore_detMap : (s.modCore c f).detMap = s.detMap := rfl
@[simp] theorem State.modCore_detentions : (s.modCore c f).detentions = s.detentions := rfl
@[simp] theorem State.modCore_diary : (s.modCore c f).diary = s.diary := rfl
@[simp] theorem State.modCore_fatals : (s.modCore c f).fatals = s.fatals := rfl
@[simp] theorem State.modCore_capsule : (s.modCore c f).capsule = s.capsule := rfl
@[simp] theorem State.modCore_bustat : (s.modCore c f).bustat = s.bustat := rfl
@[simp] theorem State.modCore_hostOut : (s.modCore c f).hostOut = s.hostOut := rfl
@[simp] theorem State.modCore_agenda : (s.modCore c f).agenda = s.agenda := rfl
@[simp] theorem State.modCore_cur : (s.modCore c f).cur = s.cur := rfl
@[simp] theorem State.modCore_nextTag : (s.modCore c f).nextTag = s.nextTag := rfl
end

/-! ## `modSlot` -/

section
variable (s : State) (c : Nat) (i : Fin 8) (f : Slot → Slot)
@[simp] theorem State.modSlot_time : (s.modSlot c i f).time = s.time := rfl
@[simp] theorem State.modSlot_mem : (s.modSlot c i f).mem = s.mem := rfl
@[simp] theorem State.modSlot_synd : (s.modSlot c i f).synd = s.synd := rfl
@[simp] theorem State.modSlot_lost : (s.modSlot c i f).lost = s.lost := rfl
@[simp] theorem State.modSlot_cacheBad : (s.modSlot c i f).cacheBad = s.cacheBad := rfl
@[simp] theorem State.modSlot_lmap : (s.modSlot c i f).lmap = s.lmap := rfl
@[simp] theorem State.modSlot_net : (s.modSlot c i f).net = s.net := rfl
@[simp] theorem State.modSlot_inbox : (s.modSlot c i f).inbox = s.inbox := rfl
@[simp] theorem State.modSlot_rels : (s.modSlot c i f).rels = s.rels := rfl
@[simp] theorem State.modSlot_replies : (s.modSlot c i f).replies = s.replies := rfl
@[simp] theorem State.modSlot_echoes : (s.modSlot c i f).echoes = s.echoes := rfl
@[simp] theorem State.modSlot_lines : (s.modSlot c i f).lines = s.lines := rfl
@[simp] theorem State.modSlot_relRec : (s.modSlot c i f).relRec = s.relRec := rfl
@[simp] theorem State.modSlot_faultQ : (s.modSlot c i f).faultQ = s.faultQ := rfl
@[simp] theorem State.modSlot_pageReqs : (s.modSlot c i f).pageReqs = s.pageReqs := rfl
@[simp] theorem State.modSlot_tlb : (s.modSlot c i f).tlb = s.tlb := rfl
@[simp] theorem State.modSlot_invals : (s.modSlot c i f).invals = s.invals := rfl
@[simp] theorem State.modSlot_stocks : (s.modSlot c i f).stocks = s.stocks := rfl
@[simp] theorem State.modSlot_descs : (s.modSlot c i f).descs = s.descs := rfl
@[simp] theorem State.modSlot_mapCache : (s.modSlot c i f).mapCache = s.mapCache := rfl
@[simp] theorem State.modSlot_moves : (s.modSlot c i f).moves = s.moves := rfl
@[simp] theorem State.modSlot_claims : (s.modSlot c i f).claims = s.claims := rfl
@[simp] theorem State.modSlot_ctxs : (s.modSlot c i f).ctxs = s.ctxs := rfl
@[simp] theorem State.modSlot_parts : (s.modSlot c i f).parts = s.parts := rfl
@[simp] theorem State.modSlot_acl : (s.modSlot c i f).acl = s.acl := rfl
@[simp] theorem State.modSlot_devQ : (s.modSlot c i f).devQ = s.devQ := rfl
@[simp] theorem State.modSlot_launches : (s.modSlot c i f).launches = s.launches := rfl
@[simp] theorem State.modSlot_steals : (s.modSlot c i f).steals = s.steals := rfl
@[simp] theorem State.modSlot_migs : (s.modSlot c i f).migs = s.migs := rfl
@[simp] theorem State.modSlot_deps : (s.modSlot c i f).deps = s.deps := rfl
@[simp] theorem State.modSlot_sends : (s.modSlot c i f).sends = s.sends := rfl
@[simp] theorem State.modSlot_wakes : (s.modSlot c i f).wakes = s.wakes := rfl
@[simp] theorem State.modSlot_arrivals : (s.modSlot c i f).arrivals = s.arrivals := rfl
@[simp] theorem State.modSlot_ownerless : (s.modSlot c i f).ownerless = s.ownerless := rfl
@[simp] theorem State.modSlot_signals : (s.modSlot c i f).signals = s.signals := rfl
@[simp] theorem State.modSlot_tokens : (s.modSlot c i f).tokens = s.tokens := rfl
@[simp] theorem State.modSlot_bars : (s.modSlot c i f).bars = s.bars := rfl
@[simp] theorem State.modSlot_redns : (s.modSlot c i f).redns = s.redns := rfl
@[simp] theorem State.modSlot_detMap : (s.modSlot c i f).detMap = s.detMap := rfl
@[simp] theorem State.modSlot_detentions : (s.modSlot c i f).detentions = s.detentions := rfl
@[simp] theorem State.modSlot_diary : (s.modSlot c i f).diary = s.diary := rfl
@[simp] theorem State.modSlot_fatals : (s.modSlot c i f).fatals = s.fatals := rfl
@[simp] theorem State.modSlot_capsule : (s.modSlot c i f).capsule = s.capsule := rfl
@[simp] theorem State.modSlot_bustat : (s.modSlot c i f).bustat = s.bustat := rfl
@[simp] theorem State.modSlot_hostOut : (s.modSlot c i f).hostOut = s.hostOut := rfl
@[simp] theorem State.modSlot_agenda : (s.modSlot c i f).agenda = s.agenda := rfl
@[simp] theorem State.modSlot_cur : (s.modSlot c i f).cur = s.cur := rfl
@[simp] theorem State.modSlot_nextTag : (s.modSlot c i f).nextTag = s.nextTag := rfl
end

/-! ## `modAt` -/

section
variable (s : State) (c : Nat) (i : Fin 8) (f : Thread → Thread)
@[simp] theorem State.modAt_time : (s.modAt c i f).time = s.time := rfl
@[simp] theorem State.modAt_mem : (s.modAt c i f).mem = s.mem := rfl
@[simp] theorem State.modAt_synd : (s.modAt c i f).synd = s.synd := rfl
@[simp] theorem State.modAt_lost : (s.modAt c i f).lost = s.lost := rfl
@[simp] theorem State.modAt_cacheBad : (s.modAt c i f).cacheBad = s.cacheBad := rfl
@[simp] theorem State.modAt_lmap : (s.modAt c i f).lmap = s.lmap := rfl
@[simp] theorem State.modAt_net : (s.modAt c i f).net = s.net := rfl
@[simp] theorem State.modAt_inbox : (s.modAt c i f).inbox = s.inbox := rfl
@[simp] theorem State.modAt_rels : (s.modAt c i f).rels = s.rels := rfl
@[simp] theorem State.modAt_replies : (s.modAt c i f).replies = s.replies := rfl
@[simp] theorem State.modAt_echoes : (s.modAt c i f).echoes = s.echoes := rfl
@[simp] theorem State.modAt_lines : (s.modAt c i f).lines = s.lines := rfl
@[simp] theorem State.modAt_relRec : (s.modAt c i f).relRec = s.relRec := rfl
@[simp] theorem State.modAt_faultQ : (s.modAt c i f).faultQ = s.faultQ := rfl
@[simp] theorem State.modAt_pageReqs : (s.modAt c i f).pageReqs = s.pageReqs := rfl
@[simp] theorem State.modAt_tlb : (s.modAt c i f).tlb = s.tlb := rfl
@[simp] theorem State.modAt_invals : (s.modAt c i f).invals = s.invals := rfl
@[simp] theorem State.modAt_stocks : (s.modAt c i f).stocks = s.stocks := rfl
@[simp] theorem State.modAt_descs : (s.modAt c i f).descs = s.descs := rfl
@[simp] theorem State.modAt_mapCache : (s.modAt c i f).mapCache = s.mapCache := rfl
@[simp] theorem State.modAt_moves : (s.modAt c i f).moves = s.moves := rfl
@[simp] theorem State.modAt_claims : (s.modAt c i f).claims = s.claims := rfl
@[simp] theorem State.modAt_ctxs : (s.modAt c i f).ctxs = s.ctxs := rfl
@[simp] theorem State.modAt_parts : (s.modAt c i f).parts = s.parts := rfl
@[simp] theorem State.modAt_acl : (s.modAt c i f).acl = s.acl := rfl
@[simp] theorem State.modAt_devQ : (s.modAt c i f).devQ = s.devQ := rfl
@[simp] theorem State.modAt_launches : (s.modAt c i f).launches = s.launches := rfl
@[simp] theorem State.modAt_steals : (s.modAt c i f).steals = s.steals := rfl
@[simp] theorem State.modAt_migs : (s.modAt c i f).migs = s.migs := rfl
@[simp] theorem State.modAt_deps : (s.modAt c i f).deps = s.deps := rfl
@[simp] theorem State.modAt_sends : (s.modAt c i f).sends = s.sends := rfl
@[simp] theorem State.modAt_wakes : (s.modAt c i f).wakes = s.wakes := rfl
@[simp] theorem State.modAt_arrivals : (s.modAt c i f).arrivals = s.arrivals := rfl
@[simp] theorem State.modAt_ownerless : (s.modAt c i f).ownerless = s.ownerless := rfl
@[simp] theorem State.modAt_signals : (s.modAt c i f).signals = s.signals := rfl
@[simp] theorem State.modAt_tokens : (s.modAt c i f).tokens = s.tokens := rfl
@[simp] theorem State.modAt_bars : (s.modAt c i f).bars = s.bars := rfl
@[simp] theorem State.modAt_redns : (s.modAt c i f).redns = s.redns := rfl
@[simp] theorem State.modAt_detMap : (s.modAt c i f).detMap = s.detMap := rfl
@[simp] theorem State.modAt_detentions : (s.modAt c i f).detentions = s.detentions := rfl
@[simp] theorem State.modAt_diary : (s.modAt c i f).diary = s.diary := rfl
@[simp] theorem State.modAt_fatals : (s.modAt c i f).fatals = s.fatals := rfl
@[simp] theorem State.modAt_capsule : (s.modAt c i f).capsule = s.capsule := rfl
@[simp] theorem State.modAt_bustat : (s.modAt c i f).bustat = s.bustat := rfl
@[simp] theorem State.modAt_hostOut : (s.modAt c i f).hostOut = s.hostOut := rfl
@[simp] theorem State.modAt_agenda : (s.modAt c i f).agenda = s.agenda := rfl
@[simp] theorem State.modAt_cur : (s.modAt c i f).cur = s.cur := rfl
@[simp] theorem State.modAt_nextTag : (s.modAt c i f).nextTag = s.nextTag := rfl
end

/-! ## `setOcc` -/

section
variable (s : State) (c : Nat) (i : Fin 8) (o : Occ)
@[simp] theorem State.setOcc_time : (s.setOcc c i o).time = s.time := rfl
@[simp] theorem State.setOcc_mem : (s.setOcc c i o).mem = s.mem := rfl
@[simp] theorem State.setOcc_synd : (s.setOcc c i o).synd = s.synd := rfl
@[simp] theorem State.setOcc_lost : (s.setOcc c i o).lost = s.lost := rfl
@[simp] theorem State.setOcc_cacheBad : (s.setOcc c i o).cacheBad = s.cacheBad := rfl
@[simp] theorem State.setOcc_lmap : (s.setOcc c i o).lmap = s.lmap := rfl
@[simp] theorem State.setOcc_net : (s.setOcc c i o).net = s.net := rfl
@[simp] theorem State.setOcc_inbox : (s.setOcc c i o).inbox = s.inbox := rfl
@[simp] theorem State.setOcc_rels : (s.setOcc c i o).rels = s.rels := rfl
@[simp] theorem State.setOcc_replies : (s.setOcc c i o).replies = s.replies := rfl
@[simp] theorem State.setOcc_echoes : (s.setOcc c i o).echoes = s.echoes := rfl
@[simp] theorem State.setOcc_lines : (s.setOcc c i o).lines = s.lines := rfl
@[simp] theorem State.setOcc_relRec : (s.setOcc c i o).relRec = s.relRec := rfl
@[simp] theorem State.setOcc_faultQ : (s.setOcc c i o).faultQ = s.faultQ := rfl
@[simp] theorem State.setOcc_pageReqs : (s.setOcc c i o).pageReqs = s.pageReqs := rfl
@[simp] theorem State.setOcc_tlb : (s.setOcc c i o).tlb = s.tlb := rfl
@[simp] theorem State.setOcc_invals : (s.setOcc c i o).invals = s.invals := rfl
@[simp] theorem State.setOcc_stocks : (s.setOcc c i o).stocks = s.stocks := rfl
@[simp] theorem State.setOcc_descs : (s.setOcc c i o).descs = s.descs := rfl
@[simp] theorem State.setOcc_mapCache : (s.setOcc c i o).mapCache = s.mapCache := rfl
@[simp] theorem State.setOcc_moves : (s.setOcc c i o).moves = s.moves := rfl
@[simp] theorem State.setOcc_claims : (s.setOcc c i o).claims = s.claims := rfl
@[simp] theorem State.setOcc_ctxs : (s.setOcc c i o).ctxs = s.ctxs := rfl
@[simp] theorem State.setOcc_parts : (s.setOcc c i o).parts = s.parts := rfl
@[simp] theorem State.setOcc_acl : (s.setOcc c i o).acl = s.acl := rfl
@[simp] theorem State.setOcc_devQ : (s.setOcc c i o).devQ = s.devQ := rfl
@[simp] theorem State.setOcc_launches : (s.setOcc c i o).launches = s.launches := rfl
@[simp] theorem State.setOcc_steals : (s.setOcc c i o).steals = s.steals := rfl
@[simp] theorem State.setOcc_migs : (s.setOcc c i o).migs = s.migs := rfl
@[simp] theorem State.setOcc_deps : (s.setOcc c i o).deps = s.deps := rfl
@[simp] theorem State.setOcc_sends : (s.setOcc c i o).sends = s.sends := rfl
@[simp] theorem State.setOcc_wakes : (s.setOcc c i o).wakes = s.wakes := rfl
@[simp] theorem State.setOcc_arrivals : (s.setOcc c i o).arrivals = s.arrivals := rfl
@[simp] theorem State.setOcc_ownerless : (s.setOcc c i o).ownerless = s.ownerless := rfl
@[simp] theorem State.setOcc_signals : (s.setOcc c i o).signals = s.signals := rfl
@[simp] theorem State.setOcc_tokens : (s.setOcc c i o).tokens = s.tokens := rfl
@[simp] theorem State.setOcc_bars : (s.setOcc c i o).bars = s.bars := rfl
@[simp] theorem State.setOcc_redns : (s.setOcc c i o).redns = s.redns := rfl
@[simp] theorem State.setOcc_detMap : (s.setOcc c i o).detMap = s.detMap := rfl
@[simp] theorem State.setOcc_detentions : (s.setOcc c i o).detentions = s.detentions := rfl
@[simp] theorem State.setOcc_diary : (s.setOcc c i o).diary = s.diary := rfl
@[simp] theorem State.setOcc_fatals : (s.setOcc c i o).fatals = s.fatals := rfl
@[simp] theorem State.setOcc_capsule : (s.setOcc c i o).capsule = s.capsule := rfl
@[simp] theorem State.setOcc_bustat : (s.setOcc c i o).bustat = s.bustat := rfl
@[simp] theorem State.setOcc_hostOut : (s.setOcc c i o).hostOut = s.hostOut := rfl
@[simp] theorem State.setOcc_agenda : (s.setOcc c i o).agenda = s.agenda := rfl
@[simp] theorem State.setOcc_cur : (s.setOcc c i o).cur = s.cur := rfl
@[simp] theorem State.setOcc_nextTag : (s.setOcc c i o).nextTag = s.nextTag := rfl
end

/-! ## `modMe` -/

section
variable (s : State) (f : Thread → Thread)
@[simp] theorem State.modMe_time : (s.modMe f).time = s.time := rfl
@[simp] theorem State.modMe_mem : (s.modMe f).mem = s.mem := rfl
@[simp] theorem State.modMe_synd : (s.modMe f).synd = s.synd := rfl
@[simp] theorem State.modMe_lost : (s.modMe f).lost = s.lost := rfl
@[simp] theorem State.modMe_cacheBad : (s.modMe f).cacheBad = s.cacheBad := rfl
@[simp] theorem State.modMe_lmap : (s.modMe f).lmap = s.lmap := rfl
@[simp] theorem State.modMe_net : (s.modMe f).net = s.net := rfl
@[simp] theorem State.modMe_inbox : (s.modMe f).inbox = s.inbox := rfl
@[simp] theorem State.modMe_rels : (s.modMe f).rels = s.rels := rfl
@[simp] theorem State.modMe_replies : (s.modMe f).replies = s.replies := rfl
@[simp] theorem State.modMe_echoes : (s.modMe f).echoes = s.echoes := rfl
@[simp] theorem State.modMe_lines : (s.modMe f).lines = s.lines := rfl
@[simp] theorem State.modMe_relRec : (s.modMe f).relRec = s.relRec := rfl
@[simp] theorem State.modMe_faultQ : (s.modMe f).faultQ = s.faultQ := rfl
@[simp] theorem State.modMe_pageReqs : (s.modMe f).pageReqs = s.pageReqs := rfl
@[simp] theorem State.modMe_tlb : (s.modMe f).tlb = s.tlb := rfl
@[simp] theorem State.modMe_invals : (s.modMe f).invals = s.invals := rfl
@[simp] theorem State.modMe_stocks : (s.modMe f).stocks = s.stocks := rfl
@[simp] theorem State.modMe_descs : (s.modMe f).descs = s.descs := rfl
@[simp] theorem State.modMe_mapCache : (s.modMe f).mapCache = s.mapCache := rfl
@[simp] theorem State.modMe_moves : (s.modMe f).moves = s.moves := rfl
@[simp] theorem State.modMe_claims : (s.modMe f).claims = s.claims := rfl
@[simp] theorem State.modMe_ctxs : (s.modMe f).ctxs = s.ctxs := rfl
@[simp] theorem State.modMe_parts : (s.modMe f).parts = s.parts := rfl
@[simp] theorem State.modMe_acl : (s.modMe f).acl = s.acl := rfl
@[simp] theorem State.modMe_devQ : (s.modMe f).devQ = s.devQ := rfl
@[simp] theorem State.modMe_launches : (s.modMe f).launches = s.launches := rfl
@[simp] theorem State.modMe_steals : (s.modMe f).steals = s.steals := rfl
@[simp] theorem State.modMe_migs : (s.modMe f).migs = s.migs := rfl
@[simp] theorem State.modMe_deps : (s.modMe f).deps = s.deps := rfl
@[simp] theorem State.modMe_sends : (s.modMe f).sends = s.sends := rfl
@[simp] theorem State.modMe_wakes : (s.modMe f).wakes = s.wakes := rfl
@[simp] theorem State.modMe_arrivals : (s.modMe f).arrivals = s.arrivals := rfl
@[simp] theorem State.modMe_ownerless : (s.modMe f).ownerless = s.ownerless := rfl
@[simp] theorem State.modMe_signals : (s.modMe f).signals = s.signals := rfl
@[simp] theorem State.modMe_tokens : (s.modMe f).tokens = s.tokens := rfl
@[simp] theorem State.modMe_bars : (s.modMe f).bars = s.bars := rfl
@[simp] theorem State.modMe_redns : (s.modMe f).redns = s.redns := rfl
@[simp] theorem State.modMe_detMap : (s.modMe f).detMap = s.detMap := rfl
@[simp] theorem State.modMe_detentions : (s.modMe f).detentions = s.detentions := rfl
@[simp] theorem State.modMe_diary : (s.modMe f).diary = s.diary := rfl
@[simp] theorem State.modMe_fatals : (s.modMe f).fatals = s.fatals := rfl
@[simp] theorem State.modMe_capsule : (s.modMe f).capsule = s.capsule := rfl
@[simp] theorem State.modMe_bustat : (s.modMe f).bustat = s.bustat := rfl
@[simp] theorem State.modMe_hostOut : (s.modMe f).hostOut = s.hostOut := rfl
@[simp] theorem State.modMe_agenda : (s.modMe f).agenda = s.agenda := rfl
@[simp] theorem State.modMe_cur : (s.modMe f).cur = s.cur := rfl
@[simp] theorem State.modMe_nextTag : (s.modMe f).nextTag = s.nextTag := rfl
end

/-! ## `goto` -/

section
variable (s : State) (pc : Word)
@[simp] theorem State.goto_time : (s.goto pc).time = s.time := rfl
@[simp] theorem State.goto_mem : (s.goto pc).mem = s.mem := rfl
@[simp] theorem State.goto_synd : (s.goto pc).synd = s.synd := rfl
@[simp] theorem State.goto_lost : (s.goto pc).lost = s.lost := rfl
@[simp] theorem State.goto_cacheBad : (s.goto pc).cacheBad = s.cacheBad := rfl
@[simp] theorem State.goto_lmap : (s.goto pc).lmap = s.lmap := rfl
@[simp] theorem State.goto_net : (s.goto pc).net = s.net := rfl
@[simp] theorem State.goto_inbox : (s.goto pc).inbox = s.inbox := rfl
@[simp] theorem State.goto_rels : (s.goto pc).rels = s.rels := rfl
@[simp] theorem State.goto_replies : (s.goto pc).replies = s.replies := rfl
@[simp] theorem State.goto_echoes : (s.goto pc).echoes = s.echoes := rfl
@[simp] theorem State.goto_lines : (s.goto pc).lines = s.lines := rfl
@[simp] theorem State.goto_relRec : (s.goto pc).relRec = s.relRec := rfl
@[simp] theorem State.goto_faultQ : (s.goto pc).faultQ = s.faultQ := rfl
@[simp] theorem State.goto_pageReqs : (s.goto pc).pageReqs = s.pageReqs := rfl
@[simp] theorem State.goto_tlb : (s.goto pc).tlb = s.tlb := rfl
@[simp] theorem State.goto_invals : (s.goto pc).invals = s.invals := rfl
@[simp] theorem State.goto_stocks : (s.goto pc).stocks = s.stocks := rfl
@[simp] theorem State.goto_descs : (s.goto pc).descs = s.descs := rfl
@[simp] theorem State.goto_mapCache : (s.goto pc).mapCache = s.mapCache := rfl
@[simp] theorem State.goto_moves : (s.goto pc).moves = s.moves := rfl
@[simp] theorem State.goto_claims : (s.goto pc).claims = s.claims := rfl
@[simp] theorem State.goto_ctxs : (s.goto pc).ctxs = s.ctxs := rfl
@[simp] theorem State.goto_parts : (s.goto pc).parts = s.parts := rfl
@[simp] theorem State.goto_acl : (s.goto pc).acl = s.acl := rfl
@[simp] theorem State.goto_devQ : (s.goto pc).devQ = s.devQ := rfl
@[simp] theorem State.goto_launches : (s.goto pc).launches = s.launches := rfl
@[simp] theorem State.goto_steals : (s.goto pc).steals = s.steals := rfl
@[simp] theorem State.goto_migs : (s.goto pc).migs = s.migs := rfl
@[simp] theorem State.goto_deps : (s.goto pc).deps = s.deps := rfl
@[simp] theorem State.goto_sends : (s.goto pc).sends = s.sends := rfl
@[simp] theorem State.goto_wakes : (s.goto pc).wakes = s.wakes := rfl
@[simp] theorem State.goto_arrivals : (s.goto pc).arrivals = s.arrivals := rfl
@[simp] theorem State.goto_ownerless : (s.goto pc).ownerless = s.ownerless := rfl
@[simp] theorem State.goto_signals : (s.goto pc).signals = s.signals := rfl
@[simp] theorem State.goto_tokens : (s.goto pc).tokens = s.tokens := rfl
@[simp] theorem State.goto_bars : (s.goto pc).bars = s.bars := rfl
@[simp] theorem State.goto_redns : (s.goto pc).redns = s.redns := rfl
@[simp] theorem State.goto_detMap : (s.goto pc).detMap = s.detMap := rfl
@[simp] theorem State.goto_detentions : (s.goto pc).detentions = s.detentions := rfl
@[simp] theorem State.goto_diary : (s.goto pc).diary = s.diary := rfl
@[simp] theorem State.goto_fatals : (s.goto pc).fatals = s.fatals := rfl
@[simp] theorem State.goto_capsule : (s.goto pc).capsule = s.capsule := rfl
@[simp] theorem State.goto_bustat : (s.goto pc).bustat = s.bustat := rfl
@[simp] theorem State.goto_hostOut : (s.goto pc).hostOut = s.hostOut := rfl
@[simp] theorem State.goto_agenda : (s.goto pc).agenda = s.agenda := rfl
@[simp] theorem State.goto_cur : (s.goto pc).cur = s.cur := rfl
@[simp] theorem State.goto_nextTag : (s.goto pc).nextTag = s.nextTag := rfl
end

/-! ## `advance` -/

section
variable (s : State) (t : Thread)
@[simp] theorem State.advance_time : (s.advance t).time = s.time := rfl
@[simp] theorem State.advance_mem : (s.advance t).mem = s.mem := rfl
@[simp] theorem State.advance_synd : (s.advance t).synd = s.synd := rfl
@[simp] theorem State.advance_lost : (s.advance t).lost = s.lost := rfl
@[simp] theorem State.advance_cacheBad : (s.advance t).cacheBad = s.cacheBad := rfl
@[simp] theorem State.advance_lmap : (s.advance t).lmap = s.lmap := rfl
@[simp] theorem State.advance_net : (s.advance t).net = s.net := rfl
@[simp] theorem State.advance_inbox : (s.advance t).inbox = s.inbox := rfl
@[simp] theorem State.advance_rels : (s.advance t).rels = s.rels := rfl
@[simp] theorem State.advance_replies : (s.advance t).replies = s.replies := rfl
@[simp] theorem State.advance_echoes : (s.advance t).echoes = s.echoes := rfl
@[simp] theorem State.advance_lines : (s.advance t).lines = s.lines := rfl
@[simp] theorem State.advance_relRec : (s.advance t).relRec = s.relRec := rfl
@[simp] theorem State.advance_faultQ : (s.advance t).faultQ = s.faultQ := rfl
@[simp] theorem State.advance_pageReqs : (s.advance t).pageReqs = s.pageReqs := rfl
@[simp] theorem State.advance_tlb : (s.advance t).tlb = s.tlb := rfl
@[simp] theorem State.advance_invals : (s.advance t).invals = s.invals := rfl
@[simp] theorem State.advance_stocks : (s.advance t).stocks = s.stocks := rfl
@[simp] theorem State.advance_descs : (s.advance t).descs = s.descs := rfl
@[simp] theorem State.advance_mapCache : (s.advance t).mapCache = s.mapCache := rfl
@[simp] theorem State.advance_moves : (s.advance t).moves = s.moves := rfl
@[simp] theorem State.advance_claims : (s.advance t).claims = s.claims := rfl
@[simp] theorem State.advance_ctxs : (s.advance t).ctxs = s.ctxs := rfl
@[simp] theorem State.advance_parts : (s.advance t).parts = s.parts := rfl
@[simp] theorem State.advance_acl : (s.advance t).acl = s.acl := rfl
@[simp] theorem State.advance_devQ : (s.advance t).devQ = s.devQ := rfl
@[simp] theorem State.advance_launches : (s.advance t).launches = s.launches := rfl
@[simp] theorem State.advance_steals : (s.advance t).steals = s.steals := rfl
@[simp] theorem State.advance_migs : (s.advance t).migs = s.migs := rfl
@[simp] theorem State.advance_deps : (s.advance t).deps = s.deps := rfl
@[simp] theorem State.advance_sends : (s.advance t).sends = s.sends := rfl
@[simp] theorem State.advance_wakes : (s.advance t).wakes = s.wakes := rfl
@[simp] theorem State.advance_arrivals : (s.advance t).arrivals = s.arrivals := rfl
@[simp] theorem State.advance_ownerless : (s.advance t).ownerless = s.ownerless := rfl
@[simp] theorem State.advance_signals : (s.advance t).signals = s.signals := rfl
@[simp] theorem State.advance_tokens : (s.advance t).tokens = s.tokens := rfl
@[simp] theorem State.advance_bars : (s.advance t).bars = s.bars := rfl
@[simp] theorem State.advance_redns : (s.advance t).redns = s.redns := rfl
@[simp] theorem State.advance_detMap : (s.advance t).detMap = s.detMap := rfl
@[simp] theorem State.advance_detentions : (s.advance t).detentions = s.detentions := rfl
@[simp] theorem State.advance_diary : (s.advance t).diary = s.diary := rfl
@[simp] theorem State.advance_fatals : (s.advance t).fatals = s.fatals := rfl
@[simp] theorem State.advance_capsule : (s.advance t).capsule = s.capsule := rfl
@[simp] theorem State.advance_bustat : (s.advance t).bustat = s.bustat := rfl
@[simp] theorem State.advance_hostOut : (s.advance t).hostOut = s.hostOut := rfl
@[simp] theorem State.advance_agenda : (s.advance t).agenda = s.agenda := rfl
@[simp] theorem State.advance_cur : (s.advance t).cur = s.cur := rfl
@[simp] theorem State.advance_nextTag : (s.advance t).nextTag = s.nextTag := rfl
end

/-! ## `pop` -/

section
variable (s : State) (x : Operand)
@[simp] theorem State.pop_time : (s.pop x).time = s.time := by cases x <;> rfl
@[simp] theorem State.pop_mem : (s.pop x).mem = s.mem := by cases x <;> rfl
@[simp] theorem State.pop_synd : (s.pop x).synd = s.synd := by cases x <;> rfl
@[simp] theorem State.pop_lost : (s.pop x).lost = s.lost := by cases x <;> rfl
@[simp] theorem State.pop_cacheBad : (s.pop x).cacheBad = s.cacheBad := by cases x <;> rfl
@[simp] theorem State.pop_lmap : (s.pop x).lmap = s.lmap := by cases x <;> rfl
@[simp] theorem State.pop_net : (s.pop x).net = s.net := by cases x <;> rfl
@[simp] theorem State.pop_inbox : (s.pop x).inbox = s.inbox := by cases x <;> rfl
@[simp] theorem State.pop_rels : (s.pop x).rels = s.rels := by cases x <;> rfl
@[simp] theorem State.pop_replies : (s.pop x).replies = s.replies := by cases x <;> rfl
@[simp] theorem State.pop_echoes : (s.pop x).echoes = s.echoes := by cases x <;> rfl
@[simp] theorem State.pop_lines : (s.pop x).lines = s.lines := by cases x <;> rfl
@[simp] theorem State.pop_relRec : (s.pop x).relRec = s.relRec := by cases x <;> rfl
@[simp] theorem State.pop_faultQ : (s.pop x).faultQ = s.faultQ := by cases x <;> rfl
@[simp] theorem State.pop_pageReqs : (s.pop x).pageReqs = s.pageReqs := by cases x <;> rfl
@[simp] theorem State.pop_tlb : (s.pop x).tlb = s.tlb := by cases x <;> rfl
@[simp] theorem State.pop_invals : (s.pop x).invals = s.invals := by cases x <;> rfl
@[simp] theorem State.pop_stocks : (s.pop x).stocks = s.stocks := by cases x <;> rfl
@[simp] theorem State.pop_descs : (s.pop x).descs = s.descs := by cases x <;> rfl
@[simp] theorem State.pop_mapCache : (s.pop x).mapCache = s.mapCache := by cases x <;> rfl
@[simp] theorem State.pop_moves : (s.pop x).moves = s.moves := by cases x <;> rfl
@[simp] theorem State.pop_claims : (s.pop x).claims = s.claims := by cases x <;> rfl
@[simp] theorem State.pop_ctxs : (s.pop x).ctxs = s.ctxs := by cases x <;> rfl
@[simp] theorem State.pop_parts : (s.pop x).parts = s.parts := by cases x <;> rfl
@[simp] theorem State.pop_acl : (s.pop x).acl = s.acl := by cases x <;> rfl
@[simp] theorem State.pop_devQ : (s.pop x).devQ = s.devQ := by cases x <;> rfl
@[simp] theorem State.pop_launches : (s.pop x).launches = s.launches := by cases x <;> rfl
@[simp] theorem State.pop_steals : (s.pop x).steals = s.steals := by cases x <;> rfl
@[simp] theorem State.pop_migs : (s.pop x).migs = s.migs := by cases x <;> rfl
@[simp] theorem State.pop_deps : (s.pop x).deps = s.deps := by cases x <;> rfl
@[simp] theorem State.pop_sends : (s.pop x).sends = s.sends := by cases x <;> rfl
@[simp] theorem State.pop_wakes : (s.pop x).wakes = s.wakes := by cases x <;> rfl
@[simp] theorem State.pop_arrivals : (s.pop x).arrivals = s.arrivals := by cases x <;> rfl
@[simp] theorem State.pop_ownerless : (s.pop x).ownerless = s.ownerless := by cases x <;> rfl
@[simp] theorem State.pop_signals : (s.pop x).signals = s.signals := by cases x <;> rfl
@[simp] theorem State.pop_tokens : (s.pop x).tokens = s.tokens := by cases x <;> rfl
@[simp] theorem State.pop_bars : (s.pop x).bars = s.bars := by cases x <;> rfl
@[simp] theorem State.pop_redns : (s.pop x).redns = s.redns := by cases x <;> rfl
@[simp] theorem State.pop_detMap : (s.pop x).detMap = s.detMap := by cases x <;> rfl
@[simp] theorem State.pop_detentions : (s.pop x).detentions = s.detentions := by cases x <;> rfl
@[simp] theorem State.pop_diary : (s.pop x).diary = s.diary := by cases x <;> rfl
@[simp] theorem State.pop_fatals : (s.pop x).fatals = s.fatals := by cases x <;> rfl
@[simp] theorem State.pop_capsule : (s.pop x).capsule = s.capsule := by cases x <;> rfl
@[simp] theorem State.pop_bustat : (s.pop x).bustat = s.bustat := by cases x <;> rfl
@[simp] theorem State.pop_hostOut : (s.pop x).hostOut = s.hostOut := by cases x <;> rfl
@[simp] theorem State.pop_agenda : (s.pop x).agenda = s.agenda := by cases x <;> rfl
@[simp] theorem State.pop_cur : (s.pop x).cur = s.cur := by cases x <;> rfl
@[simp] theorem State.pop_nextTag : (s.pop x).nextTag = s.nextTag := by cases x <;> rfl
end

/-! ## `write` -/

section
variable (s : State) (d : Operand) (v : Word)
@[simp] theorem State.write_time : (s.write d v).time = s.time := by cases d <;> rfl
@[simp] theorem State.write_mem : (s.write d v).mem = s.mem := by cases d <;> rfl
@[simp] theorem State.write_synd : (s.write d v).synd = s.synd := by cases d <;> rfl
@[simp] theorem State.write_lost : (s.write d v).lost = s.lost := by cases d <;> rfl
@[simp] theorem State.write_cacheBad : (s.write d v).cacheBad = s.cacheBad := by cases d <;> rfl
@[simp] theorem State.write_lmap : (s.write d v).lmap = s.lmap := by cases d <;> rfl
@[simp] theorem State.write_net : (s.write d v).net = s.net := by cases d <;> rfl
@[simp] theorem State.write_inbox : (s.write d v).inbox = s.inbox := by cases d <;> rfl
@[simp] theorem State.write_rels : (s.write d v).rels = s.rels := by cases d <;> rfl
@[simp] theorem State.write_replies : (s.write d v).replies = s.replies := by cases d <;> rfl
@[simp] theorem State.write_echoes : (s.write d v).echoes = s.echoes := by cases d <;> rfl
@[simp] theorem State.write_lines : (s.write d v).lines = s.lines := by cases d <;> rfl
@[simp] theorem State.write_relRec : (s.write d v).relRec = s.relRec := by cases d <;> rfl
@[simp] theorem State.write_faultQ : (s.write d v).faultQ = s.faultQ := by cases d <;> rfl
@[simp] theorem State.write_pageReqs : (s.write d v).pageReqs = s.pageReqs := by cases d <;> rfl
@[simp] theorem State.write_tlb : (s.write d v).tlb = s.tlb := by cases d <;> rfl
@[simp] theorem State.write_invals : (s.write d v).invals = s.invals := by cases d <;> rfl
@[simp] theorem State.write_stocks : (s.write d v).stocks = s.stocks := by cases d <;> rfl
@[simp] theorem State.write_descs : (s.write d v).descs = s.descs := by cases d <;> rfl
@[simp] theorem State.write_mapCache : (s.write d v).mapCache = s.mapCache := by cases d <;> rfl
@[simp] theorem State.write_moves : (s.write d v).moves = s.moves := by cases d <;> rfl
@[simp] theorem State.write_claims : (s.write d v).claims = s.claims := by cases d <;> rfl
@[simp] theorem State.write_ctxs : (s.write d v).ctxs = s.ctxs := by cases d <;> rfl
@[simp] theorem State.write_parts : (s.write d v).parts = s.parts := by cases d <;> rfl
@[simp] theorem State.write_acl : (s.write d v).acl = s.acl := by cases d <;> rfl
@[simp] theorem State.write_devQ : (s.write d v).devQ = s.devQ := by cases d <;> rfl
@[simp] theorem State.write_launches : (s.write d v).launches = s.launches := by cases d <;> rfl
@[simp] theorem State.write_steals : (s.write d v).steals = s.steals := by cases d <;> rfl
@[simp] theorem State.write_migs : (s.write d v).migs = s.migs := by cases d <;> rfl
@[simp] theorem State.write_deps : (s.write d v).deps = s.deps := by cases d <;> rfl
@[simp] theorem State.write_sends : (s.write d v).sends = s.sends := by cases d <;> rfl
@[simp] theorem State.write_wakes : (s.write d v).wakes = s.wakes := by cases d <;> rfl
@[simp] theorem State.write_arrivals : (s.write d v).arrivals = s.arrivals := by cases d <;> rfl
@[simp] theorem State.write_ownerless : (s.write d v).ownerless = s.ownerless := by cases d <;> rfl
@[simp] theorem State.write_signals : (s.write d v).signals = s.signals := by cases d <;> rfl
@[simp] theorem State.write_tokens : (s.write d v).tokens = s.tokens := by cases d <;> rfl
@[simp] theorem State.write_bars : (s.write d v).bars = s.bars := by cases d <;> rfl
@[simp] theorem State.write_redns : (s.write d v).redns = s.redns := by cases d <;> rfl
@[simp] theorem State.write_detMap : (s.write d v).detMap = s.detMap := by cases d <;> rfl
@[simp] theorem State.write_detentions : (s.write d v).detentions = s.detentions := by cases d <;> rfl
@[simp] theorem State.write_diary : (s.write d v).diary = s.diary := by cases d <;> rfl
@[simp] theorem State.write_fatals : (s.write d v).fatals = s.fatals := by cases d <;> rfl
@[simp] theorem State.write_capsule : (s.write d v).capsule = s.capsule := by cases d <;> rfl
@[simp] theorem State.write_bustat : (s.write d v).bustat = s.bustat := by cases d <;> rfl
@[simp] theorem State.write_hostOut : (s.write d v).hostOut = s.hostOut := by cases d <;> rfl
@[simp] theorem State.write_agenda : (s.write d v).agenda = s.agenda := by cases d <;> rfl
@[simp] theorem State.write_cur : (s.write d v).cur = s.cur := by cases d <;> rfl
@[simp] theorem State.write_nextTag : (s.write d v).nextTag = s.nextTag := by cases d <;> rfl
end

/-! ## `modWho` -/

section
variable (s : State) (w : Ident) (f : Thread → Thread)
@[simp] theorem State.modWho_time : (s.modWho w f).time = s.time := rfl
@[simp] theorem State.modWho_mem : (s.modWho w f).mem = s.mem := rfl
@[simp] theorem State.modWho_synd : (s.modWho w f).synd = s.synd := rfl
@[simp] theorem State.modWho_lost : (s.modWho w f).lost = s.lost := rfl
@[simp] theorem State.modWho_cacheBad : (s.modWho w f).cacheBad = s.cacheBad := rfl
@[simp] theorem State.modWho_lmap : (s.modWho w f).lmap = s.lmap := rfl
@[simp] theorem State.modWho_net : (s.modWho w f).net = s.net := rfl
@[simp] theorem State.modWho_inbox : (s.modWho w f).inbox = s.inbox := rfl
@[simp] theorem State.modWho_rels : (s.modWho w f).rels = s.rels := rfl
@[simp] theorem State.modWho_replies : (s.modWho w f).replies = s.replies := rfl
@[simp] theorem State.modWho_echoes : (s.modWho w f).echoes = s.echoes := rfl
@[simp] theorem State.modWho_lines : (s.modWho w f).lines = s.lines := rfl
@[simp] theorem State.modWho_relRec : (s.modWho w f).relRec = s.relRec := rfl
@[simp] theorem State.modWho_faultQ : (s.modWho w f).faultQ = s.faultQ := rfl
@[simp] theorem State.modWho_pageReqs : (s.modWho w f).pageReqs = s.pageReqs := rfl
@[simp] theorem State.modWho_tlb : (s.modWho w f).tlb = s.tlb := rfl
@[simp] theorem State.modWho_invals : (s.modWho w f).invals = s.invals := rfl
@[simp] theorem State.modWho_stocks : (s.modWho w f).stocks = s.stocks := rfl
@[simp] theorem State.modWho_descs : (s.modWho w f).descs = s.descs := rfl
@[simp] theorem State.modWho_mapCache : (s.modWho w f).mapCache = s.mapCache := rfl
@[simp] theorem State.modWho_moves : (s.modWho w f).moves = s.moves := rfl
@[simp] theorem State.modWho_claims : (s.modWho w f).claims = s.claims := rfl
@[simp] theorem State.modWho_ctxs : (s.modWho w f).ctxs = s.ctxs := rfl
@[simp] theorem State.modWho_parts : (s.modWho w f).parts = s.parts := rfl
@[simp] theorem State.modWho_acl : (s.modWho w f).acl = s.acl := rfl
@[simp] theorem State.modWho_devQ : (s.modWho w f).devQ = s.devQ := rfl
@[simp] theorem State.modWho_launches : (s.modWho w f).launches = s.launches := rfl
@[simp] theorem State.modWho_steals : (s.modWho w f).steals = s.steals := rfl
@[simp] theorem State.modWho_deps : (s.modWho w f).deps = s.deps := rfl
@[simp] theorem State.modWho_sends : (s.modWho w f).sends = s.sends := rfl
@[simp] theorem State.modWho_wakes : (s.modWho w f).wakes = s.wakes := rfl
@[simp] theorem State.modWho_arrivals : (s.modWho w f).arrivals = s.arrivals := rfl
@[simp] theorem State.modWho_ownerless : (s.modWho w f).ownerless = s.ownerless := rfl
@[simp] theorem State.modWho_signals : (s.modWho w f).signals = s.signals := rfl
@[simp] theorem State.modWho_tokens : (s.modWho w f).tokens = s.tokens := rfl
@[simp] theorem State.modWho_bars : (s.modWho w f).bars = s.bars := rfl
@[simp] theorem State.modWho_redns : (s.modWho w f).redns = s.redns := rfl
@[simp] theorem State.modWho_detMap : (s.modWho w f).detMap = s.detMap := rfl
@[simp] theorem State.modWho_detentions : (s.modWho w f).detentions = s.detentions := rfl
@[simp] theorem State.modWho_diary : (s.modWho w f).diary = s.diary := rfl
@[simp] theorem State.modWho_fatals : (s.modWho w f).fatals = s.fatals := rfl
@[simp] theorem State.modWho_capsule : (s.modWho w f).capsule = s.capsule := rfl
@[simp] theorem State.modWho_bustat : (s.modWho w f).bustat = s.bustat := rfl
@[simp] theorem State.modWho_hostOut : (s.modWho w f).hostOut = s.hostOut := rfl
@[simp] theorem State.modWho_agenda : (s.modWho w f).agenda = s.agenda := rfl
@[simp] theorem State.modWho_cur : (s.modWho w f).cur = s.cur := rfl
@[simp] theorem State.modWho_nextTag : (s.modWho w f).nextTag = s.nextTag := rfl
end

/-! ## `modCtx` -/

section
variable (s : State) (p c : Nat) (f : Ctx → Ctx)
@[simp] theorem State.modCtx_time : (s.modCtx p c f).time = s.time := rfl
@[simp] theorem State.modCtx_mem : (s.modCtx p c f).mem = s.mem := rfl
@[simp] theorem State.modCtx_synd : (s.modCtx p c f).synd = s.synd := rfl
@[simp] theorem State.modCtx_lost : (s.modCtx p c f).lost = s.lost := rfl
@[simp] theorem State.modCtx_cacheBad : (s.modCtx p c f).cacheBad = s.cacheBad := rfl
@[simp] theorem State.modCtx_lmap : (s.modCtx p c f).lmap = s.lmap := rfl
@[simp] theorem State.modCtx_cores : (s.modCtx p c f).cores = s.cores := rfl
@[simp] theorem State.modCtx_net : (s.modCtx p c f).net = s.net := rfl
@[simp] theorem State.modCtx_inbox : (s.modCtx p c f).inbox = s.inbox := rfl
@[simp] theorem State.modCtx_rels : (s.modCtx p c f).rels = s.rels := rfl
@[simp] theorem State.modCtx_replies : (s.modCtx p c f).replies = s.replies := rfl
@[simp] theorem State.modCtx_echoes : (s.modCtx p c f).echoes = s.echoes := rfl
@[simp] theorem State.modCtx_lines : (s.modCtx p c f).lines = s.lines := rfl
@[simp] theorem State.modCtx_relRec : (s.modCtx p c f).relRec = s.relRec := rfl
@[simp] theorem State.modCtx_faultQ : (s.modCtx p c f).faultQ = s.faultQ := rfl
@[simp] theorem State.modCtx_pageReqs : (s.modCtx p c f).pageReqs = s.pageReqs := rfl
@[simp] theorem State.modCtx_tlb : (s.modCtx p c f).tlb = s.tlb := rfl
@[simp] theorem State.modCtx_invals : (s.modCtx p c f).invals = s.invals := rfl
@[simp] theorem State.modCtx_stocks : (s.modCtx p c f).stocks = s.stocks := rfl
@[simp] theorem State.modCtx_descs : (s.modCtx p c f).descs = s.descs := rfl
@[simp] theorem State.modCtx_mapCache : (s.modCtx p c f).mapCache = s.mapCache := rfl
@[simp] theorem State.modCtx_moves : (s.modCtx p c f).moves = s.moves := rfl
@[simp] theorem State.modCtx_claims : (s.modCtx p c f).claims = s.claims := rfl
@[simp] theorem State.modCtx_parts : (s.modCtx p c f).parts = s.parts := rfl
@[simp] theorem State.modCtx_acl : (s.modCtx p c f).acl = s.acl := rfl
@[simp] theorem State.modCtx_devQ : (s.modCtx p c f).devQ = s.devQ := rfl
@[simp] theorem State.modCtx_launches : (s.modCtx p c f).launches = s.launches := rfl
@[simp] theorem State.modCtx_steals : (s.modCtx p c f).steals = s.steals := rfl
@[simp] theorem State.modCtx_migs : (s.modCtx p c f).migs = s.migs := rfl
@[simp] theorem State.modCtx_deps : (s.modCtx p c f).deps = s.deps := rfl
@[simp] theorem State.modCtx_sends : (s.modCtx p c f).sends = s.sends := rfl
@[simp] theorem State.modCtx_wakes : (s.modCtx p c f).wakes = s.wakes := rfl
@[simp] theorem State.modCtx_arrivals : (s.modCtx p c f).arrivals = s.arrivals := rfl
@[simp] theorem State.modCtx_ownerless : (s.modCtx p c f).ownerless = s.ownerless := rfl
@[simp] theorem State.modCtx_signals : (s.modCtx p c f).signals = s.signals := rfl
@[simp] theorem State.modCtx_tokens : (s.modCtx p c f).tokens = s.tokens := rfl
@[simp] theorem State.modCtx_bars : (s.modCtx p c f).bars = s.bars := rfl
@[simp] theorem State.modCtx_redns : (s.modCtx p c f).redns = s.redns := rfl
@[simp] theorem State.modCtx_detMap : (s.modCtx p c f).detMap = s.detMap := rfl
@[simp] theorem State.modCtx_detentions : (s.modCtx p c f).detentions = s.detentions := rfl
@[simp] theorem State.modCtx_diary : (s.modCtx p c f).diary = s.diary := rfl
@[simp] theorem State.modCtx_fatals : (s.modCtx p c f).fatals = s.fatals := rfl
@[simp] theorem State.modCtx_capsule : (s.modCtx p c f).capsule = s.capsule := rfl
@[simp] theorem State.modCtx_bustat : (s.modCtx p c f).bustat = s.bustat := rfl
@[simp] theorem State.modCtx_hostOut : (s.modCtx p c f).hostOut = s.hostOut := rfl
@[simp] theorem State.modCtx_agenda : (s.modCtx p c f).agenda = s.agenda := rfl
@[simp] theorem State.modCtx_cur : (s.modCtx p c f).cur = s.cur := rfl
@[simp] theorem State.modCtx_nextTag : (s.modCtx p c f).nextTag = s.nextTag := rfl
end

/-! ## `modPart` -/

section
variable (s : State) (p : Nat) (f : Part → Part)
@[simp] theorem State.modPart_time : (s.modPart p f).time = s.time := rfl
@[simp] theorem State.modPart_mem : (s.modPart p f).mem = s.mem := rfl
@[simp] theorem State.modPart_synd : (s.modPart p f).synd = s.synd := rfl
@[simp] theorem State.modPart_lost : (s.modPart p f).lost = s.lost := rfl
@[simp] theorem State.modPart_cacheBad : (s.modPart p f).cacheBad = s.cacheBad := rfl
@[simp] theorem State.modPart_lmap : (s.modPart p f).lmap = s.lmap := rfl
@[simp] theorem State.modPart_cores : (s.modPart p f).cores = s.cores := rfl
@[simp] theorem State.modPart_net : (s.modPart p f).net = s.net := rfl
@[simp] theorem State.modPart_inbox : (s.modPart p f).inbox = s.inbox := rfl
@[simp] theorem State.modPart_rels : (s.modPart p f).rels = s.rels := rfl
@[simp] theorem State.modPart_replies : (s.modPart p f).replies = s.replies := rfl
@[simp] theorem State.modPart_echoes : (s.modPart p f).echoes = s.echoes := rfl
@[simp] theorem State.modPart_lines : (s.modPart p f).lines = s.lines := rfl
@[simp] theorem State.modPart_relRec : (s.modPart p f).relRec = s.relRec := rfl
@[simp] theorem State.modPart_faultQ : (s.modPart p f).faultQ = s.faultQ := rfl
@[simp] theorem State.modPart_pageReqs : (s.modPart p f).pageReqs = s.pageReqs := rfl
@[simp] theorem State.modPart_tlb : (s.modPart p f).tlb = s.tlb := rfl
@[simp] theorem State.modPart_invals : (s.modPart p f).invals = s.invals := rfl
@[simp] theorem State.modPart_stocks : (s.modPart p f).stocks = s.stocks := rfl
@[simp] theorem State.modPart_descs : (s.modPart p f).descs = s.descs := rfl
@[simp] theorem State.modPart_mapCache : (s.modPart p f).mapCache = s.mapCache := rfl
@[simp] theorem State.modPart_moves : (s.modPart p f).moves = s.moves := rfl
@[simp] theorem State.modPart_claims : (s.modPart p f).claims = s.claims := rfl
@[simp] theorem State.modPart_ctxs : (s.modPart p f).ctxs = s.ctxs := rfl
@[simp] theorem State.modPart_acl : (s.modPart p f).acl = s.acl := rfl
@[simp] theorem State.modPart_devQ : (s.modPart p f).devQ = s.devQ := rfl
@[simp] theorem State.modPart_launches : (s.modPart p f).launches = s.launches := rfl
@[simp] theorem State.modPart_steals : (s.modPart p f).steals = s.steals := rfl
@[simp] theorem State.modPart_migs : (s.modPart p f).migs = s.migs := rfl
@[simp] theorem State.modPart_deps : (s.modPart p f).deps = s.deps := rfl
@[simp] theorem State.modPart_sends : (s.modPart p f).sends = s.sends := rfl
@[simp] theorem State.modPart_wakes : (s.modPart p f).wakes = s.wakes := rfl
@[simp] theorem State.modPart_arrivals : (s.modPart p f).arrivals = s.arrivals := rfl
@[simp] theorem State.modPart_ownerless : (s.modPart p f).ownerless = s.ownerless := rfl
@[simp] theorem State.modPart_signals : (s.modPart p f).signals = s.signals := rfl
@[simp] theorem State.modPart_tokens : (s.modPart p f).tokens = s.tokens := rfl
@[simp] theorem State.modPart_bars : (s.modPart p f).bars = s.bars := rfl
@[simp] theorem State.modPart_redns : (s.modPart p f).redns = s.redns := rfl
@[simp] theorem State.modPart_detMap : (s.modPart p f).detMap = s.detMap := rfl
@[simp] theorem State.modPart_detentions : (s.modPart p f).detentions = s.detentions := rfl
@[simp] theorem State.modPart_diary : (s.modPart p f).diary = s.diary := rfl
@[simp] theorem State.modPart_fatals : (s.modPart p f).fatals = s.fatals := rfl
@[simp] theorem State.modPart_capsule : (s.modPart p f).capsule = s.capsule := rfl
@[simp] theorem State.modPart_bustat : (s.modPart p f).bustat = s.bustat := rfl
@[simp] theorem State.modPart_hostOut : (s.modPart p f).hostOut = s.hostOut := rfl
@[simp] theorem State.modPart_agenda : (s.modPart p f).agenda = s.agenda := rfl
@[simp] theorem State.modPart_cur : (s.modPart p f).cur = s.cur := rfl
@[simp] theorem State.modPart_nextTag : (s.modPart p f).nextTag = s.nextTag := rfl
end

/-! ## `bump` -/

section
variable (s : State) 
@[simp] theorem State.bump_time : (s.bump).time = s.time := rfl
@[simp] theorem State.bump_mem : (s.bump).mem = s.mem := rfl
@[simp] theorem State.bump_synd : (s.bump).synd = s.synd := rfl
@[simp] theorem State.bump_lost : (s.bump).lost = s.lost := rfl
@[simp] theorem State.bump_cacheBad : (s.bump).cacheBad = s.cacheBad := rfl
@[simp] theorem State.bump_lmap : (s.bump).lmap = s.lmap := rfl
@[simp] theorem State.bump_cores : (s.bump).cores = s.cores := rfl
@[simp] theorem State.bump_net : (s.bump).net = s.net := rfl
@[simp] theorem State.bump_inbox : (s.bump).inbox = s.inbox := rfl
@[simp] theorem State.bump_rels : (s.bump).rels = s.rels := rfl
@[simp] theorem State.bump_replies : (s.bump).replies = s.replies := rfl
@[simp] theorem State.bump_echoes : (s.bump).echoes = s.echoes := rfl
@[simp] theorem State.bump_lines : (s.bump).lines = s.lines := rfl
@[simp] theorem State.bump_relRec : (s.bump).relRec = s.relRec := rfl
@[simp] theorem State.bump_faultQ : (s.bump).faultQ = s.faultQ := rfl
@[simp] theorem State.bump_pageReqs : (s.bump).pageReqs = s.pageReqs := rfl
@[simp] theorem State.bump_tlb : (s.bump).tlb = s.tlb := rfl
@[simp] theorem State.bump_invals : (s.bump).invals = s.invals := rfl
@[simp] theorem State.bump_stocks : (s.bump).stocks = s.stocks := rfl
@[simp] theorem State.bump_descs : (s.bump).descs = s.descs := rfl
@[simp] theorem State.bump_mapCache : (s.bump).mapCache = s.mapCache := rfl
@[simp] theorem State.bump_moves : (s.bump).moves = s.moves := rfl
@[simp] theorem State.bump_claims : (s.bump).claims = s.claims := rfl
@[simp] theorem State.bump_ctxs : (s.bump).ctxs = s.ctxs := rfl
@[simp] theorem State.bump_parts : (s.bump).parts = s.parts := rfl
@[simp] theorem State.bump_acl : (s.bump).acl = s.acl := rfl
@[simp] theorem State.bump_devQ : (s.bump).devQ = s.devQ := rfl
@[simp] theorem State.bump_launches : (s.bump).launches = s.launches := rfl
@[simp] theorem State.bump_steals : (s.bump).steals = s.steals := rfl
@[simp] theorem State.bump_migs : (s.bump).migs = s.migs := rfl
@[simp] theorem State.bump_deps : (s.bump).deps = s.deps := rfl
@[simp] theorem State.bump_sends : (s.bump).sends = s.sends := rfl
@[simp] theorem State.bump_wakes : (s.bump).wakes = s.wakes := rfl
@[simp] theorem State.bump_arrivals : (s.bump).arrivals = s.arrivals := rfl
@[simp] theorem State.bump_ownerless : (s.bump).ownerless = s.ownerless := rfl
@[simp] theorem State.bump_signals : (s.bump).signals = s.signals := rfl
@[simp] theorem State.bump_tokens : (s.bump).tokens = s.tokens := rfl
@[simp] theorem State.bump_bars : (s.bump).bars = s.bars := rfl
@[simp] theorem State.bump_redns : (s.bump).redns = s.redns := rfl
@[simp] theorem State.bump_detMap : (s.bump).detMap = s.detMap := rfl
@[simp] theorem State.bump_detentions : (s.bump).detentions = s.detentions := rfl
@[simp] theorem State.bump_diary : (s.bump).diary = s.diary := rfl
@[simp] theorem State.bump_fatals : (s.bump).fatals = s.fatals := rfl
@[simp] theorem State.bump_capsule : (s.bump).capsule = s.capsule := rfl
@[simp] theorem State.bump_bustat : (s.bump).bustat = s.bustat := rfl
@[simp] theorem State.bump_hostOut : (s.bump).hostOut = s.hostOut := rfl
@[simp] theorem State.bump_agenda : (s.bump).agenda = s.agenda := rfl
@[simp] theorem State.bump_cur : (s.bump).cur = s.cur := rfl
end

/-! ## `note` -/

section
variable (s : State) (x : Source) (ty p : Nat)
@[simp] theorem State.note_time : (s.note x ty p).time = s.time := rfl
@[simp] theorem State.note_mem : (s.note x ty p).mem = s.mem := rfl
@[simp] theorem State.note_synd : (s.note x ty p).synd = s.synd := rfl
@[simp] theorem State.note_lost : (s.note x ty p).lost = s.lost := rfl
@[simp] theorem State.note_cacheBad : (s.note x ty p).cacheBad = s.cacheBad := rfl
@[simp] theorem State.note_lmap : (s.note x ty p).lmap = s.lmap := rfl
@[simp] theorem State.note_cores : (s.note x ty p).cores = s.cores := rfl
@[simp] theorem State.note_net : (s.note x ty p).net = s.net := rfl
@[simp] theorem State.note_inbox : (s.note x ty p).inbox = s.inbox := rfl
@[simp] theorem State.note_rels : (s.note x ty p).rels = s.rels := rfl
@[simp] theorem State.note_replies : (s.note x ty p).replies = s.replies := rfl
@[simp] theorem State.note_echoes : (s.note x ty p).echoes = s.echoes := rfl
@[simp] theorem State.note_lines : (s.note x ty p).lines = s.lines := rfl
@[simp] theorem State.note_relRec : (s.note x ty p).relRec = s.relRec := rfl
@[simp] theorem State.note_faultQ : (s.note x ty p).faultQ = s.faultQ := rfl
@[simp] theorem State.note_pageReqs : (s.note x ty p).pageReqs = s.pageReqs := rfl
@[simp] theorem State.note_tlb : (s.note x ty p).tlb = s.tlb := rfl
@[simp] theorem State.note_invals : (s.note x ty p).invals = s.invals := rfl
@[simp] theorem State.note_stocks : (s.note x ty p).stocks = s.stocks := rfl
@[simp] theorem State.note_descs : (s.note x ty p).descs = s.descs := rfl
@[simp] theorem State.note_mapCache : (s.note x ty p).mapCache = s.mapCache := rfl
@[simp] theorem State.note_moves : (s.note x ty p).moves = s.moves := rfl
@[simp] theorem State.note_claims : (s.note x ty p).claims = s.claims := rfl
@[simp] theorem State.note_ctxs : (s.note x ty p).ctxs = s.ctxs := rfl
@[simp] theorem State.note_parts : (s.note x ty p).parts = s.parts := rfl
@[simp] theorem State.note_acl : (s.note x ty p).acl = s.acl := rfl
@[simp] theorem State.note_devQ : (s.note x ty p).devQ = s.devQ := rfl
@[simp] theorem State.note_launches : (s.note x ty p).launches = s.launches := rfl
@[simp] theorem State.note_steals : (s.note x ty p).steals = s.steals := rfl
@[simp] theorem State.note_migs : (s.note x ty p).migs = s.migs := rfl
@[simp] theorem State.note_deps : (s.note x ty p).deps = s.deps := rfl
@[simp] theorem State.note_sends : (s.note x ty p).sends = s.sends := rfl
@[simp] theorem State.note_wakes : (s.note x ty p).wakes = s.wakes := rfl
@[simp] theorem State.note_arrivals : (s.note x ty p).arrivals = s.arrivals := rfl
@[simp] theorem State.note_ownerless : (s.note x ty p).ownerless = s.ownerless := rfl
@[simp] theorem State.note_signals : (s.note x ty p).signals = s.signals := rfl
@[simp] theorem State.note_tokens : (s.note x ty p).tokens = s.tokens := rfl
@[simp] theorem State.note_bars : (s.note x ty p).bars = s.bars := rfl
@[simp] theorem State.note_redns : (s.note x ty p).redns = s.redns := rfl
@[simp] theorem State.note_detMap : (s.note x ty p).detMap = s.detMap := rfl
@[simp] theorem State.note_detentions : (s.note x ty p).detentions = s.detentions := rfl
@[simp] theorem State.note_fatals : (s.note x ty p).fatals = s.fatals := rfl
@[simp] theorem State.note_capsule : (s.note x ty p).capsule = s.capsule := rfl
@[simp] theorem State.note_bustat : (s.note x ty p).bustat = s.bustat := rfl
@[simp] theorem State.note_hostOut : (s.note x ty p).hostOut = s.hostOut := rfl
@[simp] theorem State.note_agenda : (s.note x ty p).agenda = s.agenda := rfl
@[simp] theorem State.note_cur : (s.note x ty p).cur = s.cur := rfl
@[simp] theorem State.note_nextTag : (s.note x ty p).nextTag = s.nextTag := rfl
end

/-! ## `setSynd` -/

section
variable (s : State) (k : Nat) (v : BitVec 8)
@[simp] theorem State.setSynd_time : (s.setSynd k v).time = s.time := rfl
@[simp] theorem State.setSynd_mem : (s.setSynd k v).mem = s.mem := rfl
@[simp] theorem State.setSynd_lost : (s.setSynd k v).lost = s.lost := rfl
@[simp] theorem State.setSynd_cacheBad : (s.setSynd k v).cacheBad = s.cacheBad := rfl
@[simp] theorem State.setSynd_lmap : (s.setSynd k v).lmap = s.lmap := rfl
@[simp] theorem State.setSynd_cores : (s.setSynd k v).cores = s.cores := rfl
@[simp] theorem State.setSynd_net : (s.setSynd k v).net = s.net := rfl
@[simp] theorem State.setSynd_inbox : (s.setSynd k v).inbox = s.inbox := rfl
@[simp] theorem State.setSynd_rels : (s.setSynd k v).rels = s.rels := rfl
@[simp] theorem State.setSynd_replies : (s.setSynd k v).replies = s.replies := rfl
@[simp] theorem State.setSynd_echoes : (s.setSynd k v).echoes = s.echoes := rfl
@[simp] theorem State.setSynd_lines : (s.setSynd k v).lines = s.lines := rfl
@[simp] theorem State.setSynd_relRec : (s.setSynd k v).relRec = s.relRec := rfl
@[simp] theorem State.setSynd_faultQ : (s.setSynd k v).faultQ = s.faultQ := rfl
@[simp] theorem State.setSynd_pageReqs : (s.setSynd k v).pageReqs = s.pageReqs := rfl
@[simp] theorem State.setSynd_tlb : (s.setSynd k v).tlb = s.tlb := rfl
@[simp] theorem State.setSynd_invals : (s.setSynd k v).invals = s.invals := rfl
@[simp] theorem State.setSynd_stocks : (s.setSynd k v).stocks = s.stocks := rfl
@[simp] theorem State.setSynd_descs : (s.setSynd k v).descs = s.descs := rfl
@[simp] theorem State.setSynd_mapCache : (s.setSynd k v).mapCache = s.mapCache := rfl
@[simp] theorem State.setSynd_moves : (s.setSynd k v).moves = s.moves := rfl
@[simp] theorem State.setSynd_claims : (s.setSynd k v).claims = s.claims := rfl
@[simp] theorem State.setSynd_ctxs : (s.setSynd k v).ctxs = s.ctxs := rfl
@[simp] theorem State.setSynd_parts : (s.setSynd k v).parts = s.parts := rfl
@[simp] theorem State.setSynd_acl : (s.setSynd k v).acl = s.acl := rfl
@[simp] theorem State.setSynd_devQ : (s.setSynd k v).devQ = s.devQ := rfl
@[simp] theorem State.setSynd_launches : (s.setSynd k v).launches = s.launches := rfl
@[simp] theorem State.setSynd_steals : (s.setSynd k v).steals = s.steals := rfl
@[simp] theorem State.setSynd_migs : (s.setSynd k v).migs = s.migs := rfl
@[simp] theorem State.setSynd_deps : (s.setSynd k v).deps = s.deps := rfl
@[simp] theorem State.setSynd_sends : (s.setSynd k v).sends = s.sends := rfl
@[simp] theorem State.setSynd_wakes : (s.setSynd k v).wakes = s.wakes := rfl
@[simp] theorem State.setSynd_arrivals : (s.setSynd k v).arrivals = s.arrivals := rfl
@[simp] theorem State.setSynd_ownerless : (s.setSynd k v).ownerless = s.ownerless := rfl
@[simp] theorem State.setSynd_signals : (s.setSynd k v).signals = s.signals := rfl
@[simp] theorem State.setSynd_tokens : (s.setSynd k v).tokens = s.tokens := rfl
@[simp] theorem State.setSynd_bars : (s.setSynd k v).bars = s.bars := rfl
@[simp] theorem State.setSynd_redns : (s.setSynd k v).redns = s.redns := rfl
@[simp] theorem State.setSynd_detMap : (s.setSynd k v).detMap = s.detMap := rfl
@[simp] theorem State.setSynd_detentions : (s.setSynd k v).detentions = s.detentions := rfl
@[simp] theorem State.setSynd_diary : (s.setSynd k v).diary = s.diary := rfl
@[simp] theorem State.setSynd_fatals : (s.setSynd k v).fatals = s.fatals := rfl
@[simp] theorem State.setSynd_capsule : (s.setSynd k v).capsule = s.capsule := rfl
@[simp] theorem State.setSynd_bustat : (s.setSynd k v).bustat = s.bustat := rfl
@[simp] theorem State.setSynd_hostOut : (s.setSynd k v).hostOut = s.hostOut := rfl
@[simp] theorem State.setSynd_agenda : (s.setSynd k v).agenda = s.agenda := rfl
@[simp] theorem State.setSynd_cur : (s.setSynd k v).cur = s.cur := rfl
@[simp] theorem State.setSynd_nextTag : (s.setSynd k v).nextTag = s.nextTag := rfl
end

end Sys2Proof.Machine
end

