-- ==== Sys2Proof/Laws/Ops.lean ====
section
/-! SUPPORT. What the shared operations of the issue stage do, each said once: reading a core or a thread after an update, the
issue conditions, reading and writing operands, traps, and how an effect becomes an outcome. -/

set_option Elab.async false

namespace Sys2Proof.Machine

/-! ## Cores, slots and threads after an update -/

theorem coreIn_updCores (l : List (Nat × Core)) (c d : Nat) (f : Core → Core) :
    coreIn (updCores l c f) d = if d = c then f (coreIn l c) else coreIn l d := by
  induction l with
  | nil =>
    by_cases h : d = c
    · simp [updCores, coreIn, h]
    · simp [updCores, coreIn, h, show c ≠ d from fun e => h e.symm]
  | cons x r ih =>
    obtain ⟨k, y⟩ := x
    by_cases hk : k = c
    · by_cases h : d = c
      · simp [updCores, coreIn, hk, h]
      · simp [updCores, coreIn, hk, h, show c ≠ d from fun e => h e.symm]
    · by_cases hd : k = d
      · simp [updCores, coreIn, hd, show d ≠ c from fun e => hk (hd.trans e)]
      · simp [updCores, coreIn, hk, hd, ih]

section
variable (s : State) (c d : Nat) (i j : Fin 8)

@[simp] theorem State.core_modCore_same (f : Core → Core) : (s.modCore c f).core c = f (s.core c) := by
  simp [State.core, State.modCore, coreIn_updCores]

theorem State.core_modCore_ne (f : Core → Core) (h : d ≠ c) : (s.modCore c f).core d = s.core d := by
  simp [State.core, State.modCore, coreIn_updCores, h]

@[simp] theorem Core.modSlot_same (k : Core) (f : Slot → Slot) : (k.modSlot i f).slots[i] = f k.slots[i] := by
  simp [Core.modSlot]

theorem Core.modSlot_ne (k : Core) (f : Slot → Slot) (h : j ≠ i) : (k.modSlot i f).slots[j] = k.slots[j] := by
  simp only [Core.modSlot, Fin.getElem_fin]
  rw [Vector.getElem_set_ne]
  omega

@[simp] theorem State.slot_modSlot_same (f : Slot → Slot) : (s.modSlot c i f).slot c i = f (s.slot c i) := by
  simp only [State.slot, State.modSlot, State.core_modCore_same]
  exact Core.modSlot_same i _ f

theorem State.slot_modSlot_ne (f : Slot → Slot) (h : d ≠ c ∨ j ≠ i) : (s.modSlot c i f).slot d j = s.slot d j := by
  by_cases hd : d = c
  · subst hd
    have hj : j ≠ i := h.resolve_left (by simp)
    simp only [State.slot, State.modSlot, State.core_modCore_same]
    exact Core.modSlot_ne i j _ f hj
  · simp only [State.slot, State.modSlot, State.core_modCore_ne s c d _ hd]

@[simp] theorem State.threadAt_modAt_same (f : Thread → Thread) :
    (s.modAt c i f).threadAt c i = (s.threadAt c i).map f := by
  simp only [State.threadAt, State.modAt, State.slot_modSlot_same]
  cases (s.slot c i).occ <;> rfl

theorem State.threadAt_modAt_ne (f : Thread → Thread) (h : d ≠ c ∨ j ≠ i) :
    (s.modAt c i f).threadAt d j = s.threadAt d j := by
  simp only [State.threadAt, State.modAt, State.slot_modSlot_ne s c d i j _ h]

@[simp] theorem State.me_modMe (f : Thread → Thread) : (s.modMe f).me = s.me.map f := by
  show (s.modAt s.cur.core s.cur.slot f).threadAt s.cur.core s.cur.slot = _
  simp [State.me]

/-- An update of the issuing core that keeps its slots keeps the issuing thread. -/
theorem State.me_modCore (f : Core → Core) (h : ∀ k : Core, (f k).slots = k.slots) :
    (s.modCore c f).me = s.me := by
  show (s.modCore c f).threadAt s.cur.core s.cur.slot = s.threadAt s.cur.core s.cur.slot
  by_cases hc : s.cur.core = c
  · subst hc
    simp only [State.threadAt, State.slot, State.core_modCore_same, h]
  · simp only [State.threadAt, State.slot, State.core_modCore_ne s c s.cur.core _ hc]

@[simp] theorem State.me_goto (pc : Word) :
    (s.goto pc).me = s.me.map (fun t => { t with pc := pc, status := .ready }) := s.me_modMe _

@[simp] theorem State.me_pop (x : Operand) : (s.pop x).me = s.me := by
  cases x with
  | q n => exact s.me_modCore s.cur.core _ (fun _ => rfl)
  | rq =>
    show (s.modSlot s.cur.core s.cur.slot Slot.popRq).threadAt s.cur.core s.cur.slot = s.threadAt s.cur.core s.cur.slot
    simp [State.threadAt, Slot.popRq]
  | g _ | a _ | nf | zr => rfl

end

/-! ## Registers of a thread -/

section
variable (t : Thread)

theorem Thread.gCell_setG (n m : Fin 16) (x : RegCell) :
    (t.setG n x).gCell m = if m = n then x else t.gCell m := by
  unfold Thread.setG Thread.gCell
  by_cases hn : n.val < 8 <;> by_cases hm : m.val < 8
  · by_cases h : m = n
    · subst h; simp [hm]
    · simp only [hn, hm, dif_pos, h, if_false]
      rw [Vector.getElem_set_ne]
      omega
  · have h : m ≠ n := by rintro rfl; exact hm hn
    simp [hn, hm, h]
  · have h : m ≠ n := by rintro rfl; exact hn hm
    simp [hn, hm, h]
  · by_cases h : m = n
    · subst h; simp [hm]
    · simp only [hn, hm, dif_neg, h, if_false, not_false_eq_true]
      rw [Vector.getElem_set_ne]
      omega

theorem Thread.cell_setCell (r q : RegName) (x : RegCell) :
    (t.setCell r x).cell q = if q = r then x else t.cell q := by
  cases r with
  | g n =>
    cases q with
    | g m =>
      by_cases h : m = n
      · simp [Thread.setCell, Thread.cell, Thread.gCell_setG, h]
      · simp [Thread.setCell, Thread.cell, Thread.gCell_setG, h]
    | a m =>
      simp only [Thread.setCell, Thread.cell, Thread.setG, reduceCtorEq, if_false]
      split <;> rfl
  | a n =>
    cases q with
    | g m => simp [Thread.setCell, Thread.cell, Thread.gCell]
    | a m =>
      by_cases h : m = n
      · subst h; simp [Thread.setCell, Thread.cell]
      · simp only [Thread.setCell, Thread.cell, RegName.a.injEq, h, if_false, Fin.getElem_fin]
        rw [Vector.getElem_set_ne]
        omega

/-- A write to a register changes no other part of the thread. -/
theorem Thread.setCell_rest (r : RegName) (x : RegCell) :
    { t.setCell r x with g := t.g, win := t.win, a := t.a } = t := by
  cases r with
  | g n => simp only [Thread.setCell, Thread.setG]; split <;> rfl
  | a n => rfl

/-- p0 reads 1 whatever is written to it (R44). -/
theorem Thread.p_zero : t.p 0 = true := rfl

theorem setPred_read (pw : BitVec 32) (n m : BitVec 5) (b : Bool) (hn : n ≠ 0) :
    (setPred pw n b).getLsbD m.toNat = if m = n then b else pw.getLsbD m.toNat := by
  have hm := m.isLt
  have hnl := n.isLt
  have e : (m.toNat = n.toNat) ↔ m = n := ⟨BitVec.eq_of_toNat_eq, fun h => by rw [h]⟩
  have shl : (1#32 <<< n.toNat).getLsbD m.toNat = decide (m = n) := by
    rw [BitVec.getLsbD_shiftLeft, BitVec.getLsbD_one]
    by_cases h : m = n
    · subst h; simp; omega
    · have : m.toNat ≠ n.toNat := fun x => h (e.mp x)
      simp [h]
      omega
  have h32 : m.toNat < 32 := hm
  unfold setPred
  rw [if_neg hn]
  cases b
  · rw [if_neg (by simp), BitVec.getLsbD_and, BitVec.getLsbD_not, shl]
    by_cases h : m = n <;> simp [h, h32]
  · rw [if_pos rfl, BitVec.getLsbD_or, shl]
    by_cases h : m = n <;> simp [h]

/-- A predicate reads what was written to it, and every other one is unchanged (R44). -/
theorem Thread.p_setP (n m : BitVec 5) (b : Bool) : (t.setP n b).p m = if m = n ∧ n ≠ 0 then b else t.p m := by
  by_cases hn : n = 0
  · subst hn; simp [Thread.setP, setPred, Thread.p]
  · unfold Thread.p
    by_cases hm : m = 0
    · rw [if_pos hm, if_pos hm, if_neg (fun h => hn (h.1.symm.trans hm))]
    · rw [if_neg hm, if_neg hm]
      simp only [Thread.setP, setPred_read _ _ _ _ hn]
      by_cases h : m = n
      · rw [if_pos h, if_pos ⟨h, hn⟩]
      · rw [if_neg h, if_neg (fun x => h x.1)]

end

/-! ## Issue conditions -/

section
variable {s : State} {t : Thread}

/-- An instruction issues once its sources are readable, its destinations writable, its predicates settled and its registers pass
their parity checks (R34, R320). -/
theorem State.ready_eq {srcs dsts : List Operand} {ps : List (BitVec 5)} (hm : s.me = some t)
    (hw : s.waits t srcs dsts ps = none) (hp : s.parityFails t srcs ps = false) : s.ready srcs dsts ps = .ok t := by
  simp [State.ready, hm, hw, hp]

/-- Everything `ready` can do. -/
theorem State.ready_cases (srcs dsts : List Operand) (ps : List (BitVec 5)) :
    (s.me = none ∧ s.ready srcs dsts ps = .error (.park .issue, s)) ∨
    (∃ t w, s.me = some t ∧ s.waits t srcs dsts ps = some w ∧ s.ready srcs dsts ps = .error (.park w, s)) ∨
    (∃ t, s.me = some t ∧ s.waits t srcs dsts ps = none ∧ s.parityFails t srcs ps = true ∧
      s.ready srcs dsts ps = .error (.consume, s)) ∨
    (∃ t, s.me = some t ∧ s.waits t srcs dsts ps = none ∧ s.parityFails t srcs ps = false ∧ s.ready srcs dsts ps = .ok t) := by
  cases hm : s.me with
  | none => exact .inl ⟨rfl, by simp [State.ready, hm, stop]⟩
  | some t =>
    cases hw : s.waits t srcs dsts ps with
    | some w => exact .inr (.inl ⟨t, w, rfl, hw, by simp [State.ready, hm, hw, stop]⟩)
    | none =>
      cases hp : s.parityFails t srcs ps with
      | true => exact .inr (.inr (.inl ⟨t, rfl, hw, hp, by simp [State.ready, hm, hw, hp, stop]⟩))
      | false => exact .inr (.inr (.inr ⟨t, rfl, hw, hp, by simp [State.ready, hm, hw, hp]⟩))

@[simp] theorem State.limit_false : s.limit false = .ok () := rfl

/-- A limit of the encoding that fails traps `ILLEGAL` before anything is read (R149). -/
theorem State.limit_true (hm : s.me = some t) : s.limit true = .error (.trap cILLEGAL (s.encHere t), s) := by
  simp [State.limit, hm, illegal, stop]

theorem State.privileged_user (h : t.mode = false) : s.privileged t = .error (.sup cPRIV (s.encHere t), s) := by
  simp [State.privileged, h, stop]

@[simp] theorem State.privileged_sup (h : t.mode = true) : s.privileged t = .ok () := by simp [State.privileged, h]

/-- The kind of a thread is a spark. -/
theorem State.sideEffect_eq (h : ∀ v, t.kind ≠ .spark v) :
    s.sideEffect t = .ok (s.modMe (fun t => { t with visible := true })) := by
  unfold State.sideEffect
  split
  · next v e => exact absurd e (h v)
  · rfl

theorem State.noSpark_eq (h : ∀ v, t.kind ≠ .spark v) : s.noSpark t = .ok () := by
  unfold State.noSpark
  split
  · next v e => exact absurd e (h v)
  · rfl

/-- Nothing is outstanding in the extent: the drain is complete (R129). -/
theorem State.drainOr_eq {sc : Scope} (h : t.drained s.cur.core sc = true) (ho : t.oar = none) : s.drainOr t sc = .ok () := by
  simp [State.drainOr, h, ho]

end

/-! ## From an effect to an outcome -/

section
variable (s : State)

@[simp] theorem Eff.done_ok : Eff.done (.ok s) = .next s := rfl
@[simp] theorem Eff.done_pure : Eff.done (pure s) = .next s := rfl
@[simp] theorem Eff.done_error (k : StopKind) : Eff.done (.error (k, s)) = s.stopped k := rfl
@[simp] theorem Eff.bind_ok {α β : Type} (a : α) (f : α → Except (StopKind × State) β) : (Except.ok a >>= f) = f a := rfl
@[simp] theorem Eff.bind_error {α β : Type} (e : StopKind × State) (f : α → Except (StopKind × State) β) :
    ((Except.error e : Except (StopKind × State) α) >>= f) = .error e := rfl

@[simp] theorem State.stopped_park (w : Wait) : s.stopped (.park w) = .next (s.park w) := rfl
@[simp] theorem State.stopped_trapAt (c : BitVec 8) (v pc : Word) :
    s.stopped (.trapAt c v pc) = .next (s.userTrap c v pc) := rfl
@[simp] theorem State.stopped_asIs : s.stopped .asIs = .next s := rfl
@[simp] theorem State.stopped_migrate (d : Nat) : s.stopped (.migrate d) = .next (s.leaveFor d) := rfl

theorem State.stopped_trap {t : Thread} (h : s.me = some t) (c : BitVec 8) (v : Word) :
    s.stopped (.trap c v) = .next (s.userTrap c v t.pc) := by simp [State.stopped, h]

theorem State.stopped_sup {t : Thread} (h : s.me = some t) (c : BitVec 8) (v : Word) :
    s.stopped (.sup c v) = .next (s.supTrap c v t.pc) := by simp [State.stopped, h]

end

/-! ## Instructions of one shape -/

section
variable {s : State} {t : Thread}

theorem alu2_eq {d x y : Operand} (f : Word → Word → Word) (hm : s.me = some t) (hw : s.waits t [x, y] [d] [] = none)
    (hp : s.parityFails t [x, y] [] = false) :
    alu2 d x y f s = .ok ((((s.pop x).pop y).write d (f (s.peek t x) ((s.pop x).peek t y))).advance t) := by
  simp only [alu2, State.ready_eq hm hw hp, Eff.bind_ok, State.read2]
  rfl

theorem alu1_eq {d x : Operand} (f : Word → Word) (hm : s.me = some t) (hw : s.waits t [x] [d] [] = none)
    (hp : s.parityFails t [x] [] = false) : alu1 d x f s = .ok (((s.pop x).write d (f (s.peek t x))).advance t) := by
  simp only [alu1, State.ready_eq hm hw hp, Eff.bind_ok, State.read1]
  rfl

theorem cmp2_eq {p : BitVec 5} {x y : Operand} (f : Word → Word → Bool) (hm : s.me = some t)
    (hw : s.waits t [x, y] [] [p] = none) (hp : s.parityFails t [x, y] [p] = false) :
    cmp2 p x y f s =
      .ok ((((s.pop x).pop y).modMe (fun u => u.setP p (f (s.peek t x) ((s.pop x).peek t y)))).advance t) := by
  simp only [cmp2, State.ready_eq hm hw hp, Eff.bind_ok, State.read2]
  rfl

end

end Sys2Proof.Machine
end

