-- ==== Sys2Proof/Laws/Access.lean ====
section
/-! SUPPORT. The checks of R183 on an access, and its issue: what `locate` and `access` answer where every check passes. -/

set_option Elab.async false

namespace Sys2Proof.Machine
variable {s base s1 : State} {t : Thread} {a : Access}

theorem State.locate_glob {va : Nat} (hg : (t.segs[a.p]).grants (a.o t).toNat a.n a.need = true)
    (hva : va = t.segs[a.p].base.toNat + (a.o t).toNat) (hal : va % a.align = 0) (hs : s.spaceOf s.cur.core va = some .glob)
    (hh : a.hall.any (fun w => s.hallHit s.cur.core va a.n w) = false) : s.locate base t a = .ok (va, .glob) := by
  subst hva
  simp only [State.locate]
  rw [if_neg (by simpa using hg), if_neg (by simpa using hal)]
  simp only [hs]
  rw [if_neg (by simpa using hh)]

theorem State.locate_own {va off : Nat} (hg : (t.segs[a.p]).grants (a.o t).toNat a.n a.need = true)
    (hva : va = t.segs[a.p].base.toNat + (a.o t).toNat) (hal : va % a.align = 0)
    (hs : s.spaceOf s.cur.core va = some (.sp Config.pkg s.cur.core off)) (hx : (s.core s.cur.core).xb.toNat ≤ off)
    (hh : a.hall.any (fun w => s.hallHit s.cur.core va a.n w) = false) :
    s.locate base t a = .ok (va, .sp Config.pkg s.cur.core off) := by
  subst hva
  simp only [State.locate]
  rw [if_neg (by simpa using hg), if_neg (by simpa using hal)]
  simp only [hs]
  rw [if_neg (by simp), if_neg (by simp; omega), if_neg (by simpa using hh)]

/-- No access table stands over a core's own scratchpad (R273, R350). -/
theorem State.grantsTo_own {core part name : Nat} {j : Nat} {mask : BitVec 8} (hb : bankOf name = .sp Config.pkg core j) :
    s.grantsTo core part (bankOf name) name mask = true := by
  simp [State.grantsTo, State.grants, sliceIdx, edgeRoute, dieRoute, hb]

/-- An access whose place is known is committed once no ordinary one is outstanding, where it needs no grant or has it. -/
theorem State.issueTo_eq {va name cls : Nat} {gran : Gran} {rlx : Bool} {fault : Option FaultKind} (ho : t.oar = none)
    (hg : rlx = true ∨ fault.isSome = true ∨ s.grantsTo s.cur.core t.part (bankOf name) name a.op.rights = true) :
    s.issueTo base t a va name cls gran rlx fault = .ok (base.commit t a va name cls gran rlx fault) := by
  rcases hg with h | h | h <;> cases fault <;> simp_all [State.issueTo]

theorem State.access_own {va off : Nat} (hw : t.accWait a.rlx = false) (ho : t.oar = none)
    (hl : s.locate base t a = .ok (va, .sp Config.pkg s.cur.core off)) (hk : a.kind.allowed none = true)
    (ha : a.alone = false) {j : Nat} (hb : bankOf (spKey Config.pkg s.cur.core off) = .sp Config.pkg s.cur.core j) :
    s.access base t a = .ok (base.commit t a va (spKey Config.pkg s.cur.core off) 5 none a.rlx none) := by
  have e : { a with alone := false } = a := by cases a; cases ha; rfl
  simp [State.access, hw, hl, hk, bind, Except.bind, State.issueTo_eq ho (.inr (.inr (State.grantsTo_own hb))), e]

theorem State.access_glob {va : Nat} {x : Xl} (hw : t.accWait a.rlx = false) (ho : t.oar = none)
    (hl : s.locate base t a = .ok (va, .glob))
    (hp : base.port (quadOf s.cur.core) t.part t.id.ctx.toNat va a.kind a.need = (.ok x, s1))
    (hg : s.grantsTo s.cur.core t.part (bankOf x.name) x.name a.op.rights = true) :
    s.access base t a =
      .ok (s1.commit t a va x.name x.cls x.gran (a.rlx && !x.ord && modOf (nameAddr x.name) == Config.pkg) none) := by
  simp [State.access, hw, hl, hp, bind, Except.bind, State.issueTo_eq ho (.inr (.inr hg))]

theorem State.commit_eq {va name cls : Nat} {gran : Gran} {rlx : Bool} {fault : Option FaultKind} (h : ∀ v, t.kind ≠ .spark v) :
    s.commit t a va name cls gran rlx fault =
      if a.side && !s.quiet t a va then (s.sendAccess t a va name cls gran rlx fault).modMe (fun t => { t with visible := true })
      else s.sendAccess t a va name cls gran rlx fault := by
  unfold State.commit
  split
  · next v e => exact absurd e (h v)
  · rfl


end Sys2Proof.Machine
end

