-- ==== Sys2Proof/Laws/Decode.lean ====
section
/-! SUPPORT. What the decoder reads back of each field that the encoder writes (Tables 7-2, 7-3, 7-8). -/

set_option Elab.async false

namespace Sys2Proof

/-! ## Operand and enumeration codes -/

theorem fin?_val {k : Nat} (n : Fin k) : fin? k n.val = some n := by simp [fin?]

theorem Operand.code_lt (x : Operand) : x.code < 32 := by
  cases x <;> simp [Operand.code] <;> omega

@[simp] theorem Operand.ofCode?_code (x : Operand) : Operand.ofCode? x.code = some x := by
  cases x with
  | g n => simp [Operand.code, Operand.ofCode?]
  | a n => have := n.isLt; simp [Operand.code, Operand.ofCode?]
  | q n => have := n.isLt; simp [Operand.code, Operand.ofCode?]; rw [dif_neg (by omega), dif_neg (by omega)]
  | nf => rfl
  | rq => rfl
  | zr => rfl

@[simp] theorem Operand.dst?_code (x : Operand) (h : x.isDst = true) : Operand.dst? x.code = some x := by
  have : x.code ≠ 29 := by
    cases x with
    | rq => simp [Operand.isDst] at h
    | g n => have := n.isLt; simp [Operand.code]; omega
    | a n => have := n.isLt; simp [Operand.code]; omega
    | q n => have := n.isLt; simp [Operand.code]; omega
    | nf => simp [Operand.code]
    | zr => simp [Operand.code]
  simp [Operand.dst?, this]

theorem RegName.code_lt (r : RegName) : r.code < 24 := by
  cases r <;> simp [RegName.code] <;> omega

@[simp] theorem RegName.ofCode?_code (r : RegName) : RegName.ofCode? r.code = some r := by
  cases r with
  | g n => simp [RegName.code, RegName.ofCode?]
  | a n => simp [RegName.code, RegName.ofCode?]

theorem pcode_lt (p : Fin 8) : pcode p < 24 := by simp [pcode]; omega

@[simp] theorem ptr?_pcode (p : Fin 8) : ptr? (pcode p) = some p := by simp [ptr?, pcode, fin?]

@[simp] theorem optPtr?_code (p : Option (Fin 8)) : optPtr? (optCode p) = some p := by
  cases p with
  | none => rfl
  | some p => simp [optPtr?, optCode, pcode, fin?]; omega

theorem optCode_lt (p : Option (Fin 8)) : optCode p < 32 := by
  cases p with
  | none => decide
  | some p => have := pcode_lt p; simp [optCode]; omega

@[simp] theorem Scope.ofCode?_code (x : Scope) : Scope.ofCode? x.code = some x := by cases x <;> rfl
theorem Scope.code_lt (x : Scope) : x.code < 6 := by cases x <;> decide
@[simp] theorem Size.ofCode?_code (x : Size) : Size.ofCode? x.code = some x := by cases x <;> rfl
theorem Size.code_lt (x : Size) : x.code < 7 := by cases x <;> decide
@[simp] theorem StSize.ofCode?_code (x : StSize) : StSize.ofCode? x.code = some x := by cases x <;> rfl
theorem StSize.code_lt (x : StSize) : x.code < 4 := by cases x <;> decide
@[simp] theorem FFmt.ofCode?_code (x : FFmt) : FFmt.ofCode? x.code = some x := by cases x <;> rfl
theorem FFmt.code_lt (x : FFmt) : x.code < 4 := by cases x <;> decide
@[simp] theorem ITy.ofCode?_code (x : ITy) : ITy.ofCode? x.code = some x := by cases x <;> rfl
theorem ITy.code_lt (x : ITy) : x.code < 8 := by cases x <;> decide
@[simp] theorem FcvtSel.ofCode?_code (x : FcvtSel) : FcvtSel.ofCode? x.code = some x := by
  cases x with
  | fromF f => cases f <;> rfl
  | toE4 | toE5 | fromE4 | fromE5 => rfl
theorem FcvtSel.code_lt (x : FcvtSel) : x.code < 8 := by
  cases x with
  | fromF f => cases f <;> decide
  | toE4 | toE5 | fromE4 | fromE5 => decide
@[simp] theorem VFmt.ofCode?_code (x : VFmt) : VFmt.ofCode? x.code = some x := by cases x <;> rfl
theorem VFmt.code_lt (x : VFmt) : x.code < 8 := by cases x <;> decide
@[simp] theorem MFmt.ofCode?_code (x : MFmt) : MFmt.ofCode? x.code = some x := by cases x <;> rfl
theorem MFmt.code_lt (x : MFmt) : x.code < 5 := by cases x <;> decide
@[simp] theorem TFmt.ofCode?_code (x : TFmt) : TFmt.ofCode? x.code = some x := by cases x <;> rfl
theorem TFmt.code_lt (x : TFmt) : x.code < 10 := by cases x <;> decide
@[simp] theorem RednOp.ofCode?_code (x : RednOp) : RednOp.ofCode? x.code = some x := by cases x <;> rfl
theorem RednOp.code_lt (x : RednOp) : x.code < 8 := by cases x <;> decide
@[simp] theorem SegField.ofCode?_code (x : SegField) : SegField.ofCode? x.code = some x := by cases x <;> rfl
theorem SegField.code_lt (x : SegField) : x.code < 3 := by cases x <;> decide
@[simp] theorem DiagKind.ofCode?_code (x : DiagKind) : DiagKind.ofCode? x.code = some x := by cases x <;> rfl
theorem DiagKind.code_lt (x : DiagKind) : x.code < 4 := by cases x <;> decide

@[simp] theorem QSel.ofCode?_code (q : QSel) : QSel.ofCode? q.code = some q := by
  cases q with
  | rq => rfl
  | q n => have := n.isLt; simp [QSel.ofCode?, QSel.code, fin?]; omega

theorem QSel.code_lt (q : QSel) : q.code < 32 := by
  cases q with
  | rq => decide
  | q n => simp [QSel.code]; omega

@[simp] theorem resFmt?_code (r : Option TFmt) : resFmt? (resCode r) = some r := by
  cases r with
  | none => rfl
  | some f => cases f <;> rfl

theorem resCode_lt (r : Option TFmt) : resCode r < 11 := by
  cases r with
  | none => decide
  | some f => have := f.code_lt; simp [resCode]; omega

/-! ## Packed fields -/

@[simp] theorem bit_toNat (w : Bool) : bit w.toNat 0 = w := by cases w <;> rfl

theorem btarget_imm (t : BTarget) : btarget t.imm = t := by
  obtain ⟨l, h⟩ := t
  have := h.isLt
  simp only [btarget, BTarget.imm, BTarget.mk.injEq]
  constructor
  · apply BitVec.eq_of_toNat_eq; simp; omega
  · apply BitVec.eq_of_toNat_eq; simp; omega

theorem BTarget.imm_lt (t : BTarget) : t.imm < 2 ^ 27 := by
  obtain ⟨l, h⟩ := t
  have := h.isLt
  have := l.isLt
  simp only [BTarget.imm]
  omega

theorem bit_eq {x k : Nat} {b : Bool} (h : x / 2 ^ k % 2 = b.toNat) : bit x k = b := by
  cases b <;> simp [bit, h]

theorem ectl_eq {x : Nat} {e : ECtl} (h : x / 1024 % 16 = e.cnt.toNat + 8 * e.wait.toNat) : ectl x = e := by
  obtain ⟨w, n⟩ := e
  have hn := n.isLt
  have hw := w.toNat_lt
  simp only at h
  simp only [ectl, ECtl.mk.injEq]
  constructor
  · apply bit_eq; omega
  · apply BitVec.eq_of_toNat_eq; simp; omega

theorem ECtl.bits_eq (e : ECtl) : e.bits = 1024 * (e.cnt.toNat + 8 * e.wait.toNat) := by
  simp only [ECtl.bits]; omega

theorem ECtl.code_lt (e : ECtl) : e.cnt.toNat + 8 * e.wait.toNat < 16 := by
  have := e.cnt.isLt
  have := e.wait.toNat_lt
  omega

theorem vfmt_eq {x : Nat} {f : VFmt} (h : x / 16384 = f.code) : vfmt x = f := by
  have : f.code % 8 = f.code := Nat.mod_eq_of_lt f.code_lt
  simp [vfmt, h, this]

/-- What the decoder reads of f17 of a vector operation. -/
theorem vf_reads (f : VFmt) (e : ECtl) (d a b c s : Bool) :
    vfmt (vf f e d a b c s) = f ∧ ectl (vf f e d a b c s) = e ∧ bit (vf f e d a b c s) 9 = d ∧
    bit (vf f e d a b c s) 8 = a ∧ bit (vf f e d a b c s) 7 = b ∧ bit (vf f e d a b c s) 6 = c ∧
    bit (vf f e d a b c s) 5 = s ∧ bit (vf f e d a b c s) 13 = e.wait ∧ low5 (vf f e d a b c s) = true ∧
    vf f e d a b c s < 131072 := by
  have hf := f.code_lt
  have he := e.code_lt
  have hn := e.cnt.isLt
  have hw := e.wait.toNat_lt
  have hd := d.toNat_lt
  have ha := a.toNat_lt
  have hb := b.toNat_lt
  have hc := c.toNat_lt
  have hs := s.toNat_lt
  have key : vf f e d a b c s = f.code * 16384 + 1024 * (e.cnt.toNat + 8 * e.wait.toNat) + 512 * d.toNat +
      256 * a.toNat + 128 * b.toNat + 64 * c.toNat + 32 * s.toNat := by rw [vf, e.bits_eq]
  rw [key]
  refine ⟨vfmt_eq ?_, ectl_eq ?_, bit_eq ?_, bit_eq ?_, bit_eq ?_, bit_eq ?_, bit_eq ?_, bit_eq ?_, ?_, ?_⟩
  all_goals first | omega | (simp only [low5, beq_iff_eq]; omega)

@[simp] theorem strm?_code (s : Strm) : strm? s.code s.inc = some s := by simp [strm?, Strm.code]

theorem Strm.code_lt (s : Strm) : s.code < 24 := pcode_lt s.p

theorem vsrc?_code {y : VSrc} {F : Nat} (h5 : bit F 5 = y.isScal) (h7 : bit F 7 = y.inc) : vsrc? y.code F = some y := by
  cases y with
  | strm x => simp_all [vsrc?, VSrc.isScal, VSrc.inc, VSrc.code]
  | scal g => simp_all [vsrc?, VSrc.isScal, VSrc.inc, VSrc.code, fin?]

theorem VSrc.code_lt (y : VSrc) : y.code < 32 := by
  cases y with
  | strm x => have := x.code_lt; simp only [VSrc.code]; omega
  | scal g => simp only [VSrc.code]; omega

theorem AtomCtl.f6_lt (o : AtomCtl) : o.f6 < 48 := by
  have := o.sc.code_lt
  have := o.acq.toNat_lt
  have := o.rel.toNat_lt
  have := o.dbl.toNat_lt
  simp only [AtomCtl.f6]
  omega

/-- What the decoder reads of f6 of an atomic. -/
theorem AtomCtl.f6_reads (o : AtomCtl) :
    Scope.ofCode? (o.f6 / 8) = some o.sc ∧ bit o.f6 2 = o.acq ∧ bit o.f6 1 = o.rel ∧ bit o.f6 0 = o.dbl := by
  have := o.acq.toNat_lt
  have := o.rel.toNat_lt
  have := o.dbl.toNat_lt
  have h : o.f6 / 8 = o.sc.code := by simp only [AtomCtl.f6]; omega
  refine ⟨by rw [h]; simp, bit_eq ?_, bit_eq ?_, bit_eq ?_⟩
  all_goals simp only [AtomCtl.f6]; omega

theorem tileOp?_bits (o : TileOp) (r : Option TFmt) :
    tileOp? (o.bits + 256 * resCode r) = some o ∧ resFmt? ((o.bits + 256 * resCode r) / 256 % 16) = some r ∧
    o.bits + 256 * resCode r < 131072 := by
  have hr := resCode_lt r
  have hq : ∀ n : Nat, n = resCode r → resFmt? n = some r := by rintro n rfl; simp
  cases o with
  | tmma tb eco s =>
    have h1 := tb.toNat_lt
    have h2 := eco.toNat_lt
    have h3 := s.isLt
    refine ⟨?_, hq _ ?_, ?_⟩
    · have h4 : (TileOp.tmma tb eco s).bits + 256 * resCode r =
          16384 + 128 * tb.toNat + 64 * eco.toNat + s.toNat + 256 * resCode r := rfl
      have h5 : (16384 + 128 * tb.toNat + 64 * eco.toNat + s.toNat + 256 * resCode r) / 4096 = 4 := by omega
      simp only [h4, tileOp?, h5, Option.some.injEq, TileOp.tmma.injEq]
      refine ⟨bit_eq (by omega), bit_eq (by omega), ?_⟩
      apply BitVec.eq_of_toNat_eq
      simp
      omega
    all_goals simp only [TileOp.bits]; omega
  | tadd | tsub | tmul | tmax | tcvt | tscal | trowsum =>
    refine ⟨?_, hq _ ?_, ?_⟩
    · cases r with
      | none => rfl
      | some f => cases f <;> rfl
    all_goals simp only [TileOp.bits]; omega

/-- What the decoder reads of f17 of `APPLY` and `HVAL`. -/
theorem TShape.f17_reads (o : TShape) :
    TFmt.ofCode? (o.f17 / 256 % 16) = some o.fmt ∧ BitVec.ofNat 5 (o.f17 / 4096) = o.rows ∧
    BitVec.ofNat 5 (o.f17 / 8) = o.cols ∧ o.f17 % 8 = 0 ∧ o.f17 < 131072 := by
  have h1 := o.fmt.code_lt
  have h2 := o.rows.isLt
  have h3 := o.cols.isLt
  have h4 : o.f17 / 256 % 16 = o.fmt.code := by simp only [TShape.f17]; omega
  refine ⟨by rw [h4]; simp, ?_, ?_, ?_, ?_⟩
  · apply BitVec.eq_of_toNat_eq; simp only [TShape.f17, BitVec.toNat_ofNat]; omega
  · apply BitVec.eq_of_toNat_eq; simp only [TShape.f17, BitVec.toNat_ofNat]; omega
  all_goals simp only [TShape.f17]; omega

/-- A code above an offset field. -/
theorem div_off24 (c : Nat) (v : BitVec 24) :
    (c * 16777216 + v.toNat) / 16777216 = c ∧ BitVec.ofNat 24 (c * 16777216 + v.toNat) = v := by
  have h := v.isLt
  refine ⟨by omega, BitVec.eq_of_toNat_eq ?_⟩
  rw [BitVec.toNat_ofNat]
  omega

theorem div_off29 (c : Nat) (v : BitVec 29) :
    (c * 536870912 + v.toNat) / 536870912 = c ∧ BitVec.ofNat 29 (c * 536870912 + v.toNat) = v := by
  have h := v.isLt
  refine ⟨by omega, BitVec.eq_of_toNat_eq ?_⟩
  rw [BitVec.toNat_ofNat]
  omega

/-- A bit above an offset field (f17 of a counter instruction or reduction). -/
theorem bit_off16 (b : Bool) (v : BitVec 16) :
    bit (65536 * b.toNat + v.toNat) 16 = b ∧ BitVec.ofNat 16 (65536 * b.toNat + v.toNat) = v := by
  have h := v.isLt
  have hb := b.toNat_lt
  refine ⟨bit_eq (by omega), BitVec.eq_of_toNat_eq ?_⟩
  rw [BitVec.toNat_ofNat]
  omega

/-- Two codes below 8 in one field. -/
theorem two_codes {a b : Nat} (h : a < 8) : (a + 8 * b) % 8 = a ∧ (a + 8 * b) / 8 = b := by omega

theorem two_codes' {a b : Nat} (h : a < 8) : (8 * b + a) % 8 = a ∧ (8 * b + a) / 8 = b := by omega

/-- Two bits in one field. -/
theorem two_bits (a b : Bool) :
    bit (a.toNat + 2 * b.toNat) 0 = a ∧ bit (a.toNat + 2 * b.toNat) 1 = b ∧ a.toNat + 2 * b.toNat < 4 := by
  cases a <;> cases b <;> decide

/-- What the decoder reads of f17 of a matrix or copy operation with nothing below its bits 9 and 8. -/
theorem eng_reads (c : Nat) (e : ECtl) (d a : Bool) (m : Nat) (h : m < 256) :
    (c * 16384 + e.bits + 512 * d.toNat + 256 * a.toNat + m) / 16384 = c ∧
    ectl (c * 16384 + e.bits + 512 * d.toNat + 256 * a.toNat + m) = e ∧
    bit (c * 16384 + e.bits + 512 * d.toNat + 256 * a.toNat + m) 9 = d ∧
    bit (c * 16384 + e.bits + 512 * d.toNat + 256 * a.toNat + m) 8 = a ∧
    (c * 16384 + e.bits + 512 * d.toNat + 256 * a.toNat + m) % 256 = m := by
  have he := e.code_lt
  have hd := d.toNat_lt
  have ha := a.toNat_lt
  rw [e.bits_eq]
  refine ⟨by omega, ectl_eq (by omega), bit_eq (by omega), bit_eq (by omega), by omega⟩

/-- The words of an instruction, from its fields and the tail kind of its opcode. -/
theorem encode_eq {i : Instr} {x : Fields} {k : TailKind} (h : i.fields = some x) (hk : opKind x.opc = some k) :
    encode i = some (packHead k x, packTail k x) := by
  simp [encode, h, hk]

end Sys2Proof
end

