-- ==== Sys2Proof/Laws/Home.lean ====
section
/-! SUPPORT. What a host's write to a function's window does (R355), and what a fence leaves as it was (R327). -/

set_option Elab.async false

namespace Sys2Proof.Machine
variable {s : State} {part a rect core : Nat} {f : State → State}

theorem State.hostWrite_granted (h : s.bustat.toNat % 256 = 0) (hr : (s.rights 3 part part).getLsbD 1 = true) :
    s.hostWrite part a f = f s := by
  simp [State.hostWrite, h, hr]

theorem State.hostWrite_refused (h : s.bustat.toNat % 256 = 0) (hr : (s.rights 3 part part).getLsbD 1 = false) :
    s.hostWrite part a f = s.nack part a := by
  unfold State.hostWrite
  rw [if_neg (by simp [h]), if_neg (by rw [hr]; exact Bool.false_ne_true)]

/-- No link access is taken after a failed bring-up (R359). -/
theorem State.hostWrite_failed (h : s.bustat.toNat % 256 ≠ 0) : s.hostWrite part a f = s := by
  simp [State.hostWrite, h]

/-- A slice lies inside no rectangle. -/
@[simp] theorem State.fencedFrom_slice (m d i : Nat) : s.fencedFrom core (.slice m d i) = false := rfl

@[simp] theorem State.dropLeaving_mem : (s.dropLeaving rect).mem = s.mem := rfl
@[simp] theorem State.dropLeaving_cores : (s.dropLeaving rect).cores = s.cores := rfl
@[simp] theorem State.dropLeaving_lines : (s.dropLeaving rect).lines = s.lines := rfl
@[simp] theorem State.dropLeaving_inbox : (s.dropLeaving rect).inbox = s.inbox := rfl
@[simp] theorem State.dropLeaving_faultQ : (s.dropLeaving rect).faultQ = s.faultQ := rfl
@[simp] theorem State.dropLeaving_detentions : (s.dropLeaving rect).detentions = s.detentions := rfl

end Sys2Proof.Machine
end

