-- ==== Sys2Proof/Laws/PerInstr.lean ====
section
/-! SUPPORT. The decoder reads back the fields of each well-formed instruction, one constructor at a time (Tables 7-2, 7-3, 7-7, 7-8). -/

set_option Elab.async false
set_option linter.unusedSimpArgs false
set_option linter.unusedVariables false

namespace Sys2Proof.Laws.RoundTrip

/-- What the decoder makes of the fields that the encoder gives a well-formed instruction; an event has none. -/
def Statement (i : Instr) : Prop := i.wf = true → ∀ x, i.fields = some x → decodeFields x = some i

theorem nop : Statement (.nop) := by
  intro h x hx
  cases hx
  simp only [Instr.wf] at h
  simp_all [decodeFields, decodeControl, fin?]
theorem rlx : Statement (.rlx) := by
  intro h x hx
  cases hx
  simp only [Instr.wf] at h
  simp_all [decodeFields, decodeControl, fin?]
theorem halt : Statement (.halt) := by
  intro h x hx
  cases hx
  simp only [Instr.wf] at h
  simp_all [decodeFields, decodeControl, fin?]
theorem yield : Statement (.yield) := by
  intro h x hx
  cases hx
  simp only [Instr.wf] at h
  simp_all [decodeFields, decodeControl, fin?]
theorem br (d : BitVec 5) (t : BTarget) : Statement (.br d t) := by
  intro h x hx
  cases hx
  simp only [Instr.wf] at h
  have hbd := d.isLt
  have hbt := btarget_imm t
  simp_all [decodeFields, decodeControl, fin?]
theorem brn (d : BitVec 5) (t : BTarget) : Statement (.brn d t) := by
  intro h x hx
  cases hx
  simp only [Instr.wf] at h
  have hbd := d.isLt
  have hbt := btarget_imm t
  simp_all [decodeFields, decodeControl, fin?]
theorem jmp (a : Operand) : Statement (.jmp a) := by
  intro h x hx
  cases hx
  simp only [Instr.wf] at h
  simp_all [decodeFields, decodeControl, fin?]
theorem call (t : BTarget) : Statement (.call t) := by
  intro h x hx
  cases hx
  simp only [Instr.wf] at h
  have hbt := btarget_imm t
  simp_all [decodeFields, decodeControl, fin?]
theorem callr (a : Operand) : Statement (.callr a) := by
  intro h x hx
  cases hx
  simp only [Instr.wf] at h
  simp_all [decodeFields, decodeControl, fin?]
theorem ret : Statement (.ret) := by
  intro h x hx
  cases hx
  simp only [Instr.wf] at h
  simp_all [decodeFields, decodeControl, fin?]
theorem loop (d : Fin 16) (t : BTarget) : Statement (.loop d t) := by
  intro h x hx
  cases hx
  simp only [Instr.wf] at h
  have hbd := d.isLt
  have hbt := btarget_imm t
  simp_all [decodeFields, decodeControl, fin?]
theorem trap (c : BitVec 6) : Statement (.trap c) := by
  intro h x hx
  cases hx
  simp only [Instr.wf] at h
  have hbc := c.isLt
  simp_all [decodeFields, decodeControl, fin?]
theorem brk : Statement (.brk) := by
  intro h x hx
  cases hx
  simp only [Instr.wf] at h
  simp_all [decodeFields, decodeControl, fin?]
theorem xret : Statement (.xret) := by
  intro h x hx
  cases hx
  simp only [Instr.wf] at h
  simp_all [decodeFields, decodeControl, fin?]
theorem scall (c : BitVec 6) : Statement (.scall c) := by
  intro h x hx
  cases hx
  simp only [Instr.wf] at h
  have hbc := c.isLt
  simp_all [decodeFields, decodeControl, fin?]
theorem add (d : Operand) (a : Operand) (b : Operand) (w : Bool) : Statement (.add d a b w) := by
  intro h x hx
  cases hx
  simp only [Instr.wf] at h
  have hbw := w.toNat_lt
  simp_all [decodeFields, decodeInteger, fin?]
theorem sub (d : Operand) (a : Operand) (b : Operand) (w : Bool) : Statement (.sub d a b w) := by
  intro h x hx
  cases hx
  simp only [Instr.wf] at h
  have hbw := w.toNat_lt
  simp_all [decodeFields, decodeInteger, fin?]
theorem and (d : Operand) (a : Operand) (b : Operand) (w : Bool) : Statement (.and d a b w) := by
  intro h x hx
  cases hx
  simp only [Instr.wf] at h
  have hbw := w.toNat_lt
  simp_all [decodeFields, decodeInteger, fin?]
theorem or (d : Operand) (a : Operand) (b : Operand) (w : Bool) : Statement (.or d a b w) := by
  intro h x hx
  cases hx
  simp only [Instr.wf] at h
  have hbw := w.toNat_lt
  simp_all [decodeFields, decodeInteger, fin?]
theorem xor (d : Operand) (a : Operand) (b : Operand) (w : Bool) : Statement (.xor d a b w) := by
  intro h x hx
  cases hx
  simp only [Instr.wf] at h
  have hbw := w.toNat_lt
  simp_all [decodeFields, decodeInteger, fin?]
theorem andn (d : Operand) (a : Operand) (b : Operand) (w : Bool) : Statement (.andn d a b w) := by
  intro h x hx
  cases hx
  simp only [Instr.wf] at h
  have hbw := w.toNat_lt
  simp_all [decodeFields, decodeInteger, fin?]
theorem shl (d : Operand) (a : Operand) (b : Operand) (w : Bool) : Statement (.shl d a b w) := by
  intro h x hx
  cases hx
  simp only [Instr.wf] at h
  have hbw := w.toNat_lt
  simp_all [decodeFields, decodeInteger, fin?]
theorem shr (d : Operand) (a : Operand) (b : Operand) (w : Bool) : Statement (.shr d a b w) := by
  intro h x hx
  cases hx
  simp only [Instr.wf] at h
  have hbw := w.toNat_lt
  simp_all [decodeFields, decodeInteger, fin?]
theorem sra (d : Operand) (a : Operand) (b : Operand) (w : Bool) : Statement (.sra d a b w) := by
  intro h x hx
  cases hx
  simp only [Instr.wf] at h
  have hbw := w.toNat_lt
  simp_all [decodeFields, decodeInteger, fin?]
theorem rotl (d : Operand) (a : Operand) (b : Operand) (w : Bool) : Statement (.rotl d a b w) := by
  intro h x hx
  cases hx
  simp only [Instr.wf] at h
  have hbw := w.toNat_lt
  simp_all [decodeFields, decodeInteger, fin?]
theorem mul (d : Operand) (a : Operand) (b : Operand) (w : Bool) : Statement (.mul d a b w) := by
  intro h x hx
  cases hx
  simp only [Instr.wf] at h
  have hbw := w.toNat_lt
  simp_all [decodeFields, decodeInteger, fin?]
theorem mulh (d : Operand) (a : Operand) (b : Operand) (w : Bool) : Statement (.mulh d a b w) := by
  intro h x hx
  cases hx
  simp only [Instr.wf] at h
  have hbw := w.toNat_lt
  simp_all [decodeFields, decodeInteger, fin?]
theorem mulhu (d : Operand) (a : Operand) (b : Operand) (w : Bool) : Statement (.mulhu d a b w) := by
  intro h x hx
  cases hx
  simp only [Instr.wf] at h
  have hbw := w.toNat_lt
  simp_all [decodeFields, decodeInteger, fin?]
theorem div (d : Operand) (a : Operand) (b : Operand) (w : Bool) : Statement (.div d a b w) := by
  intro h x hx
  cases hx
  simp only [Instr.wf] at h
  have hbw := w.toNat_lt
  simp_all [decodeFields, decodeInteger, fin?]
theorem divu (d : Operand) (a : Operand) (b : Operand) (w : Bool) : Statement (.divu d a b w) := by
  intro h x hx
  cases hx
  simp only [Instr.wf] at h
  have hbw := w.toNat_lt
  simp_all [decodeFields, decodeInteger, fin?]
theorem rem (d : Operand) (a : Operand) (b : Operand) (w : Bool) : Statement (.rem d a b w) := by
  intro h x hx
  cases hx
  simp only [Instr.wf] at h
  have hbw := w.toNat_lt
  simp_all [decodeFields, decodeInteger, fin?]
theorem remu (d : Operand) (a : Operand) (b : Operand) (w : Bool) : Statement (.remu d a b w) := by
  intro h x hx
  cases hx
  simp only [Instr.wf] at h
  have hbw := w.toNat_lt
  simp_all [decodeFields, decodeInteger, fin?]
theorem min (d : Operand) (a : Operand) (b : Operand) (w : Bool) : Statement (.min d a b w) := by
  intro h x hx
  cases hx
  simp only [Instr.wf] at h
  have hbw := w.toNat_lt
  simp_all [decodeFields, decodeInteger, fin?]
theorem max (d : Operand) (a : Operand) (b : Operand) (w : Bool) : Statement (.max d a b w) := by
  intro h x hx
  cases hx
  simp only [Instr.wf] at h
  have hbw := w.toNat_lt
  simp_all [decodeFields, decodeInteger, fin?]
theorem minu (d : Operand) (a : Operand) (b : Operand) (w : Bool) : Statement (.minu d a b w) := by
  intro h x hx
  cases hx
  simp only [Instr.wf] at h
  have hbw := w.toNat_lt
  simp_all [decodeFields, decodeInteger, fin?]
theorem maxu (d : Operand) (a : Operand) (b : Operand) (w : Bool) : Statement (.maxu d a b w) := by
  intro h x hx
  cases hx
  simp only [Instr.wf] at h
  have hbw := w.toNat_lt
  simp_all [decodeFields, decodeInteger, fin?]
theorem adds (d : Operand) (a : Operand) (b : Operand) (w : Bool) : Statement (.adds d a b w) := by
  intro h x hx
  cases hx
  simp only [Instr.wf] at h
  have hbw := w.toNat_lt
  simp_all [decodeFields, decodeInteger, fin?]
theorem subs (d : Operand) (a : Operand) (b : Operand) (w : Bool) : Statement (.subs d a b w) := by
  intro h x hx
  cases hx
  simp only [Instr.wf] at h
  have hbw := w.toNat_lt
  simp_all [decodeFields, decodeInteger, fin?]
theorem clz (d : Operand) (a : Operand) (w : Bool) : Statement (.clz d a w) := by
  intro h x hx
  cases hx
  simp only [Instr.wf] at h
  have hbw := w.toNat_lt
  simp_all [decodeFields, decodeInteger, fin?]
theorem ctz (d : Operand) (a : Operand) (w : Bool) : Statement (.ctz d a w) := by
  intro h x hx
  cases hx
  simp only [Instr.wf] at h
  have hbw := w.toNat_lt
  simp_all [decodeFields, decodeInteger, fin?]
theorem popc (d : Operand) (a : Operand) (w : Bool) : Statement (.popc d a w) := by
  intro h x hx
  cases hx
  simp only [Instr.wf] at h
  have hbw := w.toNat_lt
  simp_all [decodeFields, decodeInteger, fin?]
theorem sext (d : Operand) (a : Operand) (b : Operand) (w : Bool) : Statement (.sext d a b w) := by
  intro h x hx
  cases hx
  simp only [Instr.wf] at h
  have hbw := w.toNat_lt
  simp_all [decodeFields, decodeInteger, fin?]
theorem zext (d : Operand) (a : Operand) (b : Operand) (w : Bool) : Statement (.zext d a b w) := by
  intro h x hx
  cases hx
  simp only [Instr.wf] at h
  have hbw := w.toNat_lt
  simp_all [decodeFields, decodeInteger, fin?]
theorem bswp (d : Operand) (a : Operand) (w : Bool) : Statement (.bswp d a w) := by
  intro h x hx
  cases hx
  simp only [Instr.wf] at h
  have hbw := w.toNat_lt
  simp_all [decodeFields, decodeInteger, fin?]
theorem mov (d : Operand) (a : Operand) (w : Bool) : Statement (.mov d a w) := by
  intro h x hx
  cases hx
  simp only [Instr.wf] at h
  have hbw := w.toNat_lt
  simp_all [decodeFields, decodeInteger, fin?]
theorem addi (d : Operand) (a : Operand) (i : BitVec 27) : Statement (.addi d a i) := by
  intro h x hx
  cases hx
  simp only [Instr.wf] at h
  have hbi := i.isLt
  simp_all [decodeFields, decodeImmediate, fin?]
theorem andi (d : Operand) (a : Operand) (i : BitVec 27) : Statement (.andi d a i) := by
  intro h x hx
  cases hx
  simp only [Instr.wf] at h
  have hbi := i.isLt
  simp_all [decodeFields, decodeImmediate, fin?]
theorem ori (d : Operand) (a : Operand) (i : BitVec 27) : Statement (.ori d a i) := by
  intro h x hx
  cases hx
  simp only [Instr.wf] at h
  have hbi := i.isLt
  simp_all [decodeFields, decodeImmediate, fin?]
theorem xori (d : Operand) (a : Operand) (i : BitVec 27) : Statement (.xori d a i) := by
  intro h x hx
  cases hx
  simp only [Instr.wf] at h
  have hbi := i.isLt
  simp_all [decodeFields, decodeImmediate, fin?]
theorem shli (d : Operand) (a : Operand) (i : BitVec 6) : Statement (.shli d a i) := by
  intro h x hx
  cases hx
  simp only [Instr.wf] at h
  have hbi := i.isLt
  simp_all [decodeFields, decodeImmediate, fin?]
theorem shri (d : Operand) (a : Operand) (i : BitVec 6) : Statement (.shri d a i) := by
  intro h x hx
  cases hx
  simp only [Instr.wf] at h
  have hbi := i.isLt
  simp_all [decodeFields, decodeImmediate, fin?]
theorem srai (d : Operand) (a : Operand) (i : BitVec 6) : Statement (.srai d a i) := by
  intro h x hx
  cases hx
  simp only [Instr.wf] at h
  have hbi := i.isLt
  simp_all [decodeFields, decodeImmediate, fin?]
theorem muli (d : Operand) (a : Operand) (i : BitVec 27) : Statement (.muli d a i) := by
  intro h x hx
  cases hx
  simp only [Instr.wf] at h
  have hbi := i.isLt
  simp_all [decodeFields, decodeImmediate, fin?]
theorem movi (d : Operand) (i : BitVec 32) : Statement (.movi d i) := by
  intro h x hx
  cases hx
  simp only [Instr.wf] at h
  have hbi := i.isLt
  simp_all [decodeFields, decodeImmediate, fin?]
theorem movh (d : RegName) (i : BitVec 32) : Statement (.movh d i) := by
  intro h x hx
  cases hx
  simp only [Instr.wf] at h
  have hbi := i.isLt
  simp_all [decodeFields, decodeImmediate, fin?]
theorem adr (d : Operand) (t : BTarget) : Statement (.adr d t) := by
  intro h x hx
  cases hx
  simp only [Instr.wf] at h
  have hbt := btarget_imm t
  simp_all [decodeFields, decodeImmediate, fin?]
theorem empt (d : RegName) : Statement (.empt d) := by
  intro h x hx
  cases hx
  simp only [Instr.wf] at h
  simp_all [decodeFields, decodeImmediate, fin?]
theorem ceq (d : BitVec 5) (a : Operand) (b : Operand) : Statement (.ceq d a b) := by
  intro h x hx
  cases hx
  simp only [Instr.wf] at h
  have hbd := d.isLt
  simp_all [decodeFields, decodeCompare, fin?]
theorem cne (d : BitVec 5) (a : Operand) (b : Operand) : Statement (.cne d a b) := by
  intro h x hx
  cases hx
  simp only [Instr.wf] at h
  have hbd := d.isLt
  simp_all [decodeFields, decodeCompare, fin?]
theorem clt (d : BitVec 5) (a : Operand) (b : Operand) : Statement (.clt d a b) := by
  intro h x hx
  cases hx
  simp only [Instr.wf] at h
  have hbd := d.isLt
  simp_all [decodeFields, decodeCompare, fin?]
theorem cle (d : BitVec 5) (a : Operand) (b : Operand) : Statement (.cle d a b) := by
  intro h x hx
  cases hx
  simp only [Instr.wf] at h
  have hbd := d.isLt
  simp_all [decodeFields, decodeCompare, fin?]
theorem cltu (d : BitVec 5) (a : Operand) (b : Operand) : Statement (.cltu d a b) := by
  intro h x hx
  cases hx
  simp only [Instr.wf] at h
  have hbd := d.isLt
  simp_all [decodeFields, decodeCompare, fin?]
theorem cleu (d : BitVec 5) (a : Operand) (b : Operand) : Statement (.cleu d a b) := by
  intro h x hx
  cases hx
  simp only [Instr.wf] at h
  have hbd := d.isLt
  simp_all [decodeFields, decodeCompare, fin?]
theorem ceqi (d : BitVec 5) (a : Operand) (i : BitVec 27) : Statement (.ceqi d a i) := by
  intro h x hx
  cases hx
  simp only [Instr.wf] at h
  have hbd := d.isLt
  have hbi := i.isLt
  simp_all [decodeFields, decodeCompare, fin?]
theorem clti (d : BitVec 5) (a : Operand) (i : BitVec 27) : Statement (.clti d a i) := by
  intro h x hx
  cases hx
  simp only [Instr.wf] at h
  have hbd := d.isLt
  have hbi := i.isLt
  simp_all [decodeFields, decodeCompare, fin?]
theorem cltui (d : BitVec 5) (a : Operand) (i : BitVec 27) : Statement (.cltui d a i) := by
  intro h x hx
  cases hx
  simp only [Instr.wf] at h
  have hbd := d.isLt
  have hbi := i.isLt
  simp_all [decodeFields, decodeCompare, fin?]
theorem pand (d : BitVec 5) (a : BitVec 5) (b : BitVec 5) (nx : Bool) (ny : Bool) : Statement (.pand d a b nx ny) := by
  intro h x hx
  cases hx
  simp only [Instr.wf] at h
  have hbd := d.isLt
  have hba := a.isLt
  have hbb := b.isLt
  have hbnx := nx.toNat_lt
  have hbny := ny.toNat_lt
  have k0 := two_bits nx ny
  simp_all [decodeFields, decodeCompare, fin?]
theorem por (d : BitVec 5) (a : BitVec 5) (b : BitVec 5) (nx : Bool) (ny : Bool) : Statement (.por d a b nx ny) := by
  intro h x hx
  cases hx
  simp only [Instr.wf] at h
  have hbd := d.isLt
  have hba := a.isLt
  have hbb := b.isLt
  have hbnx := nx.toNat_lt
  have hbny := ny.toNat_lt
  have k0 := two_bits nx ny
  simp_all [decodeFields, decodeCompare, fin?]
theorem pxor (d : BitVec 5) (a : BitVec 5) (b : BitVec 5) (nx : Bool) (ny : Bool) : Statement (.pxor d a b nx ny) := by
  intro h x hx
  cases hx
  simp only [Instr.wf] at h
  have hbd := d.isLt
  have hba := a.isLt
  have hbb := b.isLt
  have hbnx := nx.toNat_lt
  have hbny := ny.toNat_lt
  have k0 := two_bits nx ny
  simp_all [decodeFields, decodeCompare, fin?]
theorem pnot (d : BitVec 5) (a : BitVec 5) : Statement (.pnot d a) := by
  intro h x hx
  cases hx
  simp only [Instr.wf] at h
  have hbd := d.isLt
  have hba := a.isLt
  simp_all [decodeFields, decodeCompare, fin?]
theorem sel (d : Operand) (a : Operand) (b : Operand) (p : BitVec 5) : Statement (.sel d a b p) := by
  intro h x hx
  cases hx
  simp only [Instr.wf] at h
  have hbp := p.isLt
  simp_all [decodeFields, decodeCompare, fin?]
theorem pget (d : Operand) : Statement (.pget d) := by
  intro h x hx
  cases hx
  simp only [Instr.wf] at h
  simp_all [decodeFields, decodeCompare, fin?]
theorem pset (a : Operand) : Statement (.pset a) := by
  intro h x hx
  cases hx
  simp only [Instr.wf] at h
  simp_all [decodeFields, decodeCompare, fin?]
theorem tfull (d : BitVec 5) (a : RegName) : Statement (.tfull d a) := by
  intro h x hx
  cases hx
  simp only [Instr.wf] at h
  have hbd := d.isLt
  simp_all [decodeFields, decodeCompare, fin?]
theorem fadd (d : Operand) (a : Operand) (b : Operand) (f : FFmt) : Statement (.fadd d a b f) := by
  intro h x hx
  cases hx
  simp only [Instr.wf] at h
  have hbf := f.code_lt
  simp_all [decodeFields, decodeFloat, fin?]
theorem fsub (d : Operand) (a : Operand) (b : Operand) (f : FFmt) : Statement (.fsub d a b f) := by
  intro h x hx
  cases hx
  simp only [Instr.wf] at h
  have hbf := f.code_lt
  simp_all [decodeFields, decodeFloat, fin?]
theorem fmul (d : Operand) (a : Operand) (b : Operand) (f : FFmt) : Statement (.fmul d a b f) := by
  intro h x hx
  cases hx
  simp only [Instr.wf] at h
  have hbf := f.code_lt
  simp_all [decodeFields, decodeFloat, fin?]
theorem fdiv (d : Operand) (a : Operand) (b : Operand) (f : FFmt) : Statement (.fdiv d a b f) := by
  intro h x hx
  cases hx
  simp only [Instr.wf] at h
  have hbf := f.code_lt
  simp_all [decodeFields, decodeFloat, fin?]
theorem fsqrt (d : Operand) (a : Operand) (f : FFmt) : Statement (.fsqrt d a f) := by
  intro h x hx
  cases hx
  simp only [Instr.wf] at h
  have hbf := f.code_lt
  simp_all [decodeFields, decodeFloat, fin?]
theorem fma (d : Operand) (a : Operand) (b : Operand) (c : Operand) (f : FFmt) : Statement (.fma d a b c f) := by
  intro h x hx
  cases hx
  simp only [Instr.wf] at h
  have hbf := f.code_lt
  simp_all [decodeFields, decodeFloat, fin?]
theorem fmin (d : Operand) (a : Operand) (b : Operand) (f : FFmt) : Statement (.fmin d a b f) := by
  intro h x hx
  cases hx
  simp only [Instr.wf] at h
  have hbf := f.code_lt
  simp_all [decodeFields, decodeFloat, fin?]
theorem fmax (d : Operand) (a : Operand) (b : Operand) (f : FFmt) : Statement (.fmax d a b f) := by
  intro h x hx
  cases hx
  simp only [Instr.wf] at h
  have hbf := f.code_lt
  simp_all [decodeFields, decodeFloat, fin?]
theorem fabs (d : Operand) (a : Operand) (f : FFmt) : Statement (.fabs d a f) := by
  intro h x hx
  cases hx
  simp only [Instr.wf] at h
  have hbf := f.code_lt
  simp_all [decodeFields, decodeFloat, fin?]
theorem fneg (d : Operand) (a : Operand) (f : FFmt) : Statement (.fneg d a f) := by
  intro h x hx
  cases hx
  simp only [Instr.wf] at h
  have hbf := f.code_lt
  simp_all [decodeFields, decodeFloat, fin?]
theorem fceq (d : BitVec 5) (a : Operand) (b : Operand) (f : FFmt) : Statement (.fceq d a b f) := by
  intro h x hx
  cases hx
  simp only [Instr.wf] at h
  have hbd := d.isLt
  have hbf := f.code_lt
  simp_all [decodeFields, decodeFloat, fin?]
theorem fclt (d : BitVec 5) (a : Operand) (b : Operand) (f : FFmt) : Statement (.fclt d a b f) := by
  intro h x hx
  cases hx
  simp only [Instr.wf] at h
  have hbd := d.isLt
  have hbf := f.code_lt
  simp_all [decodeFields, decodeFloat, fin?]
theorem fcle (d : BitVec 5) (a : Operand) (b : Operand) (f : FFmt) : Statement (.fcle d a b f) := by
  intro h x hx
  cases hx
  simp only [Instr.wf] at h
  have hbd := d.isLt
  have hbf := f.code_lt
  simp_all [decodeFields, decodeFloat, fin?]
theorem fcvt (d : Operand) (a : Operand) (f : FFmt) (s : FcvtSel) : Statement (.fcvt d a f s) := by
  intro h x hx
  cases hx
  simp only [Instr.wf] at h
  have hbf := f.code_lt
  have hbs := s.code_lt
  have k0 := two_codes (a := f.code) (b := s.code) (by omega)
  generalize hX : f.code + 8 * s.code = X at *
  simp_all [decodeFields, decodeFloat, fin?]
theorem fcvti (d : Operand) (a : Operand) (f : FFmt) (t : ITy) : Statement (.fcvti d a f t) := by
  intro h x hx
  cases hx
  simp only [Instr.wf] at h
  have hbf := f.code_lt
  have hbt := t.code_lt
  have k0 := two_codes (a := f.code) (b := t.code) (by omega)
  generalize hX : f.code + 8 * t.code = X at *
  simp_all [decodeFields, decodeFloat, fin?]
theorem icvtf (d : Operand) (a : Operand) (f : FFmt) (t : ITy) : Statement (.icvtf d a f t) := by
  intro h x hx
  cases hx
  simp only [Instr.wf] at h
  have hbf := f.code_lt
  have hbt := t.code_lt
  have k0 := two_codes (a := f.code) (b := t.code) (by omega)
  generalize hX : f.code + 8 * t.code = X at *
  simp_all [decodeFields, decodeFloat, fin?]
theorem fclass (d : Operand) (a : Operand) (f : FFmt) : Statement (.fclass d a f) := by
  intro h x hx
  cases hx
  simp only [Instr.wf] at h
  have hbf := f.code_lt
  simp_all [decodeFields, decodeFloat, fin?]
theorem ld (d : Operand) (a : Fin 8) (z : Size) (off : BitVec 24) : Statement (.ld d a z off) := by
  intro h x hx
  cases hx
  simp only [Instr.wf] at h
  have hba := a.isLt
  have hbz := z.code_lt
  have hboff := off.isLt
  have k0 := div_off24 z.code off
  generalize hX : z.code * 16777216 + off.toNat = X at *
  simp_all [decodeFields, decodeMemory, fin?]
theorem ldpi (d : Operand) (a : Fin 8) (z : Size) : Statement (.ldpi d a z) := by
  intro h x hx
  cases hx
  simp only [Instr.wf] at h
  have hba := a.isLt
  have hbz := z.code_lt
  simp_all [decodeFields, decodeMemory, fin?]
theorem st (d : Operand) (a : Fin 8) (z : StSize) (off : BitVec 24) : Statement (.st d a z off) := by
  intro h x hx
  cases hx
  simp only [Instr.wf] at h
  have hba := a.isLt
  have hbz := z.code_lt
  have hboff := off.isLt
  have k0 := div_off24 z.code off
  generalize hX : z.code * 16777216 + off.toNat = X at *
  simp_all [decodeFields, decodeMemory, fin?]
theorem stpi (d : Operand) (a : Fin 8) (z : StSize) : Statement (.stpi d a z) := by
  intro h x hx
  cases hx
  simp only [Instr.wf] at h
  have hba := a.isLt
  have hbz := z.code_lt
  simp_all [decodeFields, decodeMemory, fin?]
theorem lda (d : RegName) (a : Fin 8) (z : Size) (off : BitVec 24) : Statement (.lda d a z off) := by
  intro h x hx
  cases hx
  simp only [Instr.wf] at h
  have hba := a.isLt
  have hbz := z.code_lt
  have hboff := off.isLt
  have k0 := div_off24 z.code off
  generalize hX : z.code * 16777216 + off.toNat = X at *
  simp_all [decodeFields, decodeMemory, fin?]
theorem ldx (d : Operand) (a : Fin 8) (z : Size) (pr : BitVec 5) (off : BitVec 29) : Statement (.ldx d a z pr off) := by
  intro h x hx
  cases hx
  simp only [Instr.wf] at h
  have hba := a.isLt
  have hbz := z.code_lt
  have hbpr := pr.isLt
  have hboff := off.isLt
  have k0 := div_off29 z.code off
  generalize hX : z.code * 536870912 + off.toNat = X at *
  simp_all [decodeFields, decodeMemory, fin?]
theorem erase (a : Fin 8) : Statement (.erase a) := by
  intro h x hx
  cases hx
  simp only [Instr.wf] at h
  have hba := a.isLt
  simp_all [decodeFields, decodeMemory, fin?]
theorem fence (d : Scope) : Statement (.fence d) := by
  intro h x hx
  cases hx
  simp only [Instr.wf] at h
  have hbd := d.code_lt
  simp_all [decodeFields, decodeMemory, fin?]
theorem ldaq (d : Operand) (a : Fin 8) (z : Size) (s : Scope) (i : BitVec 32) : Statement (.ldaq d a z s i) := by
  intro h x hx
  cases hx
  simp only [Instr.wf] at h
  have hba := a.isLt
  have hbz := z.code_lt
  have hbs := s.code_lt
  have hbi := i.isLt
  have k0 := two_codes' (a := z.code) (b := s.code) (by omega)
  generalize hX : 8 * s.code + z.code = X at *
  simp_all [decodeFields, decodeMemory, fin?]
theorem strel (d : Operand) (a : Fin 8) (z : StSize) (s : Scope) (i : BitVec 32) : Statement (.strel d a z s i) := by
  intro h x hx
  cases hx
  simp only [Instr.wf] at h
  have hba := a.isLt
  have hbz := z.code_lt
  have hbs := s.code_lt
  have hbi := i.isLt
  have k0 := two_codes' (a := z.code) (b := s.code) (by omega)
  generalize hX : 8 * s.code + z.code = X at *
  simp_all [decodeFields, decodeMemory, fin?]
theorem pref (a : Fin 8) (z : Size) (off : BitVec 24) : Statement (.pref a z off) := by
  intro h x hx
  cases hx
  simp only [Instr.wf] at h
  have hba := a.isLt
  have hbz := z.code_lt
  have hboff := off.isLt
  have k0 := div_off24 z.code off
  generalize hX : z.code * 16777216 + off.toNat = X at *
  simp_all [decodeFields, decodeMemory, fin?]
theorem rsv (d : Operand) (a : Fin 8) (o : AtomCtl) : Statement (.rsv d a o) := by
  intro h x hx
  cases hx
  simp only [Instr.wf] at h
  have hba := a.isLt
  have hbo := o.f6_reads
  simp_all [decodeFields, decodeAtomic, fin?]
theorem rls (d : Operand) (a : Fin 8) (b : Operand) (o : AtomCtl) : Statement (.rls d a b o) := by
  intro h x hx
  cases hx
  simp only [Instr.wf] at h
  have hba := a.isLt
  have hbo := o.f6_reads
  simp_all [decodeFields, decodeAtomic, fin?]
theorem rlsn (d : Operand) (a : Fin 8) (o : AtomCtl) : Statement (.rlsn d a o) := by
  intro h x hx
  cases hx
  simp only [Instr.wf] at h
  have hba := a.isLt
  have hbo := o.f6_reads
  simp_all [decodeFields, decodeAtomic, fin?]
theorem waitrs : Statement (.waitrs) := by
  intro h x hx
  cases hx
  simp only [Instr.wf] at h
  simp_all [decodeFields, decodeAtomic, fin?]
theorem aadd (d : Operand) (a : Fin 8) (b : Operand) (o : AtomCtl) : Statement (.aadd d a b o) := by
  intro h x hx
  cases hx
  simp only [Instr.wf] at h
  have hba := a.isLt
  have hbo := o.f6_reads
  simp_all [decodeFields, decodeAtomic, fin?]
theorem aand (d : Operand) (a : Fin 8) (b : Operand) (o : AtomCtl) : Statement (.aand d a b o) := by
  intro h x hx
  cases hx
  simp only [Instr.wf] at h
  have hba := a.isLt
  have hbo := o.f6_reads
  simp_all [decodeFields, decodeAtomic, fin?]
theorem aor (d : Operand) (a : Fin 8) (b : Operand) (o : AtomCtl) : Statement (.aor d a b o) := by
  intro h x hx
  cases hx
  simp only [Instr.wf] at h
  have hba := a.isLt
  have hbo := o.f6_reads
  simp_all [decodeFields, decodeAtomic, fin?]
theorem axor (d : Operand) (a : Fin 8) (b : Operand) (o : AtomCtl) : Statement (.axor d a b o) := by
  intro h x hx
  cases hx
  simp only [Instr.wf] at h
  have hba := a.isLt
  have hbo := o.f6_reads
  simp_all [decodeFields, decodeAtomic, fin?]
theorem amin (d : Operand) (a : Fin 8) (b : Operand) (o : AtomCtl) : Statement (.amin d a b o) := by
  intro h x hx
  cases hx
  simp only [Instr.wf] at h
  have hba := a.isLt
  have hbo := o.f6_reads
  simp_all [decodeFields, decodeAtomic, fin?]
theorem amax (d : Operand) (a : Fin 8) (b : Operand) (o : AtomCtl) : Statement (.amax d a b o) := by
  intro h x hx
  cases hx
  simp only [Instr.wf] at h
  have hba := a.isLt
  have hbo := o.f6_reads
  simp_all [decodeFields, decodeAtomic, fin?]
theorem aminu (d : Operand) (a : Fin 8) (b : Operand) (o : AtomCtl) : Statement (.aminu d a b o) := by
  intro h x hx
  cases hx
  simp only [Instr.wf] at h
  have hba := a.isLt
  have hbo := o.f6_reads
  simp_all [decodeFields, decodeAtomic, fin?]
theorem amaxu (d : Operand) (a : Fin 8) (b : Operand) (o : AtomCtl) : Statement (.amaxu d a b o) := by
  intro h x hx
  cases hx
  simp only [Instr.wf] at h
  have hba := a.isLt
  have hbo := o.f6_reads
  simp_all [decodeFields, decodeAtomic, fin?]
theorem aswp (d : Operand) (a : Fin 8) (b : Operand) (o : AtomCtl) : Statement (.aswp d a b o) := by
  intro h x hx
  cases hx
  simp only [Instr.wf] at h
  have hba := a.isLt
  have hbo := o.f6_reads
  simp_all [decodeFields, decodeAtomic, fin?]
theorem cas (d : RegName) (a : Fin 8) (b : Operand) (o : AtomCtl) : Statement (.cas d a b o) := by
  intro h x hx
  cases hx
  simp only [Instr.wf] at h
  have hba := a.isLt
  have hbo := o.f6_reads
  simp_all [decodeFields, decodeAtomic, fin?]
theorem aincb (d : Operand) (a : Fin 8) (b : Operand) (o : AtomCtl) : Statement (.aincb d a b o) := by
  intro h x hx
  cases hx
  simp only [Instr.wf] at h
  have hba := a.isLt
  have hbo := o.f6_reads
  simp_all [decodeFields, decodeAtomic, fin?]
theorem afadd (d : Operand) (a : Fin 8) (b : Operand) (o : AtomCtl) : Statement (.afadd d a b o) := by
  intro h x hx
  cases hx
  simp only [Instr.wf] at h
  have hba := a.isLt
  have hbo := o.f6_reads
  simp_all [decodeFields, decodeAtomic, fin?]
theorem redadd (d : BitVec 3) (a : Fin 8) (b : Operand) (hi : Bool) (off : BitVec 16) : Statement (.redadd d a b hi off) := by
  intro h x hx
  cases hx
  simp only [Instr.wf] at h
  have hbd := d.isLt
  have hba := a.isLt
  have hbhi := hi.toNat_lt
  have hboff := off.isLt
  have k0 := bit_off16 hi off
  generalize hX : 65536 * hi.toNat + off.toNat = X at *
  simp_all [decodeFields, decodeAtomic, fin?]
theorem redmin (d : BitVec 3) (a : Fin 8) (b : Operand) (hi : Bool) (off : BitVec 16) : Statement (.redmin d a b hi off) := by
  intro h x hx
  cases hx
  simp only [Instr.wf] at h
  have hbd := d.isLt
  have hba := a.isLt
  have hbhi := hi.toNat_lt
  have hboff := off.isLt
  have k0 := bit_off16 hi off
  generalize hX : 65536 * hi.toNat + off.toNat = X at *
  simp_all [decodeFields, decodeAtomic, fin?]
theorem redmax (d : BitVec 3) (a : Fin 8) (b : Operand) (hi : Bool) (off : BitVec 16) : Statement (.redmax d a b hi off) := by
  intro h x hx
  cases hx
  simp only [Instr.wf] at h
  have hbd := d.isLt
  have hba := a.isLt
  have hbhi := hi.toNat_lt
  have hboff := off.isLt
  have k0 := bit_off16 hi off
  generalize hX : 65536 * hi.toNat + off.toNat = X at *
  simp_all [decodeFields, decodeAtomic, fin?]
theorem redfadd (d : BitVec 3) (a : Fin 8) (b : Operand) (hi : Bool) (off : BitVec 16) : Statement (.redfadd d a b hi off) := by
  intro h x hx
  cases hx
  simp only [Instr.wf] at h
  have hbd := d.isLt
  have hba := a.isLt
  have hbhi := hi.toNat_lt
  have hboff := off.isLt
  have k0 := bit_off16 hi off
  generalize hX : 65536 * hi.toNat + off.toNat = X at *
  simp_all [decodeFields, decodeAtomic, fin?]
theorem pcadd (d : Operand) (a : Fin 8) (b : Operand) (hi : Bool) (off : BitVec 16) : Statement (.pcadd d a b hi off) := by
  intro h x hx
  cases hx
  simp only [Instr.wf] at h
  have hba := a.isLt
  have hbhi := hi.toNat_lt
  have hboff := off.isLt
  have k0 := bit_off16 hi off
  generalize hX : 65536 * hi.toNat + off.toNat = X at *
  simp_all [decodeFields, decodeAtomic, fin?]
theorem pcrd (d : Operand) (a : Fin 8) (hi : Bool) : Statement (.pcrd d a hi) := by
  intro h x hx
  cases hx
  simp only [Instr.wf] at h
  have hba := a.isLt
  have hbhi := hi.toNat_lt
  simp_all [decodeFields, decodeAtomic, fin?]
theorem pcmrg (d : Operand) (a : Fin 8) (b : Fin 16) (hi : Bool) : Statement (.pcmrg d a b hi) := by
  intro h x hx
  cases hx
  simp only [Instr.wf] at h
  have hba := a.isLt
  have hbb := b.isLt
  have hbhi := hi.toNat_lt
  simp_all [decodeFields, decodeAtomic, fin?]
theorem pclv (d : Operand) (a : Fin 8) (w : Bool) : Statement (.pclv d a w) := by
  intro h x hx
  cases hx
  simp only [Instr.wf] at h
  have hba := a.isLt
  have hbw := w.toNat_lt
  simp_all [decodeFields, decodeAtomic, fin?]
theorem pclvSet (d : Operand) (a : Fin 8) (b : Operand) (w : Bool) : Statement (.pclvSet d a b w) := by
  intro h x hx
  cases hx
  simp only [Instr.wf] at h
  have hba := a.isLt
  have hbw := w.toNat_lt
  cases w <;> simp_all [decodeFields, decodeAtomic, bit]
theorem segrd (d : Operand) (k : Fin 8) (s : SegField) : Statement (.segrd d k s) := by
  intro h x hx
  cases hx
  simp only [Instr.wf] at h
  have hbk := k.isLt
  have hbs := s.code_lt
  have k0 := two_codes (a := k.val) (b := s.code) (by omega)
  generalize hX : k.val + 8 * s.code = X at *
  simp_all [decodeFields, decodeSystem, fin?]
theorem segnw (d : Fin 8) (a : Operand) (b : Operand) (k : BitVec 3) : Statement (.segnw d a b k) := by
  intro h x hx
  cases hx
  simp only [Instr.wf] at h
  have hbd := d.isLt
  have hbk := k.isLt
  simp_all [decodeFields, decodeSystem, fin?]
theorem csrr (d : Operand) (n : BitVec 12) : Statement (.csrr d n) := by
  intro h x hx
  cases hx
  simp only [Instr.wf] at h
  have hbn := n.isLt
  simp_all [decodeFields, decodeSystem, fin?]
theorem csrw (d : Operand) (a : Operand) (n : BitVec 12) : Statement (.csrw d a n) := by
  intro h x hx
  cases hx
  simp only [Instr.wf] at h
  have hbn := n.isLt
  simp_all [decodeFields, decodeSystem, fin?]
theorem csrset (d : Operand) (a : Operand) (n : BitVec 12) : Statement (.csrset d a n) := by
  intro h x hx
  cases hx
  simp only [Instr.wf] at h
  have hbn := n.isLt
  simp_all [decodeFields, decodeSystem, fin?]
theorem csrclr (d : Operand) (a : Operand) (n : BitVec 12) : Statement (.csrclr d a n) := by
  intro h x hx
  cases hx
  simp only [Instr.wf] at h
  have hbn := n.isLt
  simp_all [decodeFields, decodeSystem, fin?]
theorem vadd (f : VFmt) (e : ECtl) (d : Strm) (a : Strm) (y : VSrc) : Statement (.vadd f e d a y) := by
  intro h x hx
  cases hx
  simp only [Instr.wf] at h
  obtain ⟨h1, h2, h3, h4, h5, h6, h7, h8, h9, h10⟩ := vf_reads f e d.inc a.inc y.inc false y.isScal
  have hv := vsrc?_code (y := y) h7 h5
  simp_all [decodeFields, decodeVector, fin?]
theorem vsub (f : VFmt) (e : ECtl) (d : Strm) (a : Strm) (y : VSrc) : Statement (.vsub f e d a y) := by
  intro h x hx
  cases hx
  simp only [Instr.wf] at h
  obtain ⟨h1, h2, h3, h4, h5, h6, h7, h8, h9, h10⟩ := vf_reads f e d.inc a.inc y.inc false y.isScal
  have hv := vsrc?_code (y := y) h7 h5
  simp_all [decodeFields, decodeVector, fin?]
theorem vmul (f : VFmt) (e : ECtl) (d : Strm) (a : Strm) (y : VSrc) : Statement (.vmul f e d a y) := by
  intro h x hx
  cases hx
  simp only [Instr.wf] at h
  obtain ⟨h1, h2, h3, h4, h5, h6, h7, h8, h9, h10⟩ := vf_reads f e d.inc a.inc y.inc false y.isScal
  have hv := vsrc?_code (y := y) h7 h5
  simp_all [decodeFields, decodeVector, fin?]
theorem vfma (f : VFmt) (e : ECtl) (d : Strm) (a : Strm) (y : VSrc) (z : Strm) : Statement (.vfma f e d a y z) := by
  intro h x hx
  cases hx
  simp only [Instr.wf] at h
  obtain ⟨h1, h2, h3, h4, h5, h6, h7, h8, h9, h10⟩ := vf_reads f e d.inc a.inc y.inc z.inc y.isScal
  have hv := vsrc?_code (y := y) h7 h5
  simp_all [decodeFields, decodeVector, fin?]
theorem vmin (f : VFmt) (e : ECtl) (d : Strm) (a : Strm) (y : VSrc) : Statement (.vmin f e d a y) := by
  intro h x hx
  cases hx
  simp only [Instr.wf] at h
  obtain ⟨h1, h2, h3, h4, h5, h6, h7, h8, h9, h10⟩ := vf_reads f e d.inc a.inc y.inc false y.isScal
  have hv := vsrc?_code (y := y) h7 h5
  simp_all [decodeFields, decodeVector, fin?]
theorem vmax (f : VFmt) (e : ECtl) (d : Strm) (a : Strm) (y : VSrc) : Statement (.vmax f e d a y) := by
  intro h x hx
  cases hx
  simp only [Instr.wf] at h
  obtain ⟨h1, h2, h3, h4, h5, h6, h7, h8, h9, h10⟩ := vf_reads f e d.inc a.inc y.inc false y.isScal
  have hv := vsrc?_code (y := y) h7 h5
  simp_all [decodeFields, decodeVector, fin?]
theorem vabs (f : VFmt) (e : ECtl) (d : Strm) (a : Strm) : Statement (.vabs f e d a) := by
  intro h x hx
  cases hx
  simp only [Instr.wf] at h
  obtain ⟨h1, h2, h3, h4, h5, h6, h7, h8, h9, h10⟩ := vf_reads f e d.inc a.inc false false false
  simp_all [decodeFields, decodeVector, fin?]
theorem vneg (f : VFmt) (e : ECtl) (d : Strm) (a : Strm) : Statement (.vneg f e d a) := by
  intro h x hx
  cases hx
  simp only [Instr.wf] at h
  obtain ⟨h1, h2, h3, h4, h5, h6, h7, h8, h9, h10⟩ := vf_reads f e d.inc a.inc false false false
  simp_all [decodeFields, decodeVector, fin?]
theorem vdiv (f : VFmt) (e : ECtl) (d : Strm) (a : Strm) (y : VSrc) : Statement (.vdiv f e d a y) := by
  intro h x hx
  cases hx
  simp only [Instr.wf] at h
  obtain ⟨h1, h2, h3, h4, h5, h6, h7, h8, h9, h10⟩ := vf_reads f e d.inc a.inc y.inc false y.isScal
  have hv := vsrc?_code (y := y) h7 h5
  simp_all [decodeFields, decodeVector, fin?]
theorem vsqrt (f : VFmt) (e : ECtl) (d : Strm) (a : Strm) : Statement (.vsqrt f e d a) := by
  intro h x hx
  cases hx
  simp only [Instr.wf] at h
  obtain ⟨h1, h2, h3, h4, h5, h6, h7, h8, h9, h10⟩ := vf_reads f e d.inc a.inc false false false
  simp_all [decodeFields, decodeVector, fin?]
theorem vrsq (f : VFmt) (e : ECtl) (d : Strm) (a : Strm) : Statement (.vrsq f e d a) := by
  intro h x hx
  cases hx
  simp only [Instr.wf] at h
  obtain ⟨h1, h2, h3, h4, h5, h6, h7, h8, h9, h10⟩ := vf_reads f e d.inc a.inc false false false
  simp_all [decodeFields, decodeVector, fin?]
theorem vexp2 (f : VFmt) (e : ECtl) (d : Strm) (a : Strm) : Statement (.vexp2 f e d a) := by
  intro h x hx
  cases hx
  simp only [Instr.wf] at h
  obtain ⟨h1, h2, h3, h4, h5, h6, h7, h8, h9, h10⟩ := vf_reads f e d.inc a.inc false false false
  simp_all [decodeFields, decodeVector, fin?]
theorem vand (f : VFmt) (e : ECtl) (d : Strm) (a : Strm) (y : VSrc) : Statement (.vand f e d a y) := by
  intro h x hx
  cases hx
  simp only [Instr.wf] at h
  obtain ⟨h1, h2, h3, h4, h5, h6, h7, h8, h9, h10⟩ := vf_reads f e d.inc a.inc y.inc false y.isScal
  have hv := vsrc?_code (y := y) h7 h5
  simp_all [decodeFields, decodeVector, fin?]
theorem vor (f : VFmt) (e : ECtl) (d : Strm) (a : Strm) (y : VSrc) : Statement (.vor f e d a y) := by
  intro h x hx
  cases hx
  simp only [Instr.wf] at h
  obtain ⟨h1, h2, h3, h4, h5, h6, h7, h8, h9, h10⟩ := vf_reads f e d.inc a.inc y.inc false y.isScal
  have hv := vsrc?_code (y := y) h7 h5
  simp_all [decodeFields, decodeVector, fin?]
theorem vxor (f : VFmt) (e : ECtl) (d : Strm) (a : Strm) (y : VSrc) : Statement (.vxor f e d a y) := by
  intro h x hx
  cases hx
  simp only [Instr.wf] at h
  obtain ⟨h1, h2, h3, h4, h5, h6, h7, h8, h9, h10⟩ := vf_reads f e d.inc a.inc y.inc false y.isScal
  have hv := vsrc?_code (y := y) h7 h5
  simp_all [decodeFields, decodeVector, fin?]
theorem vshl (f : VFmt) (e : ECtl) (d : Strm) (a : Strm) (y : VSrc) : Statement (.vshl f e d a y) := by
  intro h x hx
  cases hx
  simp only [Instr.wf] at h
  obtain ⟨h1, h2, h3, h4, h5, h6, h7, h8, h9, h10⟩ := vf_reads f e d.inc a.inc y.inc false y.isScal
  have hv := vsrc?_code (y := y) h7 h5
  simp_all [decodeFields, decodeVector, fin?]
theorem vshr (f : VFmt) (e : ECtl) (d : Strm) (a : Strm) (y : VSrc) : Statement (.vshr f e d a y) := by
  intro h x hx
  cases hx
  simp only [Instr.wf] at h
  obtain ⟨h1, h2, h3, h4, h5, h6, h7, h8, h9, h10⟩ := vf_reads f e d.inc a.inc y.inc false y.isScal
  have hv := vsrc?_code (y := y) h7 h5
  simp_all [decodeFields, decodeVector, fin?]
theorem vsra (f : VFmt) (e : ECtl) (d : Strm) (a : Strm) (y : VSrc) : Statement (.vsra f e d a y) := by
  intro h x hx
  cases hx
  simp only [Instr.wf] at h
  obtain ⟨h1, h2, h3, h4, h5, h6, h7, h8, h9, h10⟩ := vf_reads f e d.inc a.inc y.inc false y.isScal
  have hv := vsrc?_code (y := y) h7 h5
  simp_all [decodeFields, decodeVector, fin?]
theorem vceq (f : VFmt) (e : ECtl) (d : Strm) (a : Strm) (y : VSrc) : Statement (.vceq f e d a y) := by
  intro h x hx
  cases hx
  simp only [Instr.wf] at h
  obtain ⟨h1, h2, h3, h4, h5, h6, h7, h8, h9, h10⟩ := vf_reads f e d.inc a.inc y.inc false y.isScal
  have hv := vsrc?_code (y := y) h7 h5
  simp_all [decodeFields, decodeVector, fin?]
theorem vclt (f : VFmt) (e : ECtl) (d : Strm) (a : Strm) (y : VSrc) : Statement (.vclt f e d a y) := by
  intro h x hx
  cases hx
  simp only [Instr.wf] at h
  obtain ⟨h1, h2, h3, h4, h5, h6, h7, h8, h9, h10⟩ := vf_reads f e d.inc a.inc y.inc false y.isScal
  have hv := vsrc?_code (y := y) h7 h5
  simp_all [decodeFields, decodeVector, fin?]
theorem vsel (f : VFmt) (e : ECtl) (d : Strm) (a : Strm) (y : VSrc) (z : Strm) : Statement (.vsel f e d a y z) := by
  intro h x hx
  cases hx
  simp only [Instr.wf] at h
  obtain ⟨h1, h2, h3, h4, h5, h6, h7, h8, h9, h10⟩ := vf_reads f e d.inc a.inc y.inc z.inc y.isScal
  have hv := vsrc?_code (y := y) h7 h5
  simp_all [decodeFields, decodeVector, fin?]
theorem vrsum (f : VFmt) (e : ECtl) (d : Strm) (a : Strm) : Statement (.vrsum f e d a) := by
  intro h x hx
  cases hx
  simp only [Instr.wf] at h
  obtain ⟨h1, h2, h3, h4, h5, h6, h7, h8, h9, h10⟩ := vf_reads f e d.inc a.inc false false false
  simp_all [decodeFields, decodeVector, fin?]
theorem vrmax (f : VFmt) (e : ECtl) (d : Strm) (a : Strm) : Statement (.vrmax f e d a) := by
  intro h x hx
  cases hx
  simp only [Instr.wf] at h
  obtain ⟨h1, h2, h3, h4, h5, h6, h7, h8, h9, h10⟩ := vf_reads f e d.inc a.inc false false false
  simp_all [decodeFields, decodeVector, fin?]
theorem viota (f : VFmt) (e : ECtl) (d : Strm) : Statement (.viota f e d) := by
  intro h x hx
  cases hx
  simp only [Instr.wf] at h
  obtain ⟨h1, h2, h3, h4, h5, h6, h7, h8, h9, h10⟩ := vf_reads f e d.inc false false false false
  simp_all [decodeFields, decodeVector, fin?]
theorem vset (f : VFmt) (e : ECtl) (d : Strm) (y : Fin 16) : Statement (.vset f e d y) := by
  intro h x hx
  cases hx
  simp only [Instr.wf] at h
  obtain ⟨h1, h2, h3, h4, h5, h6, h7, h8, h9, h10⟩ := vf_reads f e d.inc false false false true
  have hby := y.isLt
  simp_all [decodeFields, decodeVector, fin?]
theorem vmov (f : VFmt) (e : ECtl) (d : Strm) (a : Strm) : Statement (.vmov f e d a) := by
  intro h x hx
  cases hx
  simp only [Instr.wf] at h
  obtain ⟨h1, h2, h3, h4, h5, h6, h7, h8, h9, h10⟩ := vf_reads f e d.inc a.inc false false false
  simp_all [decodeFields, decodeMove, fin?]
theorem vcvt (f : VFmt) (e : ECtl) (d : Strm) (a : Strm) (y : Fin 16) : Statement (.vcvt f e d a y) := by
  intro h x hx
  cases hx
  simp only [Instr.wf] at h
  obtain ⟨h1, h2, h3, h4, h5, h6, h7, h8, h9, h10⟩ := vf_reads f e d.inc a.inc false false true
  have hby := y.isLt
  simp_all [decodeFields, decodeMove, fin?]
theorem vpack (f : VFmt) (e : ECtl) (d : Strm) (a : Strm) (y : Fin 16) : Statement (.vpack f e d a y) := by
  intro h x hx
  cases hx
  simp only [Instr.wf] at h
  obtain ⟨h1, h2, h3, h4, h5, h6, h7, h8, h9, h10⟩ := vf_reads f e d.inc a.inc false false true
  have hby := y.isLt
  simp_all [decodeFields, decodeMove, fin?]
theorem vunpk (f : VFmt) (e : ECtl) (d : Strm) (a : Strm) : Statement (.vunpk f e d a) := by
  intro h x hx
  cases hx
  simp only [Instr.wf] at h
  obtain ⟨h1, h2, h3, h4, h5, h6, h7, h8, h9, h10⟩ := vf_reads f e d.inc a.inc false false false
  simp_all [decodeFields, decodeMove, fin?]
theorem gath (f : VFmt) (e : ECtl) (d : Strm) (a : Fin 8) (y : Strm) : Statement (.gath f e d a y) := by
  intro h x hx
  cases hx
  simp only [Instr.wf] at h
  obtain ⟨h1, h2, h3, h4, h5, h6, h7, h8, h9, h10⟩ := vf_reads f e d.inc false y.inc false false
  have hba := a.isLt
  simp_all [decodeFields, decodeMove, fin?]
theorem gathf (f : VFmt) (e : ECtl) (d : Strm) (a : Fin 8) (y : Strm) (n : Fin 16) : Statement (.gathf f e d a y n) := by
  intro h x hx
  cases hx
  simp only [Instr.wf] at h
  obtain ⟨h1, h2, h3, h4, h5, h6, h7, h8, h9, h10⟩ := vf_reads f e d.inc false y.inc false false
  have hba := a.isLt
  have hbn := n.isLt
  simp_all [decodeFields, decodeMove, fin?]
theorem scat (f : VFmt) (e : ECtl) (d : Fin 8) (a : Strm) (y : Strm) : Statement (.scat f e d a y) := by
  intro h x hx
  cases hx
  simp only [Instr.wf] at h
  obtain ⟨h1, h2, h3, h4, h5, h6, h7, h8, h9, h10⟩ := vf_reads f e false a.inc y.inc false false
  have hbd := d.isLt
  simp_all [decodeFields, decodeMove, fin?]
theorem vlen (d : Operand) (a : Operand) : Statement (.vlen d a) := by
  intro h x hx
  cases hx
  simp only [Instr.wf] at h
  simp_all [decodeFields, decodeMove, fin?]
theorem vtrn (f : VFmt) (e : ECtl) (d : Strm) (a : Strm) : Statement (.vtrn f e d a) := by
  intro h x hx
  cases hx
  simp only [Instr.wf] at h
  obtain ⟨h1, h2, h3, h4, h5, h6, h7, h8, h9, h10⟩ := vf_reads f e d.inc a.inc false false false
  simp_all [decodeFields, decodeMove, fin?]
theorem vcmpr (f : VFmt) (e : ECtl) (d : Strm) (a : Strm) (y : Strm) (n : Fin 16) : Statement (.vcmpr f e d a y n) := by
  intro h x hx
  cases hx
  simp only [Instr.wf] at h
  obtain ⟨h1, h2, h3, h4, h5, h6, h7, h8, h9, h10⟩ := vf_reads f e d.inc a.inc y.inc false false
  have hbn := n.isLt
  simp_all [decodeFields, decodeMove, fin?]
theorem mma (d : BitVec 4) (a : Fin 8) (b : Fin 8) (o : MmaCtl) : Statement (.mma d a b o) := by
  intro h x hx
  cases hx
  simp only [Instr.wf] at h
  have hbd := d.isLt
  have hba := a.isLt
  have hbb := b.isLt
  have k0 : o.f17 / 16384 = o.fmt.code ∧ ectl o.f17 = o.ec ∧ bit o.f17 9 = o.eco ∧ bit o.f17 8 = o.tb ∧ BitVec.ofNat 8 o.f17 = o.scale := by
    have := o.ec.code_lt
    have := o.eco.toNat_lt
    have := o.tb.toNat_lt
    have := o.scale.isLt
    simp only [MmaCtl.f17, o.ec.bits_eq]
    refine ⟨by omega, ectl_eq (by omega), bit_eq (by omega), bit_eq (by omega), BitVec.eq_of_toNat_eq ?_⟩
    rw [BitVec.toNat_ofNat]; omega
  generalize hX : o.f17 = X at *
  simp_all [decodeFields, decodeMatrix, fin?]
theorem mzero (d : BitVec 4) (e : ECtl) : Statement (.mzero d e) := by
  intro h x hx
  cases hx
  simp only [Instr.wf] at h
  have hbd := d.isLt
  have k0 : (32 * e.wait.toNat + e.cnt.toNat) / 8 % 4 = 0 ∧ bit (32 * e.wait.toNat + e.cnt.toNat) 5 = e.wait ∧ BitVec.ofNat 3 (32 * e.wait.toNat + e.cnt.toNat) = e.cnt := by
    have := e.cnt.isLt
    have := e.wait.toNat_lt
    refine ⟨by omega, bit_eq (by omega), BitVec.eq_of_toNat_eq ?_⟩
    rw [BitVec.toNat_ofNat]; omega
  simp_all [decodeFields, decodeMatrix, fin?]
theorem mlda (d : BitVec 4) (a : Strm) (i : Bool) (e : ECtl) : Statement (.mlda d a i e) := by
  intro h x hx
  cases hx
  simp only [Instr.wf] at h
  have hbd := d.isLt
  have hbi := i.toNat_lt
  have k9 := e.code_lt
  have k0 : ((if i then 3 else 0) * 16384 + e.bits + 256 * a.inc.toNat) / 16384 = (if i then 3 else 0) ∧ ectl ((if i then 3 else 0) * 16384 + e.bits + 256 * a.inc.toNat) = e ∧ bit ((if i then 3 else 0) * 16384 + e.bits + 256 * a.inc.toNat) 9 = false ∧ bit ((if i then 3 else 0) * 16384 + e.bits + 256 * a.inc.toNat) 8 = a.inc ∧ ((if i then 3 else 0) * 16384 + e.bits + 256 * a.inc.toNat) % 256 = 0 := by
    have := eng_reads (if i then 3 else 0) e false a.inc 0 (by omega)
    simpa using this
  have k1 : bit ((if i then 3 else 0) * 16384 + e.bits + 256 * a.inc.toNat) 14 = i := by
    rw [e.bits_eq]; exact bit_eq (by have := e.code_lt; have := a.inc.toNat_lt; cases i <;> simp <;> omega)
  generalize hX : (if i then 3 else 0) * 16384 + e.bits + 256 * a.inc.toNat = X at *
  simp_all [decodeFields, decodeMatrix, fin?]
theorem msta (d : BitVec 4) (a : Strm) (vf : VFmt) (i : Bool) (e : ECtl) : Statement (.msta d a vf i e) := by
  intro h x hx
  cases hx
  simp only [Instr.wf] at h
  have hbd := d.isLt
  have hbi := i.toNat_lt
  have k9 := e.code_lt
  have k0 : (vf.code * 16384 + e.bits + 512 * i.toNat + 256 * a.inc.toNat) / 16384 = vf.code ∧ ectl (vf.code * 16384 + e.bits + 512 * i.toNat + 256 * a.inc.toNat) = e ∧ bit (vf.code * 16384 + e.bits + 512 * i.toNat + 256 * a.inc.toNat) 9 = i ∧ bit (vf.code * 16384 + e.bits + 512 * i.toNat + 256 * a.inc.toNat) 8 = a.inc ∧ (vf.code * 16384 + e.bits + 512 * i.toNat + 256 * a.inc.toNat) % 256 = 0 := by
    have := eng_reads vf.code e i a.inc 0 (by omega)
    simpa using this
  have k1 : vfmt (vf.code * 16384 + e.bits + 512 * i.toNat + 256 * a.inc.toNat) = vf := by
    exact vfmt_eq k0.1
  generalize hX : vf.code * 16384 + e.bits + 512 * i.toNat + 256 * a.inc.toNat = X at *
  simp_all [decodeFields, decodeMatrix, fin?]
theorem mstc (d : BitVec 4) (a : Strm) (e5 : Bool) (e : ECtl) : Statement (.mstc d a e5 e) := by
  intro h x hx
  cases hx
  simp only [Instr.wf] at h
  have hbd := d.isLt
  have hbe5 := e5.toNat_lt
  have k9 := e.code_lt
  have k0 : ((6 + e5.toNat) * 16384 + e.bits + 256 * a.inc.toNat) / 16384 = (6 + e5.toNat) ∧ ectl ((6 + e5.toNat) * 16384 + e.bits + 256 * a.inc.toNat) = e ∧ bit ((6 + e5.toNat) * 16384 + e.bits + 256 * a.inc.toNat) 9 = false ∧ bit ((6 + e5.toNat) * 16384 + e.bits + 256 * a.inc.toNat) 8 = a.inc ∧ ((6 + e5.toNat) * 16384 + e.bits + 256 * a.inc.toNat) % 256 = 0 := by
    have := eng_reads (6 + e5.toNat) e false a.inc 0 (by omega)
    simpa using this
  have k1 : bit ((6 + e5.toNat) * 16384 + e.bits + 256 * a.inc.toNat) 14 = e5 := by
    rw [e.bits_eq]; exact bit_eq (by have := e.code_lt; have := a.inc.toNat_lt; omega)
  generalize hX : (6 + e5.toNat) * 16384 + e.bits + 256 * a.inc.toNat = X at *
  simp_all [decodeFields, decodeMatrix, fin?]
theorem madd (d : BitVec 4) (src : BitVec 4) (i : Bool) (e : ECtl) : Statement (.madd d src i e) := by
  intro h x hx
  cases hx
  simp only [Instr.wf] at h
  have hbd := d.isLt
  have hbsrc := src.isLt
  have hbi := i.toNat_lt
  have k9 := e.code_lt
  have k0 : (e.bits + 512 * i.toNat + src.toNat) / 16384 = 0 ∧ ectl (e.bits + 512 * i.toNat + src.toNat) = e ∧ bit (e.bits + 512 * i.toNat + src.toNat) 9 = i ∧ bit (e.bits + 512 * i.toNat + src.toNat) 8 = false ∧ (e.bits + 512 * i.toNat + src.toNat) % 256 = src.toNat := by
    have := eng_reads 0 e i false src.toNat (by omega)
    simpa using this
  have k1 : (e.bits + 512 * i.toNat + src.toNat) / 16 % 32 = 0 ∧ BitVec.ofNat 4 (e.bits + 512 * i.toNat + src.toNat) = src := by
    have := e.code_lt; have := src.isLt
    rw [e.bits_eq]
    refine ⟨by omega, BitVec.eq_of_toNat_eq ?_⟩
    rw [BitVec.toNat_ofNat]; omega
  generalize hX : e.bits + 512 * i.toNat + src.toNat = X at *
  simp_all [decodeFields, decodeMatrix, fin?]
theorem mscal (d : BitVec 4) (a : Strm) (e : ECtl) : Statement (.mscal d a e) := by
  intro h x hx
  cases hx
  simp only [Instr.wf] at h
  have hbd := d.isLt
  have k9 := e.code_lt
  have k0 : (e.bits + 256 * a.inc.toNat) / 16384 = 0 ∧ ectl (e.bits + 256 * a.inc.toNat) = e ∧ bit (e.bits + 256 * a.inc.toNat) 9 = false ∧ bit (e.bits + 256 * a.inc.toNat) 8 = a.inc ∧ (e.bits + 256 * a.inc.toNat) % 256 = 0 := by
    have := eng_reads 0 e false a.inc 0 (by omega)
    simpa using this
  generalize hX : e.bits + 256 * a.inc.toNat = X at *
  simp_all [decodeFields, decodeMatrix, fin?]
theorem mrssq (d : BitVec 4) (a : Strm) (e : ECtl) : Statement (.mrssq d a e) := by
  intro h x hx
  cases hx
  simp only [Instr.wf] at h
  have hbd := d.isLt
  have k9 := e.code_lt
  have k0 : (e.bits + 256 * a.inc.toNat) / 16384 = 0 ∧ ectl (e.bits + 256 * a.inc.toNat) = e ∧ bit (e.bits + 256 * a.inc.toNat) 9 = false ∧ bit (e.bits + 256 * a.inc.toNat) 8 = a.inc ∧ (e.bits + 256 * a.inc.toNat) % 256 = 0 := by
    have := eng_reads 0 e false a.inc 0 (by omega)
    simpa using this
  generalize hX : e.bits + 256 * a.inc.toNat = X at *
  simp_all [decodeFields, decodeMatrix, fin?]
theorem cpy (d : Strm) (a : Strm) (b : Fin 16) (c : Option (Fin 8)) (e : ECtl) : Statement (.cpy d a b c e) := by
  intro h x hx
  cases hx
  simp only [Instr.wf] at h
  have hbb := b.isLt
  have k9 := e.code_lt
  have k0 : (e.bits + 512 * d.inc.toNat + 256 * a.inc.toNat) / 16384 = 0 ∧ ectl (e.bits + 512 * d.inc.toNat + 256 * a.inc.toNat) = e ∧ bit (e.bits + 512 * d.inc.toNat + 256 * a.inc.toNat) 9 = d.inc ∧ bit (e.bits + 512 * d.inc.toNat + 256 * a.inc.toNat) 8 = a.inc ∧ (e.bits + 512 * d.inc.toNat + 256 * a.inc.toNat) % 256 = 0 := by
    have := eng_reads 0 e d.inc a.inc 0 (by omega)
    simpa using this
  generalize hX : e.bits + 512 * d.inc.toNat + 256 * a.inc.toNat = X at *
  simp_all [decodeFields, decodeCopy, fin?]
theorem cpy2 (d : Strm) (a : Strm) (b : Fin 16) (c : Option (Fin 8)) (e : ECtl) : Statement (.cpy2 d a b c e) := by
  intro h x hx
  cases hx
  simp only [Instr.wf] at h
  have hbb := b.isLt
  have k9 := e.code_lt
  have k0 : (e.bits + 512 * d.inc.toNat + 256 * a.inc.toNat) / 16384 = 0 ∧ ectl (e.bits + 512 * d.inc.toNat + 256 * a.inc.toNat) = e ∧ bit (e.bits + 512 * d.inc.toNat + 256 * a.inc.toNat) 9 = d.inc ∧ bit (e.bits + 512 * d.inc.toNat + 256 * a.inc.toNat) 8 = a.inc ∧ (e.bits + 512 * d.inc.toNat + 256 * a.inc.toNat) % 256 = 0 := by
    have := eng_reads 0 e d.inc a.inc 0 (by omega)
    simpa using this
  generalize hX : e.bits + 512 * d.inc.toNat + 256 * a.inc.toNat = X at *
  simp_all [decodeFields, decodeCopy, fin?]
theorem cpym (d : Strm) (a : Strm) (b : Fin 16) (c : Option (Fin 8)) (e : ECtl) (m : BitVec 4) : Statement (.cpym d a b c e m) := by
  intro h x hx
  cases hx
  simp only [Instr.wf] at h
  have hbb := b.isLt
  have hbm := m.isLt
  have k9 := e.code_lt
  have k0 : (e.bits + 512 * d.inc.toNat + 256 * a.inc.toNat + m.toNat) / 16384 = 0 ∧ ectl (e.bits + 512 * d.inc.toNat + 256 * a.inc.toNat + m.toNat) = e ∧ bit (e.bits + 512 * d.inc.toNat + 256 * a.inc.toNat + m.toNat) 9 = d.inc ∧ bit (e.bits + 512 * d.inc.toNat + 256 * a.inc.toNat + m.toNat) 8 = a.inc ∧ (e.bits + 512 * d.inc.toNat + 256 * a.inc.toNat + m.toNat) % 256 = m.toNat := by
    have := eng_reads 0 e d.inc a.inc m.toNat (by omega)
    simpa using this
  have k1 : (e.bits + 512 * d.inc.toNat + 256 * a.inc.toNat + m.toNat) / 16 % 16 = 0 ∧ BitVec.ofNat 4 (e.bits + 512 * d.inc.toNat + 256 * a.inc.toNat + m.toNat) = m := by
    have := e.code_lt; have := m.isLt
    rw [e.bits_eq]
    refine ⟨by omega, BitVec.eq_of_toNat_eq ?_⟩
    rw [BitVec.toNat_ofNat]; omega
  generalize hX : e.bits + 512 * d.inc.toNat + 256 * a.inc.toNat + m.toNat = X at *
  simp_all [decodeFields, decodeCopy, fin?]
theorem attn (d : Operand) (a : Fin 8) (b : Operand) : Statement (.attn d a b) := by
  intro h x hx
  cases hx
  simp only [Instr.wf] at h
  have hba := a.isLt
  simp_all [decodeFields, decodeCopy, fin?]
theorem await (d : Operand) (a : Fin 8) (b : Operand) : Statement (.await d a b) := by
  intro h x hx
  cases hx
  simp only [Instr.wf] at h
  have hba := a.isLt
  simp_all [decodeFields, decodeCopy, fin?]
theorem depo (a : Operand) (b : Operand) (e : ECtl) : Statement (.depo a b e) := by
  intro h x hx
  cases hx
  simp only [Instr.wf] at h
  have k0 := eng_reads 0 e false false 0 (by omega)
  have k9 := e.code_lt
  have k1 : e.bits % 1024 = 0 := by rw [e.bits_eq]; omega
  simp_all [decodeFields, decodeCopy, fin?]
theorem ccinc (d : BitVec 3) : Statement (.ccinc d) := by
  intro h x hx
  cases hx
  simp only [Instr.wf] at h
  have hbd := d.isLt
  simp_all [decodeFields, decodeCopy, fin?]
theorem waitlt (d : BitVec 3) (c : BitVec 6) : Statement (.waitlt d c) := by
  intro h x hx
  cases hx
  simp only [Instr.wf] at h
  have hbd := d.isLt
  have hbc := c.isLt
  simp_all [decodeFields, decodeCopy, fin?]
theorem efence : Statement (.efence) := by
  intro h x hx
  cases hx
  simp only [Instr.wf] at h
  simp_all [decodeFields, decodeCopy, fin?]
theorem susp (d : Fin 8) (a : Fin 8) (b : Option (Fin 8)) (c : Fin 8) (o : TileOp) (r : Option TFmt) : Statement (.susp d a b c o r) := by
  intro h x hx
  cases hx
  simp only [Instr.wf] at h
  have hbd := d.isLt
  have hba := a.isLt
  have hbc := c.isLt
  obtain ⟨k1,k2,k3⟩ := tileOp?_bits o r
  simp_all [decodeFields, decodeThunk, fin?]
theorem apply (d : Fin 8) (a : Fin 16) (b : Fin 8) (c : Fin 8) (sh : TShape) : Statement (.apply d a b c sh) := by
  intro h x hx
  cases hx
  simp only [Instr.wf] at h
  have hbd := d.isLt
  have hba := a.isLt
  have hbb := b.isLt
  have hbc := c.isLt
  have hbsh := sh.f17_reads
  simp_all [decodeFields, decodeThunk, fin?]
theorem force (d : Operand) (a : Fin 8) : Statement (.force d a) := by
  intro h x hx
  cases hx
  simp only [Instr.wf] at h
  have hba := a.isLt
  simp_all [decodeFields, decodeThunk, fin?]
theorem spark (a : Fin 8) : Statement (.spark a) := by
  intro h x hx
  cases hx
  simp only [Instr.wf] at h
  have hba := a.isLt
  simp_all [decodeFields, decodeThunk, fin?]
theorem htest (d : Operand) (a : Fin 8) (pr : BitVec 5) : Statement (.htest d a pr) := by
  intro h x hx
  cases hx
  simp only [Instr.wf] at h
  have hba := a.isLt
  have hbpr := pr.isLt
  simp_all [decodeFields, decodeThunk, fin?]
theorem hval (d : Fin 8) (a : Fin 8) (sh : TShape) : Statement (.hval d a sh) := by
  intro h x hx
  cases hx
  simp only [Instr.wf] at h
  have hbd := d.isLt
  have hba := a.isLt
  have hbsh := sh.f17_reads
  simp_all [decodeFields, decodeThunk, fin?]
theorem hfill (a : Fin 8) : Statement (.hfill a) := by
  intro h x hx
  cases hx
  simp only [Instr.wf] at h
  have hba := a.isLt
  simp_all [decodeFields, decodeThunk, fin?]
theorem task (a : Fin 16) (b : Fin 8) (c : Fin 16) : Statement (.task a b c) := by
  intro h x hx
  cases hx
  simp only [Instr.wf] at h
  have hba := a.isLt
  have hbb := b.isLt
  have hbc := c.isLt
  simp_all [decodeFields, decodeThunk, fin?]
theorem next (d : Operand) (p : BitVec 5) : Statement (.next d p) := by
  intro h x hx
  cases hx
  simp only [Instr.wf] at h
  have hbp := p.isLt
  simp_all [decodeFields, decodeThunk, fin?]
theorem range (d : Operand) : Statement (.range d) := by
  intro h x hx
  cases hx
  simp only [Instr.wf] at h
  simp_all [decodeFields, decodeThunk, fin?]
theorem mig (a : Fin 16) : Statement (.mig a) := by
  intro h x hx
  cases hx
  simp only [Instr.wf] at h
  have hba := a.isLt
  simp_all [decodeFields, decodeMigration, fin?]
theorem home : Statement (.home) := by
  intro h x hx
  cases hx
  simp only [Instr.wf] at h
  simp_all [decodeFields, decodeMigration, fin?]
theorem send (d : Operand) (a : Fin 16) (b : Operand) : Statement (.send d a b) := by
  intro h x hx
  cases hx
  simp only [Instr.wf] at h
  have hba := a.isLt
  simp_all [decodeFields, decodeMigration, fin?]
theorem qcnt (d : Operand) (a : QSel) : Statement (.qcnt d a) := by
  intro h x hx
  cases hx
  simp only [Instr.wf] at h
  simp_all [decodeFields, decodeMigration, fin?]
theorem bar (d : Scope) : Statement (.bar d) := by
  intro h x hx
  cases hx
  simp only [Instr.wf] at h
  have hbd := d.code_lt
  simp_all [decodeFields, decodeMigration, fin?]
theorem redn (d : Operand) (a : Fin 16) (b : Fin 16) (o : RednOp) (s : Scope) : Statement (.redn d a b o s) := by
  intro h x hx
  cases hx
  simp only [Instr.wf] at h
  have hba := a.isLt
  have hbb := b.isLt
  have hbo := o.code_lt
  have hbs := s.code_lt
  have k0 : (o.code * 16384 + s.code * 2048) / 16384 = o.code ∧ (o.code * 16384 + s.code * 2048) / 2048 % 8 = s.code ∧ (o.code * 16384 + s.code * 2048) % 2048 = 0 := by omega
  simp_all [decodeFields, decodeMigration, fin?]
theorem launch (d : Operand) (a : Fin 8) : Statement (.launch d a) := by
  intro h x hx
  cases hx
  simp only [Instr.wf] at h
  have hba := a.isLt
  simp_all [decodeFields, decodeMigration, fin?]
theorem sret : Statement (.sret) := by
  intro h x hx
  cases hx
  simp only [Instr.wf] at h
  simp_all [decodeFields, decodePriv, fin?]
theorem scsrr (d : Operand) (n : BitVec 12) : Statement (.scsrr d n) := by
  intro h x hx
  cases hx
  simp only [Instr.wf] at h
  have hbn := n.isLt
  simp_all [decodeFields, decodePriv, fin?]
theorem scsrw (d : Operand) (a : Operand) (n : BitVec 12) : Statement (.scsrw d a n) := by
  intro h x hx
  cases hx
  simp only [Instr.wf] at h
  have hbn := n.isLt
  simp_all [decodeFields, decodePriv, fin?]
theorem ctxsv (d : Operand) (a : Fin 16) (b : Fin 8) : Statement (.ctxsv d a b) := by
  intro h x hx
  cases hx
  simp only [Instr.wf] at h
  have hba := a.isLt
  have hbb := b.isLt
  simp_all [decodeFields, decodePriv, fin?]
theorem ctxld (d : Operand) (a : Fin 16) (b : Fin 8) : Statement (.ctxld d a b) := by
  intro h x hx
  cases hx
  simp only [Instr.wf] at h
  have hba := a.isLt
  have hbb := b.isLt
  simp_all [decodeFields, decodePriv, fin?]
theorem tlbinvCtx : Statement (.tlbinvCtx) := by
  intro h x hx
  cases hx
  simp only [Instr.wf] at h
  simp_all [decodeFields, decodePriv, fin?]
theorem tlbinvPage (a : Fin 16) : Statement (.tlbinvPage a) := by
  intro h x hx
  cases hx
  simp only [Instr.wf] at h
  have hba := a.isLt
  simp_all [decodeFields, decodePriv, fin?]
theorem tlbinvPart : Statement (.tlbinvPart) := by
  intro h x hx
  cases hx
  simp only [Instr.wf] at h
  simp_all [decodeFields, decodePriv, fin?]
theorem diagst (a : Fin 16) (b : Fin 16) (c : Fin 16) (k : DiagKind) : Statement (.diagst a b c k) := by
  intro h x hx
  cases hx
  simp only [Instr.wf] at h
  have hba := a.isLt
  have hbb := b.isLt
  have hbc := c.isLt
  have hbk := k.code_lt
  simp_all [decodeFields, decodePriv, fin?]
theorem diagld (d : Operand) (a : Fin 16) (c : Fin 16) (k : DiagKind) : Statement (.diagld d a c k) := by
  intro h x hx
  cases hx
  simp only [Instr.wf] at h
  have hba := a.isLt
  have hbc := c.isLt
  have hbk := k.code_lt
  simp_all [decodeFields, decodePriv, fin?]
theorem detain (d : Operand) (a : Fin 16) : Statement (.detain d a) := by
  intro h x hx
  cases hx
  simp only [Instr.wf] at h
  have hba := a.isLt
  simp_all [decodeFields, decodePriv, fin?]
theorem lmapw (d : Operand) (a : Fin 16) (b : Fin 16) : Statement (.lmapw d a b) := by
  intro h x hx
  cases hx
  simp only [Instr.wf] at h
  have hba := a.isLt
  have hbb := b.isLt
  simp_all [decodeFields, decodePriv, fin?]
theorem scant (d : Operand) (a : Fin 16) : Statement (.scant d a) := by
  intro h x hx
  cases hx
  simp only [Instr.wf] at h
  have hba := a.isLt
  simp_all [decodeFields, decodePriv, fin?]
theorem dfrz : Statement (.dfrz) := by
  intro h x hx
  cases hx
  simp only [Instr.wf] at h
  simp_all [decodeFields, decodePriv, fin?]
theorem slotkill (d : Operand) (a : Fin 16) : Statement (.slotkill d a) := by
  intro h x hx
  cases hx
  simp only [Instr.wf] at h
  have hba := a.isLt
  simp_all [decodeFields, decodePriv, fin?]
theorem slotkillCtx (d : Operand) (a : Fin 16) : Statement (.slotkillCtx d a) := by
  intro h x hx
  cases hx
  simp only [Instr.wf] at h
  have hba := a.isLt
  simp_all [decodeFields, decodePriv, fin?]
theorem preempt (d : Operand) (a : Fin 16) : Statement (.preempt d a) := by
  intro h x hx
  cases hx
  simp only [Instr.wf] at h
  have hba := a.isLt
  simp_all [decodeFields, decodePriv, fin?]
theorem matw (d : Operand) (a : Fin 16) (b : Fin 16) (c : Fin 16) : Statement (.matw d a b c) := by
  intro h x hx
  cases hx
  simp only [Instr.wf] at h
  have hba := a.isLt
  have hbb := b.isLt
  have hbc := c.isLt
  simp_all [decodeFields, decodePriv, fin?]
theorem idle : Statement (.idle) := by
  intro h x hx
  cases hx
  simp only [Instr.wf] at h
  simp_all [decodeFields, decodePriv, fin?]
theorem qtail (part q : Nat) (v : BitVec 32) : Statement (.qtail part q v) := fun _ _ hx => nomatch hx
theorem launchRecordTake (q : LQueue) : Statement (.launchRecordTake q) := fun _ _ hx => nomatch hx
theorem launchDispatch (part seq : Nat) : Statement (.launchDispatch part seq) := fun _ _ hx => nomatch hx
theorem imageLoad (part seq core : Nat) : Statement (.imageLoad part seq core) := fun _ _ hx => nomatch hx
theorem stealRequest (i : Nat) : Statement (.stealRequest i) := fun _ _ hx => nomatch hx
theorem stealReply (i : Nat) : Statement (.stealReply i) := fun _ _ hx => nomatch hx
theorem taskSteal (thief victim : Nat) : Statement (.taskSteal thief victim) := fun _ _ hx => nomatch hx
theorem slotFill (core : Nat) (slot : Fin 8) : Statement (.slotFill core slot) := fun _ _ hx => nomatch hx
theorem migrationArrival (i : Nat) : Statement (.migrationArrival i) := fun _ _ hx => nomatch hx
theorem depositArrival (i : Nat) : Statement (.depositArrival i) := fun _ _ hx => nomatch hx
theorem depositLand (core i : Nat) : Statement (.depositLand core i) := fun _ _ hx => nomatch hx
theorem messageArrival (i : Nat) : Statement (.messageArrival i) := fun _ _ hx => nomatch hx
theorem windowSpill (core : Nat) (slot : Fin 8) : Statement (.windowSpill core slot) := fun _ _ hx => nomatch hx
theorem forcedSpill (core : Nat) (slot : Fin 8) : Statement (.forcedSpill core slot) := fun _ _ hx => nomatch hx
theorem wakeMessage (i : Nat) : Statement (.wakeMessage i) := fun _ _ hx => nomatch hx
theorem arrive (i : Nat) : Statement (.arrive i) := fun _ _ hx => nomatch hx
theorem perform (t : PerfTarget) : Statement (.perform t) := fun _ _ hx => nomatch hx
theorem complete (i : Nat) : Statement (.complete i) := fun _ _ hx => nomatch hx
theorem probe (b : Bank) : Statement (.probe b) := fun _ _ hx => nomatch hx
theorem echo (i : Nat) : Statement (.echo i) := fun _ _ hx => nomatch hx
theorem grant (line : Nat) : Statement (.grant line) := fun _ _ hx => nomatch hx
theorem release (b : Bank) : Statement (.release b) := fun _ _ hx => nomatch hx
theorem reservationBreak (line : Nat) : Statement (.reservationBreak line) := fun _ _ hx => nomatch hx
theorem migrationReservationBreak (line : Nat) : Statement (.migrationReservationBreak line) := fun _ _ hx => nomatch hx
theorem claimRetry (core : Nat) (slot : Fin 8) : Statement (.claimRetry core slot) := fun _ _ hx => nomatch hx
theorem engineOpStart (core : Nat) (e : Eng) : Statement (.engineOpStart core e) := fun _ _ hx => nomatch hx
theorem engineOpComplete (core : Nat) (e : Eng) : Statement (.engineOpComplete core e) := fun _ _ hx => nomatch hx
theorem attendanceArrival (i : Nat) : Statement (.attendanceArrival i) := fun _ _ hx => nomatch hx
theorem mmaReplay (core : Nat) : Statement (.mmaReplay core) := fun _ _ hx => nomatch hx
theorem rollCallSend (core : Nat) (slot : Fin 8) : Statement (.rollCallSend core slot) := fun _ _ hx => nomatch hx
theorem rollCall (i : Nat) : Statement (.rollCall i) := fun _ _ hx => nomatch hx
theorem stockRefill (i : Nat) : Statement (.stockRefill i) := fun _ _ hx => nomatch hx
theorem pageResponse (part : Nat) (tag gen : BitVec 32) (ok : Bool) : Statement (.pageResponse part tag gen ok) := fun _ _ hx => nomatch hx
theorem pagemove (hd : MailCmd) (ctx : Nat) (v : BitVec 48) (leaf : Word) : Statement (.pagemove hd ctx v leaf) := fun _ _ hx => nomatch hx
theorem portAck (i port : Nat) : Statement (.portAck i port) := fun _ _ hx => nomatch hx
theorem detentionNotice (i : Nat) : Statement (.detentionNotice i) := fun _ _ hx => nomatch hx
theorem detentionReset (i : Nat) : Statement (.detentionReset i) := fun _ _ hx => nomatch hx
theorem detentionRejoin (i : Nat) : Statement (.detentionRejoin i) := fun _ _ hx => nomatch hx
theorem scrub (b : Bank) (line : Nat) : Statement (.scrub b line) := fun _ _ hx => nomatch hx
theorem markerTimeout (core : Nat) (slot : Fin 8) : Statement (.markerTimeout core slot) := fun _ _ hx => nomatch hx
theorem scanTestEnd (core : Nat) (fail : Bool) : Statement (.scanTestEnd core fail) := fun _ _ hx => nomatch hx
theorem freeze (src : Source) : Statement (.freeze src) := fun _ _ hx => nomatch hx
theorem reportCard : Statement (.reportCard) := fun _ _ hx => nomatch hx
theorem timeMark (src : Source) : Statement (.timeMark src) := fun _ _ hx => nomatch hx
theorem coldReset : Statement (.coldReset) := fun _ _ hx => nomatch hx
theorem warmReset : Statement (.warmReset) := fun _ _ hx => nomatch hx
theorem partcfg (hd : MailCmd) (arg : BitVec 480) : Statement (.partcfg hd arg) := fun _ _ hx => nomatch hx
theorem doorbell (hd : MailCmd) (core : Nat) (slot : Fin 8) : Statement (.doorbell hd core slot) := fun _ _ hx => nomatch hx
theorem capinfo (hd : MailCmd) : Statement (.capinfo hd) := fun _ _ hx => nomatch hx
theorem capread (hd : MailCmd) (off n : Nat) : Statement (.capread hd off n) := fun _ _ hx => nomatch hx
theorem capclear (hd : MailCmd) : Statement (.capclear hd) := fun _ _ hx => nomatch hx
theorem debugRead (loc : ErrLoc) : Statement (.debugRead loc) := fun _ _ hx => nomatch hx
theorem barrierComplete (i : Nat) : Statement (.barrierComplete i) := fun _ _ hx => nomatch hx
theorem reductionComplete (i : Nat) : Statement (.reductionComplete i) := fun _ _ hx => nomatch hx
theorem registerWrite (r : HostReg) (v : Word) : Statement (.registerWrite r v) := fun _ _ hx => nomatch hx
theorem unassignedOpcode (opc : BitVec 9) : Statement (.unassignedOpcode opc) := fun _ _ hx => nomatch hx
theorem deviceMemoryWindowAccess (part pa : Nat) (w : Option (List Byte)) (n : Nat) : Statement (.deviceMemoryWindowAccess part pa w n) := fun _ _ hx => nomatch hx
theorem windowReload (core : Nat) (slot : Fin 8) : Statement (.windowReload core slot) := fun _ _ hx => nomatch hx
theorem flitResent (core : Nat) (again : Bool) : Statement (.flitResent core again) := fun _ _ hx => nomatch hx
theorem storageError (l : ErrLoc) (flip : BitVec 72) : Statement (.storageError l flip) := fun _ _ hx => nomatch hx

end Sys2Proof.Laws.RoundTrip
end

