-- ==== Sys2Proof/Tests/Slice0.lean ====
section
/-! SUPPORT. The model's own tests: for every obligation with hypotheses a concrete state that meets them (`wit_<obligation>`), every instruction
decoded from a word written out by hand (`test_words_…`), the check refusing an ill-formed term for each of its limits (`smoke_…`), and a
few single steps with results from the spec's worked examples (`test_step_…`). -/

set_option Elab.async false
namespace Sys2Proof.Tests
open Sys2Proof.Machine Sys2Proof.Safety Sys2Proof.Claims

/-- Segments: the own scratchpad, global memory, the scratchpad of core 1, no room, no rights, an address row that is not mapped. -/
def segs : Vector Seg 8 :=
  #v[⟨0xFF0000000000, 0x60000, true, true, true⟩, ⟨0, 0x1000000, true, true, true⟩, ⟨0x800000080000, 0x60000, true, true, true⟩,
     ⟨0, 0, true, true, true⟩, ⟨0, 0x1000, false, false, false⟩, ⟨0x900000000000, 0x1000, true, true, true⟩,
     ⟨0, 0x1000, true, true, true⟩, ⟨0, 0x1000, true, true, true⟩]

/-- A user thread of context 0 in slot 0 of core 0, at head 1 of its line 1, with its handlers in that line. -/
def th : Thread := Thread.fresh ⟨0, 0, 0, 1⟩ 0 (.launch 0 0 false) 0 0 0x42 false segs 0x1000 0x2000 0x42 0x44 0x42

/-- The core of a thread: a good line below `xb` at offset 64. -/
def coreOf (t : Thread) : Core :=
  { Core.reset with xb := 0x80, slots := Core.reset.slots.set 0 { Slot.reset with inc := 1, occ := .thread t } }

/-- A line of one head, at offset 64 of core 0. -/
def mem0 : Memory := Memory.writes [] (spKey Config.pkg 0 0x40) (fetchBytes 0x0000)

/-- A small state with that core alone. -/
def stc (k : Core) : State := { State.reset with mem := mem0, cores := [(0, k)] }
/-- A small state with that thread alone. -/
def st (t : Thread) : State := stc (coreOf t)

/-- A thread with three windows on the stack. -/
def thRet : Thread := { th with wsp := 0x1060, resident := [⟨0x1000, freshWin⟩] }

theorem wit_IntegerResults : Issues (st th) th [.g 1, .g 2] [.g 1] [] ∧ Issues (st th) th [.g 8, .zr] [.nf] [] := by
  unfold Issues; decide +kernel
theorem wit_IntegerResults_queue :
    Issues (stc { coreOf th with q := #v[[.val 1, .val 2], [], [], []] }) th [.q 0, .q 0] [.q 0] [] := by
  unfold Issues; decide +kernel
theorem wit_SaturatingResults : Issues (st th) th [.g 1, .g 2] [.zr] [] := by
  unfold Issues; decide +kernel
theorem wit_CountAndMoveResults : Issues (st th) th [.a 1] [.a 1] [] := by
  unfold Issues; decide +kernel
theorem wit_DivisionAndExtremaResults : (1 : Word) ≠ 0 ∧ ¬((BitVec.intMin 64) = BitVec.intMin 64 ∧ (1 : Word) = -1) := by decide
theorem wit_ImmediateAndMoveResults :
    Issues (st th) th [.g 1] [.g 1] [] ∧ Issues (st th) th [] [.g 15] [] ∧ Issues (st th) th [(RegName.a 7).op] [(RegName.a 7).op] [] ∧
    Issues (st th) th [] [(RegName.g 0).op] [] := by
  unfold Issues; decide +kernel
theorem wit_CompareResults : Issues (st th) th [.g 1, .g 2] [] [0] ∧ Issues (st th) th [.g 8] [] [31] := by
  unfold Issues; decide +kernel
theorem wit_PredicateResults :
    Issues (st th) th [] [] [31, 0, 31] ∧ Issues (st th) th [] [] [0, 0] ∧ Issues (st th) th [.g 1, .zr] [.g 1] [31] ∧
    Issues (st th) th [] [.g 2] ((List.range 32).map (BitVec.ofNat 5)) ∧
    Issues (st th) th [.zr] [] ((List.range 32).map (BitVec.ofNat 5)) ∧ Issues (st th) th [] [] [31] := by
  unfold Issues; decide +kernel
theorem wit_FloatArithmeticResults :
    Issues (st th) th [.g 1, .g 2] [.g 3] [] ∧ Issues (st th) th [.g 1] [.g 1] [] ∧ Issues (st th) th [.g 1, .g 1, .g 1] [.g 1] [] := by
  unfold Issues; decide +kernel
theorem wit_FloatArithmeticResults_rounding :
    fmt16 ∈ ieeeFmts ∧ (4 : BitVec 3).toNat ≤ 4 ∧ (2 : Nat) ^ (fmt16.fw + 2) ≤ 2 ^ 12 ∧ (2 : Nat) ^ 12 ≠ 0 ∧
    nearestInt 0 false 3 (-1) = (2, true) ∧ nearestInt 0 false 5 (-1) = (2, true) ∧ nearestInt 4 true 5 (-1) = (-3, true) ∧
    nearestInt 2 true 1 (-9) = (-1, true) ∧ nearestInt 1 true 1 (-9) = (0, true) ∧ nearestInt 3 false 7 0 = (7, false) := by decide +kernel
/-- 1.0 and 65504 in binary16 lie below the overflow, 65520 at it; 2^-24 is the smallest subnormal. -/
theorem test_rounding_half :
    fmt16.round 0 (.num false 65504 0 false) = (0x7BFF, 0) ∧ fmt16.round 0 (.num false 65520 0 false) = (0x7C00, 0x14) ∧
    fmt16.round 1 (.num false 65520 0 false) = (0x7BFF, 0x10) ∧ fmt16.round 0 (.num true 1 (-24) false) = (0x8001, 0) ∧
    fmt16.round 0 (.num true 1 (-25) false) = (0x8000, 0x18) := by decide +kernel
theorem wit_FloatSignCompareConvertResults :
    Issues (st th) th [.g 1] [.a 3] [] ∧ Issues (st th) th [.g 1, .g 2] [] [1] := by
  unfold Issues; decide +kernel
theorem wit_FormatValueRoundsToItself :
    fmt64 ∈ ieeeFmts ∧ fmtB16 ∈ ieeeFmts ∧ 2 ^ 64 - 2 ^ 52 < 2 ^ fmt64.width ∧ (fmt64.value (2 ^ 64 - 2 ^ 52)).isNan = false ∧
    (fmtB16.value 0).isNan = false ∧ 2 ^ 64 - 1 < 2 ^ fmt64.width ∧ (fmt64.value (2 ^ 64 - 1)).isNan = true ∧
    (fmt64.value (2 ^ 64 - 2 ^ 52 + 1)).isNan = true := by decide +kernel
theorem wit_FloatSpecialCases : ∀ b, FV.inf false ≠ .nan b := by decide
theorem wit_RegisterInstructionFrame :
    regForm (.add (.g 1) (.g 2) (.g 3) false) = some ([.g 2, .g 3], [.g 1], []) ∧ Issues (st th) th [.g 2, .g 3] [.g 1] [] ∧
    ∃ s', Runs (.add (.g 1) (.g 2) (.g 3) false) (st th) s' := ⟨rfl, ⟨rfl, rfl, rfl⟩, _, rfl⟩
theorem wit_FailedTransfersHaveNoEffect :
    let bad := fun (b : BTarget) => branchTarget th b
    Issues (st th) th [] [] [0] ∧ Issues (st th) th [] [] [] ∧ Issues (st th) th [.g 1] [.g 1] [] ∧ th.gv 1 ≠ 1 ∧
    (bad ⟨0, 0⟩).toNat / 2 % 32 = 0 ∧
    (bad ⟨-1, 1⟩ < 0x80 ∧ Line.wf ((st th).lineAt 0 (bad ⟨-1, 1⟩ &&& ~~~63#64).toNat) = false) ∧
    (bad ⟨0, 2⟩ < 0x80 ∧ Line.wf ((st th).lineAt 0 0x40) = true ∧ Line.hcnt ((st th).lineAt 0 0x40) < 2) ∧
    (¬ bad ⟨1, 1⟩ < 0x80 ∧ (bad ⟨1, 1⟩).getLsbD 0 = false ∧ (bad ⟨1, 1⟩).toNat / 2 % 32 ≠ 0) := by
  unfold Issues; decide +kernel
/-- A thread with room for exactly one call record, and two windows below its own. -/
def thCall : Thread := { th with wsp := 0x1FA0, resident := [⟨0x1F40, freshWin⟩, ⟨0x1EE0, freshWin⟩] }
theorem wit_CallAndReturnResults_call :
    Issues (st thCall) thCall [] [] [] ∧ Issues (st thCall) thCall [.g 1] [] [] ∧
    (st thCall).checkTarget 0 (branchTarget thCall ⟨0, 1⟩) = none ∧ thCall.wsp.toNat + 96 = thCall.wsl.toNat ∧
    (st thCall).ownBusy thCall ((st thCall).stackKey thCall thCall.wsp.toNat) 96 = false ∧
    (st thCall).cur.core = (st thCall).homeOf thCall ∧ thCall.resident.length = 2 ∧
    (let t := { thCall with g := th.g.set 1 (.of 0x82) }
     Issues (st t) t [.g 1] [] [] ∧ (st t).checkTarget 0 (fst2 (st t) t (.g 1)) = none) ∧
    (let t := { thCall with id := ⟨0, 1, 0, 1⟩, resident := [] }
     Issues (st t) t [] [] [] ∧ (st t).checkTarget 0 (branchTarget t ⟨0, 1⟩) = none ∧ t.wsp.toNat + 96 ≤ t.wsl.toNat ∧
      (st t).ownBusy t ((st t).stackKey t t.wsp.toNat) 96 = false ∧ (st t).cur.core ≠ (st t).homeOf t ∧ winPending t.win = false) := by
  unfold Issues; decide +kernel
/-- A state whose open call record returns to head 1 of line 1. -/
def stRet : State := { st thRet with mem := Memory.writes mem0 ((st th).stackKey thRet 0x1050) (leBytes 8 0x42) }
theorem wit_CallAndReturnResults_ret :
    Issues (st th) th [] [] [] ∧ th.wsp.toNat < th.wsb.toNat + 96 ∧ Issues stRet thRet [] [] [] ∧
    thRet.wsb.toNat + 96 = thRet.wsp.toNat ∧ stRet.ownBusy thRet (stRet.stackKey thRet (thRet.wsp.toNat - 16)) 8 = false ∧
    (stRet.checked thRet (stRet.stackKey thRet (thRet.wsp.toNat - 16)) 8).toOption = some stRet ∧
    stRet.checkTarget 0 (BitVec.ofNat 64 (stRet.rawNat (stRet.stackKey thRet (thRet.wsp.toNat - 16)) 8)) = none ∧
    stRet.cur.core = stRet.homeOf thRet ∧ thRet.resident.find? (fun x => x.base == thRet.wsp.toNat - 96) = some ⟨0x1000, freshWin⟩ ∧
    winPending thRet.win = false := by
  unfold Issues; decide +kernel
theorem wit_BranchAndYieldResults :
    Issues (st th) th [] [] [0] ∧ th.p 0 = true ∧ Issues (st th) th [] [] [31] ∧ th.p 31 = false ∧
    (st th).checkTarget 0 (branchTarget th ⟨1, 31⟩) = none ∧ Issues (st th) th [.g 1] [.g 1] [] ∧ th.gv 1 ≠ 1 ∧
    (let t := { th with g := th.g.set 1 (.of 1) }; Issues (st t) t [.g 1] [.g 1] [] ∧ t.gv 1 = 1) ∧
    (let t := { th with g := th.g.set 1 (.of 0x42) }; Issues (st t) t [.g 1] [] [] ∧ (st t).checkTarget 0 (fst2 (st t) t (.g 1)) = none) ∧
    Issues (st th) th [] [] [] ∧ ((st th).core 0).strict = false ∧
    (let s := stc { coreOf th with strict := true }; Issues s th [] [] [] ∧ (s.core 0).strict = true) := by
  unfold Issues; decide +kernel

theorem notSpark_th : NotSpark th := nofun
/-- A thread whose handlers do not pass their checks, but for `sh`. -/
def thBadH : Thread := { th with xh := 0x40, ovh := 0x41 }
theorem wit_UserTrapDelivery :
    NotSpark th ∧ NotSpark thBadH ∧ th.badCsr = [] ∧ thBadH.badCsr = [] ∧ (st th).synd = [] ∧ (st th).lost = [] ∧
    (st thBadH).synd = [] ∧ (st thBadH).lost = [] ∧ (st th).me = some th ∧ th.mode = false ∧ (st th).handlerOk 0 th.xh = true ∧
    (let t := { th with ovh := 0x42 }; (st t).handlerOk 0 t.ovh = true) ∧
    (st thBadH).me = some thBadH ∧ (st thBadH).handlerOk 0 thBadH.xh = false ∧ (st thBadH).handlerOk 0 thBadH.ovh = false ∧
    (st thBadH).handlerOk 0 thBadH.sh = true := ⟨nofun, nofun, rfl, rfl, rfl, rfl, rfl, rfl, by decide +kernel⟩
theorem wit_SupervisorTrapDelivery :
    NotSpark th ∧ (st th).me = some th ∧ th.mode = false ∧ (st th).handlerOk 0 th.sh = true ∧ th.badCsr = [] ∧
    (st th).synd = [] ∧ (st th).lost = [] := ⟨nofun, by decide +kernel⟩
/-- A supervisor thread whose `xpc` and `spc` pass their checks. -/
def thSup : Thread := { th with mode := true, xpc := 0x42, spc := 0x82 }
theorem wit_TrapAndReturnInstructions :
    Issues (st th) th [] [] [] ∧ th.mode = false ∧ Issues (st thSup) thSup [] [] [] ∧ thSup.mode = true ∧
    (st thSup).checkTarget 0 thSup.xpc = none ∧ (st thSup).checkTarget 0 thSup.spc = none ∧ (st thSup).synd = [] ∧ (st thSup).lost = [] ∧
    thSup.pmode = false ∧ (∀ k : Fin 8, (st thSup).grants (bankOf ((st thSup).segBase 0 0 false + 16 * k.val)) 0 1 = true) := by
  unfold Issues; decide +kernel
theorem wit_PrivilegedInUserModeTraps :
    th.mode = false ∧ Issues (st th) th [] [] [] ∧ Issues (st th) th [.g 1, .a 2] [.g 3] [] ∧ Issues (st th) th [.g 1] [] [] ∧
    Issues (st th) th [.g 1, .g 2, .g 3] [] [] ∧ Issues (st th) th [.g 1] [.g 2, .g 3] [] ∧ Issues (st th) th [.g 1] [.g 2] [] ∧
    Issues (st th) th [.g 1, .g 2] [.g 3] [] ∧ Issues (st th) th [.g 1, .g 2, .g 3] [.g 4] [] ∧ Issues (st th) th [] [.g 1] [] := by
  unfold Issues; decide +kernel
/-! ## Accesses -/

/-- A leaf of a 4 KiB page with every right. -/
def leafOf (cls pa : Nat) : Word := w64 (0x8017 + cls * 128 + pa / 4096 * 65536)
/-- Cached pages of context 0: plain, counters, handles, a device. -/
def pages : List TlbEntry :=
  [⟨0, 0, 0, 0x5000, leafOf 0 0x100000, 0x900000⟩, ⟨0, 0, 0, 0x6000, leafOf 2 0x200000, 0x900008⟩,
   ⟨0, 0, 0, 0x7000, leafOf 3 0x300000, 0x900010⟩, ⟨0, 0, 0, 0x8000, leafOf 4 Config.devBase, 0x900018⟩]
/-- That thread with those pages cached. -/
def stg (t : Thread) : State := { st t with tlb := pages }

theorem wit_AccessIssues_store :
    ∃ r, rowAt (st th) th (.st (.g 1) 0 .d 0x80) r ∧ MayAccess (st th) th r ∧ PointerOk th r ∧
      r.hall.any (fun w => (st th).hallHit 0 (accessVa th r) r.n w) = false ∧ r.late th ((st th).canonVa 0 (accessVa th r)) ∧
      Placed (st th) (st th) th r (spKey 0 0 0x80) 5 false (st th) :=
  ⟨_, rfl, ⟨⟨rfl, rfl, rfl⟩, nofun, by decide +kernel, by decide +kernel, trivial, rfl⟩, ⟨by decide +kernel, by decide +kernel⟩,
    by decide +kernel, trivial, .inl ⟨0x80, by decide +kernel, by decide +kernel, rfl, rfl, rfl, rfl, rfl⟩⟩
theorem wit_AccessIssues_load :
    ∃ r x, rowAt (stg th) th (.ld (.g 1) 1 .d 0x5FF8) r ∧ MayAccess (stg th) th r ∧ PointerOk th r ∧
      r.hall.any (fun w => (stg th).hallHit 0 (accessVa th r) r.n w) = false ∧ r.late th ((stg th).canonVa 0 (accessVa th r)) ∧
      (stg th).spaceOf 0 (accessVa th r) = some .glob ∧ (stg th).port 0 0 0 (accessVa th r) r.kind r.need = (.ok x, stg th) ∧
      x.name = 0x100FF8 ∧ x.cls = 0 :=
  ⟨_, ⟨0x100FF8, 0, false, none, (leafOf 0 0x100000).toNat⟩, rfl, ⟨⟨rfl, rfl, rfl⟩, nofun, by decide +kernel, by decide +kernel, trivial, rfl⟩,
    ⟨by decide +kernel, by decide +kernel⟩, by decide +kernel, trivial, by decide +kernel, by rfl, rfl, rfl⟩
/-- A thread that holds a reservation of the word at offset 0x100. -/
def thRsv : Thread := { th with rsv := some ⟨spKey 0 0 0x100, 0x800000000100, 8, false⟩ }
theorem wit_AccessIssues_release :
    ∃ r, rowAt (st thRsv) thRsv (.rls (.g 1) 0 (.g 2) ⟨.pk, false, true, true, 0x100⟩) r ∧ MayAccess (st thRsv) thRsv r ∧
      PointerOk thRsv r ∧ r.hall.any (fun w => (st thRsv).hallHit 0 (accessVa thRsv r) r.n w) = false ∧
      r.late thRsv ((st thRsv).canonVa 0 (accessVa thRsv r)) :=
  ⟨_, rfl, ⟨⟨rfl, rfl, rfl⟩, nofun, by decide +kernel, by decide +kernel, rfl, by decide +kernel⟩,
    ⟨by decide +kernel, by decide +kernel⟩, by decide +kernel, ⟨_, rfl, by decide +kernel, rfl, rfl⟩⟩
/-- A line of `RLX` and `ld.d g3, 16(a1)`, with the tail of Table 7-9. -/
def rlxLine : List Byte := Line.bytes ([0x1080, 0x0020, 0x9403] ++ List.replicate 27 0 ++ [0x0010, 0x8B00])
/-- A state whose thread stands at that `RLX`. -/
def stRlx (t : Thread) : State := { st t with mem := Memory.writes [] (spKey 0 0 0x40) rlxLine }
theorem wit_AccessIssues_relaxed :
    decodeAt rlxLine 1 = some .rlx ∧ decodeAt rlxLine 2 = some (.ld (.g 3) 1 .d 16) ∧
    ∃ r, rowAt (stRlx th) th .rlx r ∧ MayAccess (stRlx th) th r ∧ PointerOk th r ∧ r.rlx = true :=
  ⟨by rfl, by rfl, _, ⟨.ld (.g 3) 1 .d 16, _, by decide +kernel, by rfl, .inl ⟨.g 3, 1, .inl ⟨_, _, rfl⟩⟩, rfl, rfl⟩,
    ⟨⟨rfl, rfl, rfl⟩, nofun, by decide +kernel, by decide +kernel, trivial, rfl⟩, ⟨by decide +kernel, by decide +kernel⟩, rfl⟩

/-- An engine operation of another thread that writes bytes 0x200 to 0x20F of the own scratchpad. -/
def busyOp : EngOp :=
  { tag := 7, who := ⟨0, 0, 3, 1⟩, slot := 3, part := 0, opc := 0x160, pc := 0x42, enc := 0, shape := 0, job := .cpy 0xFF0000000200 0 16
    more := 0, rnd := 0, vl := 0, segs := segs, cnt := some 0, wait := false, srcs := [], dsts := [⟨0x800000000200, 16⟩], att := none, started := false
    landed := false, ordered := false, units := [], flags := 0, trap := none, move := none, outs := [], scaled := [], count := none
    late := none, skip := [], logged := [], granted := [] }
/-- The state with that operation queued. -/
def stBusy (t : Thread) : State := stc { coreOf t with copy := { Engine.reset with queue := [busyOp] } }
/-- The checks of an access at this offset of this segment, in the order of R183: each clause's conditions hold of one load. -/
theorem wit_AccessChecksTrapInOrder :
    let row := fun (p : Fin 8) (off : BitVec 24) => loadRow (.g 1) p .d (off.signExtend 64)
    let va := fun (p : Fin 8) (off : BitVec 24) => accessVa th (row p off)
    (∀ p off, accessRow (.ld (.g 1) p .d off) = some (row p off)) ∧
    MayAccess (st th) th (row 0 0) ∧ MayAccess (stBusy th) th (row 0 0) ∧
    (th.segs[(0 : Fin 8)]).grants 0x5FFF9 8 needR = false ∧ (th.segs[(3 : Fin 8)]).grants 0 8 needR = false ∧
    ((th.segs[(0 : Fin 8)]).grants 0x101 8 needR = true ∧ va 0 0x101 % 8 ≠ 0) ∧
    (PointerOk th (row 5 0) ∧ (st th).spaceOf 0 (va 5 0) = none) ∧
    (PointerOk th (row 0 0x78) ∧ (st th).spaceOf 0 (va 0 0x78) = some (.sp 0 0 0x78) ∧ 0x78 < ((st th).core 0).xb.toNat) ∧
    (PointerOk th (row 0 0x208) ∧ (stBusy th).spaceOf 0 (va 0 0x208) = some (.sp 0 0 0x208) ∧ ((stBusy th).core 0).xb.toNat ≤ 0x208 ∧
      (stBusy th).hallHit 0 (va 0 0x208) 8 false = true) ∧
    (stBusy th).hallHit 0 (va 0 0x210) 8 false = false := by
  refine ⟨fun _ _ => rfl, ⟨⟨rfl, rfl, rfl⟩, nofun, by decide +kernel, by decide +kernel, trivial, rfl⟩,
    ⟨⟨rfl, rfl, rfl⟩, nofun, by decide +kernel, by decide +kernel, trivial, rfl⟩, ?_⟩
  unfold PointerOk; decide +kernel
/-- The state with an operation that writes global bytes 0x5000 to 0x500F. -/
def stBusyG (t : Thread) : State :=
  stc { coreOf t with copy := { Engine.reset with queue := [{ busyOp with dsts := [⟨0x5000, 16⟩] }] } }
theorem wit_AccessChecksTrapInOrder_rest :
    (PointerOk th (loadRow (.g 1) 1 .d 0x5008) ∧ (stBusyG th).spaceOf 0 (accessVa th (loadRow (.g 1) 1 .d 0x5008)) = some .glob ∧
      (stBusyG th).hallHit 0 (accessVa th (loadRow (.g 1) 1 .d 0x5008)) 8 false = true) ∧
    (∃ r, accessRow (.erase 0) = some r ∧ r.kind.allowed none = false ∧
      (let t := { th with a := th.a.set 0 (.of 0x1000) }
       PointerOk t r ∧ (st t).spaceOf 0 (accessVa t r) = some (.sp 0 0 0x1000) ∧ MayAccess (st t) t r)) := by
  refine ⟨?_, _, rfl, rfl, ?_, by decide +kernel, ⟨⟨rfl, rfl, rfl⟩, nofun, by decide +kernel, by decide +kernel, trivial, rfl⟩⟩ <;>
  (unfold PointerOk; decide +kernel)

theorem mayLeave_th (dest : Nat) (h : dest < 8) : MayLeave (st th) th dest := by
  refine ⟨nofun, ?_⟩
  revert dest; decide +kernel
/-- A thread away from its home: on core 0, at home on core 1. -/
def thAway : Thread := { th with id := ⟨0, 1, 0, 1⟩, g := (th.g.set 1 (.of 1)).set 2 (.of 3968) |>.set 3 (.of 3967) }
theorem wit_MigrationResults :
    (let r := loadRow (.g 1) 2 .d 0x100
     MayAccess (st th) th r ∧ PointerOk th r ∧ th.lead = false ∧
      (st th).spaceOf 0 (accessVa th r) = some (.sp Config.pkg 1 0x100) ∧ MayLeave (st th) th ((st th).logOf 1)) ∧
    Issues (st thAway) thAway [.g 0] [] [] ∧ NotSpark thAway ∧ thAway.lead = false ∧ (st thAway).physOf (thAway.gv 0).toNat = 0 ∧
    ((thAway.gv 1).toNat < 3968 ∧ (st thAway).physOf (thAway.gv 1).toNat ≠ 0 ∧ MayLeave (st thAway) thAway 1) ∧
    (let s := { st thAway with parts := [(1, { Part.reset with routers := [0] })] }
     let t := { thAway with part := 0 }
     Issues s t [.g 1] [] [] ∧ (t.gv 1).toNat < 3968 ∧ s.physOf (t.gv 1).toNat ≠ 0 ∧ s.partOf (s.physOf (t.gv 1).toNat) ≠ t.part) ∧
    (thAway.gv 3).toNat < 3968 ∧ 3968 ≤ (thAway.gv 2).toNat ∧ Issues (st th) th [] [] [] ∧ (st th).physOf th.id.hcore.toNat = 0 ∧
    Issues (st thAway) thAway [] [] [] ∧ (st thAway).physOf thAway.id.hcore.toNat ≠ 0 := by
  refine ⟨⟨⟨⟨rfl, rfl, rfl⟩, nofun, by decide +kernel, by decide +kernel, trivial, rfl⟩, ?_, rfl, ?_, mayLeave_th _ (by decide +kernel)⟩,
    ⟨rfl, rfl, rfl⟩, nofun, rfl, ?_, ⟨?_, ?_, nofun, ?_⟩, ⟨⟨rfl, rfl, rfl⟩, ?_⟩, ?_, ?_, ⟨rfl, rfl, rfl⟩, ?_, ⟨rfl, rfl, rfl⟩, ?_⟩ <;>
  (try unfold PointerOk) <;> decide +kernel
/-! ## Homes -/

/-- An access of that thread to the word at offset 0x100 of its scratchpad. -/
def msgOf (op : MemOp) : Msg :=
  { tag := 5, who := th.id, part := 0, core := 0, slot := 0, opc := 0xA0, pc := 0x42, next := 0x82, off := 0x100, va := 0x800000000100, pa := spKey 0 0 0x100
    bytes := 8, acc := .load, need := needR, cls := 5, bank := bankOf (spKey 0 0 0x100), op := op, rlx := false, unchk := false, stuck := false, dst := .none, undo := none, gran := none }
/-- A message of another partition to a slice. -/
def msgForeign : Msg := { msgOf (.load 8 false none none) with part := 1, pa := 0x100000, bank := bankOf 0x100000 }
/-- The state with these messages at their banks. -/
def stIn (m : Msg) : State := { st th with inbox := [m] }
/-- The state with these messages on their way. -/
def stNet (m : Msg) : State := { st th with net := [m] }
/-- A load's reply, and the thread whose register awaits it. -/
def replyTh : Thread := { th with g := th.g.set 3 ⟨0, false, some 5, false⟩, oar := some ⟨5, false, false, none⟩ }
def reply0 : Reply := ⟨5, th.id, 9, none, 0, none, none, none, none, msgOf (.load 8 false none none), 0⟩
def stReply : State := { st replyTh with replies := [reply0] }

theorem wit_Arrive :
    let m := msgOf (.load 8 false none none)
    (stNet m).net.find? (fun x => x.tag == m.tag) = some m ∧ firstOnPath m (stNet m).net = true ∧ (stNet m).fencedFrom m.core m.bank = false ∧
    (stNet m).portFull m = false ∧ m.stuck = false ∧ (stNet m).pairHeld m.core m.tag = false ∧ (stNet m).msgGranted m = true ∧
    (stNet msgForeign).net.find? (fun x => x.tag == msgForeign.tag) = some msgForeign ∧ firstOnPath msgForeign (stNet msgForeign).net = true ∧
    (stNet msgForeign).fencedFrom msgForeign.core msgForeign.bank = false ∧
    (stNet msgForeign).portFull msgForeign = false ∧ msgForeign.stuck = false ∧ (stNet msgForeign).pairHeld msgForeign.core msgForeign.tag = false ∧
    (stNet msgForeign).msgGranted msgForeign = false ∧ msgForeign.rlx = false := by decide +kernel
theorem wit_PerformStore :
    let m := msgOf (.store (leBytes 8 7) (some .pk))
    NextAt (stIn m) m.bank m ∧ Sound (stIn m) ∧ isDev m.pa = false ∧ m.op = .store (leBytes 8 7) (some .pk) := by
  unfold NextAt Sound Safety.MemOk; decide +kernel
theorem wit_PerformLoad :
    let m := msgOf (.load 1 true none none)
    NextAt (stIn m) m.bank m ∧ Sound (stIn m) ∧ isDev m.pa = false ∧ m.op = .load 1 true none none := by
  unfold NextAt Sound Safety.MemOk; decide +kernel
theorem wit_PerformDevice :
    ∀ op ∈ [MemOp.load 8 false none none, .store (leBytes 8 7) none],
      let m := { msgOf op with pa := Config.devBase, bank := bankOf Config.devBase, cls := 4 }
      NextAt (stIn m) m.bank m ∧ Sound (stIn m) ∧ isDev m.pa = true ∧ m.op = op := by
  unfold NextAt Sound Safety.MemOk; decide +kernel
theorem wit_Complete :
    stReply.replies.find? (fun x => x.tag == reply0.tag) = some reply0 ∧ firstBack reply0 stReply.replies = true ∧ stReply.replyNext reply0 = true ∧ replyTh.awaits reply0.tag = false ∧ reply0.trap = none ∧ reply0.park = none ∧ reply0.chk = none ∧
    reply0.pred = none ∧ reply0.msg.who = reply0.who ∧ stReply.savedOf? reply0.who = none ∧ stReply.threadAt 0 0 = some replyTh ∧
    replyTh.id = reply0.who ∧ stReply.thread? reply0.who = some replyTh ∧ replyTh.held = [] ∧ (replyTh.cell (.g 3)).pend = some reply0.tag ∧
    (replyTh.cell (.g 4)).pend ≠ some reply0.tag ∧ replyTh.oar = some ⟨reply0.tag, false, false, none⟩ := by decide +kernel
theorem wit_CounterResults :
    (255 < 256 ∧ (1 : BitVec 3).getLsbD 0 = true) ∧ ((0 : BitVec 3).getLsbD 0 = false ∧ 15 < 16) ∧
    est 0 (lmax false 0) ≤ est 0 15 + est 0 0 ∧ (est 0 3 + est 0 0 < est 0 (lmax false 0) ∧ est 0 3 ≤ est 0 3 + est 0 0 ∧
      est 0 3 + est 0 0 < est 0 4) ∧ (est 0 3 < est 0 3 + est 0 1 ∧ est 0 3 + est 0 1 < est 0 4) := by decide
/-- Contexts with and without new entries of the reduction log. -/
def ctxOf (n d : Nat) : Ctx := ⟨0, 0, 0, [], [], n, d, none, 0, false⟩
theorem wit_Fence :
    Issues (st th) th [] [] [] ∧ th.oar = none ∧ th.drained 0 .pk = true ∧ ((st th).ctx 0 0).logN ≤ ((st th).ctx 0 0).logDone ∧
    ((st th).ctx 0 0).access = none ∧ th.refused = [] ∧
    (let t := { th with refused := [0x5000] }
     Issues (st t) t [] [] [] ∧ t.drained 0 .pk = true ∧ ((st t).ctx 0 0).logN ≤ ((st t).ctx 0 0).logDone ∧ t.refused = 0x5000 :: []) ∧
    (let s := { st th with ctxs := [ctxOf 2 1] }; Issues s th [] [] [] ∧ (s.ctx 0 0).logDone < (s.ctx 0 0).logN) := by
  unfold Issues; decide +kernel
theorem wit_Pref :
    Issues (st th) th [.a 0] [] [] ∧ PointerOk th (loadRow .zr 0 .b 0x80) ∧
    (st th).spaceOf 0 (accessVa th (loadRow .zr 0 .b 0x80)) = some (.sp Config.pkg 0 0x80) ∧ ((st th).core 0).xb.toNat ≤ 0x80 ∧
    PointerOk th (loadRow .zr 1 .d 0x5000) ∧ (st th).spaceOf 0 (accessVa th (loadRow .zr 1 .d 0x5000)) = some .glob := by
  unfold Issues PointerOk; decide +kernel
/-- A thread whose reservation is broken. -/
def thBroken : Thread := { thRsv with rsv := some ⟨spKey 0 0 0x100, 0x800000000100, 8, true⟩ }
theorem wit_Reservation :
    (Issues (st thRsv) thRsv [] [] [] ∧ thRsv.rsv = some ⟨spKey 0 0 0x100, 0x800000000100, 8, false⟩ ∧ thRsv.oar = none) ∧
    (let o : AtomCtl := ⟨.pk, false, false, true, 0x100⟩
     let row := atomRow (.g 1) 0 [] o (fun _ _ _ _ => .probe)
     Issues (st thBroken) thBroken [.a 0] [.g 1] [] ∧ thBroken.rsv = some ⟨spKey 0 0 0x100, 0x800000000100, 8, true⟩ ∧
     PointerOk thBroken row ∧ (st thBroken).spaceOf 0 (accessVa thBroken row) = some (.sp Config.pkg 0 0x100) ∧
     ((st thBroken).core 0).xb.toNat ≤ 0x100 ∧ (st thBroken).hallHit 0 (accessVa thBroken row) row.n true = false ∧
     (st thBroken).canonVa 0 (accessVa thBroken row) = 0x800000000100 ∧ row.n = 8) := by
  unfold Issues PointerOk; decide +kernel

/-- An atomic that waits at its line, and a release on its way. -/
def atom0 : Msg := msgOf (.atom .add true 1 0 none none)
def line0 : LineQ := ⟨lineOf (spKey 0 0 0x100), none, [atom0], [], [], [], 0⟩
def stLine : State := { st th with lines := [line0] }
def rel0 : Rel := ⟨atom0, some (leBytes 8 1), 0, 0, none⟩
def stRel : State := { st th with rels := [rel0], lines := [{ line0 with holder := some ⟨th.id, 5, false, 0⟩, queue := [] }] }
theorem wit_HomeEvents_grant :
    (stLine.lineQ line0.line).holder = none ∧ (stLine.lineQ line0.line).nextAside = none ∧ (stLine.lineQ line0.line).queue = [atom0] ∧
    stLine.moves = [] ∧ Sound stLine ∧ stLine.eraseHolds line0.line = false ∧ stLine.looseStuck atom0 = false ∧ stLine.fencedFrom atom0.core atom0.bank = false ∧ atom0.gran = none ∧ isDev atom0.pa = false ∧ atom0.op = .atom .add true 1 0 none none ∧
    stRel.rels.find? (fun y => y.msg.bank == atom0.bank) = some rel0 ∧ rel0.msg.gran = none ∧ Sound stRel ∧ stRel.looseStuck rel0.msg = false ∧ stRel.fencedFrom rel0.msg.core atom0.bank = false ∧ rel0.cds = none := by
  unfold Sound Safety.MemOk; decide +kernel
/-- A line reserved by `RSV` for which another thread has waited 64 cycles; its page has been moving for 64. -/
def stBreak : State :=
  { st thRsv with
    time := 64, lines := [{ line0 with line := 0x100000, holder := some ⟨th.id, 1, true, 0⟩ }]
    moves := [⟨1, 0, 0, 0x5000, 4096, leafOf 0 0x100000, leafOf 0 0x101000, 0, none, 9⟩] }
theorem wit_HomeEvents_rest :
    (let m := msgOf .probe; (stIn m).inbox.find? (fun x => x.bank == m.bank) = some m ∧ m.op = .probe ∧ (stIn m).probeClear m = true) ∧
    (let t := { th with probes := [(5, bankOf 0x100000)] }
     let s := { st t with echoes := [(5, th.id, bankOf 0x100000)] }
     s.echoes.find? (fun e => e.1 == 5) = some (5, th.id, bankOf 0x100000) ∧ s.threadAt 0 0 = some t ∧
       t.probes.any (fun p => p.1 == 5) = true) ∧
    ((stBreak.lineQ 0x100000).holder = some ⟨th.id, 1, true, 0⟩ ∧ stBreak.threadAt 0 0 = some thRsv ∧ thRsv.id = th.id ∧
      (stBreak.lineQ 0x100000).queue ≠ [] ∧ (stBreak.lineQ 0x100000).waitFrom + 64 ≤ stBreak.time.toNat ∧
      ∀ v ∈ stBreak.moves, v.shot = none ∧ leafHas v.oldLeaf v.size 0x100000 = true ∧ v.at_ + 64 ≤ stBreak.time.toNat) := by decide +kernel

/-! ## Segments and CSRs -/

theorem wit_SegmentResults :
    Issues (st th) th [] [.g 1] [] ∧ Sound (st th) ∧
    (let t := { th with g := (th.g.set 1 (.of 0x20000)).set 2 (.of 0x40000) |>.set 3 (.of 0x40001) }
     Issues (st t) t [.g 1, .g 2] [] [] ∧ (fst2 (st t) t (.g 1)).toNat + (snd2 (st t) t (.g 1) (.g 2)).toNat = t.segs[(0 : Fin 8)].limit.toNat ∧
     Issues (st t) t [.g 1, .g 3] [] [] ∧
     t.segs[(0 : Fin 8)].limit.toNat < (fst2 (st t) t (.g 1)).toNat + (snd2 (st t) t (.g 1) (.g 3)).toNat) := by
  unfold Sound Safety.MemOk Issues; decide +kernel
theorem wit_CsrResults :
    Issues (st th) th [] [.g 1] [] ∧ th.badCsr = [] ∧ ((0x038 : BitVec 12), (0 : Word)) ∈ csrTable (st th) th ∧
    0x039 ∉ (csrTable (st th) th).map (·.1) ∧ 0xC00 ∉ (csrTable (st th) th).map (·.1) ∧ th.mode = false ∧
    Issues (st th) th [.g 1] [.g 2] [] ∧ ((0 : BitVec 12), (0 : Word)) ∈ csrTable (st th) th ∧
    (let t := { th with g := (th.g.set 1 (.of 4)).set 2 (.of 5) }
     Issues (st t) t [.g 1] [.g 3] [] ∧ (fst2 (st t) t (.g 1)).toNat % 8 ≤ 4 ∧ Issues (st t) t [.g 2] [.g 3] [] ∧
      4 < (fst2 (st t) t (.g 2)).toNat % 8) ∧
    ((0x036 : BitVec 12), (0 : Word)) ∈ csrTable (st th) th := by
  unfold Issues; decide +kernel
theorem wit_SupervisorCsrResults_scsrw :
    (¬scsrwHeld (st thSup) thSup 0x818 0 ∧ ((0x818 : BitVec 12), (0 : Word)) ∈ supTable (st thSup) thSup ++ csrTable (st thSup) thSup) ∧
    (¬scsrwHeld (st thSup) thSup 0 4 ∧ ((0 : BitVec 12), (0 : Word)) ∈ supTable (st thSup) thSup ++ csrTable (st thSup) thSup) ∧
    ¬scsrwHeld (st thSup) thSup 0x811 0 ∧ thSup.carried = none ∧ thSup.drained 0 .pk = true ∧ thSup.oar = none ∧ 4 < (5 : Word).toNat % 8 ∧
    (let t := { thSup with carried := some (9, 0) }; Issues (st t) t [] [] []) := by
  unfold scsrwHeld Issues; decide +kernel
theorem wit_SupervisorCsrResults :
    thSup.mode = true ∧ thSup.badCsr = [] ∧ Issues (st thSup) thSup [] [.g 1] [] ∧ ((0x803 : BitVec 12), (0x82 : Word)) ∈ supTable (st thSup) thSup ∧
    Issues (st thSup) thSup [.g 1] [.g 2] [] ∧ ((st thSup).rights 2 (coreDie 0) 0).getLsbD 4 = true ∧
    (let t := { thSup with part := 1 }; Issues (st t) t [.g 1] [.g 2] [] ∧ ((st t).rights 2 (coreDie 0) t.part).getLsbD 4 = false) := by
  unfold Issues; decide +kernel
/-! ## Engines -/

/-- A thread whose pointers name room in the own scratchpad, in global memory and in the scratchpad of core 1. -/
def thE : Thread :=
  { th with a := #v[.of 0x1000, .of 0x5000, .of 0x100, .of 0, .of 0, .of 0, .of 0, .of 0], g := (th.g.set 1 (.of 0x100)).set 2 (.of (2 ^ 24)) }
/-- A stream at that place. -/
def x0 : Strm := ⟨0, true⟩

theorem wit_EngineInstructionsIssue_vector :
    ∃ r, engRow (st thE) thE (.vadd .f32 ⟨true, 7⟩ x0 x0 (.strm x0)) = some r ∧ MayQueue (st thE) thE r ∧ (st thE).streamFault thE r.xs = none ∧
      ((st thE).core 0).engConflict r.eng (rowSrcs (st thE) thE r) (rowDsts (st thE) thE r) = false ∧
      ((st thE).core 0).hallUse + (rowSrcs (st thE) thE r).length + (rowDsts (st thE) thE r).length + (if r.vl = 0 then 0 else r.more) ≤ 16 ∧
      (((st thE).core 0).engine r.eng).queue.length < 2 ∧ ((st thE).core 0).cc[r.ec.cnt.toFin].val ≠ 65535 ∧ r.ec.wait = true :=
  ⟨_, rfl, ⟨⟨rfl, rfl, rfl⟩, nofun, rfl, rfl, trivial⟩, by decide +kernel⟩
theorem wit_EngineInstructionsIssue_copy :
    ∃ r, engRow (st thE) thE (.cpy x0 x0 2 (some 0) ⟨false, 0⟩) = some r ∧ MayQueue (st thE) thE r ∧
      ∃ q, engRow (st thE) thE (.cpy x0 x0 1 (some 0) ⟨false, 0⟩) = some q ∧ MayQueue (st thE) thE q ∧ (st thE).streamFault thE q.xs = none ∧
        ((st thE).core 0).engConflict q.eng (rowSrcs (st thE) thE q) (rowDsts (st thE) thE q) = false :=
  ⟨_, rfl, ⟨⟨rfl, rfl, rfl⟩, nofun, rfl, rfl, by decide +kernel⟩, _, rfl, ⟨⟨rfl, rfl, rfl⟩, nofun, rfl, rfl, by decide +kernel⟩, by decide +kernel⟩
theorem wit_EngineInstructionsIssue_matrix :
    ∃ r, engRow (st thE) thE (.mma 15 0 0 ⟨.bf16, ⟨false, 0⟩, true, true, 0xFF⟩) = some r ∧ MayQueue (st thE) thE r ∧
      (st thE).streamFault thE r.xs = none :=
  ⟨_, rfl, ⟨⟨rfl, rfl, rfl⟩, nofun, rfl, rfl, nofun⟩, by decide +kernel⟩
theorem wit_EngineInstructionsIssue_gather :
    ∃ r, engRow (st thE) thE (.gathf .i16 ⟨true, 1⟩ x0 1 x0 3) = some r ∧ MayQueue (st thE) thE r ∧ (st thE).streamFault thE r.xs = none :=
  ⟨_, rfl, ⟨⟨rfl, rfl, rfl⟩, nofun, rfl, rfl, trivial⟩, by decide +kernel⟩

/-- A thread one of whose pointers leaves its segment, is misaligned, or names no place. -/
def thE2 : Thread := { th with a := #v[.of 0x1000, .of 0x5000, .of 0x100, .of 0, .of 0, .of 0, .of 0x1000, .of 0x102] }
theorem wit_EngineStreamChecks :
    ∃ r q m n w, engRow (st thE2) thE2 (.vmov .f32 ⟨false, 0⟩ x0 ⟨3, false⟩) = some r ∧ MayQueue (st thE2) thE2 r ∧
      (r.xs.filter (fun x => x.n != 0)).find? (fun x => !(thE2.segs[x.p]).grants x.off.toNat x.n (Need.mk (!x.dst) x.dst false)) = some q ∧
      engRow (st thE2) thE2 (.vmov .f32 ⟨false, 0⟩ x0 ⟨7, false⟩) = some m ∧ MayQueue (st thE2) thE2 m ∧
      (m.xs.filter (fun x => x.n != 0)).all (fun x => (thE2.segs[x.p]).grants x.off.toNat x.n (Need.mk (!x.dst) x.dst false)) = true ∧
      (m.xs.filter (fun x => x.n != 0)).find? (fun x => !((thE2.segs[x.p].base.toNat + x.off.toNat) % x.align == 0)) = some n ∧
      engRow (st thE2) thE2 (.vmov .f32 ⟨false, 0⟩ x0 ⟨2, false⟩) = some w ∧ MayQueue (st thE2) thE2 w ∧
      (st thE2).spaceOf 0 (thE2.segs[(2 : Fin 8)].base.toNat + 0x100) = some (.sp 0 1 0x100) ∧
      (st thE2).spaceOf 0 (thE2.segs[(5 : Fin 8)].base.toNat) = none :=
  ⟨_, _, _, _, _, rfl, ⟨⟨rfl, rfl, rfl⟩, nofun, rfl, rfl, trivial⟩, rfl, rfl, ⟨⟨rfl, rfl, rfl⟩, nofun, rfl, rfl, trivial⟩, by decide +kernel, rfl, rfl,
    ⟨⟨rfl, rfl, rfl⟩, nofun, rfl, rfl, trivial⟩, by decide +kernel⟩
/-- The second source lies in the scratchpad of core 1; or the destination reaches below `xb`, behind a source in global memory. -/
theorem wit_EngineStreamChecks_second :
    let t := { thE2 with a := #v[.of 0x40, .of 0x5000, .of 0x100, .of 0, .of 0, .of 0, .of 0x1000, .of 0x102] }
    let live := fun (r : EngRow) => r.xs.filter (fun x => x.n != 0)
    let need := fun (x : Stream) => if x.reach = .att then Need.mk false false false else Need.mk (!x.dst) x.dst false
    let fits := fun (u : Thread) (x : Stream) => (u.segs[x.p]).grants x.off.toNat x.n (need x) && (u.segs[x.p].base.toNat + x.off.toNat) % x.align == 0
    ∃ r q, engRow (st thE2) thE2 (.vadd .f32 ⟨false, 0⟩ ⟨0, false⟩ ⟨0, false⟩ (.strm ⟨2, false⟩)) = some r ∧ MayQueue (st thE2) thE2 r ∧
      engRow (st t) t (.vmov .f32 ⟨false, 0⟩ ⟨0, false⟩ ⟨1, false⟩) = some q ∧ MayQueue (st t) t q ∧
      (live r).all (fits thE2) = true ∧ ((live r).map (fun x => placeCause (st thE2) (thE2.segs[x.p].base.toNat + x.off.toNat) x)) =
        [none, some 0x0F, none] ∧
      (live q).all (fits t) = true ∧ (live q).map (fun x => (x.p, x.reach)) = [(1, .own), (0, .own)] ∧
      (live q).all (fun x => (placeCause (st t) (t.segs[x.p].base.toNat + x.off.toNat) x).isNone) = true ∧
      (st t).spaceOf 0 (t.segs[(0 : Fin 8)].base.toNat + 0x40) = some (.sp 0 0 0x40) ∧ 0x40 < ((st t).core 0).xb.toNat ∧
      (st t).spaceOf 0 (t.segs[(1 : Fin 8)].base.toNat + 0x5000) = some .glob :=
  ⟨_, _, rfl, ⟨⟨rfl, rfl, rfl⟩, nofun, rfl, rfl, trivial⟩, rfl, ⟨⟨rfl, rfl, rfl⟩, nofun, rfl, rfl, trivial⟩, by decide +kernel⟩
/-- A core whose copy engine writes that place, whose vector engine is full, and whose counter 0 is at its greatest value. -/
def coreFull (v : BitVec 16) : Core :=
  { coreOf thE with
    copy := { Engine.reset with queue := [{ busyOp with dsts := [⟨0x800000001000, 16⟩] }] }
    cc := Core.reset.cc.set 0 ⟨v, 0⟩ }
theorem wit_EngineStreamChecks_waits :
    ∃ r, engRow (stc (coreFull 0)) thE (.vset .f32 ⟨false, 0⟩ x0 1) = some r ∧ MayQueue (stc (coreFull 0)) thE r ∧
      (stc (coreFull 0)).streamFault thE r.xs = none ∧
      (coreFull 0).engConflict r.eng (rowSrcs (stc (coreFull 0)) thE r) (rowDsts (stc (coreFull 0)) thE r) = true ∧
      (let k := { coreOf thE with vec := { Engine.reset with queue := [busyOp, busyOp] } }
       MayQueue (stc k) thE r ∧ k.engConflict r.eng (rowSrcs (stc k) thE r) (rowDsts (stc k) thE r) = false ∧
       k.hallUse + (rowSrcs (stc k) thE r).length + (rowDsts (stc k) thE r).length + (if r.vl = 0 then 0 else r.more) ≤ 16 ∧ (k.engine r.eng).queue.length = 2) ∧
      (let k := { coreFull 65535 with copy := .reset }
       MayQueue (stc k) thE r ∧ k.engConflict r.eng (rowSrcs (stc k) thE r) (rowDsts (stc k) thE r) = false ∧
       (k.engine r.eng).queue.length < 2 ∧ k.cc[r.ec.cnt.toFin].val = 65535) :=
  ⟨_, rfl, ⟨⟨rfl, rfl, rfl⟩, nofun, rfl, rfl, trivial⟩, by decide +kernel, by decide +kernel,
    ⟨⟨⟨rfl, rfl, rfl⟩, nofun, rfl, rfl, trivial⟩, by decide +kernel⟩, ⟨⟨⟨rfl, rfl, rfl⟩, nofun, rfl, rfl, trivial⟩, by decide +kernel⟩⟩
theorem wit_EngineControlResults :
    Issues (st thE) thE [.g 1] [.g 2] [] ∧ Issues (st th) th [] [] [] ∧ th.engOps = [] ∧
    (let t := { th with engOps := [7], markers := [(0, 0, [7]), (0, 1, [7]), (0, 2, [7])] }
     Issues (st t) t [] [] [] ∧ t.engOps ≠ [] ∧ t.markers.length = 3 ∧ ((st t).core 0).cc[(0 : Fin 8)].val ≠ 65535) ∧
    ((st th).core 0).cc[(0 : Fin 8)].val.toNat < (1 : BitVec 6).toNat ∧
    (let s := stc { coreOf th with cc := Core.reset.cc.set 0 ⟨63, 0⟩ }
     Issues s th [] [] [] ∧ (63 : BitVec 6) ≠ 0 ∧ (63 : BitVec 6).toNat ≤ (s.core 0).cc[(0 : Fin 8)].val.toNat) := by
  unfold Issues; decide +kernel
theorem wit_ReductionAndAttendanceResults :
    NotSpark thE ∧ thE.oar = none ∧ Issues (st thE) thE [.a 0, .g 1] [] [] ∧ thE.rlx = [] ∧
    Reachable (st thE) thE 0 (thE.av 0 + (0x7FF8 : BitVec 16).signExtend 64) 8 ⟨false, true, true⟩ true ∧
    Reachable (st thE) thE 1 (thE.av 1) 8 ⟨false, true, true⟩ true ∧ ((st thE).core 0).hallUse ≤ 16 ∧
    ((st thE).core 0).copy.queue.length < 2 ∧ ((st thE).core 0).cc[(0 : Fin 8)].val ≠ 65535 ∧
    Issues (st thE) thE [.a 0, .g 1] [.g 2] [] ∧ Reachable (st thE) thE 0 (thE.av 0) 16 ⟨false, true, false⟩ false ∧
    Reachable (st thE) thE 0 (thE.av 0) 16 ⟨true, false, false⟩ false ∧ Issues (st thE) thE [.a 1, .g 1] [.g 2] [] ∧
    (st thE).spaceOf 0 (thE.segs[(1 : Fin 8)].base.toNat + (thE.av 1).toNat) = some .glob ∧
    (thE.segs[(1 : Fin 8)].base.toNat + (thE.av 1).toNat) % 16 = 0 ∧ (thE.segs[(1 : Fin 8)]).grants (thE.av 1).toNat 16 ⟨false, true, false⟩ = true ∧
    thE.carried = none := by
  have h : ∀ (p : Fin 8) (o : Word) (n : Nat) (need : Need) (off : Nat), (thE.segs[p]).grants o.toNat n need = true →
      (thE.segs[p].base.toNat + o.toNat) % n = 0 → (st thE).spaceOf 0 (thE.segs[p].base.toNat + o.toNat) = some (.sp Config.pkg 0 off) →
      0x80 ≤ off → (st thE).hallHit 0 (thE.segs[p].base.toNat + o.toNat) n need.w = false → ∀ g, Reachable (st thE) thE p o n need g :=
    fun p o n need off a b c d e g => ⟨a, b, .inr ⟨off, c, d⟩, e⟩
  refine ⟨nofun, rfl, ⟨rfl, rfl, rfl⟩, rfl, h _ _ _ _ 0x8FF8 ?_ ?_ ?_ ?_ ?_ _, ⟨?_, ?_, .inl ⟨rfl, ?_⟩, ?_⟩, ?_, ?_, ?_, ⟨rfl, rfl, rfl⟩,
    h _ _ _ _ 0x1000 ?_ ?_ ?_ ?_ ?_ _, h _ _ _ _ 0x1000 ?_ ?_ ?_ ?_ ?_ _, ⟨rfl, rfl, rfl⟩, ?_, ?_, ?_, rfl⟩ <;> decide +kernel
/-- An `AWAIT` whose wait has ended. -/
theorem wit_ReductionAndAttendanceResults_again :
    let t := { thE with carried := some (12, 5) }
    Issues (st t) t [.a 0] [.g 2] [] ∧ t.carried = some (12, 5) ∧ Reachable (st t) t 0 (t.av 0) 16 ⟨true, false, false⟩ false := by
  refine ⟨⟨rfl, rfl, rfl⟩, rfl, ?_, ?_, .inr ⟨0x1000, ?_, ?_⟩, ?_⟩ <;> decide +kernel

/-- An operation of that thread at the head of an engine. -/
def opOf (j : Job) : EngOp := { busyOp with who := th.id, slot := 0, job := j, dsts := [] }
def stMat (o : EngOp) (k : Core) : State := stc { k with mat := { Engine.reset with queue := [o] } }
def stCopy (o : EngOp) : State := stc { coreOf th with copy := { Engine.reset with queue := [o] } }
def depo0 : Deposit := ⟨0, none, 1, 0, 3, 7, none, 0, 0⟩
theorem wit_EngineEvents :
    ((stMat (opOf (.mzero 15)) (coreOf th)).engHead 0 .mat = some (opOf (.mzero 15)) ∧ (opOf (.mzero 15)).started = false ∧
      ((stMat (opOf (.mzero 15)) (coreOf th)).core 0).stopped = false ∧ (opOf (.mzero 15)).trap = none ∧
      (stMat (opOf (.mzero 15)) (coreOf th)).pairHeld 0 7 = false ∧ ((stMat (opOf (.mzero 15)) (coreOf th)).core 0).marks = []) ∧
    ((stCopy (opOf (.depo depo0))).engHead 0 .copy = some (opOf (.depo depo0)) ∧ ((stCopy (opOf (.depo depo0))).core 0).stopped = false ∧
      (opOf (.depo depo0)).started = false ∧ (stCopy (opOf (.depo depo0))).pairHeld 0 7 = false ∧
      ((stCopy (opOf (.depo depo0))).core 0).marks = []) ∧
    (let t := { th with engOps := [7], status := .engineWait 7 }
     let o : EngOp := { opOf (.mzero 0) with started := true, wait := true }
     let s := stMat o (coreOf t)
     s.engHead 0 .mat = some o ∧ o.finished = true ∧ o.job.isTile = false ∧ o.trap = none ∧ o.move = none ∧
       s.thread? o.who = some t ∧ t.markers = [] ∧ s.threadAt 0 0 = some t ∧ t.id = o.who ∧ t.status = .engineWait o.tag) ∧
    (let k := { coreOf th with mat := { queue := [opOf (.mzero 0)], shadow := some (15, List.replicate 1024 0), retry := true, again := [] } }
     (stc k).engHead 0 .mat = some (opOf (.mzero 0)) ∧ ((stc k).core 0).mat.retry = true ∧ ((stc k).core 0).stopped = false ∧
       (stc k).faultQ = [] ∧ (stc k).detentions = [] ∧ ((stc k).core 0).mat.shadow = some (15, List.replicate 1024 0)) ∧
    (let a : Arrival := ⟨5, spKey 0 0 0x100, 64, 7, th.id, 0, 0⟩
     let s := { st th with arrivals := [a], mem := Memory.writes mem0 (spKey 0 0 0x100) (leBytes 4 64) }
     s.arrivals.find? (fun x => x.tag == 5) = some a ∧ s.fenced (spOf a.pa).2.1 = false ∧ Sound s ∧
       (s.lineQ (lineOf a.pa)).holder = none ∧ s.arrivalWaits (lineOf a.pa) = false ∧ s.rawNat a.pa 4 = 64 ∧ s.rawNat (a.pa + 4) 4 + a.n = 64 ∧
       s.signalWait a.who = none) ∧
    (let m := { msgOf .erase with gran := some (0x100000, 0x200000, 0), bank := bankOf 0x100000 }
     let f : FaultEntry := ⟨.home m.bank, 0, 0, 0x5000, .stock, .access m⟩
     let s := { st th with faultQ := [f] }
     (s.faultQ.filter (fun f => f.kind == .stock))[0]? = some f ∧ f.what = .access m ∧ m.gran = some (0x100000, 0x200000, 0) ∧
       s.stockOf m.bank 0x200000 = [] ∧ { s with mem := Memory.writes mem0 0x200000 (leBytes 4 1) }.poolFree 0x200000 = true) := by
  unfold Sound Safety.MemOk; decide +kernel
/-! ## What a started engine operation does -/

/-- The engines of a core with one operation at the head of one of them. -/
def stEng (e : Eng) (o : EngOp) : State :=
  let q : Engine := { Engine.reset with queue := [o] }
  match e with
  | .mat => stc { coreOf th with mat := q }
  | .vec => stc { coreOf th with vec := q }
  | .copy => stc { coreOf th with copy := q }
/-- A unit whose reads, by stream and address, have brought these bytes. -/
def unitOf (phase : Nat) (l : List (Nat × Nat × List Byte)) : EUnit :=
  { key := 0, reads := l.map (fun p => ⟨p.1, p.2.1, p.2.2.length, false, some (some p.2.2)⟩), phase := phase, loaded := false, writes := [], gone := [] }
/-- An operation that runs with this one unit. -/
def runOp (j : Job) (vl : Nat) (u : EUnit) : EngOp := { opOf j with vl := vl, started := true, units := [u] }

theorem mayStart (e : Eng) (j : Job) (vl : Nat) : MayStart (stEng e { opOf j with vl := vl }) 0 e { opOf j with vl := vl } := by
  have h : (stEng e { opOf j with vl := vl }).pairHeld 0 7 = (stc (coreOf th)).pairHeld 0 7 := by cases e <;> rfl
  have h0 : (stc (coreOf th)).pairHeld 0 7 = false := by decide +kernel
  cases e <;> exact ⟨rfl, rfl, rfl, h.trans h0, rfl, rfl⟩
theorem working (e : Eng) (j : Job) (vl : Nat) (u : EUnit) (hj : j.isTile = false) (hu : u.finished = false) :
    Working (stEng e (runOp j vl u)) 0 e (runOp j vl u) 0 u := by
  cases e <;> exact ⟨rfl, rfl, hj, rfl, rfl, rfl, rfl, rfl, hu, nofun, rfl⟩
theorem takeUp (e : Eng) (j : Job) (vl phase : Nat) (l : List (Nat × Nat × List Byte)) (hj : j.isTile = false) :
    TakeUp (stEng e (runOp j vl (unitOf phase l))) 0 e (runOp j vl (unitOf phase l)) 0 (unitOf phase l) := by
  refine ⟨working e j vl _ hj rfl, rfl, fun r hr => ?_, rfl, rfl, by cases e <;> rfl⟩
  simp only [unitOf, List.mem_map] at hr
  obtain ⟨p, -, rfl⟩ := hr
  exact ⟨p.2.2, rfl, rfl⟩
theorem aloneIn (e : Eng) (o : EngOp) : AloneIn (stEng e o) 0 e := by
  intro e' h; cases e <;> cases e' <;> first | rfl | exact absurd rfl h
theorem inPad (s : State) (c va n o : Nat) (h : ∀ b < n, s.spaceOf c (va + b) = some (.sp Config.pkg c (o + b))) : InPad s c va n :=
  fun b hb => ⟨o + b, h b hb⟩

theorem wit_EngineOperationResults_start :
    (let o : EngOp := { opOf (.elem .add .f32 0xFF0000002000 [.strm 0xFF0000001000 .f32, .scal 5]) with vl := 3 }
     MayStart (stEng .vec o) 0 .vec o ∧ InPad (stEng .vec o) 0 0xFF0000001000 (o.vl * sizeOf_ .f32) ∧
       InPad (stEng .vec o) 0 0xFF0000002000 (o.vl * sizeOf_ .f32) ∧
       ∀ va h, ESrc.strm va h ∈ [ESrc.strm 0xFF0000001000 .f32, .scal 5] → va = 0xFF0000001000 ∧ h = .f32) ∧
    (∀ d ∈ [0xFF0000001020, 0xFF0000002000], let o : EngOp := { opOf (.cpy d 0xFF0000001000 0x100) with vl := 0 }
     let s := stEng .copy o
     MayStart s 0 .copy o ∧ o.wait = false ∧
       (s.canonVa 0 0xFF0000001000 < s.canonVa 0 d ∧ s.canonVa 0 d < s.canonVa 0 0xFF0000001000 + 0x100 ↔ d = 0xFF0000001020)) := by
  refine ⟨⟨mayStart _ _ _, inPad _ _ _ _ 0x1000 (by decide +kernel), inPad _ _ _ _ 0x2000 (by decide +kernel), fun va h hm => ?_⟩, fun d hd => ⟨mayStart _ _ _, rfl, ?_⟩⟩
  · simp only [List.mem_cons, ESrc.strm.injEq, List.not_mem_nil, or_false, reduceCtorEq] at hm; exact hm
  · rcases List.mem_cons.1 hd with rfl | h
    · decide +kernel
    · obtain rfl := List.mem_singleton.1 h; decide +kernel

/-- A unit with two reads still to be made, and one with a write, in the own scratchpad and in global memory. -/
def unitReads : EUnit := { unitOf 0 [] with reads := [⟨0, 0xFF0000001000, 64, false, none⟩, ⟨0, 0xFF0000001040, 64, false, none⟩] }
def unitWrites : EUnit := { unitOf 0 [] with loaded := true, writes := [⟨0x5000, leBytes 8 7, some (spKey 0 0 0x200), false⟩] }
theorem wit_EngineOperationResults_lines :
    (let o := runOp (.cpy 0xFF0000002000 0xFF0000001000 128) 0 unitReads
     let s := stEng .copy o
     Working s 0 .copy o 0 unitReads ∧ (toRead unitReads)[1]? = some (1, ⟨0, 0xFF0000001040, 64, false, none⟩) ∧ 2 ≤ (toRead unitReads).length ∧
       LineReady s s 0 o 0xFF0000001040 false false (spKey 0 0 0x1040)) ∧
    (let o := runOp (.cpy 0x5000 0xFF0000001000 8) 0 unitWrites
     let s := { stEng .copy o with tlb := pages }
     Working s 0 .copy o 0 unitWrites ∧ (toWrite unitWrites)[0]? = some (0, ⟨0x5000, leBytes 8 7, some (spKey 0 0 0x200), false⟩) ∧ o.wait = false ∧
       LineReady s s 0 o 0x5000 true false 0x100000) := by
  refine ⟨⟨working _ _ _ _ rfl rfl, rfl, by decide, .inl ⟨0x1040, by decide +kernel, rfl, rfl⟩, rfl, rfl, rfl, by decide +kernel, by decide +kernel, rfl, ?_, rfl⟩,
    working _ _ _ _ rfl rfl, rfl, rfl, .inr ⟨by decide +kernel, ⟨0x100000, 0, false, none, (leafOf 0 0x100000).toNat⟩, by rfl, rfl, rfl⟩, rfl, rfl, rfl,
    by decide +kernel, by decide +kernel, by decide +kernel, ?_, rfl⟩ <;>
  (unfold Sound Safety.MemOk; decide +kernel)

/-- Elements of a few bytes each. -/
def b4 (l : List Nat) : List Byte := l.flatMap (leBytes 4)
/-- Coded tiles of one row of two numbers, and of 32 rows of zeros. -/
def tile2 : List Byte := encodeTile 0 1 2 [0x38, 0xB8]
def tile32 : List Byte :=
  leBytes 8 (0xC8 * 2 ^ 56 + 31 * 2 ^ 47 + 31 * 2 ^ 42 + 680 * 2 ^ 30) ++ (List.replicate 32 ((64 : Byte) :: List.replicate 20 0)).flatten
theorem wit_EngineOperationResults_take :
    (let u := unitOf 0 [(0, 0x1000, b4 [0x3F800000, 0xC0000000, 0])]
     let j : Job := .elem .add .f32 0x2000 [.strm 0x1000 .f32, .scal 5]
     TakeUp (stEng .vec (runOp j 3 u)) 0 .vec (runOp j 3 u) 0 u ∧
       ∃ val : Nat → Nat × BitVec 9, ∀ i < 3, elemWant .add .f32 0 i (srcElem u .f32 [.strm 0x1000 .f32, .scal 5] 0 i)
         (srcElem u .f32 [.strm 0x1000 .f32, .scal 5] 1 i) (srcElem u .f32 [.strm 0x1000 .f32, .scal 5] 2 i) = some (val i)) ∧
    (let u := unitOf 0 [(0, 0x1000, b4 [1, 2])]
     TakeUp (stEng .vec (runOp (.fold true .i32 0x2000 0x1000) 2 u)) 0 .vec (runOp (.fold true .i32 0x2000 0x1000) 2 u) 0 u ∧
       (got u 0).length = 2 * sizeOf_ .i32) ∧
    (let u := unitOf 0 [(0, 0x1000, List.replicate 1024 7)]
     TakeUp (stEng .vec (runOp (.trn .i8 0x2000 0x1000) 1024 u)) 0 .vec (runOp (.trn .i8 0x2000 0x1000) 1024 u) 0 u ∧ (got u 0).length = 1024 * sizeOf_ .i8) ∧
    (let u := unitOf 0 [(0, 0x1000, b4 [1, 2]), (1, 0x1100, b4 [0, 9])]
     let o := { runOp (.cmpr .i32 0x2000 0x1000 0x1100) 2 u with count := some 4 }
     (got u 0).length = 2 * sizeOf_ .i32 ∧ (got u 1).length = 2 * sizeOf_ .i32 ∧ o.count = some 4 ∧
       TakeUp (stEng .vec o) 0 .vec o 0 u) := by
  refine ⟨⟨takeUp _ _ _ _ _ rfl, _, fun i _ => rfl⟩, ⟨takeUp _ _ _ _ _ rfl, by decide +kernel⟩, ⟨takeUp _ _ _ _ _ rfl, by decide +kernel⟩,
    by decide +kernel, by decide +kernel, rfl, ⟨rfl, rfl, rfl, rfl, rfl, rfl, rfl, rfl, rfl, nofun, rfl⟩, rfl, fun r hr => ?_, rfl, rfl, rfl⟩
  simp only [unitOf, List.map_cons, List.map_nil, List.mem_cons, List.not_mem_nil, or_false] at hr
  rcases hr with rfl | rfl <;> exact ⟨_, rfl, rfl⟩
theorem wit_EngineOperationResults_indexed :
    (let u := unitOf 0 [(0, 0x1000, b4 [2])]
     let o := runOp (.gath .i16 false 0x2000 1 0x5000 0x1000) 1 u
     let va := (o.segs[(1 : Fin 8)]).base.toNat + (0x5000 + (BitVec.ofNat 32 (elemIn 4 (got u 0) 0)).signExtend 64 * 2 : Word).toNat
     TakeUp (stEng .vec o) 0 .vec o 0 u ∧ AloneIn (stEng .vec o) 0 .vec ∧ (got u 0).length = o.vl * 4 ∧
       (o.segs[(1 : Fin 8)]).grants (va - (o.segs[(1 : Fin 8)]).base.toNat) 2 ⟨true, false, false⟩ = true ∧ va % 2 = 0 ∧
       (stEng .vec o).rangeSpace 0 va 2 = some .glob) ∧
    (let u := unitOf 1 [(0, 0x1000, b4 [2]), (3, 0x5004, [1, 2])]
     u.phase ≠ 0 ∧ TakeUp (stEng .vec (runOp (.gath .i16 false 0x2000 1 0x5000 0x1000) 1 u)) 0 .vec (runOp (.gath .i16 false 0x2000 1 0x5000 0x1000) 1 u) 0 u) ∧
    (let u := unitOf 0 [(0, 0x1000, b4 [2]), (1, 0x1100, [1, 2])]
     let o := runOp (.scat .i16 1 0x5000 0x1100 0x1000) 1 u
     TakeUp (stEng .vec o) 0 .vec o 0 u ∧ AloneIn (stEng .vec o) 0 .vec ∧ (got u 0).length = o.vl * 4 ∧
       (o.segs[(1 : Fin 8)]).grants 0x5004 2 ⟨false, true, false⟩ = true ∧ (stEng .vec o).rangeSpace 0 0x5004 2 = some .glob) := by
  refine ⟨⟨takeUp _ _ _ _ _ rfl, aloneIn _ _, ?_⟩, ⟨by decide, takeUp _ _ _ _ _ rfl⟩, takeUp _ _ _ _ _ rfl, aloneIn _ _, ?_⟩ <;> decide +kernel
theorem wit_EngineOperationResults_tiles :
    (let u := unitOf 0 [(0, 0x1000, [0x38, 0xB8])]
     let o := runOp (.pack .e4 .e4 1 2 0x2000 0x1000) 2 u
     TakeUp (stEng .vec o) 0 .vec o 0 u ∧ (got u 0).length = 1 * 2 * sizeOf_ .e4) ∧
    (let u := unitOf 1 [(0, 0x1000, tile2.take 8), (3, 0x1008, tile2.drop 8)]
     let o := runOp (.unpk .e4 0x2000 0xFF0000001000 0 0x1000) 2 u
     let len := leNat ((got u 0).take 8) / 2 ^ 30 % 2 ^ 12
     TakeUp (stEng .vec o) 0 .vec o 0 u ∧ u.phase ≠ 0 ∧ AloneIn (stEng .vec o) 0 .vec ∧ 8 ≤ (got u 0).length ∧ 8 < len ∧
       (o.segs[(0 : Fin 8)]).grants 0x1000 len ⟨true, false, false⟩ = true ∧ ((stEng .vec o).rangeSpace 0 0xFF0000001000 len).isSome = true ∧
       decodeTile ((got u 0 ++ got u 3).take len) = some (0, 1, 2, [0x38, 0xB8])) := by
  refine ⟨⟨takeUp _ _ _ _ _ rfl, ?_⟩, takeUp _ _ _ _ _ rfl, by decide, aloneIn _ _, ?_⟩ <;> decide +kernel
theorem wit_EngineOperationResults_copies :
    let u := unitOf 0 [(0, 0x1008, List.replicate 56 7)]
    TakeUp (stEng .copy (runOp (.cpy 0x2008 0x1008 64) 0 u)) 0 .copy (runOp (.cpy 0x2008 0x1008 64) 0 u) 0 u ∧ u.key < lineCount 0x2008 64 ∧
    (got u 0).length = lineHi 0x2008 64 u.key - lineLo 0x2008 u.key ∧
    TakeUp (stEng .copy (runOp (.cpy2 0x2008 0x1008 0) 0 u)) 0 .copy (runOp (.cpy2 0x2008 0x1008 0) 0 u) 0 u ∧
    TakeUp (stEng .copy (runOp (.cpym 0x2008 0x1008 64 [0, 3]) 0 u)) 0 .copy (runOp (.cpym 0x2008 0x1008 64 [0, 3]) 0 u) 0 u :=
  ⟨takeUp _ _ _ _ _ rfl, by decide, by decide +kernel, takeUp _ _ _ _ _ rfl, takeUp _ _ _ _ _ rfl⟩
theorem wit_EngineEvents_start :
    ∀ j ∈ [Job.mma 3 0x1000 0x2000 ⟨.bf16, ⟨false, 0⟩, true, true, 0xFF⟩ 0, .madd 3 4 true, .msta 3 0x1000 .i8 true, .mstc 3 0x1000 true, .mrssq 3 0x1000],
      MayStart (stEng .mat { opOf j with vl := 0 }) 0 .mat { opOf j with vl := 0 } ∧ ((stEng .mat { opOf j with vl := 0 }).core 0).accSynd = [] ∧
      (stEng .mat { opOf j with vl := 0 }).savedOf? (opOf j).who = none := fun _ _ => ⟨mayStart _ _ _, rfl, rfl⟩
theorem wit_EngineEvents_loaded :
    (let u := unitOf 0 [(0, 0x1000, List.replicate 4096 0)]
     TakeUp (stEng .mat (runOp (.mlda 3 0x1000) 0 u)) 0 .mat (runOp (.mlda 3 0x1000) 0 u) 0 u ∧ (got u 0).length = 4096) ∧
    (let u := unitOf 0 [(0, 0x1000, List.replicate 128 0)]
     TakeUp (stEng .mat (runOp (.mscal 3 0x1000) 0 u)) 0 .mat (runOp (.mscal 3 0x1000) 0 u) 0 u ∧ (got u 0).length = 128) := by
  refine ⟨⟨takeUp _ _ _ _ _ rfl, ?_⟩, takeUp _ _ _ _ _ rfl, ?_⟩ <;> decide +kernel
/-- An `MMA` of inputs in this format. -/
def mmaJob (f : MFmt) : Job := .mma 3 0x1000 0x2000 { (⟨.bf16, ⟨false, 0⟩, false, false, 0⟩ : MmaCtl) with fmt := f } 0
/-- Two units of its operands: dense tiles of bytes, and coded tiles. -/
def unitDense : EUnit := unitOf 0 [(0, 0x1000, List.replicate 1024 3), (1, 0x2000, List.replicate 1024 5)]
def unitCoded : EUnit := unitOf 1 [(0, 0x1000, tile32.take 8), (1, 0x2000, tile32.take 8), (3, 0x1008, tile32.drop 8), (4, 0x2008, tile32.drop 8)]
theorem wit_EngineEvents_product :
    TakeUp (stEng .mat (runOp (mmaJob .i8) 0 unitDense)) 0 .mat (runOp (mmaJob .i8) 0 unitDense) 0 unitDense ∧
    AloneIn (stEng .mat (runOp (mmaJob .i8) 0 unitDense)) 0 .mat ∧
    TakeUp (stEng .mat (runOp (mmaJob .c4) 0 unitCoded)) 0 .mat (runOp (mmaJob .c4) 0 unitCoded) 0 unitCoded ∧ unitCoded.phase ≠ 0 :=
  ⟨takeUp _ _ _ _ _ rfl, aloneIn _ _, takeUp _ _ _ _ _ rfl, by decide⟩
theorem wit_EngineEvents_operands :
    (∃ a, mmaOperand .i8 (got unitDense 0) (got unitDense 3) = some a ∧ a.length = (got unitDense 0).length) ∧ (got unitDense 0).length = 1024 ∧
    mmaOperand .c4 (got unitCoded 0) (got unitCoded 3) = some (List.replicate 1024 0) ∧
    got unitCoded 1 = got unitCoded 0 ∧ got unitCoded 4 = got unitCoded 3 :=
  ⟨⟨_, rfl, by rw [List.length_map, List.length_range]⟩, by decide +kernel⟩
theorem wit_EngineEvents_numbers :
    (∀ n i, i < n → IsNum ((mmaFmtOf .c4).value ((List.replicate n 0).getD i 0))) ∧ IsNum (fmt32.value 0x3F800000) := by
  have h : (mmaFmtOf .c4).value 0 = .num false 0 0 false := by decide +kernel
  refine ⟨fun n i hi => ?_, false, 8388608, -23, by decide +kernel⟩
  rw [List.getD_replicate _ hi]; exact ⟨_, _, _, h⟩
/-! ## Handles -/

/-- A thread whose pointers name room in the own scratchpad, two handles and a placement, with budget for one cell. -/
def thH : Thread :=
  { th with a := #v[.of 0x1000, .of 0x7000, .of 0, .of 0, .of 0, .of 0, .of 0, .of 0], g := th.g.set 1 (.of 0x42), sbud := 1 }
/-- A context entry that is LIVE, with an arena of four cells at 0x400000. -/
def entry0 : Nat := 2 ^ 451 + 4 * 2 ^ 128 + 0x400000 * 2 ^ 64
/-- The state with the handle word w at the first place of the handle page. -/
def stH (t : Thread) (w : Nat) : State :=
  { stg t with mem := Memory.writes (Memory.writes mem0 0 (leBytes 64 entry0)) 0x300000 (leBytes 8 w) }
/-- VALUE, POISON and SUSPENDED words. -/
def valW : Nat := handleOf 0 0 1 1 0x5000
def poisonW : Nat := handleOf 3 0 0 0 1
def suspW : Nat := handleOf 1 9 31 31 3

theorem handleAt_of (s : State) (t : Thread) (p : Fin 8) (need : Need) (name w : Nat) (x : Xl)
    (h : (t.segs[p]).grants (t.av p).toNat 8 need = true ∧ (t.segs[p].base.toNat + (t.av p).toNat) % 8 = 0 ∧
      s.spaceOf s.cur.core (t.segs[p].base.toNat + (t.av p).toNat) = some .glob)
    (hp : s.port (quadOf s.cur.core) t.part t.id.ctx.toNat (t.segs[p].base.toNat + (t.av p).toNat) .handle need = (.ok x, s))
    (hx : x.name = name) (hf : s.faultQ = []) (hs : WordAt s t name w) : HandleAt s s t p need name w :=
  ⟨⟨h.1, h.2.1, h.2.2, ⟨x, hp, hx⟩, hf⟩, hs⟩
/-- What the port finds at the handle. -/
def xlH : Xl := ⟨0x300000, 3, false, none, (leafOf 3 0x300000).toNat⟩

theorem handle_r (w : Nat) (hw : w = valW ∨ w = poisonW ∨ w = suspW) :
    HandleAt (stH thH w) (stH thH w) thH 1 ⟨true, false, false⟩ 0x300000 w := by
  rcases hw with rfl | rfl | rfl <;>
  exact handleAt_of _ _ _ _ _ _ xlH (by decide +kernel) (by rfl) rfl rfl (by unfold WordAt Sound Safety.MemOk; decide +kernel)
theorem handle_w (w : Nat) (hw : w = valW ∨ w = poisonW ∨ w = suspW) :
    HandleAt (stH thH w) (stH thH w) thH 1 ⟨false, true, false⟩ 0x300000 w := by
  rcases hw with rfl | rfl | rfl <;>
  exact handleAt_of _ _ _ _ _ _ xlH (by decide +kernel) (by rfl) rfl rfl (by unfold WordAt Sound Safety.MemOk; decide +kernel)
theorem wit_HandleReadResults :
    thH.oar = none ∧ Issues (stH thH valW) thH [.a 1] [.g 3] [31] ∧ Issues (stH thH valW) thH [.a 1] [.g 3] [] ∧ thH.walk = none ∧
    (valW / 2 ^ 58 % 16 ≤ 9 ∧ valW / 2 ^ 62 = 0) ∧
    (poisonW / 2 ^ 62 = 3 ∧ poisonW / 2 ^ 8 % 2 ^ 40 = 0 ∧ poisonW % 256 = 1 ∧ (stH thH poisonW).thread? thH.id = some thH) ∧
    (suspW / 2 ^ 62 = 1 ∧ suspW / 2 ^ 58 % 16 = 9 ∧ suspW / 2 ^ 32 % 2 ^ 16 = 0 ∧ thH.wsp.toNat + 16 ≤ thH.wsl.toNat ∧
      (stH thH suspW).claimOf? 0x300000 = none ∧ (stH thH suspW).waiterFree (bankOf 0x300000) = true ∧
      Apart 0x300000 8 ((stH thH suspW).stackKey thH thH.wsp.toNat) 16) ∧
    Issues (st thH) thH [.a 1] [] [] ∧ (thH.segs[(1 : Fin 8)]).grants (thH.av 1).toNat 8 ⟨true, false, false⟩ = true ∧
    (thH.segs[(1 : Fin 8)].base.toNat + (thH.av 1).toNat) % 8 = 0 := by
  unfold Issues Apart; decide +kernel
theorem tileAt_own (s : State) (t : Thread) (p : Fin 8) (n al : Nat) (need : Need) (c o : Nat)
    (h : (t.segs[p]).grants (t.av p).toNat n need = true ∧ (t.segs[p].base.toNat + (t.av p).toNat) % al = 0 ∧
      s.rangeSpace s.cur.core (t.segs[p].base.toNat + (t.av p).toNat) n = some (.sp Config.pkg c o)) : TileAt s t p n al need :=
  ⟨h.1, h.2.1, .inr ⟨c, o, h.2.2⟩⟩
theorem wit_HandleWriteResults_hval :
    thH.oar = none ∧ thH.drained 0 .pk = true ∧ NotSpark thH ∧ Issues (stH thH valW) thH [.a 1, .a 0] [] [] ∧
    (stH thH valW).grantsTo 0 thH.part (bankOf 0x300000) 0x300000 2 = true ∧ TileAt (stH thH valW) thH 0 4096 4 ⟨true, false, false⟩ ∧
    TileAt (stH thH suspW) thH 0 8 8 ⟨true, false, false⟩ ∧ valW / 2 ^ 62 ∈ [0, 3] ∧ poisonW / 2 ^ 62 ∈ [0, 3] ∧ suspW / 2 ^ 62 ∈ [1, 2] :=
  ⟨rfl, by decide +kernel, nofun, ⟨rfl, rfl, rfl⟩, by decide +kernel, tileAt_own _ _ _ _ _ _ 0 0x1000 (by decide +kernel),
    tileAt_own _ _ _ _ _ _ 0 0x1000 (by decide +kernel), by decide, by decide, by decide⟩
theorem wit_HandleWriteResults_susp :
    let s := stH thH valW
    Issues s thH [.a 1, .a 1, .a 1, .a 0] [] [] ∧ thH.walk = none ∧ WordAt s thH 0x300000 valW ∧ s.grantsTo 0 thH.part (bankOf 0x300000) 0x300000 2 = true ∧
    s.grants (bankOf (s.cellAt thH 0)) thH.part 2 = true ∧
    tileResult (TileOp.cell .tadd).1 (TileOp.cell .tadd).2 ((none : Option TFmt).map tileCode) [valW, valW] = some (0, 2, 2) ∧
    TileAt s thH 0 (placeBytes 0 2 2) (tileAlign 0) ⟨false, true, false⟩ ∧ s.allocCell thH = some 0 ∧
    Apart 0x300000 8 (s.cellAt thH 0) 64 := by
  refine ⟨⟨rfl, rfl, rfl⟩, rfl, ?_, by decide +kernel, by decide +kernel, by decide +kernel,
    tileAt_own _ _ _ _ _ _ 0 0x1000 (by decide +kernel), by decide +kernel, ?_⟩
  · unfold WordAt Sound Safety.MemOk; decide +kernel
  unfold Apart; decide +kernel
theorem wit_HandleWriteResults_apply :
    let s := stH thH poisonW
    Issues s thH [.a 1, .g 1, .a 0, .a 0] [] [] ∧ TileAt s thH 0 1 1 ⟨true, false, false⟩ ∧ TileAt s thH 0 4096 8 ⟨false, true, false⟩ ∧
    (thH.gv 1).getLsbD 0 = false ∧ (thH.gv 1).toNat / 2 % 32 ≠ 0 ∧ (s.core 0).taskCount (min thH.prio 3) < 64 ∧ s.allocCell thH = some 0 ∧
    Apart 0x300000 8 (s.cellAt thH 0) 64 := by
  refine ⟨⟨rfl, rfl, rfl⟩, tileAt_own _ _ _ _ _ _ 0 0x1000 (by decide +kernel), tileAt_own _ _ _ _ _ _ 0 0x1000 (by decide +kernel), ?_⟩
  unfold Apart; decide +kernel
/-- A claimant that evaluates the handle, and its claim. -/
def frame0 : ForceFrame := ⟨0x7000, 0x300000, 0, 3, 0x1000, []⟩
def thFill : Thread := { thH with holds := [⟨0x1010, some ⟨[frame0], [], none, false, none, none⟩, segs, none, []⟩] }
def stFill : State :=
  { stH thFill (handleOf 2 0 0 0 0) with claims := [⟨0, 0x300000, bankOf 0x300000, 3, some (th.id, false), 0, 0, [], []⟩] }
theorem wit_HandleWriteResults_hfill :
    thFill.oar = none ∧ thFill.drained 0 .pk = true ∧ Issues stFill thFill [.a 1] [] [] ∧
    HandleAt stFill stFill thFill 1 ⟨false, true, false⟩ 0x300000 (handleOf 2 0 0 0 0) ∧ stFill.grantsTo 0 thFill.part (bankOf 0x300000) 0x300000 2 = true ∧
    thFill.held = [] ∧ stFill.claimant? 0x300000 = some (thFill.id, false) ∧ frame0.pa = 0x300000 :=
  ⟨rfl, by decide +kernel, ⟨rfl, rfl, rfl⟩,
    handleAt_of _ _ _ _ _ _ xlH (by decide +kernel) (by rfl) rfl rfl (by unfold WordAt Sound Safety.MemOk; decide +kernel),
    by decide +kernel⟩

/-! ## Tasks, draws, messages, groups and launches -/

/-- A launch of this many live threads, and a task. -/
def rec0 : LRec :=
  { depa := 0, sbud := 0, args := 0, sclp := 0, fmtp := 0, count := 10, first := 0, image := 0, depv := 0, roles := 0, lix1 := 1, lix0 := 0
    die1 := 0, die0 := 0, depk := 0, redun := false, mode := false, nslot := 0, prio := 0, ctx := 0, entry := 2 }
def launchOf (n : Nat) : Launch :=
  { part := 0, seq := 0, queue := .host 0 0, r := rec0, tag := 0, len := 64, src := 0, load := [], dispatched := true, blocks := []
    running := true, live := n, chosen := none, err := 0 }
def thTask : Thread := { th with kind := .task 9, g := (th.g.set 1 (.of 9)).set 2 (.of 0x42) }
theorem wit_HaltAndTaskResults :
    (Issues (st th) th [] [] [] ∧ th.oar = none ∧ th.drained 0 .pd = true ∧ th.engOps = [] ∧ th.holds = [] ∧ (st th).outstanding [th.id] = false ∧ th.kind = .launch 0 0 false ∧
      (let s := { st th with launches := [launchOf 1] }; s.launches.find? (fun x => x.part == th.part && x.seq == 0) = some (launchOf 1)) ∧
      (let s := { st th with launches := [launchOf 2] }; s.launches.find? (fun x => x.part == th.part && x.seq == 0) = some (launchOf 2))) ∧
    (Issues (st thTask) thTask [] [] [] ∧ thTask.kind = .task 9) ∧
    (Issues (st thTask) thTask [.g 2, .a 0, .g 1] [] [] ∧ 8 < (thTask.gv 1).toNat) ∧
    (Issues (st thTask) thTask [.g 2, .a 0, .g 3] [] [] ∧ thTask.gv 3 = 0 ∧ thTask.drained 0 .pk = true ∧ (thTask.gv 2).getLsbD 0 = false ∧
      (thTask.gv 2).toNat / 2 % 32 ≠ 0 ∧ ((st thTask).core 0).taskCount (min thTask.prio 3) < 64 ∧
      ∀ x ∈ ((st thTask).core 0).tasks, x.num ≠ (st thTask).nextTag) ∧
    TileAt (st { thTask with a := th.a.set 0 (.of 0x100) }) { thTask with a := th.a.set 0 (.of 0x100) } 0 1 1 ⟨true, false, false⟩ := by
  refine ⟨?_, ?_, ?_, ?_, tileAt_own _ _ _ _ _ _ 0 0x100 (by decide +kernel)⟩ <;> (unfold Issues; decide +kernel)
/-- The core's range unit. -/
def stRange (t : Thread) (lo hi last : Nat) : State := stc { coreOf t with ranges := [⟨0, 0, lo, hi, (0, last, 0, 0)⟩] }
theorem inLaunch_th : InLaunch th 0 := ⟨⟨0, false, rfl⟩, rfl⟩
theorem wit_DrawResults :
    InLaunch th 0 ∧ ((stRange th 3 4 1).core ((stRange th 3 4 1).homeOf th)).marks = [] ∧ (stRange th 3 4 1).homeOf th = 0 ∧
    (Issues (stRange th 3 4 1) th [] [.g 1] [1] ∧ th.carried = none ∧ (stRange th 3 4 1).rangeOf? 0 0 0 = some ⟨0, 0, 3, 4, (0, 1, 0, 0)⟩) ∧
    (Issues (stRange th 4 4 0) th [] [.g 1] [1] ∧ (stRange th 4 4 0).victims 0 ⟨0, 0, 4, 4, (0, 0, 0, 0)⟩ = []) ∧
    (Issues (stRange th 4 4 1) th [] [.g 1] [1] ∧ (stRange th 4 4 1).victims 0 ⟨0, 0, 4, 4, (0, 1, 0, 0)⟩ = [1] ∧
      ∀ x ∈ (stRange th 4 4 1).steals, ¬(x.thief = 0 ∧ x.part = 0 ∧ x.seq = 0)) ∧
    (let t := { th with carried := some (0, 7) }; Issues (stRange t 4 4 1) t [] [.g 1] [1]) ∧
    (let t := { th with carried := some (1, 0) }; Issues (stRange t 4 4 1) t [] [.g 1] [1]) ∧
    (Issues (stRange th 4 4 1) th [] [.g 1] [] ∧ Issues (st thTask) thTask [] [.g 1] [1] ∧ Issues (st thTask) thTask [] [.g 1] []) :=
  ⟨inLaunch_th, by unfold Issues; decide +kernel⟩
/-- A thread with words that name slot 7 of core 3967, and none. -/
def thSend : Thread := { th with g := (th.g.set 1 (.of 0x7F7F)).set 2 (.of 0x7F80) |>.set 3 (.of 0x8000) }
theorem wit_MessageAndBarrierResults :
    (Issues (st thSend) thSend [.g 1, .zr] [.g 4] [] ∧ (∀ m ∈ (st thSend).sends, m.who ≠ thSend.id) ∧ (thSend.gv 1).toNat < 2 ^ 15 ∧
      (thSend.gv 1).toNat % 4096 = 3967 ∧ 3968 ≤ (thSend.gv 2).toNat % 4096 ∧ 2 ^ 15 ≤ (thSend.gv 3).toNat ∧
      Issues (st thSend) thSend [.g 2, .zr] [.g 4] [] ∧ Issues (st thSend) thSend [.g 3, .zr] [.g 4] []) ∧
    (let t := { th with carried := some (3, 0) }; Issues (st t) t [] [.g 3] []) ∧
    (let s := stc { coreOf th with q := #v[[.val 1, .val 2], [], [], []] }
     Issues s th [] [.g 1] [] ∧ s.core 0 = s.core s.cur.core) ∧
    (Issues (st thTask) thTask [] [] [] ∧ Issues (st th) th [] [] [] ∧ (st th).cur.core = (st th).homeOf th ∧ th.drained 0 .pk = true ∧
      ∀ g ∈ (st th).bars, th.id ∉ g.members) ∧
    ((st thAway).cur.core ≠ (st thAway).homeOf thAway ∧ Issues (st thAway) thAway [] [] []) ∧
    (let t := { th with carried := some (4, 0) }; Issues (st t) t [] [] [] ∧ (st t).cur.core = (st t).homeOf t) := by
  unfold Issues; decide +kernel
theorem wit_qcnt_values : ∀ e ∈ (#v[[QEntry.val 1, .val 2], [], [], []] : Vector (List QEntry) 4)[(0 : Fin 4)], ∃ w, e = .val w := by
  intro e h
  have : e = .val 1 ∨ e = .val 2 := by simpa using h
  exact this.elim (fun h => ⟨1, h⟩) (fun h => ⟨2, h⟩)
/-- Two threads of the context on the core; the first asks for a reduction of 0, 1, 2 and 3. -/
def thRed : Thread := { th with g := (th.g.set 1 (.of 1)).set 2 (.of 2) |>.set 3 (.of 3) }
def stRed (t : Thread) : State :=
  stc { coreOf t with slots := (coreOf t).slots.set 1 { Slot.reset with inc := 1, occ := .thread { th with id := ⟨0, 0, 1, 1⟩ } } }
theorem wit_NetworkReductionResults :
    Issues (stRed thRed) thRed [.g 4, .g 0] [.g 5] [31] ∧ NotSpark thRed ∧ thRed.carried = none ∧ (stRed thRed).redns = [] ∧
    (thRed.gv 0).toNat = 0 ∧ (thRed.gv 1).toNat = 1 ∧ thRed.oar = none ∧ thRed.drained 0 .co = true ∧
    (1 < (thRed.gv 2).toNat ∧ (thRed.gv 2).toNat ≤ (stRed thRed).liveIn 0 0 .co 0) ∧
    (1 < (thRed.gv 3).toNat ∧ (stRed thRed).liveIn 0 0 .co 0 < (thRed.gv 3).toNat) ∧
    (let t := { thRed with carried := some (2, 7) }; Issues (stRed t) t [.g 4, .g 2] [.g 5] [31]) ∧
    (let g : RednGroup := ⟨5, 0, 0, .co, 0, .add, 2, [(⟨0, 0, 1, 1⟩, 1, 7), (⟨0, 0, 2, 1⟩, 2, 7)]⟩
     let s := { stRed thRed with redns := [g] }
     (∀ g ∈ s.redns, ∀ m ∈ g.members, m.1 ≠ thRed.id) ∧ g ∈ s.redns ∧ g.part = thRed.part ∧ g.ctx = thRed.id.ctx.toNat ∧ g.scope = .co ∧
       g.unit = unitNo .co s.cur.core ∧ g.op = .add ∧ g.count ≤ g.members.length ∧ Issues s thRed [.g 4, .g 2] [.g 5] [31] ∧
       2 ≤ s.liveIn 0 0 .co 0) :=
  ⟨⟨rfl, rfl, rfl⟩, nofun, by unfold Issues; decide +kernel⟩
/-- A thread whose pointer names a record of context c in the own scratchpad. -/
def thLaunch : Thread := { th with a := th.a.set 0 (.of 0x1000) }
def stLaunch (c : Nat) : State := { st thLaunch with mem := Memory.writes mem0 (spKey 0 0 0x1000) (leBytes 64 (c * 2 ^ 19 + 2)) }
theorem wit_LaunchResults :
    Issues (stLaunch 0) thLaunch [.a 0] [.g 1] [] ∧ NotSpark thLaunch ∧ thLaunch.prio ≤ 3 ∧ thLaunch.oar = none ∧ thLaunch.drained 0 .pk = true ∧
    (thLaunch.segs[(0 : Fin 8)]).grants (thLaunch.av 0).toNat 64 ⟨true, false, false⟩ = true ∧
    (thLaunch.segs[(0 : Fin 8)].base.toNat + (thLaunch.av 0).toNat) % 64 = 0 ∧
    (stLaunch 0).spaceOf 0 (thLaunch.segs[(0 : Fin 8)].base.toNat + (thLaunch.av 0).toNat) = some (.sp Config.pkg 0 0x1000) ∧
    ((stLaunch 0).core 0).xb.toNat ≤ 0x1000 ∧
    (stLaunch 0).hallHit 0 (thLaunch.segs[(0 : Fin 8)].base.toNat + (thLaunch.av 0).toNat) 64 false = false ∧ Sound (stLaunch 0) ∧
    (∀ c < 2, (stLaunch c).cacheBad = [] ∧ (stLaunch c).lineAhead 0 thLaunch.id (lineOf (spKey 0 0 0x1000)) = false) ∧
    (stLaunch 0).rawNat (spKey 0 0 0x1000) 64 / 2 ^ 19 % 2 ^ 12 = thLaunch.id.ctx.toNat ∧
    ((stLaunch 0).devQ.filter (fun x => x.1 == 0)).length < 16 ∧
    Issues (stLaunch 1) thLaunch [.a 0] [.g 1] [] ∧ Sound (stLaunch 1) ∧
    (stLaunch 1).rawNat (spKey 0 0 0x1000) 64 / 2 ^ 19 % 2 ^ 12 ≠ thLaunch.id.ctx.toNat :=
  ⟨⟨rfl, rfl, rfl⟩, nofun, by unfold Sound Safety.MemOk Issues; decide +kernel⟩
/-! ## Privileged instructions -/

/-- Two supervisor threads' core: slot 0, and a READY user thread in slot 1 beside it. -/
def th1 : Thread := { th with id := ⟨0, 0, 1, 1⟩ }
def core2 (t u : Thread) : Core := { coreOf t with slots := (coreOf t).slots.set 1 { Slot.reset with inc := 1, occ := .thread u } }
/-- A supervisor thread whose pointer names offset 0x1000 of its scratchpad. -/
def thP : Thread := { thSup with a := th.a.set 0 (.of 0x1000), g := (th.g.set 1 (.of 1)).set 2 (.of 7) }
def withG (a b c : Word) : Thread := { thP with g := ((th.g.set 1 (.of a)).set 2 (.of b)).set 3 (.of c) }

theorem wit_Idle :
    thP.mode = true ∧
    (let s := stc { coreOf thP with slots := (coreOf thP).slots.set 0 { Slot.reset with occ := .thread thP, bell := true } }
     Issues s thP [] [] [] ∧ (s.slot 0 s.cur.slot).bell = true) := by
  unfold Issues; decide +kernel
theorem wit_Ctxsv :
    (Issues (stc (core2 thP th1)) thP [.g 1, .a 0] [.g 3] [] ∧ thP.carried = none ∧ thP.oar = none ∧ (thP.gv 1).toNat < 8 ∧
      OwnBlock (stc (core2 thP th1)) thP 0 0x1000 true ∧ (stc (core2 thP th1)).threadAt 0 (Fin.ofNat 8 (thP.gv 1).toNat) = some th1 ∧
      th1.id ≠ thP.id ∧ th1.status = .ready ∧ th1.answered = false ∧ th1.oar = none ∧ th1.drained 0 .pd = true ∧ th1.lead = false ∧ th1.unsound = false ∧
      (stc (core2 thP th1)).badRecv th1 = false) ∧
    (Issues (stc (core2 thP th1)) thP [.g 2, .a 0] [.g 3] [] ∧ (thP.gv 2).toNat = 7 ∧ (stc (core2 thP th1)).threadAt 0 7 = none) ∧
    (Fin.ofNat 8 (thP.gv 0).toNat = (stc (core2 thP th1)).cur.slot) := by
  unfold Issues OwnBlock; decide +kernel
/-- A save block of a thread of context 0 at home on core 0 in slot 2, at offset 0x1000, with a LIVE context. -/
def stBlock : State :=
  { stc (coreOf thP) with
    mem := Memory.writes (Memory.writes mem0 0 (leBytes 64 entry0)) (spKey 0 0 0x1000)
      ((stc (coreOf thP)).blockOf { th with id := ⟨0, 0, 2, 1⟩ } [] 0 0) }
theorem wit_Ctxld :
    Issues stBlock thP [.g 2, .a 0] [.g 3] [] ∧ thP.oar = none ∧ (thP.gv 2).toNat < 8 ∧ OwnBlock stBlock thP 0 0x1000 false ∧ Sound stBlock ∧ stBlock.cacheBad = [] ∧
    (∀ i < 8, stBlock.lineAhead 0 thP.id (lineOf (spKey 0 0 (0x1000 + 64 * i))) = false) ∧
    (stBlock.centry thP.part (blockId (stBlock.raw (spKey 0 0 0x1000) 512)).ctx.toNat).testBit 451 = true ∧
    (blockId (stBlock.raw (spKey 0 0 0x1000) 512)).hcore.toNat < 3968 ∧ (blockId (stBlock.raw (spKey 0 0 0x1000) 512)).hslot = 2 ∧
    (stBlock.slot 0 (Fin.ofNat 8 (thP.gv 2).toNat)).occ = .free ∧
    BitVec.ofNat 16 (blockField (stBlock.raw (spKey 0 0 0x1000) 512) 216 8 / 2 ^ 25) = (stBlock.core 0).itag ∧
    stBlock.threadAt 0 (Fin.ofNat 8 (thP.gv 0).toNat) ≠ none := by
  unfold Issues OwnBlock Sound Safety.MemOk; decide +kernel
theorem wit_Tlbinv :
    Issues (st thP) thP [] [] [] ∧ Issues (st thP) thP [.g 1] [] [] ∧ thP.carried = none ∧ thP.oar = none ∧ thP.drained 0 .pk = true ∧
    (let t := { thP with carried := some (9, 0) }; Issues (st t) t [] [] [] ∧ Issues (st t) t [.g 1] [] []) := by
  unfold Issues; decide +kernel
theorem wit_Diag :
    (let t := withG 0x3FFE 7 1
     Issues (st t) t [.g 1, .g 2, .g 3] [] [] ∧ Issues (st t) t [.g 1] [.g 4, .g 3] [] ∧ t.oar = none ∧ (t.gv 1).toNat < 2 ^ 14 ∧
       (t.gv 1).toNat % 2 = 0) ∧
    (let t := withG 0x80000005FFF8 7 1
     Issues (st t) t [.g 1, .g 2, .g 3] [] [] ∧ Issues (st t) t [.g 1] [.g 4, .g 3] [] ∧
       (st t).spaceOf 0 (t.gv 1).toNat = some (.sp Config.pkg 0 0x5FFF8) ∧ (t.gv 1).toNat % 8 = 0 ∧ 0x800000000000 ≤ (t.gv 1).toNat ∧
       (t.gv 1).toNat < 0x802000000000) := by
  unfold Issues; decide +kernel
/-- Rectangle words: all of die 7, a word outside R280's range, and die 0 where the thread runs. -/
theorem wit_Detain :
    (let t := withG 0x1C67 0 0
     Issues (st t) t [.g 1] [.g 4] [] ∧ RectOk (t.gv 1).toNat ∧ inRect (t.gv 1).toNat 0 = false ∧
       ((st t).rights 2 ((t.gv 1).toNat % 8) t.part).getLsbD 4 = true ∧ t.carried = none ∧
       (∀ e ∈ (st t).detentions, e.stage ≠ 0 → rectsMeet e.rect (t.gv 1).toNat = false) ∧
       (let e : Detention := ⟨5, none, 0, 0x1C67, 1, 0, 0⟩
        e.stage ≠ 0 ∧ rectsMeet e.rect (t.gv 1).toNat = true ∧ inRect e.rect 0 = false)) ∧
    (let t := { withG 0x0067 0 0 with id := ⟨0, 1, 0, 1⟩ }
     let e : Detention := ⟨5, none, 0, 0x1C67, 1, 0, 0⟩
     let s := { stc Core.reset with cores := [(3600, { coreOf t with xb := 0x80 })], cur := ⟨3600, 0⟩, detentions := [e], mem := mem0 }
     Issues s t [.g 1] [.g 4] [] ∧ RectOk (t.gv 1).toNat ∧ inRect (t.gv 1).toNat 3600 = false ∧ t.carried = none ∧ e.stage ≠ 0 ∧
       rectsMeet e.rect (t.gv 1).toNat = true ∧ inRect e.rect 3600 = true ∧ (s.rights 2 ((t.gv 1).toNat % 8) t.part).getLsbD 4 = true) ∧
    (let t := withG 0x2000 0 0; Issues (st t) t [.g 1] [.g 4] [] ∧ ¬RectOk (t.gv 1).toNat) ∧
    (let t := withG 0x1C60 0 0; Issues (st t) t [.g 1] [.g 4] [] ∧ inRect (t.gv 1).toNat 0 = true) ∧
    (let t := { thP with carried := some (8, 0) }; Issues (st t) t [.g 1] [.g 4] []) := by
  unfold Issues RectOk; decide +kernel
theorem wit_Lmapw :
    (let t := withG 3967 4095 0
     Issues (st t) t [.g 1, .g 2] [.g 4] [] ∧ (t.gv 1).toNat < 3968 ∧ (t.gv 2).toNat < 4096 ∧ (t.gv 2).toNat / 512 = (t.gv 1).toNat / 496 ∧
       ((st t).rights 2 ((t.gv 1).toNat / 496) t.part).getLsbD 4 = true ∧ (t.gv 2).toNat ≠ (st t).physOf (t.gv 1).toNat ∧
       (st t).logOf? (t.gv 2).toNat = none ∧ (st t).coreIdle ((st t).physOf (t.gv 1).toNat) = true ∧ (st t).coreIdle (t.gv 2).toNat = true) ∧
    (let t := withG 5 5 0; Issues (st t) t [.g 1, .g 2] [.g 4] [] ∧ (t.gv 2).toNat = (st t).physOf (t.gv 1).toNat ∧ ((st t).core 5).scan = none ∧
       ((({ st t with cores := (5, { Core.reset with scan := some ⟨none, 4, 0, none⟩ }) :: (st t).cores } : State)).core 5).scan ≠ none) ∧
    (let t := withG 5 6 0; Issues (st t) t [.g 1, .g 2] [.g 4] [] ∧ (t.gv 2).toNat ≠ (st t).physOf (t.gv 1).toNat ∧
       (st t).logOf? (t.gv 2).toNat ≠ none) := by
  unfold Issues; decide +kernel
theorem wit_Scant :
    (let t := withG 3967 0 0
     Issues (st t) t [.g 1] [.g 4] [] ∧ t.carried = none ∧ (t.gv 1).toNat < 3968 ∧ ((st t).rights 2 ((t.gv 1).toNat / 496) t.part).getLsbD 4 = true ∧
       (st t).physOf (t.gv 1).toNat ≠ 0 ∧ (st t).coreIdle ((st t).physOf (t.gv 1).toNat) = true ∧ Issues (st t) t [.g 2] [.g 4] [] ∧
       (st t).physOf (t.gv 2).toNat = 0) ∧
    (let t := { thP with carried := some (6, 1) }; Issues (st t) t [.g 1] [.g 4] []) ∧
    Issues (st thP) thP [] [] [] ∧ thP.carried = none ∧ (let t := { thP with carried := some (7, 0) }; Issues (st t) t [] [] []) := by
  unfold Issues; decide +kernel
/-- The word of slot 1 of core 0, and of a free slot; that slot's thread may be doomed, or on its way to core 1. -/
theorem wit_Targets :
    (let t := withG 0x1000 0x7F7F 0
     let s := stc (core2 t { th1 with prio := 3 })
     Issues s t [.g 1] [.g 4] [] ∧ MayTarget s t (t.gv 1).toNat ∧ s.target? (t.gv 1).toNat = some { th1 with prio := 3 } ∧ th1.id ≠ t.id ∧
       s.placeOf? th1.id ≠ none ∧ Issues s t [.g 2] [.g 4] [] ∧ MayTarget s t (t.gv 2).toNat ∧ s.target? (t.gv 2).toNat = none ∧ th1.doomed = false ∧ th1.pending = none ∧
       s.thread? th1.id = some { th1 with prio := 3 }) ∧
    (let t := withG 0x1000 0 0
     let u := { th1 with pending := some .kill }
     let s := stc (core2 t u)
     Issues s t [.g 1] [.g 4] [] ∧ MayTarget s t 0x1000 ∧ s.target? 0x1000 = some u ∧ u.doomed = true) ∧
    (let t := withG 0x1000 0 0
     let k := { coreOf t with slots := (coreOf t).slots.set 1 { Slot.reset with inc := 1, occ := .away th1.id 0 0 false } }
     let s := { stc k with migs := [⟨5, th1, 1, 0⟩] }
     Issues s t [.g 1] [.g 4] [] ∧ MayTarget s t 0x1000 ∧ s.target? 0x1000 = some th1 ∧ th1.doomed = false ∧ s.placeOf? th1.id = none ∧
       s.thread? th1.id = some th1) ∧
    (let t := withG 0x1000 0 0; Issues (stc (core2 t th1)) t [.g 1] [.g 4] [] ∧ (stc (core2 t th1)).target? 0x1000 = some th1 ∧ th1.prio = 0) := by
  unfold Issues MayTarget; decide +kernel
theorem wit_Matw :
    let t := withG 0x300F 15 0x1F
    Issues (st t) t [.g 1, .g 2, .g 3] [.g 4] [] ∧ (t.gv 1).toNat < 2 ^ 14 ∧
    (t.gv 1).toNat % 4096 < [96, 16, 8, 16].getD ((t.gv 1).toNat / 4096) 0 ∧ (t.gv 2).toNat < 16 ∧ (t.gv 3).toNat < 32 ∧
    ((st t).rights ((t.gv 1).toNat / 4096) ((t.gv 1).toNat % 4096) t.part).getLsbD 4 = true := by
  unfold Issues; decide +kernel

/-! ## What reaches a core -/

def thWaits : Thread := { th with status := .parked (.task) }
def thDropped : Thread := { th with status := .dropped 4 true }
def thAttends : Thread := { th with status := .parked (.attend 0x1000) }
theorem wit_Wakes :
    (let s := { st thWaits with wakes := [⟨5, th.id, .inl .task⟩] }
     s.wakeNext ⟨5, th.id, .inl .task⟩ 0 = true ∧ s.wakes.find? (fun x => x.tag == 5) = some ⟨5, th.id, .inl .task⟩ ∧ s.placeOf? th.id = some (0, 0) ∧ s.threadAt 0 0 = some thWaits ∧
       s.fenced 0 = false ∧ thWaits.status = .parked .task) ∧
    (let s := { st thDropped with wakes := [⟨5, th.id, .inr 4⟩] }
     s.wakes.find? (fun x => x.tag == 5) = some ⟨5, th.id, .inr 4⟩ ∧ s.placeOf? th.id = some (0, 0) ∧ s.threadAt 0 0 = some thDropped ∧
       thDropped.status = .dropped 4 true) ∧
    (let s := { st thAttends with wakes := [⟨5, th.id, .inl (.attend 0x1000)⟩] }
     s.wakeNext ⟨5, th.id, .inl (.attend 0x1000)⟩ 0 = true ∧ s.wakes.find? (fun x => x.tag == 5) = some ⟨5, th.id, .inl (.attend 0x1000)⟩ ∧ s.placeOf? th.id = some (0, 0) ∧
       s.threadAt 0 0 = some thAttends ∧ thAttends.status = .parked (.attend 0x1000)) ∧
    th.status.waits .task = false ∧
    (let w : Wake := ⟨5, th.id, .inl (.watch 0x1000)⟩
     let s := { st thWaits with wakes := [⟨4, th.id, .inl (.watch 0x1000)⟩, w] }
     s.wakes.find? (fun x => x.tag == 5) = some w ∧ s.wakeNext w 0 = false) := by decide +kernel
def depTo (slot : Fin 8) : Deposit := ⟨5, none, 0, slot, 3, 7, some (0, 7), 0, 0⟩
/-- The core with this many deposits in its buffer. -/
def coreDep (n : Nat) : Core := { coreOf th with depBuf := List.replicate n { depTo 0 with tag := 9, who := some th.id } }
theorem wit_Deposits :
    (let s := { stc (coreDep 3) with deps := [depTo 0] }
     s.deps.find? (fun x => x.tag == 5) = some (depTo 0) ∧ s.fenced (s.physOf 0) = false ∧ (s.slot 0 0).occ = .thread th ∧
       (depTo 0).src.all (fun x => s.chanFirst x.1 (depTo 0).lcore (depTo 0).tag) = true ∧
       th.part = (depTo 0).part ∧ th.id.ctx.toNat = (depTo 0).ctx ∧ (s.core 0).depBuf.length = 3) ∧
    (let s := { stc (coreDep 3) with deps := [{ depTo 0 with tag := 4 }, depTo 0] }
     s.deps.find? (fun x => x.tag == 5) = some (depTo 0) ∧
       (depTo 0).src.all (fun x => s.chanFirst x.1 (depTo 0).lcore (depTo 0).tag) = false) ∧
    (let s := { stc (coreDep 4) with deps := [depTo 0] }; (s.slot 0 0).occ = .thread th ∧ 4 ≤ (s.core 0).depBuf.length) ∧
    (let s := { stc (coreDep 0) with deps := [depTo 1] }
     s.deps.find? (fun x => x.tag == 5) = some (depTo 1) ∧ (s.slot 0 1).occ = .free ∧ (s.slot 0 1).left = none) ∧
    (let s := { st th with deps := [depTo 1], cores := [(0, { Core.reset with slots := Core.reset.slots.set 1 { Slot.reset with occ := .away th1.id 0 0 false } }),
       (1, { Core.reset with slots := Core.reset.slots.set 7 { Slot.reset with occ := .thread th1 } })] }
     (s.slot 0 1).occ = .away th1.id 0 (depTo 1).part false ∧ th1.id.ctx.toNat = (depTo 1).ctx ∧ s.placeOf? th1.id = some (1, 7) ∧
       s.fenced 1 = false ∧ (s.core 1).depBuf.length < 4) := by decide +kernel
def landed0 : Deposit := { depTo 0 with who := some th.id }
def thEmpty : Thread := { th with g := th.g.set 3 ⟨0, false, none, false⟩ }
theorem wit_Lands :
    (let s := stc { coreOf thEmpty with depBuf := [landed0] }
     (s.core 0).depBuf.find? (fun x => x.tag == 5) = some landed0 ∧ landed0.who = some thEmpty.id ∧ s.placeOf? thEmpty.id = some (0, 0) ∧
       s.threadAt 0 0 = some thEmpty ∧ s.fenced 0 = false ∧ firstFor landed0 (s.core 0).depBuf = true ∧ (s.core 0).marks = [] ∧
       (thEmpty.cell (regOfCode landed0.code)).full = false ∧ (thEmpty.cell (regOfCode landed0.code)).pend = none ∧
       thEmpty.emptied ≠ some (landed0.code, s.time.toNat)) ∧
    (let t := { thEmpty with emptied := some (3, 0) }
     t.emptied = some (landed0.code, (stc (coreOf t)).time.toNat)) ∧
    (th.cell (regOfCode landed0.code)).full = true := by decide +kernel
def send0 (slot : Fin 8) : SendMsg := ⟨5, th1.id, 0, 0, slot, 7, 0, false⟩
/-- The receiver in slot 0 has n values, the sender stands in slot 1. -/
def stSend (slot : Fin 8) (n : Nat) : State :=
  { stc { core2 th th1 with slots := (core2 th th1).slots.set 0 { Slot.reset with occ := .thread th, rq := List.replicate n 0 } } with
    sends := [send0 slot] }
theorem wit_Messages :
    ((stSend 0 15).sends.find? (fun x => x.tag == 5) = some (send0 0) ∧ (stSend 0 15).fenced ((stSend 0 15).physOf 0) = false ∧
      (stSend 0 15).thread? th1.id = some th1 ∧ (stSend 0 15).pairHeld (send0 0).src 5 = false ∧ (send0 0).there = false ∧
      (stSend 0 15).chanFirst (send0 0).src (send0 0).lcore 5 = true ∧ (stSend 0 15).placeOf? th1.id = some (0, 1) ∧
      ((stSend 0 15).slot 0 0).occ = .thread th ∧ th.part = (send0 0).part ∧
      th.id.ctx = th1.id.ctx ∧ ((stSend 0 15).slot 0 0).rq.length = 15) ∧
    (16 ≤ ((stSend 0 16).slot 0 0).rq.length ∧ th1.spare = false ∧ (stSend 0 16).thread? th1.id = some th1) ∧
    ({ stSend 0 15 with sends := [{ send0 0 with tag := 4 }, send0 0] }.chanFirst 0 0 5 = false) ∧
    (((stSend 7 0).slot 0 7).occ = .free ∧ (stSend 7 0).thread? th1.id = some th1) := by decide +kernel
/-- A thread of core 0 on its way: home, or to core 1, whose buffer holds n threads. -/
def stMig (dest : Nat) (n : Nat) : State :=
  { State.reset with
    cores := [(0, { Core.reset with slots := Core.reset.slots.set 0 { Slot.reset with occ := .away th.id 0 0 false } }),
      (1, { Core.reset with migBuf := List.replicate n (th1, 0) })]
    migs := [⟨5, th, dest, 1⟩] }
theorem wit_Migrations :
    ((stMig 0 0).migs.find? (fun x => x.tag == 5) = some ⟨5, th, 0, 1⟩ ∧ (stMig 0 0).migDropped ⟨5, th, 0, 1⟩ = false ∧ (stMig 0 0).chanFirst 1 0 5 = true ∧
      ({ stMig 0 0 with deps := [{ depTo 0 with tag := 4, src := some (1, 7) }] } : State).chanFirst 1 0 5 = false ∧ (stMig 0 0).shut ((stMig 0 0).physOf 0) = false ∧
      ((stMig 0 0).slot 0 0).occ = .away th.id 0 0 false ∧ (stMig 0 0).physOf 0 = (stMig 0 0).homeOf th ∧
      th.tag = ((stMig 0 0).core 0).itag ∧ SegsRead (stMig 0 0) 0 0 false) ∧
    ((stMig 1 3).physOf 1 ≠ (stMig 1 3).homeOf th ∧ ((stMig 1 3).core 1).migBuf.length = 3 ∧ (stMig 1 3).shut 1 = false) ∧
    ((stMig 1 4).physOf 1 ≠ (stMig 1 4).homeOf th ∧ 4 ≤ ((stMig 1 4).core 1).migBuf.length ∧ (stMig 1 4).shut 1 = false) := by
  unfold SegsRead Sound Safety.MemOk; decide +kernel

/-! ## Slots, tasks and steals -/

def desc0 : Desc :=
  { num := 9, itag := 0, origin := 0, sbud := 0, cds := 0, handle := 0, sclp := 0, fmtp := 0, restart := 0, args := 0x100, depc := 0
    applyt := false, state := 1, prio := 0, ctx := 0, entry := 2, redun := none }
theorem wit_SlotFill :
    (let s := stc { Core.reset with migBuf := [(th, 1)] }
     s.shut 0 = false ∧ (s.slot 0 0).occ = .free ∧ (s.core 0).saved = [] ∧ (s.core 0).marks = [] ∧ (s.core 0).migBuf = [(th, 1)] ∧
       s.slotsCtx 0 = none ∧ th.tag = (s.core 0).itag ∧ SegsRead s 0 0 false) ∧
    (let s := stc { Core.reset with tasks := [desc0], lastCtx := some (0, 0) }
     s.shut 0 = false ∧ (s.slot 0 7).occ = .free ∧ (s.core 0).migBuf = [] ∧ s.nextTask 0 = some desc0 ∧ desc0.redun = none ∧
       SegsRead s (s.partOf 0) 0 (entSupv (s.centry (s.partOf 0) 0))) ∧
    (let s := stc { Core.reset with sparks := [(0, 0x7000)], lastCtx := some (0, 0) }
     s.shut 0 = false ∧ (s.core 0).migBuf = [] ∧ (s.core 0).tasks = [] ∧ s.workCtx 0 = some (0, 0) ∧ (s.core 0).sparks = [(0, 0x7000)] ∧
       SegsRead s (s.partOf 0) 0 (entSupv (s.centry (s.partOf 0) 0))) := by
  unfold SegsRead Sound Safety.MemOk; decide +kernel
theorem headed (n : Nat) : ∀ l : List Nat, l.head? = some n → ∃ r, l = [] ++ n :: r
  | [], h => nomatch h
  | _ :: r, h => ⟨r, by simpa using h⟩
theorem wit_TaskSteal :
    let s : State := { State.reset with cores := [(0, { Core.reset with lastCtx := some (0, 0) }), (1, { Core.reset with tasks := [desc0] })] }
    s.shut 0 = false ∧ s.shut 1 = false ∧ s.partOf 1 = s.partOf 0 ∧ (s.slot 0 0).occ = .free ∧ (s.core 0).saved = [] ∧ s.nextTask 0 = none ∧
    (s.core 1).marks = [] ∧ (s.core 1).tasks.find? (s.startable 0) = some desc0 ∧ (s.core 0).taskCount desc0.prio.toNat < 64 ∧
    ∃ after, (s.tryOrder (s.logOf 0) (List.range 3968)).map s.physOf = [] ++ 1 :: after := by
  refine ⟨by decide +kernel, by decide +kernel, by decide +kernel, by decide +kernel, by decide +kernel, by decide +kernel, by decide +kernel,
    by decide +kernel, by decide +kernel, headed _ _ (by decide +kernel)⟩
def steal0 : Steal := ⟨5, [th.id], 0, 0, 0, 1, [2], none⟩
/-- The victim's unit holds these indices. -/
def stSteal (x : Steal) (lo hi : Nat) : State :=
  { State.reset with
    cores := [(0, { coreOf th with ranges := [⟨0, 0, 3, 3, (0, 2, 0, 0)⟩] }), (1, { Core.reset with ranges := [⟨0, 0, lo, hi, (0, 2, 0, 0)⟩] })]
    steals := [x] }
theorem wit_Steals :
    ((stSteal steal0 4 6).steals.find? (fun y => y.tag == 5 && y.reply.isNone) = some steal0 ∧ (stSteal steal0 4 6).physOf 1 = 1 ∧
      (stSteal steal0 4 6).fenced 1 = false ∧ ((stSteal steal0 4 6).core 1).marks = [] ∧ (stSteal steal0 4 6).rangeOf? 1 0 0 = some ⟨0, 0, 4, 6, (0, 2, 0, 0)⟩) ∧
    ((stSteal steal0 4 5).rangeOf? 1 0 0 = some ⟨0, 0, 4, 5, (0, 2, 0, 0)⟩) ∧
    (let s := stSteal steal0 4 6
     let u := { s with cores := (1, { s.core 1 with scan := some ⟨none, 4, 0, none⟩ }) :: s.cores }
     ((stSteal steal0 4 6).core 1).scan = none ∧ (u.core 1).scan ≠ none ∧ u.fenced 1 = false) ∧
    (let x := { steal0 with reply := some (some (5, 6)) }
     (stSteal x 4 5).steals.find? (fun y => y.tag == 5) = some x ∧ (stSteal x 4 5).fenced 0 = false ∧
       (stSteal x 4 5).rangeOf? 0 0 0 = some ⟨0, 0, 3, 3, (0, 2, 0, 0)⟩ ∧ (stSteal x 4 5).thread? th.id = some th) ∧
    (let x := { steal0 with reply := some none }; (stSteal x 4 5).steals.find? (fun y => y.tag == 5) = some x ∧ x.left = [2]) ∧
    (let x := { steal0 with reply := some none, left := [] }
     (stSteal x 4 5).steals.find? (fun y => y.tag == 5) = some x ∧ (stSteal x 4 5).thread? th.id = some th) := by decide +kernel
/-! ## Launch records and dispatch -/

/-- A queue of partition 0 with its ring and its status at these addresses. -/
def queue0 (tail : BitVec 32) : HostQ := ⟨0x100000, 0x200000, 4, tail, 0⟩
/-- A READY module with that queue 0, whose last sequence number is 6. -/
def stQ (tail : BitVec 32) (m : Memory) : State :=
  { State.reset with bustat := 0x500, parts := [(0, { Part.reset with queues := [(0, queue0 tail)], seq := some 6 })], mem := m }
/-- A LIVE context 0 whose table maps its first GiB to 0x40000000 with R, W and X, and an image of one line there. -/
def memImage : Memory :=
  Memory.writes (Memory.writes (Memory.writes (Memory.writes (Memory.writes [] 0 (leBytes 64 entry0)) 0x10000 (leBytes 8 0x110001))
    0x11000 (leBytes 8 0x400000C0F)) 0x40000000 (leBytes 16 (0x40 * 2 ^ 64 + 5 * 2 ^ 48 + 0x40))) 0x40000040 (leBytes 8 7)
/-- That module, with the context's root and a record at the head of the queue. -/
def stRec (w : Nat) : State :=
  { stQ 1 (Memory.writes memImage 0x100000 (leBytes 64 w)) with ctxs := [⟨0, 0, 0, [], [], 0, 0, none, 0x10000, false⟩] }
theorem wit_LaunchRecordResults_tail :
    (stQ 0 []).bustat = 0x500 ∧ (0x300 : BitVec 16).toNat % 256 = 0 ∧ (0x300 : BitVec 16).toNat / 256 ≠ 5 ∧
    ((stQ 0 []).rights 3 0 0).getLsbD 1 = true ∧
    (let s := { stQ 0 [] with acl := [((3, 0, 0), 0)] }
     s.bustat = 0x500 ∧ (s.rights 3 0 0).getLsbD 1 = false ∧ MayPost s 0) ∧
    ((16 : BitVec 32) - ((stQ 0 []).partn 0 |>.queue 0).head).toNat = 2 ^ ((stQ 0 []).partn 0 |>.queue 0).size ∧
    2 ^ ((stQ 0 []).partn 0 |>.queue 0).size < ((17 : BitVec 32) - ((stQ 0 []).partn 0 |>.queue 0).head).toNat ∧
    ((stQ 0 []).partn 0 |>.queue 0).head = ((stQ 0 []).partn 0 |>.queue 0).tail := by unfold MayPost; decide +kernel
theorem wit_LaunchRecordResults_take :
    (∀ w ∈ [2, 2 ^ 511 + 2], let s := stRec w
      ((s.partn 0).queue 0).head ≠ ((s.partn 0).queue 0).tail ∧ (s.lineQ 0x100000).holder = none ∧ s.recordBusy 0 w = false ∧ (s.partn 0).seq = some 6 ∧ Sound s ∧ s.cacheBad = [] ∧ isDram 0x100000 = true ∧
      s.grants (bankOf 0x100000) 0 1 = true ∧ s.grants (bankOf 0x200000) 0 2 = true ∧ s.rawNat 0x100000 64 = w) ∧
    (((stRec 2).newSeq 0).2.recordStatus 0 2).1 = 0 ∧ (((stRec 0).newSeq 0).2.recordStatus 0 (2 ^ 511 + 2)).1 ≠ 0 := by
  unfold Sound Safety.MemOk; decide +kernel
def devRec (w : Nat) : DevRec := ⟨0, 7, leBytes 64 w, 0, 0⟩
def stDev (w : Nat) : State := { stRec 0 with devQ := [(3, devRec w)] }
theorem wit_LaunchRecordResults_device :
    (∀ w ∈ [2, 3 * 2 ^ 38 + 2], (stDev w).devQ.find? (fun x => x.1 == 3) = some (3, devRec w) ∧
      (stDev w).recordBusy 0 (leNat (devRec w).bytes) = false) ∧
    (let s := { stDev 2 with lines := [⟨0x11000, some ⟨th.id, 1, true, 0⟩, [], [], [], [], 0⟩] }
     s.devQ.find? (fun x => x.1 == 3) = some (3, devRec 2) ∧ s.recordBusy 0 (leNat (devRec 2).bytes) = true) ∧
    ((stDev 2).recordStatus 0 (leNat (devRec 2).bytes)).1 = 0 ∧ ((stDev 0).recordStatus 0 (leNat (devRec (3 * 2 ^ 38 + 2)).bytes)).1 ≠ 0 ∧
    (2 ^ 511 : Nat).testBit 511 = true ∧ 3 * 2 ^ 38 / 2 ^ 38 % 4 = 3 ∧ recordBad 2 = false ∧
    (State.reset.centry 0 0).testBit 451 = false ∧ MayPost (stDev 0) 0 := by unfold MayPost; decide +kernel
/-- A launch of cores 0 and 1 that waits, at this priority; two of one queue. -/
def waiting (q : BitVec 32) : Launch := { launchOf 0 with seq := q, r := { rec0 with prio := 1 }, dispatched := false, running := false, tag := 5 }
theorem wit_DispatchResults_take :
    let s : State := { State.reset with launches := [waiting 6, waiting 7] }
    s.launch? 0 6 = some (waiting 6) ∧ s.mayTake (waiting 6) = true ∧ (waiting 6).r.prio ≠ 0 ∧ (waiting 6).err = 0 ∧ s.canDispatch (waiting 6) = true ∧
    s.launch? 0 7 = some (waiting 7) ∧ s.mayTake (waiting 7) = false ∧ (waiting 7).running = false ∧ (waiting 7).dispatched = false ∧
    (waiting 6).r.cores.map s.physOf = [0, 1] ∧ (s.slot 1 0).occ = .free := by decide +kernel
/-- A launch of core 0 alone that waits for its image at device address 0x40, and one whose core is reserved and loaded. -/
def loads (l : List Nat) : Launch :=
  { launchOf 0 with r := { rec0 with lix1 := 0 }, tag := 5, len := 64, src := 0x40, load := l, running := false }
def stLoad (l : List Nat) : State :=
  { stRec 0 with launches := [loads l], cores := [(0, { Core.reset with slots := Core.reset.slots.set 0 { Slot.reset with occ := .launch 0 0 } })] }
theorem wit_DispatchResults_load :
    (stLoad [0]).launch? 0 0 = some (loads [0]) ∧ (stLoad [0]).loadReady (loads [0]) 0 = true ∧ Sound (stLoad [0]) ∧ (stLoad [0]).cacheBad = [] ∧
    ∀ i < (loads [0]).len / 64, (stLoad [0]).unitName 0 (loads [0]).r.ctx.toNat ((loads [0]).src + 64 * i) true =
      some (0x40000040 + 64 * i, none) ∧ isDram (0x40000040 + 64 * i) = true ∧ (stLoad [0]).grants (bankOf (0x40000040 + 64 * i)) 0 1 = true := by
  refine ⟨by decide +kernel, by decide +kernel, by unfold Sound Safety.MemOk; decide +kernel, rfl, fun i h => ?_⟩
  have h1 : (loads [0]).len / 64 = 1 := by decide
  obtain rfl : i = 0 := by omega
  decide +kernel
theorem wit_DispatchResults_start :
    (stLoad []).launch? 0 0 = some (loads []) ∧ (loads []).running = false ∧ (loads []).dispatched = true ∧ (loads []).load = [] ∧
    (loads []).blocks = [] ∧ (loads []).r.redun = false ∧ ((loads []).r.cores.map (stLoad []).physOf) = [0] ∧
    SegsRead (stLoad []) 0 0 (entSupv ((stLoad []).centry 0 0)) ∧
    ∀ i : Fin 8, ((stLoad []).slot 0 i).occ = if i.val < (loads []).r.nslot.toNat + 1 then .launch 0 0 else .free := by
  unfold SegsRead Sound Safety.MemOk; decide +kernel

/-! ## Groups -/

def barOf (m : List Ident) : BarGroup := ⟨5, 0, 0, .co, 0, m, 0⟩
/-- A core in strict mode at this time. -/
def stStrict (n : Nat) : State := { stc { coreOf th with strict := true } with bars := [barOf [th.id]], time := BitVec.ofNat 64 n }
def redOf (op : RednOp) (m : List (Ident × Nat × Word)) : RednGroup := ⟨5, 0, 0, .co, 0, op, 2, m⟩
theorem wit_GroupCompletions :
    (let s := { st th with bars := [barOf [th.id]] }
     s.bars.find? (fun x => x.id == 5) = some (barOf [th.id]) ∧ (s.core 0).strict = false ∧
       ∀ x ∈ s.launchThreads 0 0, unitNo .co x.2 = 0 → x.1 ∈ (barOf [th.id]).members) ∧ (barOf [th.id]).members.Nodup ∧
    (((stStrict 7).core 0).strict = true ∧ ((stStrict 7).core 0).strictTurn (stStrict 7).time.toNat = 7 ∧ (barOf [th.id]).lastAt < 7 ∧
      ((stStrict 6).core 0).strictTurn (stStrict 6).time.toNat ≠ 7 ∧ (stStrict 7).placeOf? th.id = some (0, 0) ∧
      (stStrict 7).threadAt 0 0 = some th) ∧
    (let s := { st th with bars := [barOf []] }
     s.bars.find? (fun x => x.id == 5) = some (barOf []) ∧ ∃ x ∈ s.launchThreads 0 0, unitNo .co x.2 = 0 ∧ x.1 ∉ (barOf []).members) ∧
    (let g := redOf .min [(th.id, 0, 7), (th1.id, 1, -1)]
     let s := { stc (core2 th th1) with redns := [g] }
     s.redns.find? (fun x => x.id == 5) = some g ∧ g.count ≤ g.members.length ∧
       (RednOp.min, (fun x y : Word => if x.toInt ≤ y.toInt then x else y), (2 ^ 63 - 1 : Word)) ∈ foldRows) ∧
    (let g := redOf .fadd [(th.id, 0, 7), (th1.id, 1, -1)]
     let s := { stc (core2 th th1) with redns := [g] }
     s.redns.find? (fun x => x.id == 5) = some g ∧ g.op = .fadd ∧ g.members = [(th.id, 0, 7), (th1.id, 1, -1)] ∧ g.count = 2 ∧
       s.thread? th.id = some th) ∧
    (let g := redOf .add [(th.id, 0, 7)]
     ({ st th with redns := [g] }.redns.find? (fun x => x.id == 5)) = some g ∧ g.members.length < g.count) :=
  ⟨by decide +kernel, by decide +kernel, by decide +kernel, ⟨by decide +kernel, (th.id, 0), by decide +kernel⟩,
    ⟨by decide +kernel, by decide +kernel, .tail _ (.tail _ (.tail _ (.tail _ (.head _))))⟩, by decide +kernel, by decide +kernel⟩

/-! ## Pages, windows and Roll Call -/

/-- The state of records with that context LIVE at generation 0, and a page request of the home of a plain page. -/
def preq (u : FUnit) : PageReq := ⟨3, 0, 0, 0, .absent, 0x5000, u, true⟩
def msg0 : Msg := { msgOf .erase with gran := none }
def fault0 : FaultEntry := ⟨.home msg0.bank, 0, 0, 0x5000, .absent, .access msg0⟩
def stPage (g : Nat) : State :=
  { st th with
    mem := Memory.writes memImage 0 (leBytes 64 (entry0 + g * 2 ^ 160)), pageReqs := [preq (.home msg0.bank)], faultQ := [fault0]
    ctxs := [⟨0, 0, 0, [], [], 0, 0, none, 0x10000, false⟩], bustat := 0x500 }
theorem wit_PageEvents_response :
    (stPage 0).bustat = 0x500 ∧ ((stPage 0).rights 3 0 0).getLsbD 1 = true ∧
    (∀ r ∈ (stPage 0).pageReqs, ¬(r.part = 0 ∧ r.tag = 4 ∧ r.posted = true)) ∧
    (stPage 0).pageReqs.find? (fun r => r.part == 0 && r.tag == 3 && r.posted) = some (preq (.home msg0.bank)) ∧
    (0 : BitVec 32).toNat = (stPage 0).centry 0 0 / 2 ^ 160 % 2 ^ 32 ∧ (0 : BitVec 32).toNat ≠ (stPage 1).centry 0 0 / 2 ^ 160 % 2 ^ 32 ∧
    (stPage 0).faultQ = [fault0] ∧ fault0.unit = .home msg0.bank ∧ fault0.what = .access msg0 ∧ fault0.kind ∉ [.moving, .stock] ∧
    (stPage 0).samePage 0 0 0x5000 fault0.va = true ∧ MayPost (stPage 0) 0 := by unfold MayPost; decide +kernel
/-- The same of a store that waits for its frame. -/
def fault1 : FaultEntry := { fault0 with kind := .frame, what := .access { msg0 with op := .store [7] none, va := 5, acc := .store, need := ⟨false, true, false⟩ } }
theorem wit_PageEvents_frame :
    let s := { stPage 0 with faultQ := [fault1] }
    s.bustat = 0x500 ∧ (s.rights 3 0 0).getLsbD 1 = true ∧
    s.faultQ = [fault1] ∧ fault1.unit = .home msg0.bank ∧ fault1.part = 0 ∧ fault1.ctx = 0 ∧ fault1.kind = .frame ∧
    fault1.what = .access { msg0 with op := .store [7] none, va := 5, acc := .store, need := ⟨false, true, false⟩ } ∧ msg0.rlx = false ∧
    s.samePage 0 0 0x5000 fault1.va = true ∧
    (match ((({ s.dropCached (preq (.home msg0.bank)) with faultQ := [] } : State).note (fault1.unit.source 0) 0x11 fault1.noted).port 0 0 0 5 .store ⟨false, true, false⟩).1 with
      | .ok x => x.name
      | _ => 0) = 0x40000005 := by decide +kernel
def inv0 (who : Option Ident) (page : Option (Nat × Nat)) (l : List Nat) : Inval := ⟨5, who, 0, 0, page, false, l⟩
theorem wit_PageEvents_ack :
    (let s := { stg th with invals := [inv0 none (some (0x5000, 0x1000)) [0, 1023]] }
     s.invals.find? (fun x => x.tag == 5) = some (inv0 none (some (0x5000, 0x1000)) [0, 1023]) ∧ (0 : Nat) ∈ [0, 1023] ∧ (1023 : Nat) ≠ 0) ∧
    (let t := { th with status := .parked (.remote 4) }
     let s := { st t with invals := [inv0 (some t.id) none [1023]] }
     s.invals.find? (fun x => x.tag == 5) = some (inv0 (some t.id) none [1023]) ∧ (∀ q ∈ [1023], q = 1023) ∧
       s.thread? t.id = some t ∧ t.status = .parked (.remote 4)) := by decide +kernel
/-- The leaves of that GiB, before and after its move to the next GiB, and one that is not valid. -/
def leafA : Word := 0x400000C0F
def leafB : Word := 0x800000C0F
def stMove (c : Option Nat) : State :=
  { stRec 0 with moves := match c with
    | none => []
    | some _ => [⟨1, 0, 0, 0, 2 ^ 30, leafA, leafB, 0, none, 4⟩] }
theorem wit_PageEvents_move :
    (stMove none).bustat = 0x500 ∧ ((stMove none).rights 3 0 0).getLsbD 1 = true ∧ (∀ v ∈ (stMove none).moves, v.part ≠ 0) ∧ (stMove none).walk 0 0 5 = .leaf 0 3 leafA 0x11000 ∧
    leafB.getLsbD 0 = true ∧ lfCls leafA.toNat ≠ 4 ∧ lfCls leafB.toNat = lfCls leafA.toNat ∧ lfSize leafB.toNat = 3 ∧ lfBad leafB.toNat = false ∧
    ((stMove none).centry 0 0).testBit 451 = true ∧ (leafB - 1).getLsbD 0 = false := by decide +kernel
theorem wit_PageEvents_moveOn :
    (stMove (some 0)).bustat = 0x500 ∧ ((stMove (some 0)).rights 3 0 0).getLsbD 1 = true ∧ ∃ v, (stMove (some 0)).moves.find? (fun v => v.part == 0) = some v ∧ v.part = 0 ∧ v.ctx = 0 ∧ v.base ≤ 2 ^ 30 - 1 ∧ 2 ^ 30 - 1 < v.base + v.size ∧
      v.newLeaf = leafB ∧ v.cmd = 1 ∧ v.cmd ≠ 2 ∧ v.shot = none ∧ (stMove (some 0)).faultQ = [] ∧ (stMove (some 0)).moveClear v = true ∧ lfCls v.oldLeaf.toNat = 0 ∧ lfCls v.newLeaf.toNat = 0 ∧
      lfSwz v.oldLeaf.toNat = 0 ∧ lfSwz v.newLeaf.toNat = 0 ∧ Sound (stMove (some 0)) ∧
      (stMove (some 0)).walk 0 0 v.base = .leaf 0 3 leafA 0x11000 ∧ (3 : Nat) ≠ 1 ∧ Apart (lfPa v.newLeaf.toNat) v.size 0x11000 8 :=
  ⟨rfl, rfl, ⟨1, 0, 0, 0, 2 ^ 30, leafA, leafB, 0, none, 4⟩, by unfold Sound Safety.MemOk Apart; decide +kernel⟩
/-- Resident windows, oldest last; one with a pending register. -/
def res3 (w : Vector RegCell 8) : List Resident := [⟨0x10C0, freshWin⟩, ⟨0x1060, freshWin⟩, ⟨0x1000, w⟩]
def pendWin : Vector RegCell 8 := freshWin.set 7 ⟨0, false, some 9, false⟩
/-- A state that far on in time. -/
def at_ (n : Nat) (s : State) : State := { s with time := BitVec.ofNat 64 n }
theorem wit_WindowAndRollCallEvents_spill :
    (let t := { th with wsp := 0x1120, resident := res3 freshWin }
     (st t).threadAt 0 0 = some t ∧ t.resident = [⟨0x10C0, freshWin⟩, ⟨0x1060, freshWin⟩] ++ [⟨0x1000, freshWin⟩] ∧ Sound (st t) ∧
       3 ≤ t.resident.length ∧ 0 = (st t).homeOf t ∧ (st t).ownBusy t ((st t).stackKey t 0x1000) 80 = false ∧ ((st t).core 0).stopped = false ∧
       ((st t).core 0).issuedAt ≠ some 0 ∧ ((st t).core 0).bubbleAt ≠ some 0 ∧ ((st t).slot 0 0).spillAt = none ∧
       (∀ k : Fin 8, (freshWin[k]).pend = none ∧ (freshWin[k]).bad = false) ∧
       let u := stc { coreOf t with bubbleAt := some 0, slots := Core.reset.slots.set 0 { Slot.reset with inc := 1, occ := .thread t, spillAt := some 0 } }
       (u.core 0).bubbleAt = some u.time.toNat ∧ ((at_ 1 u).core 0).bubbleAt ≠ some (at_ 1 u).time.toNat ∧ (u.slot 0 0).spillAt ≠ none) ∧
    (let t := { th with wsp := 0x1120, resident := res3 pendWin, status := .parked .spill }
     let s := at_ 32 (st t)
     s.threadAt 0 0 = some t ∧ t.resident = [⟨0x10C0, freshWin⟩, ⟨0x1060, freshWin⟩] ++ [⟨0x1000, pendWin⟩] ∧ Sound s ∧
       t.status = .parked .spill ∧ max t.parkedAt ((s.core 0).bubbleAt.getD 0) + 32 ≤ s.time.toNat ∧ (pendWin[(7 : Fin 8)]).pend ≠ none) ∧
    (let t := { th with wsp := 0x1060, status := .parked .reload }
     (st t).threadAt 0 0 = some t ∧ t.status = .parked .reload ∧ t.parkedAt + 4 ≤ (at_ 4 (st t)).time.toNat ∧
       (at_ 4 (st t)).ownBusy t ((st t).stackKey t 0x1000) 80 = false ∧ Sound (at_ 4 (st t)) ∧ 96 ≤ t.wsp.toNat ∧ t.resident.length < 3 ∧ 3 ≤ ({ t with resident := res3 freshWin } : Thread).resident.length ∧
       (∀ r ∈ ({ t with wsp := 0x1120, resident := [⟨0x1060, freshWin⟩, ⟨0x1000, freshWin⟩, ⟨0xFA0, freshWin⟩] } : Thread).resident, r.base ≠ 0x1120 - 96) ∧
       ∀ r ∈ t.resident, r.base ≠ t.wsp.toNat - 96) := by
  unfold Sound Safety.MemOk; decide +kernel
def cl0 : Claim := ⟨0, 0x300000, bankOf 0x300000, 3, some (th1.id, false), 0, 0, [], []⟩
/-- A thread that waits for the handle which the thread of slot 1 evaluates. -/
def thWaitsH : Thread := { th with status := .parked (.handle 0x7000 0x300000) }
def stWaits (t u : Thread) (k : List Token) : State := { stc (core2 t u) with claims := [cl0], tokens := k }
theorem wit_WindowAndRollCallEvents_waits :
    (let t := { th with status := .parked (.retry 0x7000 0x300000 500) }
     (at_ 500 (st t)).threadAt 0 0 = some t ∧ t.status = .parked (.retry 0x7000 0x300000 500) ∧ 500 ≤ (at_ 500 (st t)).time.toNat ∧
       (at_ 499 (st t)).time.toNat < 500) ∧
    (let s := stWaits thWaitsH th1 []
     s.threadAt 0 0 = some thWaitsH ∧ thWaitsH.status = .parked (.handle 0x7000 0x300000) ∧ s.claimant? 0x300000 = some (th1.id, false) ∧
       (at_ 4095 s).time.toNat < thWaitsH.parkedAt + 4096 * (thWaitsH.rolled + 1) ∧
       thWaitsH.parkedAt + 4096 * (thWaitsH.rolled + 1) ≤ (at_ 4096 s).time.toNat ∧ s.tokens = []) := by decide +kernel
def tok (o w : Ident) (hops : Nat) (q : Bool) : Token := ⟨5, o, w, hops, q, 0⟩
theorem wit_WindowAndRollCallEvents_hops :
    (∀ h ∈ [1, 65], let s := stWaits thWaitsH th1 [tok th.id th1.id h false]
      s.tokens.find? (fun x => x.tag == 5) = some (tok th.id th1.id h false) ∧ s.placeOf? th1.id = some (0, 1) ∧ s.threadAt 0 1 = some th1) ∧
    (∀ w, th1.status ≠ .parked w) ∧
    (let k := tok th1.id th.id 64 false
     let s := stWaits thWaitsH th1 [k]
     s.tokens.find? (fun x => x.tag == 5) = some k ∧ s.placeOf? k.to_ = some (0, 0) ∧ s.threadAt 0 0 = some thWaitsH ∧ k.hops ≤ 64 ∧
       k.to_ ≠ k.origin ∧ s.claimant? 0x300000 = some (th1.id, false) ∧ s.tokens = [k]) :=
  ⟨by decide +kernel, nofun, by decide +kernel⟩
theorem wit_WindowAndRollCallEvents_back :
    (let t := { th with status := .parked (.queue 3 true) }
     let k := tok t.id t.id 64 true
     let s := stWaits t th1 [k]
     s.tokens.find? (fun x => x.tag == 5) = some k ∧ s.placeOf? k.to_ = some (0, 0) ∧ s.threadAt 0 0 = some t ∧ k.hops ≤ 64 ∧ k.to_ = k.origin ∧
       t.parkedAt = k.since ∧ k.queues = true ∧ (s.core 0).qSpare[(3 : Fin 4)] = false) ∧
    (let t := { th with status := .parked (.queue 3 false) }
     let k := tok t.id t.id 64 true
     let s := stWaits t th1 [k]
     s.tokens.find? (fun x => x.tag == 5) = some k ∧ s.placeOf? k.to_ = some (0, 0) ∧ s.threadAt 0 0 = some t ∧ t.parkedAt = k.since ∧
       k.queues = true ∧ (s.core 0).qSpare[(3 : Fin 4)] = false) ∧
    (let t := { th with status := .parked (.reg 3) }
     let k := tok t.id t.id 1 false
     let s := stWaits t th1 [k]
     s.tokens.find? (fun x => x.tag == 5) = some k ∧ s.placeOf? k.to_ = some (0, 0) ∧ s.threadAt 0 0 = some t ∧ k.to_ = k.origin ∧
       t.parkedAt = k.since ∧ k.queues = false ∧ s.thread? t.id = some t ∧ t.walk = none ∧ t.holds = [] ∧ t.mode = false ∧ t.badCsr = [] ∧ s.handlerOk 0 t.xh = true) ∧
    NotSpark { th with status := .parked (.reg 3) } := ⟨by decide +kernel, by decide +kernel, by decide +kernel, nofun⟩

/-! ## Detentions, errors and the scan test -/

def det0 (stage : Nat) : Detention := ⟨5, none, 0, 0, stage, 0, 0⟩
/-- A state with that Detention of the router of core 0. -/
def stDet (stage : Nat) (k : Core) : State := { stc k with detentions := [det0 stage] }
theorem grants_zero (s : State) (h : s.acl = []) (b : Bank) : s.grants b 0 2 = true := by
  unfold State.grants; split <;> simp [State.rights, h]
theorem wit_DetentionEvents_stages :
    (stDet 1 (coreOf th)).detentions.find? (fun x => x.id == 5 && x.stage == 1) = some (det0 1) ∧
    (stDet 1 (coreOf th)).inside 0 = [(0, 0, th, false)] ∧ th.drew = [] ∧
    (∀ k < 4096, (stDet 1 (coreOf th)).grants (bankOf (((stDet 1 (coreOf th)).partn 0).evq.toNat + 16 * k)) 0 2 = true) ∧
    th.kind = .launch 0 0 false ∧ (∀ d ∈ [det0 2], ¬(d.id = 5 ∧ d.stage = 1)) ∧
    (stDet 2 (coreOf th)).detentions.find? (fun x => x.id == 5 && x.stage == 2) = some (det0 2) ∧
    (stDet 3 (coreOf th)).detentions = [det0 3] ∧
    (∀ c ∈ rectCores 0, ((stDet 3 (coreOf th)).core c).scan = none ∧ (stDet 3 (coreOf th)).mustLeave c = false) ∧
    (let k := { coreOf th with slots := (coreOf th).slots.set 7 { Slot.reset with occ := .away th1.id 0 0 false } }
     ((stDet 2 k).slot 0 7).occ = .away th1.id 0 0 false ∧ ∀ w p q b, ((stDet 2 k).slot 0 0).occ ≠ .away w p q b) :=
  ⟨by decide +kernel, by decide +kernel, by decide +kernel, fun _ _ => grants_zero _ rfl _, by decide +kernel, by decide +kernel,
    by decide +kernel, by decide +kernel, by decide +kernel, by decide +kernel, nofun⟩
theorem wit_DetentionEvents_task :
    (let s := stDet 1 { coreOf thTask with tasks := [{ desc0 with state := 2 }] }
     s.inside 0 = [(0, 0, thTask, false)] ∧ thTask.visible = false ∧ s.desc? 9 = some { desc0 with state := 2 } ∧ desc0.depc = 0) ∧
    (let t := { thTask with visible := true }
     (stDet 1 (coreOf t)).inside 0 = [(0, 0, t, false)] ∧ t.kind = .task 9 ∧ t.visible = true) ∧
    (let t := { th with status := .parked (.remote 4) }
     let s := { st t with detentions := [{ det0 3 with who := some th.id, rect := 1 }] }
     s.thread? th.id = some t ∧ t.status = .parked (.remote 4) ∧
       ∀ c ∈ rectCores 1, (s.core c).scan = none ∧ s.mustLeave c = false) := by decide +kernel
/-- A parity error in g1. -/
def thBad : Thread := { th with g := th.g.set 1 ⟨7, true, none, true⟩ }
theorem wit_ErrorEvents_storage :
    Safety.MemOk (st th) ∧ Sound (st th) ∧ (st th).cacheBad = [] ∧ isDram 0x100008 = true ∧ isDram (2 ^ 52) = false ∧ (st th).threadAt 0 0 = some th ∧
    (let s := stc { coreOf th with q := #v[[.val 7], [], [], []] }; (s.core 0).q[(0 : Fin 4)] = [.val 7]) ∧
    (let s := { State.reset with diary := [⟨.slice 95, [1, 2], false, 0, 0, 0, 0, []⟩] }
     (s.diaryOf (.slice 95)).errs = [] ∧ 1 < (s.diaryOf (.slice 95)).recs.length ∧ eccClass (3 ^^^ ecc 0) = .bad) ∧
    (st thBad).me = some thBad ∧ (st thBad).waits thBad [.g 1] [.g 2] [] = none ∧ (st thBad).parityFails thBad [.g 1] [] = true := by
  unfold Sound Safety.MemOk; decide +kernel
theorem wit_ErrorEvents_scrub :
    (0x100000 % 64 = 0 ∧ isDram 0x100000 = true ∧ Sound (st th) ∧ (st th).cacheBad = []) ∧
    (let s := { st th with synd := [(0x100038, ecc (1 <<< 63))] }
     Safety.MemOk s ∧ s.lost = [] ∧ s.synd = [(0x100038, ecc (1 <<< 63))] ∧ 0x100038 % 8 = 0 ∧ eccClass (ecc (1 <<< 63)) = .data 63) ∧
    (let s := { st th with synd := [(0x100000, 3)] }; Safety.MemOk s ∧ eccClass 3 = .bad) ∧ 0x100001 % 64 ≠ 0 := by
  unfold Sound Safety.MemOk; decide +kernel
theorem wit_ErrorEvents_consumed :
    (let t := { th with lead := true, status := .parked .issue }
     let k := coreOf t
     let e : Trail := ⟨0, 1, 0, true, false, false, 0xA1, 0⟩
     let s := at_ 1024 (stc { k with slots := k.slots.set 4 { Slot.reset with trail := [e] } })
     s.detentions = [] ∧ s.threadAt 0 0 = some t ∧ t.lead = true ∧ (s.core 0).stopped = false ∧
       (s.slot 0 4).trail.find? (fun e => e.out) = some e ∧ e.at_ + 1024 ≤ s.time.toNat) ∧
    (st th).mmaAwaits 0 = false ∧
    (let o : EngOp := { opOf (.mma 0 0x5000 0x6000 ⟨.bf16, ⟨false, 0⟩, true, true, 0xFF⟩ 0) with
       started := true, units := [⟨0, [⟨0, 0x5000, 64, false, none⟩], 1, false, [], []⟩] }
     (stMat o (coreOf th)).mmaAwaits 0 = true) := by decide +kernel
/-- A scan test of core 1 that the thread of core 0 awaits. -/
def stScan (x : Scan) : State :=
  let s := st { th with status := .parked (.remote 4) }
  { s with cores := (1, { Core.reset with scan := some x }) :: s.cores }
theorem wit_ErrorEvents_scan :
    (let x : Scan := ⟨some th.id, 4, 0, none⟩
     ((stScan x).core 1).scan = some x ∧ (stScan x).fenced 1 = false ∧ (at_ 249999 (stScan x)).time.toNat < x.at_ + 250000 ∧
       x.at_ + 250000 ≤ (at_ 250000 (stScan x)).time.toNat ∧ (stScan x).thread? th.id = some { th with status := .parked (.remote 4) }) ∧
    (let x : Scan := ⟨some th.id, 4, 0, some 247499⟩; ((stScan x).core 1).scan = some x ∧ 247499 < x.at_ + 247500) ∧
    (State.reset.rights 3 0 0).getLsbD 3 = true ∧ ({ State.reset with acl := [((3, 0, 0), 0x17)] }.rights 3 0 0).getLsbD 3 = false := by
  decide +kernel

/-! ## The Diary, the Report Card and the host -/

/-- A partition of one router, with a fault, and its rings frozen but for those listed. -/
def fatal0 : Fatal := ⟨9, some 0, 0x80, 0, 0x42, .core 16, some th.id, 0, false, true⟩
def stFatal (state : BitVec 8) (live : List Nat) : State :=
  { st { th with status := .parked (.remote 4) } with
    parts := [(9, { Part.reset with routers := [1] })], fatals := [{ fatal0 with part := 8, late := true, own := false }, fatal0]
    diary := ((List.range 16).filter (fun i => !live.contains i)).map (fun i => ⟨.core (16 + i), [], true, 0, 0, 0, 0, []⟩)
    capsule := { Capsule.reset with state := state } }
theorem wit_DiaryCapsuleAndResetEvents_first (a : BitVec 8) (l : List Nat) (k : Nat) : (stFatal a l).firstFatal 9 k = some fatal0 := by
  have h : (stFatal a l).fatals.filter (fun f => f.part == 9 && f.own) = [fatal0] := rfl
  simp [State.firstFatal, h, Nat.mod_one]
theorem wit_DiaryCapsuleAndResetEvents_cardFatal (a : BitVec 8) (l : List Nat) : (stFatal a l).cardFatal = some fatal0 :=
  wit_DiaryCapsuleAndResetEvents_first a l (2 ^ 14)
theorem wit_DiaryCapsuleAndResetEvents_freeze :
    (stFatal 0 [0]).srcPart (.core 16) = 9 ∧
    ((stFatal 0 [0]).diaryOf (.core 16)).frozen = false ∧ ((stFatal 0 []).diaryOf (.core 16)).frozen = true ∧
    ((stFatal 0 [0]).diaryOf (.core 16)).recs = [] ∧ ((stFatal 0 [0]).diaryOf (.core 16)).count = 0 ∧
    ((stFatal 0 [0]).diaryOf (.core 16)).missed = 0 ∧
    (let s := at_ (2 ^ 22) { State.reset with diary := [⟨.core 0, [], false, 0, 0, 0, 1, []⟩] }
     (s.diaryOf (.core 0)).mark ≤ s.time.toNat / 2 ^ 22 ∧ (at_ (2 ^ 22 - 1) s).time.toNat / 2 ^ 22 < (s.diaryOf (.core 0)).mark) := by
  decide +kernel
theorem sources_stFatal (a : BitVec 8) (l : List Nat) (x : Source) (h : x ∈ (stFatal a l).sourcesOf 9) :
    ∃ i < 16, x = .core (16 + i) := by
  simp only [State.sourcesOf, List.mem_filter, beq_iff_eq] at h
  cases x with
  | core c =>
    refine ⟨c - 16, ?_⟩
    by_cases hc : c / 16 = 1
    · exact ⟨by omega, by congr 1; omega⟩
    · simp [State.srcPart, State.partOf, stFatal, Part.reset, hc] at h
  | slice i => simp [State.srcPart, stFatal, Part.reset] at h
theorem wit_DiaryCapsuleAndResetEvents_card :
    (∃ x ∈ (stFatal 0 [15]).sourcesOf 9, ((stFatal 0 [15]).diaryOf x).frozen = false) ∧
    (∀ a ∈ [(0 : BitVec 8), 1, 2], let s := stFatal a []
      (∀ x ∈ s.sourcesOf 9, (s.diaryOf x).frozen = true) ∧
      s.capsule.state = a ∧ Memory.wf s.capsule.store = true ∧ fatal0.cause = 0x80 ∧ fatal0.who = some th.id ∧
      s.thread? th.id = some { th with status := .parked (.remote 4) }) := by
  constructor
  · exact ⟨.core 31, List.mem_filter.2 ⟨List.mem_append_left _ (List.mem_map.2 ⟨31, by simp, rfl⟩), by decide +kernel⟩, by decide +kernel⟩
  · intro a ha
    refine ⟨fun x hx => ?_, rfl, rfl, rfl, rfl, by decide +kernel +revert⟩
    obtain ⟨i, hi, rfl⟩ := sources_stFatal a [] x hx
    have : ∀ i < 16, ((stFatal 0 []).diaryOf (.core (16 + i))).frozen = true := by decide +kernel
    exact this i hi
/-- The digest of "abc" that FIPS 180-4 gives. -/
theorem test_sha256 : sha256 [0x61, 0x62, 0x63] =
    [0xba, 0x78, 0x16, 0xbf, 0x8f, 0x01, 0xcf, 0xea, 0x41, 0x41, 0x40, 0xde, 0x5d, 0xae, 0x22, 0x23,
     0xb0, 0x03, 0x61, 0xa3, 0x96, 0x17, 0x7a, 0x9c, 0xb4, 0x10, 0xff, 0x61, 0xf2, 0x00, 0x15, 0xad] := by decide +kernel
/-- A READY module whose partition 0 has these rights in its function's table. -/
def stHost (r : BitVec 8) : State := { State.reset with bustat := 0x500, acl := [((3, 0, 0), r), ((2, 7, 0), r)] }
theorem wit_DiaryCapsuleAndResetEvents_capsule :
    (stHost 0x1F).bustat = 0x500 ∧ (stHost 0x1F).moves = [] ∧ (stHost 0x1F).capsule.state ≠ 1 ∧ MayPost (stHost 0x1F) 0 ∧ MayPost (stHost 0) 0 ∧
    ((stHost 0x1F).rights 3 0 0).getLsbD 0 = true ∧ ((stHost 0x1F).rights 3 0 0).getLsbD 4 = true ∧ ((stHost 0).rights 3 0 0).getLsbD 0 = false ∧
    ((stHost 0).rights 3 0 0).getLsbD 4 = false ∧ (4096 ≤ 4096 ∧ 2 ^ 26 - 4096 + 4096 ≤ 2 ^ 26) ∧ 4096 < 4097 := by
  unfold MayPost; decide +kernel
theorem wit_HostEvents :
    { State.reset with bustat := 0x400 }.bustat = 0x400 ∧ { State.reset with bustat := 0x400 }.mailBusy 0 = false ∧ (stHost 0).mailBusy 0 = false ∧
    (stMove (some 0)).mailBusy 0 = true ∧ (0x300 : BitVec 16).toNat / 256 < 4 ∧ 0x3F < 2 ^ 52 ∧ (0x4000 ≤ 0x4000) ∧ (stHost 2).rights 3 0 0 = 2 ∧
    ((stHost 0x1F).rights 3 0 0).getLsbD 0 = true ∧ ((stHost 0).rights 3 0 0).getLsbD 0 = false ∧
    leNat ((stHost 2).partn 0).mbox % 256 ∉ [0x01, 0x10, 0x20, 0x30, 0x31, 0x32] ∧ { State.reset with bustat := 0x101 }.bustat.toNat % 256 ≠ 0 ∧
    ({ State.reset with bustat := 0x400 }.rights 3 0 0).getLsbD 1 = true ∧ ({ State.reset with acl := [((3, 9, 9), 2)] }.rights 3 9 9).getLsbD 1 = true ∧
    ((stHost 0).rights 3 0 0).getLsbD 1 = false ∧ MayPost (stHost 0) 0 ∧
    (1 : Nat) ≠ 0 ∧ (stHost 2).bustat = 0x500 ∧ (stHost 2).moves = [] ∧ ((stHost 2).rights 3 0 0).getLsbD 1 = true ∧
    (let s := { stHost 2 with acl := [((3, 9, 9), 2)] }
     s.bustat = 0x500 ∧ s.moves = [] ∧ (s.rights 3 9 9).getLsbD 1 = true ∧ s.partOf (s.physOf 3967) ≠ 9) ∧
    (stHost 2).partOf ((stHost 2).physOf 3967) = 0 ∧
    (st { th with status := .parked .idle }).threadAt 0 0 = some { th with status := .parked .idle } ∧
    ((4 : Word).toNat ≤ 12 ∧ (12 : Word).toNat ≤ 12 ∧ (3 : Word).toNat < 4 ∧ 12 < (13 : Word).toNat) ∧ (stHost 0).pageReqs = [] ∧
    ((stHost 0x1F).rights 2 7 0).getLsbD 4 = true ∧ ((stHost 0).rights 2 7 0).getLsbD 4 = false ∧
    (let s := { stHost 0x1F with mem := memImage }
     s.bustat.toNat % 256 = 0 ∧ Sound s ∧ s.cacheBad = [] ∧ (∀ q ∈ s.lines, q.holder = none) ∧ s.windowOk 0 (hostPieces 0x3F 66) 1 = true ∧
       s.windowOk 0 (hostPieces 0x3F 66) 0 = true ∧ (stHost 0x1E).windowOk 0 (hostPieces 0x3F 66) 0 = false) := by
  unfold Sound Safety.MemOk MayPost; decide +kernel

/-! ## The whole machine -/

/-- A thread whose head is this word, with the next turn. -/
def stWord (t : Thread) (w : Nat) : State := { st t with mem := Memory.writes [] (spKey Config.pkg 0 0x40) (fetchBytes w), agenda := [.issue 0 0] }
/-- The words `EMPT a3`, an unassigned opcode, a wrong tail code, and `TLBINV` of a page, in user mode and in supervisor mode. -/
theorem wit_StepRunsDecodedInstruction :
    (∀ x ∈ [(th, 0x0973), (th, 0x01E0), (th, 0x8402), (th, 0x1F817CA0), (thSup, 0x1F817CA0)],
      let t := x.1
      let s := stWord t x.2
      let s0 : State := { s with agenda := [], cur := ⟨0, 0⟩ }
      s.agenda = [.issue 0 0] ∧ ((s.core 0).slots[(0 : Fin 8)]).occ = .thread t ∧ t.pending = none ∧ t.replay = none ∧ t.lead = false ∧
      ({ s with agenda := [] } : State).canIssue 0 0 = true ∧ ({ s with agenda := [] } : State).pairWaits 0 0 t = false ∧
      ({ s with agenda := [] } : State).canIssue 0 1 = false ∧ s.synd = [] ∧ s.lost = [] ∧ t.badCsr = [] ∧ (s.core 0).marks = [] ∧
      s0.autoHandle? t = none ∧ s0.fetch 0 t.pc = .inr (x.2 % 65536, x.2 / 65536) ∧
      t.status = .ready) := by decide +kernel
theorem wit_StepRunsDecodedInstruction_words :
    decode 0x0973 0 = .ok (.empt (.a 3)) ∧ decode 0x01E0 0 = .error .unassigned ∧ decode 0x8402 0 = .error .tail ∧
    decode 0x7CA0 0x1F81 = .ok (.tlbinvPage 3) ∧ 0x1E0 ≤ 0x7CA0 / 32 % 512 ∧ 0x7CA0 / 32 % 512 ≤ 0x1EF ∧ th.mode = false ∧ thSup.mode = true :=
  ⟨rfl, rfl, rfl, rfl, by decide, by decide, rfl, rfl⟩
theorem wit_StepRunsDecodedInstruction_free :
    (match exec (.empt (.a 3)) { stWord th 0x0973 with agenda := [], cur := ⟨0, 0⟩ } with
      | .next s2 => !s2.slotWaits 0 0 (· == .hold)
      | _ => false) = true := by decide +kernel
theorem wit_StepRunsDecodedInstruction_event :
    Instr.isEvent .reportCard = true ∧ Instr.wf .reportCard = true ∧ Instr.isEvent .halt = false ∧ Instr.wf (.scrub (.slice 64 0 0) 0) = false ∧
    ((st th).afterIssueOf .reportCard).any (st th).issuing = false ∧ Instr.isEvent (.windowSpill 0 0) = true ∧
    Instr.wf (.windowSpill 0 0) = true ∧ ((st th).afterIssueOf (.windowSpill 0 0)).any (st th).issuing = true :=
  ⟨rfl, rfl, rfl, rfl, by decide +kernel, rfl, rfl, by decide +kernel⟩
theorem wit_MemoryStaysCanonical : Safety.MemOk (st th) ∧ (st th).mem ≠ [] := by unfold Safety.MemOk; decide +kernel
theorem wit_DecodeEncode : Instr.wf (.ld (.q 3) 7 .ws 0x7FFFF8) = true ∧ Instr.isEvent (.ld (.q 3) 7 .ws 0x7FFFF8) = false := ⟨rfl, rfl⟩

/-! ## Words

Every instruction, in a word written out bit by bit from the tables that the theorem names: head `cc ooooooooo ddddd` (Table 7-2), tail as its
kind has it (Table 7-3), operand codes by Table 2-1. -/

/-- Tables 7-4, 7-6 and 7-7; R159, R164. -/
theorem test_words_control :
    decode 0b0000000000000000 0 = .ok (.nop) ∧
    decode 0b0000000000100000 0 = .ok (.rlx) ∧
    decode 0b0000000001000000 0 = .ok (.halt) ∧
    decode 0b0000000001100000 0 = .ok (.yield) ∧
    decode 0b1000000010011111 0b11110111111111111111111110100100 = .ok (.br 31 ⟨-3, 4⟩) ∧
    decode 0b1000000010100001 0b11110111111111111111111110100100 = .ok (.brn 1 ⟨-3, 4⟩) ∧
    decode 0b0100000011000000 0b1001011110000000 = .ok (.jmp (.a 2)) ∧
    decode 0b1000000011100000 0b11110111111111111111111110100100 = .ok (.call ⟨-3, 4⟩) ∧
    decode 0b0100000100000000 0b0100111110000000 = .ok (.callr (.g 9)) ∧
    decode 0b0000000100100000 0 = .ok (.ret) ∧
    decode 0b1000000101001100 0b11110111111111111111111110100100 = .ok (.loop 12 ⟨-3, 4⟩) ∧
    decode 0b0100000101100000 0b1111011110101001 = .ok (.trap 41) ∧
    decode 0b0000000110000000 0 = .ok (.brk) ∧
    decode 0b0000000110100000 0 = .ok (.xret) ∧
    decode 0b0100000111000000 0b1111011110101001 = .ok (.scall 41) :=
  ⟨rfl, rfl, rfl, rfl, rfl, rfl, rfl, rfl, rfl, rfl, rfl, rfl, rfl, rfl, rfl⟩
/-- R166, Table 7-6. -/
theorem test_words_integer :
    decode 0b0100010000011010 0b0110111101000000 = .ok (.add (.q 2) (.g 13) .rq false) ∧
    decode 0b0100010000111010 0b0110111101000001 = .ok (.sub (.q 2) (.g 13) .rq true) ∧
    decode 0b0100010001011010 0b0110111101000000 = .ok (.and (.q 2) (.g 13) .rq false) ∧
    decode 0b0100010001111010 0b0110111101000001 = .ok (.or (.q 2) (.g 13) .rq true) ∧
    decode 0b0100010010011010 0b0110111101000000 = .ok (.xor (.q 2) (.g 13) .rq false) ∧
    decode 0b0100010010111010 0b0110111101000001 = .ok (.andn (.q 2) (.g 13) .rq true) ∧
    decode 0b0100010011011010 0b0110111101000000 = .ok (.shl (.q 2) (.g 13) .rq false) ∧
    decode 0b0100010011111010 0b0110111101000001 = .ok (.shr (.q 2) (.g 13) .rq true) ∧
    decode 0b0100010100011010 0b0110111101000000 = .ok (.sra (.q 2) (.g 13) .rq false) ∧
    decode 0b0100010100111010 0b0110111101000001 = .ok (.rotl (.q 2) (.g 13) .rq true) ∧
    decode 0b0100010101011010 0b0110111101000000 = .ok (.mul (.q 2) (.g 13) .rq false) ∧
    decode 0b0100010101111010 0b0110111101000001 = .ok (.mulh (.q 2) (.g 13) .rq true) ∧
    decode 0b0100010110011010 0b0110111101000000 = .ok (.mulhu (.q 2) (.g 13) .rq false) ∧
    decode 0b0100010110111010 0b0110111101000001 = .ok (.div (.q 2) (.g 13) .rq true) ∧
    decode 0b0100010111011010 0b0110111101000000 = .ok (.divu (.q 2) (.g 13) .rq false) ∧
    decode 0b0100010111111010 0b0110111101000001 = .ok (.rem (.q 2) (.g 13) .rq true) ∧
    decode 0b0100011000011010 0b0110111101000000 = .ok (.remu (.q 2) (.g 13) .rq false) ∧
    decode 0b0100011000111010 0b0110111101000001 = .ok (.min (.q 2) (.g 13) .rq true) ∧
    decode 0b0100011001011010 0b0110111101000000 = .ok (.max (.q 2) (.g 13) .rq false) ∧
    decode 0b0100011001111010 0b0110111101000001 = .ok (.minu (.q 2) (.g 13) .rq true) ∧
    decode 0b0100011010011010 0b0110111101000000 = .ok (.maxu (.q 2) (.g 13) .rq false) ∧
    decode 0b0100011010111010 0b0110111101000001 = .ok (.adds (.q 2) (.g 13) .rq true) ∧
    decode 0b0100011011011010 0b0110111101000000 = .ok (.subs (.q 2) (.g 13) .rq false) ∧
    decode 0b0100011011110001 0b1101111110000001 = .ok (.clz (.a 1) (.q 3) true) ∧
    decode 0b0100011100010001 0b1101111110000000 = .ok (.ctz (.a 1) (.q 3) false) ∧
    decode 0b0100011100110001 0b1101111110000001 = .ok (.popc (.a 1) (.q 3) true) ∧
    decode 0b0100011101011010 0b0110111101000000 = .ok (.sext (.q 2) (.g 13) .rq false) ∧
    decode 0b0100011101111010 0b0110111101000001 = .ok (.zext (.q 2) (.g 13) .rq true) ∧
    decode 0b0100011110010001 0b1101111110000000 = .ok (.bswp (.a 1) (.q 3) false) ∧
    decode 0b0100011110110001 0b1101111110000001 = .ok (.mov (.a 1) (.q 3) true) :=
  ⟨rfl, rfl, rfl, rfl, rfl, rfl, rfl, rfl, rfl, rfl, rfl, rfl, rfl, rfl, rfl, rfl, rfl, rfl, rfl, rfl, rfl, rfl, rfl, rfl, rfl, rfl, rfl, rfl, rfl, rfl⟩
/-- R167, R168, R170; Table 7-7. -/
theorem test_words_immediates :
    decode 0b1000100000011100 0b00101100000000000000000000000000 = .ok (.addi .nf (.g 5) (-67108864)) ∧
    decode 0b1000100000111100 0b00101100000000000000000000000001 = .ok (.andi .nf (.g 5) (-67108863)) ∧
    decode 0b1000100001011100 0b00101100000000000000000000000010 = .ok (.ori .nf (.g 5) (-67108862)) ∧
    decode 0b1000100001111100 0b00101100000000000000000000000011 = .ok (.xori .nf (.g 5) (-67108861)) ∧
    decode 0b1000100010011110 0b00101000000000000000000000111111 = .ok (.shli .zr (.g 5) 63) ∧
    decode 0b1000100010111110 0b00101000000000000000000000111110 = .ok (.shri .zr (.g 5) 62) ∧
    decode 0b1000100011011110 0b00101000000000000000000000111101 = .ok (.srai .zr (.g 5) 61) ∧
    decode 0b1000100011110111 0b11100011111111111111111111111111 = .ok (.muli (.a 7) .nf 67108863) ∧
    decode 0b1100100100011001 0b111101111000000010000000000000000000000000000001 = .ok (.movi (.q 1) 0x80000001) ∧
    decode 0b1100100100110011 0b111101111000000011011110101011011011111011101111 = .ok (.movh (.a 3) 0xDEADBEEF) ∧
    decode 0b1000100101001111 0b11110111111111111111111110100100 = .ok (.adr (.g 15) ⟨-3, 4⟩) ∧
    decode 0b0000100101110110 0 = .ok (.empt (.a 6)) :=
  ⟨rfl, rfl, rfl, rfl, rfl, rfl, rfl, rfl, rfl, rfl, rfl, rfl⟩
/-- R171 to R175. -/
theorem test_words_compares :
    decode 0b0100110000010100 0b1010011110000000 = .ok (.ceq 20 (.a 4) .zr) ∧
    decode 0b0100110000110101 0b1010011110000000 = .ok (.cne 21 (.a 4) .zr) ∧
    decode 0b0100110001010110 0b1010011110000000 = .ok (.clt 22 (.a 4) .zr) ∧
    decode 0b0100110001110111 0b1010011110000000 = .ok (.cle 23 (.a 4) .zr) ∧
    decode 0b0100110010011000 0b1010011110000000 = .ok (.cltu 24 (.a 4) .zr) ∧
    decode 0b0100110010111001 0b1010011110000000 = .ok (.cleu 25 (.a 4) .zr) ∧
    decode 0b1000110011011111 0b11000111111111111111111111111111 = .ok (.ceqi 31 (.q 0) (-1)) ∧
    decode 0b1000110011111110 0b11000111111111111111111111111110 = .ok (.clti 30 (.q 0) (-2)) ∧
    decode 0b1000110100011101 0b11000111111111111111111111111101 = .ok (.cltui 29 (.q 0) (-3)) ∧
    decode 0b0100110100100011 0b0011111111000001 = .ok (.pand 3 7 31 true false) ∧
    decode 0b0100110101000011 0b0011111111000010 = .ok (.por 3 7 31 false true) ∧
    decode 0b0100110101100011 0b0011111111000011 = .ok (.pxor 3 7 31 true true) ∧
    decode 0b0100110110000011 0b1111000000000000 = .ok (.pnot 3 30) ∧
    decode 0b1000110110100100 0b11100101011111000000000000010011 = .ok (.sel (.g 4) .nf (.a 5) 19) ∧
    decode 0b0100110111000111 0b1111011110000000 = .ok (.pget (.g 7)) ∧
    decode 0b0100110111100000 0b0011111110000000 = .ok (.pset (.g 7)) ∧
    decode 0b0100111000001001 0b1000011110000000 = .ok (.tfull 9 (.a 0)) :=
  ⟨rfl, rfl, rfl, rfl, rfl, rfl, rfl, rfl, rfl, rfl, rfl, rfl, rfl, rfl, rfl, rfl, rfl⟩
/-- R176, R177, R180, R181. -/
theorem test_words_floats :
    decode 0b0101000000000001 0b0001010011000000 = .ok (.fadd (.g 1) (.g 2) (.a 3) .f32) ∧
    decode 0b0101000000100001 0b0001010011000001 = .ok (.fsub (.g 1) (.g 2) (.a 3) .f64) ∧
    decode 0b0101000001000001 0b0001010011000010 = .ok (.fmul (.g 1) (.g 2) (.a 3) .f16) ∧
    decode 0b0101000001100001 0b0001010011000011 = .ok (.fdiv (.g 1) (.g 2) (.a 3) .bf16) ∧
    decode 0b0101000010000001 0b0001011110000001 = .ok (.fsqrt (.g 1) (.g 2) .f64) ∧
    decode 0b1001000010100001 0b00010100111101000000000000000011 = .ok (.fma (.g 1) (.g 2) (.a 3) (.q 2) .bf16) ∧
    decode 0b0101000011000001 0b0001010011000010 = .ok (.fmin (.g 1) (.g 2) (.a 3) .f16) ∧
    decode 0b0101000011100001 0b0001010011000000 = .ok (.fmax (.g 1) (.g 2) (.a 3) .f32) ∧
    decode 0b0101000100000001 0b0001011110000001 = .ok (.fabs (.g 1) (.g 2) .f64) ∧
    decode 0b0101000100100001 0b0001011110000010 = .ok (.fneg (.g 1) (.g 2) .f16) ∧
    decode 0b0101000101000101 0b0001010011000000 = .ok (.fceq 5 (.g 2) (.a 3) .f32) ∧
    decode 0b0101000101100110 0b0001010011000001 = .ok (.fclt 6 (.g 2) (.a 3) .f64) ∧
    decode 0b0101000110000111 0b0001010011000010 = .ok (.fcle 7 (.g 2) (.a 3) .f16) ∧
    decode 0b0101000110100010 0b0001111110100000 = .ok (.fcvt (.g 2) (.g 3) .f32 .toE4) ∧
    decode 0b0101000110100010 0b0001111110010001 = .ok (.fcvt (.g 2) (.g 3) .f64 (.fromF .f16)) ∧
    decode 0b0101000111000010 0b0001111110111000 = .ok (.fcvti (.g 2) (.g 3) .f32 .n8) ∧
    decode 0b0101000111100010 0b0001111110001010 = .ok (.icvtf (.g 2) (.g 3) .f16 .i32) ∧
    decode 0b0101001000000010 0b0001111110000001 = .ok (.fclass (.g 2) (.g 3) .f64) :=
  ⟨rfl, rfl, rfl, rfl, rfl, rfl, rfl, rfl, rfl, rfl, rfl, rfl, rfl, rfl, rfl, rfl, rfl, rfl⟩
/-- Table 9-1, R186, R129. -/
theorem test_words_memory :
    decode 0b1001010000011000 0b10111101100000000000000000000000 = .ok (.ld (.q 0) 7 .hs 0x800000) ∧
    decode 0b0101010000100100 0b1001011110000110 = .ok (.ldpi (.g 4) 2 .ws) ∧
    decode 0b1001010001011110 0b10001011011111111111111111111111 = .ok (.st .zr 1 .d 0x7FFFFF) ∧
    decode 0b0101010001100101 0b1001011110000010 = .ok (.stpi (.g 5) 2 .w) ∧
    decode 0b1001010010010110 0b10000100000000000000000000000001 = .ok (.lda (.a 6) 0 .bs 1) ∧
    decode 0b1101010010100010 0b100111111000101001110000000000000000000000000000 = .ok (.ldx (.g 2) 3 .d 5 0x10000000) ∧
    decode 0b0101010011000000 0b1010111110000000 = .ok (.erase 5) ∧
    decode 0b0001010011100101 0 = .ok (.fence .pd) ∧
    decode 0b1101010100000010 0b101001111001101011111111111111111111111111111000 = .ok (.ldaq (.g 2) 4 .w .di 0xFFFFFFF8) ∧
    decode 0b1101010100100010 0b101001111001000100000000000000000000000000001000 = .ok (.strel (.g 2) 4 .h .qd 8) ∧
    decode 0b1001010101000000 0b10011001000000000000000000000101 = .ok (.pref 3 .h 5) :=
  ⟨rfl, rfl, rfl, rfl, rfl, rfl, rfl, rfl, rfl, rfl, rfl⟩
/-- Tables 9-1 and 9-5, R192, R54, R55. -/
theorem test_words_atomics :
    decode 0b1101100000000011 0b100011111010110100000000000000000000000000010000 = .ok (.rsv (.g 3) 1 ⟨.pd, true, false, true, 16⟩) ∧
    decode 0b1101100000100011 0b100010010000001000000000000000000000000000010000 = .ok (.rls (.g 3) 1 (.g 4) ⟨.ln, false, true, false, 16⟩) ∧
    decode 0b1101100001000011 0b100011111000100000000000000000000000000000010000 = .ok (.rlsn (.g 3) 1 ⟨.co, false, false, false, 16⟩) ∧
    decode 0b0001100001100000 0 = .ok (.waitrs) ∧
    decode 0b1101100010010010 0b101101100100000011111111111111111111111111111100 = .ok (.aadd (.a 2) 6 (.q 1) ⟨.ln, false, false, false, 0xFFFFFFFC⟩) ∧
    decode 0b1101100010110010 0b101101100100100111111111111111111111111111111100 = .ok (.aand (.a 2) 6 (.q 1) ⟨.co, false, false, true, 0xFFFFFFFC⟩) ∧
    decode 0b1101100011010010 0b101101100101010011111111111111111111111111111100 = .ok (.aor (.a 2) 6 (.q 1) ⟨.qd, true, false, false, 0xFFFFFFFC⟩) ∧
    decode 0b1101100011110010 0b101101100101110111111111111111111111111111111100 = .ok (.axor (.a 2) 6 (.q 1) ⟨.di, true, false, true, 0xFFFFFFFC⟩) ∧
    decode 0b1101100100010010 0b101101100110001011111111111111111111111111111100 = .ok (.amin (.a 2) 6 (.q 1) ⟨.pk, false, true, false, 0xFFFFFFFC⟩) ∧
    decode 0b1101100100110010 0b101101100110101111111111111111111111111111111100 = .ok (.amax (.a 2) 6 (.q 1) ⟨.pd, false, true, true, 0xFFFFFFFC⟩) ∧
    decode 0b1101100101010010 0b101101100100011011111111111111111111111111111100 = .ok (.aminu (.a 2) 6 (.q 1) ⟨.ln, true, true, false, 0xFFFFFFFC⟩) ∧
    decode 0b1101100101110010 0b101101100100111111111111111111111111111111111100 = .ok (.amaxu (.a 2) 6 (.q 1) ⟨.co, true, true, true, 0xFFFFFFFC⟩) ∧
    decode 0b1101100110010010 0b101101100101000011111111111111111111111111111100 = .ok (.aswp (.a 2) 6 (.q 1) ⟨.qd, false, false, false, 0xFFFFFFFC⟩) ∧
    decode 0b1101100110110010 0b101101100101100111111111111111111111111111111100 = .ok (.cas (.a 2) 6 (.q 1) ⟨.di, false, false, true, 0xFFFFFFFC⟩) ∧
    decode 0b1101100111010010 0b101101100110010011111111111111111111111111111100 = .ok (.aincb (.a 2) 6 (.q 1) ⟨.pk, true, false, false, 0xFFFFFFFC⟩) ∧
    decode 0b1101100111110010 0b101101100110110111111111111111111111111111111100 = .ok (.afadd (.a 2) 6 (.q 1) ⟨.pd, true, false, true, 0xFFFFFFFC⟩) ∧
    decode 0b1001101000000010 0b10001001001111001111111111111000 = .ok (.redadd 2 1 (.g 4) false 0xFFF8) ∧
    decode 0b1001101000100011 0b10001001001111011111111111111000 = .ok (.redmin 3 1 (.g 4) true 0xFFF8) ∧
    decode 0b1001101001000100 0b10001001001111000000000000001000 = .ok (.redmax 4 1 (.g 4) false 0x8) ∧
    decode 0b1001101001100101 0b10001001001111010000000000001000 = .ok (.redfadd 5 1 (.g 4) true 0x8) ∧
    decode 0b1001101010011110 0b10110001111111010000000001000000 = .ok (.pcadd .zr 6 (.g 7) true 0x40) ∧
    decode 0b0101101010100001 0b1011011110000001 = .ok (.pcrd (.g 1) 6 true) ∧
    decode 0b0101101011000001 0b1011001110000001 = .ok (.pcmrg (.g 1) 6 14 true) ∧
    decode 0b0101101011100001 0b1011011110000001 = .ok (.pclv (.g 1) 6 true) ∧
    decode 0b0101101011100001 0b1011011011000010 = .ok (.pclvSet (.g 1) 6 (.q 3) false) ∧
    decode 0b0101110000000011 0b1111011110001010 = .ok (.segrd (.g 3) 2 .limit) ∧
    decode 0b0101110000100010 0b0010100110000011 = .ok (.segnw 2 (.g 5) (.g 6) 3) ∧
    decode 0b1001110001000011 0b11110000000000000000000000000010 = .ok (.csrr (.g 3) 2) ∧
    decode 0b1001110001100011 0b11100000000000000000000000000000 = .ok (.csrw (.g 3) .nf 0) ∧
    decode 0b1001110010011110 0b00001000000000000000000000000011 = .ok (.csrset .zr (.g 1) 3) ∧
    decode 0b1001110010110001 0b00001000000000000000000000000000 = .ok (.csrclr (.a 1) (.g 1) 0) :=
  ⟨rfl, rfl, rfl, rfl, rfl, rfl, rfl, rfl, rfl, rfl, rfl, rfl, rfl, rfl, rfl, rfl, rfl, rfl, rfl, rfl, rfl, rfl, rfl, rfl, rfl, rfl, rfl, rfl, rfl, rfl, rfl⟩
/-- Tables 7-8 and 10-1. -/
theorem test_words_vector_1 :
    decode 0b1010000000010011 0b10001100101111000001101010000000 = .ok (.vadd .f32 ⟨false, 6⟩ ⟨3, true⟩ ⟨1, false⟩ (.strm ⟨2, true⟩)) ∧
    decode 0b1010000000110011 0b10001010111111000111010100100000 = .ok (.vsub .f16 ⟨true, 5⟩ ⟨3, false⟩ ⟨1, true⟩ (.scal 11)) ∧
    decode 0b1010000001010011 0b10001100101111001001101010000000 = .ok (.vmul .bf16 ⟨false, 6⟩ ⟨3, true⟩ ⟨1, false⟩ (.strm ⟨2, true⟩)) ∧
    decode 0b1010000010010011 0b10001100101111010001101010000000 = .ok (.vmin .i16 ⟨false, 6⟩ ⟨3, true⟩ ⟨1, false⟩ (.strm ⟨2, true⟩)) ∧
    decode 0b1010000010110011 0b10001010111111010111010100100000 = .ok (.vmax .i8 ⟨true, 5⟩ ⟨3, false⟩ ⟨1, true⟩ (.scal 11)) ∧
    decode 0b1010000100010011 0b10001100101111011101101010000000 = .ok (.vdiv .e5 ⟨false, 6⟩ ⟨3, true⟩ ⟨1, false⟩ (.strm ⟨2, true⟩)) ∧
    decode 0b1010000110010011 0b10001100101111001101101010000000 = .ok (.vand .i32 ⟨false, 6⟩ ⟨3, true⟩ ⟨1, false⟩ (.strm ⟨2, true⟩)) ∧
    decode 0b1010000110110011 0b10001010111111010011010100100000 = .ok (.vor .i16 ⟨true, 5⟩ ⟨3, false⟩ ⟨1, true⟩ (.scal 11)) ∧
    decode 0b1010000111010011 0b10001100101111010101101010000000 = .ok (.vxor .i8 ⟨false, 6⟩ ⟨3, true⟩ ⟨1, false⟩ (.strm ⟨2, true⟩)) ∧
    decode 0b1010000111110011 0b10001010111111001111010100100000 = .ok (.vshl .i32 ⟨true, 5⟩ ⟨3, false⟩ ⟨1, true⟩ (.scal 11)) ∧
    decode 0b1010001000010011 0b10001100101111010001101010000000 = .ok (.vshr .i16 ⟨false, 6⟩ ⟨3, true⟩ ⟨1, false⟩ (.strm ⟨2, true⟩)) ∧
    decode 0b1010001000110011 0b10001010111111010111010100100000 = .ok (.vsra .i8 ⟨true, 5⟩ ⟨3, false⟩ ⟨1, true⟩ (.scal 11)) ∧
    decode 0b1010001001010011 0b10001100101111001001101010000000 = .ok (.vceq .bf16 ⟨false, 6⟩ ⟨3, true⟩ ⟨1, false⟩ (.strm ⟨2, true⟩)) ∧
    decode 0b1010001001110011 0b10001010111111001111010100100000 = .ok (.vclt .i32 ⟨true, 5⟩ ⟨3, false⟩ ⟨1, true⟩ (.scal 11)) ∧
    decode 0b1010000001110011 0b10001100101010000110100011000000 = .ok (.vfma .f16 ⟨true, 2⟩ ⟨3, false⟩ ⟨1, false⟩ (.strm ⟨2, true⟩) ⟨4, true⟩) ∧
    decode 0b1010000011010111 0b10110111101111000010011000000000 = .ok (.vabs .f32 ⟨true, 1⟩ ⟨7, true⟩ ⟨6, false⟩) ∧
    decode 0b1010000011110111 0b10110111101111010110011000000000 = .ok (.vneg .i8 ⟨true, 1⟩ ⟨7, true⟩ ⟨6, false⟩) :=
  ⟨rfl, rfl, rfl, rfl, rfl, rfl, rfl, rfl, rfl, rfl, rfl, rfl, rfl, rfl, rfl, rfl, rfl⟩
/-- Tables 7-8 and 10-1. -/
theorem test_words_vector_2 :
    decode 0b1010000100110111 0b10110111101111000110011000000000 = .ok (.vsqrt .f16 ⟨true, 1⟩ ⟨7, true⟩ ⟨6, false⟩) ∧
    decode 0b1010000101010111 0b10110111101111001010011000000000 = .ok (.vrsq .bf16 ⟨true, 1⟩ ⟨7, true⟩ ⟨6, false⟩) ∧
    decode 0b1010000101110111 0b10110111101111011010011000000000 = .ok (.vexp2 .e4 ⟨true, 1⟩ ⟨7, true⟩ ⟨6, false⟩) ∧
    decode 0b1010001010110111 0b10110111101111001110011000000000 = .ok (.vrsum .i32 ⟨true, 1⟩ ⟨7, true⟩ ⟨6, false⟩) ∧
    decode 0b1010001011010111 0b10110111101111010010011000000000 = .ok (.vrmax .i16 ⟨true, 1⟩ ⟨7, true⟩ ⟨6, false⟩) ∧
    decode 0b1010010000010111 0b10110111101111011110011000000000 = .ok (.vmov .e5 ⟨true, 1⟩ ⟨7, true⟩ ⟨6, false⟩) ∧
    decode 0b1010010001110111 0b10110111101111000010011000000000 = .ok (.vunpk .f32 ⟨true, 1⟩ ⟨7, true⟩ ⟨6, false⟩) ∧
    decode 0b1010010100010111 0b10110111101111001010011000000000 = .ok (.vtrn .bf16 ⟨true, 1⟩ ⟨7, true⟩ ⟨6, false⟩) ∧
    decode 0b1010001010010011 0b10001000101010100000001101100000 = .ok (.vsel .f32 ⟨false, 0⟩ ⟨3, true⟩ ⟨1, true⟩ (.scal 2) ⟨5, true⟩) ∧
    decode 0b1010001011110011 0b11110111101111001100111000000000 = .ok (.viota .i32 ⟨false, 3⟩ ⟨3, true⟩) ∧
    decode 0b1010001100010001 0b11110001111111001100001000100000 = .ok (.vset .i32 ⟨false, 0⟩ ⟨1, true⟩ 7) ∧
    decode 0b1010010000110011 0b10001010011111011001000100100000 = .ok (.vcvt .e4 ⟨false, 4⟩ ⟨3, false⟩ ⟨1, true⟩ 9) ∧
    decode 0b1010010001010011 0b10001010011111011111001000100000 = .ok (.vpack .e5 ⟨true, 4⟩ ⟨3, true⟩ ⟨1, false⟩ 9) ∧
    decode 0b1010010010010011 0b10001100101111010111111000000000 = .ok (.gath .i8 ⟨true, 7⟩ ⟨3, true⟩ 1 ⟨2, false⟩) ∧
    decode 0b1010010010110011 0b10010101000010001110001010000000 = .ok (.gathf .i32 ⟨true, 0⟩ ⟨3, true⟩ 2 ⟨4, true⟩ 4) ∧
    decode 0b1010010011010011 0b10001100101111000110000100000000 = .ok (.scat .f16 ⟨true, 0⟩ 3 ⟨1, true⟩ ⟨2, false⟩) ∧
    decode 0b0110010011100010 0b0001111110000000 = .ok (.vlen (.g 2) (.g 3)) ∧
    decode 0b1010010100110001 0b10010100110010001110001010000000 = .ok (.vcmpr .i32 ⟨true, 0⟩ ⟨1, true⟩ ⟨2, false⟩ ⟨3, true⟩ 4) :=
  ⟨rfl, rfl, rfl, rfl, rfl, rfl, rfl, rfl, rfl, rfl, rfl, rfl, rfl, rfl, rfl, rfl, rfl, rfl⟩
/-- Tables 7-8 and 11-2. -/
theorem test_words_engines :
    decode 0b1010100000001111 0b10100101011111001110100100000101 = .ok (.mma 15 4 5 ⟨.bf16, ⟨true, 2⟩, false, true, 5⟩) ∧
    decode 0b1010100000000011 0b10001100101111000100001011111111 = .ok (.mma 3 1 2 ⟨.c5, ⟨false, 0⟩, true, false, 0xFF⟩) ∧
    decode 0b0110100000101111 0b1111011110100110 = .ok (.mzero 15 ⟨true, 6⟩) ∧
    decode 0b1010100001000100 0b10010111101111001100010100000000 = .ok (.mlda 4 ⟨2, true⟩ true ⟨false, 1⟩) ∧
    decode 0b1010100001100100 0b10010111101111010110001000000000 = .ok (.msta 4 ⟨2, false⟩ .i8 true ⟨true, 0⟩) ∧
    decode 0b1010100010000100 0b10010111101111011100110100000000 = .ok (.mstc 4 ⟨2, true⟩ true ⟨false, 3⟩) ∧
    decode 0b1010100010101110 0b11110111101111000010001000001001 = .ok (.madd 14 9 true ⟨true, 0⟩) ∧
    decode 0b1010100011000100 0b10010111101111000001000100000000 = .ok (.mscal 4 ⟨2, true⟩ ⟨false, 4⟩) ∧
    decode 0b1010100011100100 0b10010111101111000010000000000000 = .ok (.mrssq 4 ⟨2, false⟩ ⟨true, 0⟩) ∧
    decode 0b1010110000010011 0b10001001101011100010011100000000 = .ok (.cpy ⟨3, true⟩ ⟨1, true⟩ 6 (some 7) ⟨true, 1⟩) ∧
    decode 0b1010110000110011 0b10001001101111000000100100000000 = .ok (.cpy2 ⟨3, false⟩ ⟨1, true⟩ 6 none ⟨false, 2⟩) ∧
    decode 0b1010110001010011 0b10001001101000000010001000001010 = .ok (.cpym ⟨3, true⟩ ⟨1, false⟩ 6 (some 0) ⟨true, 0⟩ 0xA) ∧
    decode 0b0110110001100010 0b1000111010000000 = .ok (.attn (.g 2) 1 (.q 2)) ∧
    decode 0b0110110010011110 0b1000100010000000 = .ok (.await .zr 1 (.g 2)) ∧
    decode 0b1010110010100000 0b00001110111111000011110000000000 = .ok (.depo (.g 1) (.q 3) ⟨true, 7⟩) ∧
    decode 0b0010110011000110 0 = .ok (.ccinc 6) ∧
    decode 0b0110110011100001 0b1111011110111111 = .ok (.waitlt 1 63) ∧
    decode 0b0010110100000000 0 = .ok (.efence) :=
  ⟨rfl, rfl, rfl, rfl, rfl, rfl, rfl, rfl, rfl, rfl, rfl, rfl, rfl, rfl, rfl, rfl, rfl, rfl⟩
/-- Tables 12-1, 12-2, 12-5, 5-3 and 5-5. -/
theorem test_words_tasks :
    decode 0b1011000000010100 0b10001100111001000100000110100101 = .ok (.susp 4 1 (some 3) 2 (.tmma true false 37) (some .f32)) ∧
    decode 0b1011000000010100 0b10001111101001000111000000000000 = .ok (.susp 4 1 none 2 .trowsum none) ∧
    decode 0b1011000000110100 0b01100100111001001001100010001000 = .ok (.apply 4 12 3 2 ⟨.c4, 9, 17⟩) ∧
    decode 0b0111000001000101 0b1010011110000000 = .ok (.force (.g 5) 4) ∧
    decode 0b0111000001100000 0b1010011110000000 = .ok (.spark 4) ∧
    decode 0b0111000010011100 0b1010011110111110 = .ok (.htest .nf 4 31) ∧
    decode 0b1011000010110001 0b10010111101111000000001100001000 = .ok (.hval 1 2 ⟨.i32, 0, 1⟩) ∧
    decode 0b0111000011000000 0b1010011110000000 = .ok (.hfill 4) ∧
    decode 0b1011000011100000 0b00011100010100000000000000000000 = .ok (.task 3 1 8) ∧
    decode 0b0111000100000101 0b1111011110011101 = .ok (.next (.g 5) 29) ∧
    decode 0b0111000100111000 0b1111011110000000 = .ok (.range (.q 0)) ∧
    decode 0b0111010000000000 0b0101011110000000 = .ok (.mig 10) ∧
    decode 0b0011010000100000 0 = .ok (.home) ∧
    decode 0b1011010001000001 0b00010111001111000000000000000000 = .ok (.send (.g 1) 2 .nf) ∧
    decode 0b0111010001100001 0b1101011110000000 = .ok (.qcnt (.g 1) (.q 2)) ∧
    decode 0b0111010001100001 0b1110111110000000 = .ok (.qcnt (.g 1) .rq) ∧
    decode 0b0011010010000010 0 = .ok (.bar .qd) ∧
    decode 0b1011010010100001 0b00010000111111011010000000000000 = .ok (.redn (.g 1) 2 3 .fadd .pk) ∧
    decode 0b0111010011000001 0b1011011110000000 = .ok (.launch (.g 1) 6) :=
  ⟨rfl, rfl, rfl, rfl, rfl, rfl, rfl, rfl, rfl, rfl, rfl, rfl, rfl, rfl, rfl, rfl, rfl, rfl, rfl⟩
/-- Table 18-4, R279. -/
theorem test_words_privileged :
    decode 0b0011110000000000 0 = .ok (.sret) ∧
    decode 0b1011110000100001 0b11110000000000000000100000000101 = .ok (.scsrr (.g 1) 0x805) ∧
    decode 0b1011110001011110 0b10001000000000000000100000000000 = .ok (.scsrw .zr (.a 1) 0x800) ∧
    decode 0b0111110001100001 0b0001010011000000 = .ok (.ctxsv (.g 1) 2 3) ∧
    decode 0b0111110010000001 0b0001010011000000 = .ok (.ctxld (.g 1) 2 3) ∧
    decode 0b0111110010100000 0b1111011110000000 = .ok (.tlbinvCtx) ∧
    decode 0b0111110010100000 0b0001111110000001 = .ok (.tlbinvPage 3) ∧
    decode 0b0111110010100000 0b1111011110000010 = .ok (.tlbinvPart) ∧
    decode 0b1011110011000000 0b00001000100001101100000000000000 = .ok (.diagst 1 2 3 .sc) ∧
    decode 0b1011110011110100 0b00001111100001101000000000000000 = .ok (.diagld (.a 4) 1 3 .acc) ∧
    decode 0b1011110100000100 0b00001111101111000000000000000000 = .ok (.detain (.g 4) 1) ∧
    decode 0b0111110100100100 0b0000100010000000 = .ok (.lmapw (.g 4) 1 2) ∧
    decode 0b0111110101000100 0b0000111110000000 = .ok (.scant (.g 4) 1) ∧
    decode 0b0011110101100000 0 = .ok (.dfrz) ∧
    decode 0b0111110110000100 0b0000111110000000 = .ok (.slotkill (.g 4) 1) ∧
    decode 0b0111110110000100 0b0000111110000001 = .ok (.slotkillCtx (.g 4) 1) ∧
    decode 0b0111110110100100 0b0000111110000000 = .ok (.preempt (.g 4) 1) ∧
    decode 0b1011110111000100 0b00001000100001100000000000000000 = .ok (.matw (.g 4) 1 2 3) ∧
    decode 0b0011110111100000 0 = .ok (.idle) :=
  ⟨rfl, rfl, rfl, rfl, rfl, rfl, rfl, rfl, rfl, rfl, rfl, rfl, rfl, rfl, rfl, rfl, rfl, rfl, rfl⟩

/-- Refused: a pointer field that names g15, a destination `rq`, operand code 31, a used sb of a one-source form, scope 6, a size 7, an `MMA` input 5,
a `VAND` of floats, `GATH` without its wait bit, format code 4 of `FADD`, privileged words with a wrong tail kind (R149, R150, R152, R153). -/
theorem test_words_refused :
    decode 0b1001010000000011 0b01111011000000000000000000010000 = .error .field ∧ decode 0b0100010000011101 0b0000100001000000 = .error .field ∧
    decode 0b0100010000000010 0b1111100001000000 = .error .field ∧ decode 0b0100011011100010 0b0000100001000000 = .error .field ∧
    decode 0b0001010011100110 0 = .error .field ∧ decode 0b1001010000000011 0b10001111000000000000000000010000 = .error .field ∧
    decode 0b1010100000000011 0b10001100101111010100000000000000 = .error .field ∧
    decode 0b1010000110010011 0b10001100101111000010011110000000 = .error .field ∧
    decode 0b1010010010010011 0b10001100101111010100000000000000 = .error .field ∧ decode 0b0101000000000010 0b0000100001000100 = .error .field ∧
    decode 0b0011110010100000 0 = .error .tail ∧ decode 0b0011100000000000 0 = .error .unassigned :=
  ⟨rfl, rfl, rfl, rfl, rfl, rfl, rfl, rfl, rfl, rfl, rfl, rfl⟩
/-- The worked line of Table 7-9 with halfword 5 nonzero, or with its header one head short of its tails, is no line (R143). -/
theorem test_line_malformed :
    Line.wf [0x2180, 0xC901, 0x4402, 0x9403, 0x0040, 1, 0, 0, 0, 0, 0, 0, 0, 0, 0, 0, 0, 0, 0, 0, 0, 0, 0, 0, 0, 0, 0x0010, 0x8B00, 0x0840, 5, 0, 0xF780] = false ∧
    Line.wf [0x2140, 0xC901, 0x4402, 0x9403, 0x0040, 0, 0, 0, 0, 0, 0, 0, 0, 0, 0, 0, 0, 0, 0, 0, 0, 0, 0, 0, 0, 0, 0x0010, 0x8B00, 0x0840, 5, 0, 0xF780] = false := by
  decide +kernel

/-! ## Ill-formed terms that the check refuses -/

theorem smoke_destination : Instr.wf (.add .rq (.g 1) (.g 2) false) = false ∧ Instr.wf (.add (.g 1) .rq (.g 2) false) = true := ⟨rfl, rfl⟩
theorem smoke_formats :
    Instr.wf (.vdiv .i32 ⟨false, 0⟩ ⟨0, false⟩ ⟨1, false⟩ (.scal 1)) = false ∧ Instr.wf (.vand .f32 ⟨false, 0⟩ ⟨0, false⟩ ⟨1, false⟩ (.scal 1)) = false ∧
    Instr.wf (.vpack .f16 ⟨false, 0⟩ ⟨0, false⟩ ⟨1, false⟩ 1) = false ∧ Instr.wf (.gath .f32 ⟨false, 0⟩ ⟨0, false⟩ 1 ⟨2, false⟩) = false :=
  ⟨rfl, rfl, rfl, rfl⟩
theorem smoke_parts :
    Instr.wf (.qtail 16 0 0) = false ∧ Instr.wf (.qtail 0 32 0) = false ∧ Instr.wf (.launchDispatch 16 0) = false ∧
    Instr.wf (.launchRecordTake (.host 0 32)) = false ∧ Instr.wf (.launchRecordTake (.device 8)) = false ∧
    Instr.wf (.pagemove ⟨0, 0⟩ 4096 0 0) = false ∧ Instr.wf (.portAck 0 1024) = false := by decide +kernel
theorem smoke_cores :
    Instr.wf (.imageLoad 0 0 4096) = false ∧ Instr.wf (.taskSteal 0 4096) = false ∧ Instr.wf (.slotFill 4096 0) = false ∧
    Instr.wf (.doorbell ⟨0, 0⟩ 3968 0) = false ∧ Instr.wf (.slotFill 4095 0) = true := by decide +kernel
theorem smoke_banks :
    Bank.ok (.slice 64 0 0) = false ∧ Bank.ok (.slice 0 8 0) = false ∧ Bank.ok (.slice 0 0 12) = false ∧ Bank.ok (.sp 0 4096 0) = false ∧
    Bank.ok (.sp 0 0 3) = false ∧ PerfTarget.ok (.line 4096 .mat 0 0) = false ∧ Source.ok (.slice 96) = false ∧ Source.ok (.core 4096) = false := by
  decide +kernel
theorem smoke_registers :
    HostReg.ok (.qbase 16 0) = false ∧ HostReg.ok (.prHead 16) = false ∧ HostReg.ok (.detMap 0 8 0) = false ∧ HostReg.ok (.detMap 0 0 32) = false := by
  decide +kernel
theorem smoke_storage :
    ErrLoc.ok (.dram (2 ^ 52)) = false ∧ ErrLoc.ok (.dram (2 ^ 38 - 8)) = false ∧ ErrLoc.ok (.spad 0 Config.spBytes) = false ∧
    ErrLoc.ok (.acc 0 16 0) = false ∧ ErrLoc.ok (.acc 0 0 512) = false ∧ ErrLoc.ok (.cell (2 ^ 52)) = false ∧
    ErrLoc.ok (.diary (.core 0) 1024) = false ∧ ErrLoc.ok (.diary (.slice 0) 2047) = true := by decide +kernel

/-! ## Steps -/

/-- What a step of the word leaves in a register, in the counter of the next instruction, or as the cause of a user trap. -/
def outOf {α : Type} (t : Thread) (w : Nat) (f : Thread → α) : Option α :=
  match step (stWord t w) with
  | .next s => (s.threadAt 0 0).map f
  | _ => none
/-- A thread with these two source values in g2 and a3. -/
def src (x y : Word) : Thread := { th with g := th.g.set 2 (.of x), a := th.a.set 3 (.of y) }

/-- R166's own example: `add.w g9, g2, a3`. -/
theorem test_step_add : outOf (src 0x7FFFFFFF 1) 0x14C14409 (fun t => t.gv 9) = some 0xFFFFFFFF80000000 := by decide +kernel
/-- The line holds one head, so execution goes on at head 1 of the next line (R144). -/
theorem test_step_pc : outOf (src 0 0) 0x14C14409 (fun t => t.pc) = some 0x82 := by decide +kernel
/-- R181's examples: `fcvti.n8.f32 g7, g2` of -3.7 and of 300.0. -/
theorem test_step_fcvti : outOf (src 0xC06CCCCD 0) (0x17B8 * 65536 + 0x51C7) (fun t => (t.gv 7, t.sst.getLsbD 0)) = some (0, true) ∧
    outOf (src 0x43960000 0) (0x17B8 * 65536 + 0x51C7) (fun t => t.gv 7) = some 255 := by decide +kernel
/-- Table 8-6: 36.0 from `icvtf.f32.i64`, its square root, and 6.0 as E4M3. -/
theorem test_step_icvtf : outOf (src 36 0) (0x1780 * 65536 + 0x51E4) (fun t => t.gv 4) = some 0x42100000 := by decide +kernel
theorem test_step_fsqrt : outOf (src 0x42100000 0) (0x1780 * 65536 + 0x5085) (fun t => t.gv 5) = some 0x40C00000 := by decide +kernel
theorem test_step_fcvt : outOf (src 0x40C00000 0) (0x17A0 * 65536 + 0x51A6) (fun t => t.gv 6) = some 0x4C := by decide +kernel
/-- `loop g2, line` with g2 = 0 writes all ones and branches (Table 8-6's note): here to head 1 of its own line. -/
theorem test_step_loop : outOf (src 0 0) (0xF0000001 * 65536 + 0x8142) (fun t => (t.gv 2, t.pc)) = some (BitVec.allOnes 64, 0x42) := by decide +kernel
/-- `TRAP 41`: cause 0x0D, the code, and the successor PC (R164); the handler is head 1 of the line. -/
theorem test_step_trap : outOf th (0xF7A9 * 65536 + 0x4160) (fun t => (t.xcause, t.xval, t.xpc, t.pc)) = some (0x0D, 41, 0x82, 0x42) := by decide +kernel
/-- R55's example, `segnw.rw sg2, g5, g6` with delta 0x10 and limit 0x20: the rights r and w stay. -/
theorem test_step_segnw :
    outOf { th with g := th.g.set 5 (.of 0x10) |>.set 6 (.of 0x20) } (0x2983 * 65536 + 0x5C22) (fun t => t.segs[(2 : Fin 8)]) =
      some ⟨0x800000080010, 0x20, true, true, false⟩ := by decide +kernel
/-- Signed division overflow and division by zero (R57): the minimum over -1, and 7 over 0, by `div g9, g2, a3`. -/
theorem test_step_div : outOf (src (BitVec.intMin 64) (-1)) (0x14C0 * 65536 + 0x45A9) (fun t => t.gv 9) = some (BitVec.intMin 64) ∧
    outOf (src 7 0) (0x14C0 * 65536 + 0x45A9) (fun t => t.gv 9) = some (BitVec.allOnes 64) := by decide +kernel
/-- A privileged word in user mode: supervisor cause `PRIV`, with its PC and its encoding (R148, R149). -/
theorem test_step_priv : outOf th 0x3C00 (fun t => (t.mode, t.scause, t.spc)) = some (true, 0x41, 0x42) := by decide +kernel

end Sys2Proof.Tests
end

section
/-! PROOFS. Every step keeps memory in its canonical form (O57).

Memory is written by `correctWord`, `store`, `performDiag`, `copyMem`, `copyPlain`, `flipWord` and `flipCached` only,
whose lemmas cite the laws of `Memory.write`, `Memory.writes`, `Memory.copyRange` and `Memory.filter`; a cold reset
empties it. Every other function of the model passes it on. So each function `f` on the way from `step` has one lemma
`MemOk.f`, from canonical memory before to canonical memory after, put together from the lemmas of the functions that
it calls along the shape of its definition:

* a state is `MemOk`, a pair is so in its state, an outcome is `NextOk`, and an effect is `EffOk` with what its result
  is to satisfy;
* an update of other fields has the memory of the state before by definition, so the fact about that state is the fact
  about the new one. -/

namespace Sys2Proof.Safety

open Sys2Proof.Machine

/-- The next state of an outcome, where there is one, has canonical memory. -/
def NextOk : Host.Outcome State Fault Refusal → Prop
  | .next s => MemOk s
  | _ => True

/-- A result of an effect is as `Q` says, and a stop leaves canonical memory. -/
def EffOk {α : Type} (Q : α → Prop) : Except (StopKind × State) α → Prop
  | .ok a => Q a
  | .error e => MemOk e.2

/-- Each of these turns leaves canonical memory. -/
def ActsOk (l : List Act) : Prop := ∀ a ∈ l, ∀ s, MemOk s → NextOk (a s)

section
variable {s : State} {α β γ : Type} {Q : α → Prop} {P : β → Prop} {c : Prop} [Decidable c]

theorem MemOk.of_mem {t : State} (h : MemOk s) (e : t.mem = s.mem) : MemOk t := by
  unfold MemOk
  rwa [e]

/-! ### Memory after a choice, a fold and a pair -/

theorem MemOk.ite {a b : State} (ha : MemOk a) (hb : MemOk b) : MemOk (if c then a else b) := by
  split <;> assumption

theorem MemOk.iteSnd {a b : α × State} (ha : MemOk a.2) (hb : MemOk b.2) : MemOk (if c then a else b).2 := by
  split <;> assumption

theorem MemOk.foldl {f : State → α → State} (hf : ∀ s x, MemOk s → MemOk (f s x)) (l : List α) (h : MemOk s) :
    MemOk (l.foldl f s) :=
  List.foldlRecOn l f h fun s hs x _ => hf s x hs

theorem MemOk.foldr {f : α → State → State} (hf : ∀ x s, MemOk s → MemOk (f x s)) (l : List α) (h : MemOk s) :
    MemOk (l.foldr f s) :=
  List.foldrRecOn l f h fun s hs x _ => hf x s hs

theorem MemOk.foldlSnd {f : β × State → α → β × State} {r : β × State} (hf : ∀ r x, MemOk r.2 → MemOk (f r x).2)
    (l : List α) (h : MemOk r.2) : MemOk (l.foldl f r).2 :=
  List.foldlRecOn (motive := fun r => MemOk r.2) l f h fun r hr x _ => hf r x hr

theorem MemOk.foldlThd {f : β × γ × State → α → β × γ × State} {r : β × γ × State}
    (hf : ∀ r x, MemOk r.2.2 → MemOk (f r x).2.2) (l : List α) (h : MemOk r.2.2) : MemOk (l.foldl f r).2.2 :=
  List.foldlRecOn (motive := fun r => MemOk r.2.2) l f h fun r hr x _ => hf r x hr

theorem MemOk.foldlM_some {f : State → α → Option State} (hf : ∀ s x s1, MemOk s → f s x = some s1 → MemOk s1)
    (l : List α) {s1 : State} (h : MemOk s) (e : l.foldlM f s = some s1) : MemOk s1 := by
  induction l generalizing s with
  | nil => exact Option.some.inj e ▸ h
  | cons x l ih =>
    obtain ⟨s2, e2, e⟩ := Option.bind_eq_some_iff.mp e
    exact ih (hf s x s2 h e2) e

theorem MemOk.snd {p : α × State} {a : α} (e : p = (a, s)) (h : MemOk p.2) : MemOk s := by
  subst e
  exact h

theorem MemOk.thd {p : α × β × State} {a : α} {b : β} (e : p = (a, b, s)) (h : MemOk p.2.2) : MemOk s := by
  subst e
  exact h

/-! ### Outcomes -/

theorem NextOk.next (h : MemOk s) : NextOk (.next s) := h

theorem NextOk.ite {a b : Host.Outcome State Fault Refusal} (ha : NextOk a) (hb : NextOk b) : NextOk (if c then a else b) := by
  split <;> assumption

theorem NextOk.of_next {o : Host.Outcome State Fault Refusal} (h : NextOk o) (e : o = .next s) : MemOk s := by
  subst e
  exact h

/-! ### Effects -/

theorem EffOk.pure {a : α} (h : Q a) : EffOk Q (Pure.pure a) := h
theorem EffOk.ok {a : α} (h : Q a) : EffOk Q (.ok a) := h
theorem EffOk.stop {k : StopKind} (h : MemOk s) : EffOk Q (stop s k) := h
theorem EffOk.illegal {t : Thread} (h : MemOk s) : EffOk Q (illegal s t) := h

theorem EffOk.ite {a b : Except (StopKind × State) α} (ha : EffOk Q a) (hb : EffOk Q b) : EffOk Q (if c then a else b) := by
  split <;> assumption

theorem EffOk.bind {x : Except (StopKind × State) β} {f : β → Except (StopKind × State) α} (hx : EffOk P x)
    (hf : ∀ b, P b → EffOk Q (f b)) : EffOk Q (x >>= f) := by
  cases x with
  | ok b => exact hf b hx
  | error e => exact hx

theorem EffOk.map {x : Except (StopKind × State) β} {f : β → α} (hx : EffOk P x) (hf : ∀ b, P b → Q (f b)) :
    EffOk Q (x.map f) := by
  cases x with
  | ok b => exact hf b hx
  | error e => exact hx

theorem EffOk.foldlM {f : β → γ → Except (StopKind × State) β} {b : β} (hf : ∀ b x, P b → EffOk P (f b x)) (l : List γ)
    (h : P b) : EffOk P (l.foldlM f b) := by
  induction l generalizing b with
  | nil => exact h
  | cons x l ih => exact .bind (hf b x h) fun b hb => ih hb

theorem EffOk.of_ok {x : Except (StopKind × State) α} {a : α} (h : EffOk Q x) (e : x = .ok a) : Q a := by
  subst e
  exact h

theorem EffOk.of_error {x : Except (StopKind × State) α} {p : StopKind × State} (h : EffOk Q x) (e : x = .error p) :
    MemOk p.2 := by
  subst e
  exact h

end

/-! ### Turns that the machine may take by default -/

section
variable {α : Type}

theorem ActsOk.nil : ActsOk [] := fun _ ha => absurd ha List.not_mem_nil

theorem ActsOk.cons {a : Act} {l : List Act} (ha : ∀ s, MemOk s → NextOk (a s)) (hl : ActsOk l) : ActsOk (a :: l) :=
  List.forall_mem_cons.mpr ⟨ha, hl⟩

theorem ActsOk.append {l m : List Act} (hl : ActsOk l) (hm : ActsOk m) : ActsOk (l ++ m) :=
  List.forall_mem_append.mpr ⟨hl, hm⟩

theorem ActsOk.ite {c : Prop} [Decidable c] {l m : List Act} (hl : ActsOk l) (hm : ActsOk m) : ActsOk (if c then l else m) := by
  split <;> assumption

theorem ActsOk.map {f : α → Act} {l : List α} (hf : ∀ x s, MemOk s → NextOk (f x s)) : ActsOk (l.map f) :=
  List.forall_mem_map.mpr fun x _ => hf x

theorem ActsOk.flatMap {f : α → List Act} {l : List α} (hf : ∀ x, ActsOk (f x)) : ActsOk (l.flatMap f) :=
  List.forall_mem_flatMap.mpr fun x _ => hf x

end

section
variable {s : State}

/-! ### Words of the one memory -/

theorem MemOk.setSynd {k v} (h : MemOk s) : MemOk (s.setSynd k v) := h

theorem MemOk.correctWord {w} (h : MemOk s) : MemOk (s.correctWord w) := by
  unfold State.correctWord
  split
  · exact h
  · exact h
  · exact h.setSynd
  · exact Memory.writes_wf _ _ h

theorem MemOk.correct {k n} (h : MemOk s) : MemOk (s.correct k n) := .ite h (.foldl (fun _ _ h => h.correctWord) _ h)
theorem MemOk.store {k bytes} (h : MemOk s) : MemOk (s.store k bytes) := Memory.writes_wf _ _ h.correct
theorem MemOk.refetch {k n} (h : MemOk s) : MemOk (s.refetch k n) := .ite h h

/-! ### Cores, slots, threads, contexts and partitions -/

theorem MemOk.modCore {c f} (h : MemOk s) : MemOk (s.modCore c f) := h
theorem MemOk.modSlot {c i f} (h : MemOk s) : MemOk (s.modSlot c i f) := h.modCore
theorem MemOk.modAt {c i f} (h : MemOk s) : MemOk (s.modAt c i f) := h.modSlot
theorem MemOk.setOcc {c i o} (h : MemOk s) : MemOk (s.setOcc c i o) := h.modSlot
theorem MemOk.modMe {f} (h : MemOk s) : MemOk (s.modMe f) := h.modAt
theorem MemOk.modWho {who f} (h : MemOk s) : MemOk (s.modWho who f) := h
theorem MemOk.bump (h : MemOk s) : MemOk (s.bump) := h
theorem MemOk.modCtx {part ctx f} (h : MemOk s) : MemOk (s.modCtx part ctx f) := h
theorem MemOk.modPart {p f} (h : MemOk s) : MemOk (s.modPart p f) := h

/-! ### The Diary -/

theorem MemOk.setDiary {d} (h : MemOk s) : MemOk (s.setDiary d) := h
theorem MemOk.notes {src l} (h : MemOk s) : MemOk (s.notes src l) := h.setDiary
theorem MemOk.note {src ty payload} (h : MemOk s) : MemOk (s.note src ty payload) := h.notes

theorem MemOk.noteBank {b ty payload} (h : MemOk s) : MemOk (s.noteBank b ty payload) := by
  unfold State.noteBank
  split
  · exact h.note
  · exact h

theorem MemOk.noteCtx {c i ty mid ctx} (h : MemOk s) : MemOk (s.noteCtx c i ty mid ctx) := h.note
theorem MemOk.noteJump {pc target} (h : MemOk s) : MemOk (s.noteJump pc target) := h.note

/-! ### Operands and their queues -/

theorem MemOk.ready {srcs dsts ps} (h : MemOk s) : EffOk (fun _ => True) (s.ready srcs dsts ps) := by
  unfold State.ready
  split
  · exact .stop h
  · split
    · exact .stop h
    · exact .ite (.stop h) (.ok trivial)

theorem MemOk.limit {bad} (h : MemOk s) : EffOk (fun _ => True) (s.limit bad) := by
  unfold State.limit
  refine .ite ?_ (.ok trivial)
  split
  · exact .stop h
  · exact .illegal h

theorem MemOk.pop {x} (h : MemOk s) : MemOk (s.pop x) := by
  unfold State.pop
  split
  · exact h.modCore
  · exact h.modSlot
  · exact h

theorem MemOk.read1 {t x} (h : MemOk s) : MemOk (s.read1 t x).2 := h.pop

theorem MemOk.write {d v} (h : MemOk s) : MemOk (s.write d v) := by
  unfold State.write
  split
  · exact h.modMe
  · exact h.modMe
  · exact h.modMe.modCore
  · exact h.modCore
  · exact h
  · exact h

theorem MemOk.goto {pc} (h : MemOk s) : MemOk (s.goto pc) := h.modMe
theorem MemOk.advance {t} (h : MemOk s) : MemOk (s.advance t) := h.goto

theorem MemOk.alu2 {d x y f} (h : MemOk s) : EffOk MemOk (alu2 d x y f s) :=
  .bind h.ready fun _ _ => .pure h.pop.pop.write.advance

theorem MemOk.alu1 {d x f} (h : MemOk s) : EffOk MemOk (alu1 d x f s) :=
  .bind h.ready fun _ _ => .pure h.pop.write.advance

theorem MemOk.cmp2 {p x y f} (h : MemOk s) : EffOk MemOk (cmp2 p x y f s) :=
  .bind h.ready fun _ _ => .pure h.pop.pop.modMe.advance

/-! ### What homes and cores do on their own account -/

theorem MemOk.wake {who w} (h : MemOk s) : MemOk (s.wake who w) := h

theorem MemOk.correctNoted {k n} (h : MemOk s) : MemOk (s.correctNoted k n) := by
  unfold State.correctNoted
  refine .ite h (.foldl (fun s w h1 => ?_) _ h)
  split
  · exact h1
  · exact h1
  · extract_lets
    split
    · exact h1.correctWord.note
    · exact h1.correctWord

theorem MemOk.correctEdges {k n} (h : MemOk s) : MemOk (s.correctEdges k n) :=
  .ite h (.foldl (fun _ _ h1 => h1.correctNoted) _ h)

theorem MemOk.wakeWatchers {k n} (h : MemOk s) : MemOk (s.wakeWatchers k n) :=
  .ite h (.of_mem (.foldl (fun _ _ h1 => .foldl (fun _ _ h2 => h2.wake) _ h1) _ h) rfl)

theorem MemOk.clearRel {k n} (h : MemOk s) : MemOk (s.clearRel k n) := h
theorem MemOk.setRel {k sc lcore slot} (h : MemOk s) : MemOk (s.setRel k sc lcore slot) := h
theorem MemOk.clearLost {k n} (h : MemOk s) : MemOk (s.clearLost k n) := h

theorem MemOk.wakeAwaits {k n} (h : MemOk s) : MemOk (s.wakeAwaits k n) := by
  unfold State.wakeAwaits
  refine .ite h (.foldl (fun s i h1 => ?_) _ h)
  split
  · exact h1
  · split
    · exact h1.wake
    · exact h1

theorem MemOk.writeAs {name k bytes} (h : MemOk s) : MemOk (s.writeAs name k bytes) :=
  h.correctEdges.store.clearRel.clearLost.wakeWatchers.wakeAwaits.refetch

theorem MemOk.homeWrite {k bytes} (h : MemOk s) : MemOk (s.homeWrite k bytes) := h.writeAs

theorem MemOk.homeWriteRel {k bytes sc lcore slot} (h : MemOk s) : MemOk (s.homeWriteRel k bytes sc lcore slot) :=
  h.homeWrite.setRel

theorem MemOk.postEvent {part cause ctx lcore slot val} (h : MemOk s) :
    MemOk (s.postEvent part cause ctx lcore slot val) :=
  .ite h.homeWrite.homeWrite.modPart h

theorem MemOk.nack {part addr} (h : MemOk s) : MemOk (s.nack part addr) := .postEvent h

theorem MemOk.hostWrite {part addr f} (h : MemOk s) (hf : ∀ s, MemOk s → MemOk (f s)) :
    MemOk (s.hostWrite part addr f) :=
  .ite h (.ite (hf _ h) h.nack)

theorem MemOk.hostBusy {part} (h : MemOk s) : MemOk (s.hostBusy part) := h
theorem MemOk.modDesc {num f} (h : MemOk s) : MemOk (s.modDesc num f) := h
theorem MemOk.endLaunch {part seq} (h : MemOk s) : MemOk (s.endLaunch part seq) := h

theorem MemOk.act {x} (h : MemOk s) : MemOk (s.act x) := by
  unfold State.act
  split
  · exact h.modDesc
  · exact h.endLaunch

theorem MemOk.signal {who a} (h : MemOk s) : MemOk (s.signal who a) := .ite h h.act
theorem MemOk.flushSignals (h : MemOk s) : MemOk (s.flushSignals) := .foldl (fun _ _ h1 => h1.signal) _ h
theorem MemOk.retireDesc {num} (h : MemOk s) : MemOk (s.retireDesc num) := h
theorem MemOk.setClaim {c} (h : MemOk s) : MemOk (s.setClaim c) := h

theorem MemOk.wakeWaiter {pa who x} (h : MemOk s) : MemOk (s.wakeWaiter pa who x) := by
  unfold State.wakeWaiter
  split
  · exact h.wake
  · exact h.signal

theorem MemOk.claim {pa b part who spark prio} (h : MemOk s) : MemOk (s.claim pa b part who spark prio) :=
  h.homeWrite.setClaim.noteBank

theorem MemOk.revert {pa} (h : MemOk s) : MemOk (s.revert pa) := by
  unfold State.revert
  split
  · exact h
  · extract_lets
    split
    · exact h.homeWrite.noteBank.setClaim
    · exact h.homeWrite.noteBank.setClaim.wakeWaiter

theorem MemOk.closeRecord {pa} (h : MemOk s) : MemOk (s.closeRecord pa) := by
  unfold State.closeRecord
  split
  · exact h
  · exact .of_mem (.foldl (fun _ _ h2 => h2.signal) _ (.foldl (fun _ _ h1 => h1.wakeWaiter) _ h)) rfl

theorem MemOk.freeCell {part ctx cell} (h : MemOk s) : MemOk (s.freeCell part ctx cell) := h.modCtx

theorem MemOk.fillHandle {pa part ctx fmt place lcore slot} (h : MemOk s) :
    MemOk (s.fillHandle pa part ctx fmt place lcore slot) :=
  h.noteBank.homeWriteRel.freeCell.closeRecord

theorem MemOk.poison {pa cause} (h : MemOk s) : MemOk (s.poison pa cause) := h.homeWrite.closeRecord

theorem MemOk.unwind {who} (h : MemOk s) : MemOk (s.unwind who) := by
  unfold State.unwind
  split
  · exact h
  · exact .modWho (.foldl (fun _ _ h1 => h1.revert) _ h)

theorem MemOk.setLineQ {q} (h : MemOk s) : MemOk (s.setLineQ q) := h
theorem MemOk.freeLine {line broken} (h : MemOk s) : MemOk (s.freeLine line broken) := h.noteBank.setLineQ
theorem MemOk.dropRsv {who} (h : MemOk s) : MemOk (s.dropRsv who) := .modWho (.foldl (fun _ _ h1 => h1.freeLine) _ h)
theorem MemOk.dropWaits {who} (h : MemOk s) : MemOk (s.dropWaits who) := h

theorem MemOk.launchLoses {who part seq} (h : MemOk s) : MemOk (s.launchLoses who part seq) := by
  unfold State.launchLoses
  split
  · exact h
  · exact .ite h.signal h

theorem MemOk.dropHeld {c lo hi} (h : MemOk s) : MemOk (s.dropHeld c lo hi) := h

theorem MemOk.dropPair {who} (h : MemOk s) : MemOk (s.dropPair who) := by
  unfold State.dropPair
  refine .foldl (fun s x h1 => ?_) _ h
  split
  · refine .foldl (fun s i h2 => ?_) _ h1
    split
    · exact .ite (.foldl (fun _ _ h3 => h3.dropHeld) _ h2) h2
    · exact h2

theorem MemOk.vacate {who} (h : MemOk s) : MemOk (s.vacate who) := .of_mem h.dropPair rfl

theorem MemOk.retire {t} (h : MemOk s) : MemOk (s.retire t) := by
  unfold State.retire
  extract_lets
  split
  · exact .launchLoses (.of_mem h.vacate rfl)
  · exact .retireDesc (.of_mem h.vacate rfl)
  · exact .of_mem h.vacate rfl

theorem MemOk.dropClaims {who} (h : MemOk s) : MemOk (s.dropClaims who) := .foldl (fun _ _ h1 => h1.revert) _ h
theorem MemOk.killThread {t} (h : MemOk s) : MemOk (s.killThread t) := h.dropRsv.dropClaims.dropWaits.retire
theorem MemOk.abandon {t} (h : MemOk s) : MemOk (s.abandon t) := h.killThread

theorem MemOk.killCtx {part ctx} (h : MemOk s) : MemOk (s.killCtx part ctx) := by
  unfold State.killCtx
  extract_lets +onlyGivenNames ts s1 mine s2 s3 ls s4 s5
  have h1 : MemOk s1 := .foldl (fun _ _ h => h.dropRsv) _ h
  have h2 : MemOk s2 := .foldl (fun _ _ h => h.poison) _ h1
  have h3 : MemOk s3 := .foldl (fun _ _ h => h.dropWaits.retire) _ h2
  have h4 : MemOk s4 := .foldl (fun _ _ h => h.signal) _ h3
  have h5 : MemOk s5 := h4
  exact h5.modCtx

theorem MemOk.freeze {src mine cause ctx} (h : MemOk s) : MemOk (s.freeze src mine cause ctx) := h.setDiary

theorem MemOk.fatal {ctx cause val pc src who} (h : MemOk s) : MemOk (s.fatal ctx cause val pc src who) :=
  .of_mem (.ite h.freeze h) rfl

/-! ### Errors found by reads -/

theorem MemOk.dropLeaving {rect} (h : MemOk s) : MemOk (s.dropLeaving rect) := h

theorem MemOk.fenceIn {d} (h : MemOk s) : MemOk (s.fenceIn d) :=
  .of_mem (.foldl (fun _ _ h1 => h1.modCore.note) _ h.dropLeaving.modCore) rfl

theorem MemOk.startDetention {who origin rect} (h : MemOk s) : MemOk (s.startDetention who origin rect) :=
  .ite h (.ite h (.fenceIn h))

theorem MemOk.consume {core} (h : MemOk s) : MemOk (s.consume core) := h.note.startDetention

theorem MemOk.checkStore {c u s1} (h : MemOk s) (e : s.checkStore c u = some s1) : MemOk s1 := by
  unfold State.checkStore at e
  split at e
  · exact Option.some.inj e ▸ h
  · split at e
    · nomatch e
    · exact Option.some.inj e ▸ .ite h.modCore h.modCore.note

theorem MemOk.useStore {c u} (h : MemOk s) : EffOk MemOk (s.useStore c u) := by
  unfold State.useStore
  split
  · next e => exact .ok (h.checkStore e)
  · exact .stop h.consume

theorem MemOk.lostReader {k part ctx lcore slot src} (h : MemOk s) : MemOk (s.lostReader k part ctx lcore slot src) :=
  h.postEvent.fatal.killCtx

theorem MemOk.loseLine {k} (h : MemOk s) : MemOk (s.loseLine k) :=
  .ite h (.ite (.ite (.fatal (.postEvent h)) h) (.foldl (fun _ _ h1 => h1.postEvent.fatal.killCtx) _ h.note))

theorem MemOk.readStored {k n} (h : MemOk s) : MemOk (s.readStored k n).2 :=
  .iteSnd h (.iteSnd h.refetch.loseLine h.correctNoted.refetch)

theorem MemOk.audit {k n part ctx lcore slot} (h : MemOk s) : MemOk (s.audit k n part ctx lcore slot) := by
  unfold State.audit
  refine .ite h ?_
  split
  · exact .lostReader (.ite h h.loseLine)
  · exact h.correctNoted

theorem MemOk.setMapEntry {g v} (h : MemOk s) : MemOk (s.setMapEntry g v) := .of_mem h.homeWrite rfl
theorem MemOk.fillMap {home k} (h : MemOk s) : MemOk (s.fillMap home k) := .ite h (.of_mem h.correctNoted rfl)
theorem MemOk.forgetMap {home k} (h : MemOk s) : MemOk (s.forgetMap home k) := h

theorem MemOk.readNamed {name n g} (h : MemOk s) : MemOk (s.readNamed name n g).2 := by
  unfold State.readNamed
  split
  · exact .iteSnd h h.readStored
  · exact .iteSnd h.readStored h

theorem MemOk.setStock {b pool l} (h : MemOk s) : MemOk (s.setStock b pool l) := h

theorem MemOk.homeReads {name g w er part ctx lcore slot} (h : MemOk s) :
    MemOk (s.homeReads name g w er part ctx lcore slot).2 := by
  unfold State.homeReads
  refine .iteSnd h ?_
  split
  · exact h.audit
  · exact MemOk.foldl (fun _ _ h1 => h1.correctNoted) _ h

theorem MemOk.birth {name g} (h : MemOk s) : MemOk (s.birth name g) := by
  unfold State.birth
  split
  · exact h
  · refine .ite h ?_
    split
    · exact h
    · exact h.setStock.writeAs.setMapEntry

theorem MemOk.writeNamed {name g bytes} (h : MemOk s) : MemOk (s.writeNamed name g bytes) :=
  .ite h.clearRel h.birth.writeAs

theorem MemOk.pushPool {pool f} (h : MemOk s) : MemOk (s.pushPool pool f) := h.homeWrite.homeWrite

theorem MemOk.eraseNamed {name g} (h : MemOk s) : MemOk (s.eraseNamed name g) := by
  unfold State.eraseNamed
  split
  · exact h
  · exact .ite h (.of_mem (.wakeWatchers (.ite h.setMapEntry.clearRel.setStock h.setMapEntry.clearRel.pushPool)) rfl)

theorem MemOk.refill {b pool} (h : MemOk s) : MemOk (s.refill b pool) :=
  .setStock (.homeWrite (.foldl (fun _ _ h1 => h1.correctNoted) _ h))

/-! ### The shared operations of the issue stage -/

theorem MemOk.parkAt {c i w} (h : MemOk s) : MemOk (s.parkAt c i w) := by
  unfold State.parkAt
  split
  · exact h
  · exact .ite h.modAt h.modAt.noteCtx

theorem MemOk.park {w} (h : MemOk s) : MemOk (s.park w) := h.parkAt

theorem MemOk.wakeAt {c i} (h : MemOk s) : MemOk (s.wakeAt c i) := by
  unfold State.wakeAt
  split
  · exact h
  · exact h.modAt.noteCtx

theorem MemOk.checked {t k n} (h : MemOk s) : EffOk MemOk (s.checked t k n) :=
  .ite (.ok h.correctNoted) (.stop h.audit)

theorem MemOk.sendProbes {t core slot sc} (h : MemOk s) : MemOk (s.sendProbes t core slot sc) := .ite h (.ite h h)

theorem MemOk.drainOr {t sc} (h : MemOk s) : EffOk (fun _ => True) (s.drainOr t sc) :=
  .ite (.ok trivial) (.stop h.sendProbes)

theorem MemOk.beginDrain {t sc} (h : MemOk s) : EffOk MemOk (s.beginDrain t sc) :=
  .ite (.ok (.ite h.modMe h.note)) (.stop (.ite h.sendProbes h.sendProbes.modMe))

theorem MemOk.signalWait {who s1} (h : MemOk s) (e : s.signalWait who = some s1) : MemOk s1 := by
  unfold State.signalWait at e
  split at e
  · nomatch e
  · split at e
    · nomatch e
    · split at e
      · nomatch e
      · exact Option.some.inj e ▸ h.sendProbes

theorem MemOk.segAudit {part ctx sup} (h : MemOk s) : MemOk (s.segAudit part ctx sup) := by
  unfold State.segAudit
  extract_lets
  split
  · exact h.postEvent
  · exact h.audit

theorem MemOk.saveSegs {t} (h : MemOk s) : MemOk (s.saveSegs t) := .foldl (fun _ _ h1 => .ite h1.homeWrite h1) _ h
theorem MemOk.segsOfAudit {t sup} (h : MemOk s) : MemOk (s.segsOfAudit t sup) := .ite h.segAudit h.segAudit.audit
theorem MemOk.killFault {t c cause val pc} (h : MemOk s) : MemOk (s.killFault t c cause val pc) := h.fatal.killCtx

theorem MemOk.supTrapAt {c i cause sval spc hdlr} (h : MemOk s) : MemOk (s.supTrapAt c i cause sval spc hdlr) := by
  unfold State.supTrapAt
  split
  · exact h
  · split
    · exact h.abandon
    · exact .ite h.killFault (.ite h.consume (.ite h.killFault h.saveSegs.note.modAt.segAudit))

theorem MemOk.userTrapAt {c i cause xval xpc} (h : MemOk s) : MemOk (s.userTrapAt c i cause xval xpc) := by
  unfold State.userTrapAt
  split
  · exact h
  · split
    · exact h.abandon
    · exact .ite h.killFault (.ite h.consume (.ite h.modAt.note.modAt h.modAt.note.supTrapAt))

theorem MemOk.userTrap {cause xval xpc} (h : MemOk s) : MemOk (s.userTrap cause xval xpc) := h.userTrapAt
theorem MemOk.supTrap {cause sval spc} (h : MemOk s) : MemOk (s.supTrap cause sval spc) := h.supTrapAt
theorem MemOk.userSegAudit {t} (h : MemOk s) : MemOk (s.userSegAudit t) := h.segsOfAudit

theorem MemOk.userReturn {t} (h : MemOk s) : MemOk (s.userReturn t) := by
  unfold State.userReturn
  extract_lets
  split
  · exact .goto (.noteJump (.ite h.modCore h))
  · exact .userTrap (.goto (.noteJump (.ite h.modCore h)))

theorem MemOk.supReturn {t} (h : MemOk s) : MemOk (s.supReturn t) :=
  .ite h.noteJump.modMe h.noteJump.modMe.userSegAudit

theorem MemOk.place {c i mk} (h : MemOk s) : MemOk (s.place c i mk) := h.modSlot.setOcc.modCore.segAudit
theorem MemOk.depart {t dest} (h : MemOk s) : MemOk (s.depart t dest) := h

theorem MemOk.leaveFor {dest} (h : MemOk s) : MemOk (s.leaveFor dest) := by
  unfold State.leaveFor
  split
  · exact h
  · split
    · exact h.abandon
    · refine .ite h.supTrap (.ite h.park ?_)
      split
      · exact .ite h.consume h.depart
      · next e => exact (h.drainOr.of_error e).park

theorem MemOk.stopped {x} (h : MemOk s) : NextOk (s.stopped x) := by
  unfold State.stopped
  split
  · exact .next h.park
  · apply NextOk.next
    split
    · exact h.userTrap
    · exact h
  · exact .next h.userTrap
  · apply NextOk.next
    split
    · exact h.supTrap
    · exact h
  · exact .next h.leaveFor
  · exact .next h.consume
  · exact .next h

theorem NextOk.done {e : Eff} (h : EffOk MemOk e) : NextOk e.done := by
  cases e with
  | ok s => exact h
  | error e => exact MemOk.stopped h

theorem MemOk.sideEffect {t} (h : MemOk s) : EffOk MemOk (s.sideEffect t) := by
  unfold State.sideEffect
  split
  · exact .stop h.abandon
  · exact .ok h.modMe

theorem MemOk.shown (h : MemOk s) : MemOk (s.shown) := h.modMe

theorem MemOk.noSpark {t} (h : MemOk s) : EffOk (fun _ => True) (s.noSpark t) := by
  unfold State.noSpark
  split
  · exact .stop h.abandon
  · exact .ok trivial

theorem MemOk.privileged {t} (h : MemOk s) : EffOk (fun _ => True) (s.privileged t) := .ite (.ok trivial) (.stop h)
theorem MemOk.orFlags {f} (h : MemOk s) : MemOk (s.orFlags f) := h.modMe

/-! ### Control and integer operations -/

theorem MemOk.transfer {t} (h : MemOk s) : EffOk MemOk (s.transfer t) := by
  unfold State.transfer
  split
  · exact .stop h
  · exact .pure h.noteJump.goto

theorem MemOk.branch {p b want} (h : MemOk s) : EffOk MemOk (branch p b want s) :=
  .bind h.ready fun _ _ => .ite h.transfer (.pure h.advance)

theorem MemOk.execLoop {r b} (h : MemOk s) : NextOk (execLoop r b s) := by
  refine .done (.bind h.ready fun t _ => .ite (.pure h.write.advance) ?_)
  split
  · exact .stop h
  · exact .pure h.write.noteJump.goto

theorem MemOk.callTo {t target base} (h : MemOk s) (hb : MemOk base) : EffOk MemOk (s.callTo base t target) := by
  unfold State.callTo
  split
  · exact .stop hb
  · refine .ite (.stop hb) (.ite (.stop h) (.ite (.stop h) ?_))
    exact .ite (.stop h) (.pure (.goto (.modMe (.noteJump (.homeWrite (.homeWrite (.ite hb.homeWrite hb)))))))

theorem MemOk.execRet (h : MemOk s) : NextOk (execRet s) := by
  refine .done (.bind h.ready fun t _ => .ite (.illegal h) (.ite (.stop h) (.bind h.checked fun _ h1 => ?_)))
  extract_lets
  split
  · exact .stop h1
  · refine .ite (.stop h1) ?_
    extract_lets
    split
    · exact .stop h1
    · exact .ite (.stop h1) (.pure h1.noteJump.modMe.goto)

theorem MemOk.spill {c i t r} (h : MemOk s) : MemOk (s.spill c i t r) := .ite h.consume h.homeWrite.modAt

theorem MemOk.spillCycle {c i issue} (h : MemOk s) : MemOk (s.spillCycle c i issue) := by
  unfold State.spillCycle
  refine .ite h ?_
  split
  · exact h
  · split
    · exact h
    · extract_lets
      split
      · exact h.modCore.modSlot
      · exact h.modCore.spill.modSlot

theorem MemOk.spillBubble {c} (h : MemOk s) : MemOk (s.spillBubble c) := by
  unfold State.spillBubble
  extract_lets
  split
  · exact h.spillCycle
  · exact h

theorem MemOk.execWindowReload {core slot} (h : MemOk s) : NextOk (execWindowReload core slot s) := by
  unfold Machine.execWindowReload
  apply NextOk.next
  split
  · exact .ite (.ite h.audit h.audit.modAt) h
  · exact h

/-! ### Translation and the checks of a port -/

theorem MemOk.walkNotes {part ctx va} (h : MemOk s) : MemOk (s.walkNotes part ctx va) :=
  .ite h (.foldl (fun _ _ h1 => h1.correctNoted) _ h)

theorem MemOk.openSparse {e} (h : MemOk s) : MemOk (s.openSparse e) := by
  unfold State.openSparse
  extract_lets d pool map s1 s2
  have h1 : MemOk s1 := .ite h h
  exact .ite h (.ite h1 (.ite h1 h1))

theorem MemOk.translate {port part ctx va} (h : MemOk s) : MemOk (s.translate port part ctx va).2 := by
  unfold State.translate
  split
  · exact h
  · split
    · exact MemOk.of_mem h.walkNotes.openSparse rfl
    · exact MemOk.lostReader (.ite h h.loseLine)
    · exact h.walkNotes

theorem MemOk.setD {port part ctx va} (h : MemOk s) : MemOk (s.setD port part ctx va) := by
  unfold State.setD
  split
  · exact h
  · exact .ite h (.of_mem (.foldl (fun _ _ h1 => .ite h1.correctNoted h1.correctNoted.homeWrite) _ h) rfl)

theorem MemOk.portLeaf {port part ctx va k need base leaf} (h : MemOk s) :
    MemOk (s.portLeaf port part ctx va k need base leaf).2 :=
  .iteSnd h (.iteSnd h (.iteSnd h (.iteSnd h (.iteSnd h (MemOk.ite h.setD h)))))

theorem MemOk.port {port part ctx va k need} (h : MemOk s) : MemOk (s.port port part ctx va k need).2 := by
  unfold State.port
  split
  · exact h
  · split
    · next e => exact h.translate.snd e
    · next e => exact h.translate.snd e
    · next e => exact h.translate.snd e
    · next e => exact h.translate.snd e
    · next e =>
        have h1 := h.translate.snd e
        exact .iteSnd h1 h1.portLeaf

theorem MemOk.writeReq {r} (h : MemOk s) : MemOk (s.writeReq r) := h.homeWrite.homeWrite.homeWrite.homeWrite.modPart

theorem MemOk.postReq {u part ctx va k} (h : MemOk s) : MemOk (s.postReq u part ctx va k) :=
  .ite h (.ite h (.writeReq h))

theorem MemOk.postHeld {part} (h : MemOk s) : MemOk (s.postHeld part) := by
  unfold State.postHeld
  split
  · exact h
  · exact .ite h (.of_mem h.writeReq rfl)

theorem MemOk.parkFault {f core} (h : MemOk s) : MemOk (s.parkFault f core) := by
  unfold State.parkFault
  extract_lets
  split
  · exact .note h
  · exact .note h
  · exact .note h
  · exact .postReq (.note h)

theorem MemOk.logRefusal {part ctx cause operand va lcore slot opc nbytes} (h : MemOk s) :
    MemOk (s.logRefusal part ctx cause operand va lcore slot opc nbytes) :=
  .modCtx (.ite h h.homeWrite.homeWrite.homeWrite.homeWrite)

/-! ### The issue of an access -/

theorem MemOk.locate {t a base} (h : MemOk s) (hb : MemOk base) : EffOk (fun _ => True) (s.locate base t a) := by
  unfold State.locate
  refine .ite (.stop hb) (.ite (.stop hb) ?_)
  split
  · exact .stop hb
  · exact .ite (.stop hb) (.ok trivial)
  · exact .ite (.stop h) (.ite (.stop hb) (.ite (.stop hb) (.ok trivial)))

theorem MemOk.reserve {d tag} (h : MemOk s) : MemOk (s.reserve d tag).2 := by
  unfold State.reserve
  split
  · exact h.modMe
  · exact h.modMe
  · exact h.modMe.modCore
  · exact h
  · exact h
  · exact h

theorem MemOk.bumpPtr {a} (h : MemOk s) : MemOk (s.bumpPtr a) := .ite h.modMe h

theorem MemOk.refuseRelaxed {t a va cause} (h : MemOk s) : MemOk (s.refuseRelaxed t a va cause) := by
  unfold State.refuseRelaxed
  apply MemOk.goto
  apply MemOk.bumpPtr
  split
  · exact h.logRefusal.write
  · exact h.logRefusal

theorem MemOk.sendAccess {t a va name cls gran rlx fault} (h : MemOk s) :
    MemOk (s.sendAccess t a va name cls gran rlx fault) := by
  unfold State.sendAccess
  extract_lets
  split
  · exact .of_mem (.of_mem h.reserve.bumpPtr rfl) rfl
  · exact .ite (.parkFault (.of_mem h.reserve.bumpPtr rfl)) (.of_mem (.of_mem h.reserve.bumpPtr rfl) rfl)

theorem MemOk.holdStore {t a va bytes} (h : MemOk s) : MemOk (s.holdStore t a va bytes) :=
  .ite h.abandon h.modMe.bumpPtr.goto

theorem MemOk.commit {t a va name cls gran rlx fault} (h : MemOk s) :
    MemOk (s.commit t a va name cls gran rlx fault) := by
  unfold State.commit
  extract_lets
  split
  · split
    · exact .ite h.sendAccess h.holdStore
    · exact .ite h.abandon h.sendAccess
  · exact .ite h.sendAccess.modMe h.sendAccess

theorem MemOk.issueTo {t a va name cls gran rlx fault base} (h : MemOk s) (hb : MemOk base) :
    EffOk MemOk (s.issueTo base t a va name cls gran rlx fault) :=
  .ite (.stop h) (.ite (.stop hb) (.ok hb.commit))

theorem MemOk.access {t a base} (h : MemOk s) (hb : MemOk base) : EffOk MemOk (s.access base t a) := by
  unfold State.access
  refine .ite (.stop h) (.bind (h.locate hb) fun _ _ => ?_)
  split
  · split
    · exact .ite (.stop hb) (h.issueTo hb)
    · split
      · next e =>
          have h1 := hb.port.snd e
          split
          · exact .stop h1
          · exact .stop h
          · exact .ite (.pure h1.refuseRelaxed) (.ite (.stop h) (.stop hb))
          · exact h.issueTo h1
          · exact h.issueTo h1
          · exact h.issueTo h1

theorem MemOk.fop2 {d x y f} (h : MemOk s) : EffOk MemOk (fop2 d x y f s) :=
  .bind h.ready fun _ _ => .pure h.pop.pop.write.orFlags.advance

theorem MemOk.fop1 {d x f} (h : MemOk s) : EffOk MemOk (fop1 d x f s) :=
  .bind h.ready fun _ _ => .pure h.pop.write.orFlags.advance

theorem MemOk.fcmp {p x y f} (h : MemOk s) : EffOk MemOk (fcmp p x y f s) :=
  .bind h.ready fun _ _ => .pure h.pop.pop.modMe.orFlags.advance

/-! ### The ordering machine at a bank -/

theorem MemOk.closeSlot {who} (h : MemOk s) : MemOk (s.closeSlot who) := by
  unfold State.closeSlot
  split
  · exact h.modSlot
  · exact h

theorem MemOk.orSstWho {who f} (h : MemOk s) : MemOk (s.orSstWho who f) := by
  unfold State.orSstWho
  extract_lets
  split
  · exact .modWho (.ite h h.closeSlot)
  · exact .homeWrite (.modWho (.ite h h.closeSlot))

theorem MemOk.putBlock {x r v} (h : MemOk s) : MemOk (s.putBlock x r v) := h.homeWrite.homeWrite

theorem MemOk.putReg {who r v} (h : MemOk s) : MemOk (s.putReg who r v) := by
  unfold State.putReg
  extract_lets +onlyGivenNames s1
  have h1 : MemOk s1 := by
    unfold s1
    split
    · exact h.putBlock
    · exact h
  exact h1.modWho

theorem MemOk.fillWho {who tag v} (h : MemOk s) : MemOk (s.fillWho who tag v) := by
  unfold State.fillWho
  extract_lets +onlyGivenNames s1
  have h1 : MemOk s1 := by
    unfold s1
    split
    · split
      · exact h.putBlock
      · exact h
    · exact h
  exact h1.modWho

theorem MemOk.wakeBlock {who v} (h : MemOk s) : MemOk (s.wakeBlock who v) := by
  unfold State.wakeBlock
  split
  · exact h
  · exact h.homeWrite.homeWrite

theorem MemOk.completeSaved {r v} (h : MemOk s) : MemOk (s.completeSaved r v) := by
  unfold State.completeSaved
  split
  · exact h
  · extract_lets +onlyGivenNames s0 s1
    have h1 : MemOk s1 := by
      unfold s1
      split
      · exact .putBlock (.ite h.wakeBlock h)
      · exact .ite h.wakeBlock h
    exact .ite h1 h1.homeWrite

theorem MemOk.setCds {who c} (h : MemOk s) : MemOk (s.setCds who c) := by
  unfold State.setCds
  extract_lets
  split
  · exact h.modWho
  · exact h.modWho.homeWrite

theorem MemOk.fillPlace {d tag v} (h : MemOk s) : MemOk (s.fillPlace d tag v) := by
  unfold State.fillPlace
  split
  · split
    · exact h
    · exact h.homeWrite.modCore
  · exact h

theorem MemOk.dropDst {d tag} (h : MemOk s) : MemOk (s.dropDst d tag) := by
  unfold State.dropDst
  split
  · exact h.modCore
  · exact h

theorem MemOk.reply {r} (h : MemOk s) : MemOk (s.reply r) := h

theorem MemOk.refuseAt {m cause} (h : MemOk s) : MemOk (s.refuseAt m cause) :=
  .ite (.reply (.ite h.modWho h.logRefusal)) h.reply

theorem MemOk.arrive {tag} (h : MemOk s) : MemOk (s.arrive tag) := by
  unfold State.arrive
  split
  · exact h
  · extract_lets s1 s2
    have h1 : MemOk s1 := h
    have h2 : MemOk s2 := .ite h1.modWho h1
    exact .ite h (.ite h (.ite h2 h2.modWho.refuseAt))

theorem MemOk.parkMsg {m k} (h : MemOk s) : MemOk (s.parkMsg m k) := by
  unfold State.parkMsg
  extract_lets +onlyGivenNames place s1
  have h1 : MemOk s1 := by
    unfold s1
    clear_value place
    split
    · exact h
    · exact h.parkFault
  exact .ite h1 h1.modWho

theorem MemOk.dropAcquire {m} (h : MemOk s) : MemOk (s.dropAcquire m) := h.modWho
theorem MemOk.ackOwn {m} (h : MemOk s) : MemOk (s.ackOwn m) := .ite h.modWho h
theorem MemOk.lostRead {m} (h : MemOk s) : MemOk (s.lostRead m) := h.lostReader

theorem MemOk.performLoad {m n sx acq pred} (h : MemOk s) : MemOk (s.performLoad m n sx acq pred) := by
  unfold State.performLoad
  split
  · next e => exact (h.readNamed.snd e).lostRead
  · next e =>
      have h1 := h.readNamed.snd e
      exact .reply (.ackOwn (.ite h1 h1.dropAcquire))

theorem MemOk.performStore {m b rel} (h : MemOk s) : MemOk (s.performStore m b rel) := by
  unfold State.performStore
  extract_lets +onlyGivenNames s1 s2
  have h1 : MemOk s2 := by
    unfold s2
    split
    · exact h.writeNamed.setRel
    · exact h.writeNamed
  exact .ite h1.ackOwn h1.ackOwn.reply

theorem MemOk.performRls {m b rel} (h : MemOk s) : MemOk (s.performRls m b rel) := by
  unfold State.performRls
  refine .ite ?_ h.reply
  split
  · exact h.freeLine.reply
  · split
    · exact h.parkMsg
    · exact h.parkMsg
    · exact h.reply
    · extract_lets +onlyGivenNames s1 s2
      have h1 : MemOk s2 := by
        unfold s2
        split
        · exact h.writeNamed.setRel
        · exact h.writeNamed
      exact h1.freeLine.reply

theorem MemOk.performWatch {m} (h : MemOk s) : MemOk (s.performWatch m) := .ite h.freeLine.setLineQ.reply h.wake.reply

theorem MemOk.awaitPark {m v} (h : MemOk s) : MemOk (s.awaitPark m v) := by
  unfold State.awaitPark
  split
  · exact h
  · exact h.modAt.dropDst.parkAt

theorem MemOk.awaitDone {m gen} (h : MemOk s) : MemOk (s.awaitDone m gen) := .reply (.ite h h.dropAcquire)

theorem MemOk.performAttend {m} (h : MemOk s) : MemOk (s.performAttend m) := by
  unfold State.performAttend
  split
  · next e => exact (h.readNamed.snd e).lostRead
  · next e =>
      have h1 := h.readNamed.snd e
      extract_lets
      split
      · exact h1.homeWrite.reply
      · split
        · exact .ite h1.awaitPark h1.awaitDone
        · exact h1.awaitDone
      · exact h1

theorem MemOk.performDiag {m} (h : MemOk s) : MemOk (s.performDiag m) := by
  unfold State.performDiag
  extract_lets +onlyGivenNames k
  split
  · extract_lets +onlyGivenNames s0 s1
    have h0 : MemOk s0 := h.refetch
    have h1 : MemOk s1 := .ite h0 (.setSynd (Memory.writes_wf _ _ h0))
    exact h1.clearRel.wakeWatchers.wakeAwaits.reply
  · split
    exact h.reply
  · exact h

theorem MemOk.releaseRel {r keep} (h : MemOk s) : MemOk (s.releaseRel r keep) := by
  unfold State.releaseRel
  extract_lets +onlyGivenNames m line free
  have hf {s} (h : MemOk s) : MemOk (free s) := .ite h h.freeLine
  split
  · exact (hf h).parkMsg
  · exact (hf h).parkMsg
  · exact (hf h).refuseAt
  · split
    extract_lets +onlyGivenNames ok old s1 s2 s3 s4
    have h1 : MemOk s1 := by
      unfold s1
      clear_value old
      split
      · exact h
      · extract_lets +onlyGivenNames s1
        split
        · exact h.writeNamed
        · refine .ite h.writeNamed.setRel ?_
          split
          · exact h.writeNamed.setRel
          · exact h.writeNamed
    have h2 : MemOk s2 := by
      unfold s2
      split
      · exact h1.setCds
      · exact h1
    have h3 : MemOk s3 := .ite h2 h2.dropAcquire
    exact (hf h3).ackOwn.reply

theorem MemOk.performHeld {m} (h : MemOk s) : MemOk (s.performHeld m) := by
  unfold State.performHeld
  split
  · next e => exact (h.readNamed.snd e).lostRead
  · next e =>
      have h1 := h.readNamed.snd e
      split
      · exact h1.releaseRel
      · exact h1

theorem MemOk.placeAgain {m q send} (h : MemOk s) (hsend : ∀ s x, MemOk s → MemOk (send s x)) :
    MemOk (s.placeAgain m q send) := by
  unfold State.placeAgain
  extract_lets
  split
  · next e =>
      have h1 := h.port.snd e
      exact .ite h1.refuseAt (.ite (.ite h1.parkFault (hsend _ _ h1.modWho)) (hsend _ _ h1.modWho))
  · next e =>
      have h1 := h.port.snd e
      exact .ite h1.refuseAt (.ite (.ite h1.parkFault (hsend _ _ h1.modWho)) (hsend _ _ h1.modWho))
  · next e => exact (h.port.snd e).parkFault
  · next e => exact (h.port.snd e).modWho.refuseAt
  · next e => exact (h.port.snd e).parkFault
  · next e => exact h.port.snd e

theorem MemOk.homeReadsOf {m} (h : MemOk s) : MemOk (s.homeReadsOf m).2 := h.homeReads

theorem MemOk.performMsgGo {m q} (h : MemOk s) : MemOk (State.performMsg.go m s q) := by
  have h1 : MemOk (s.homeReadsOf m).2 := h.homeReadsOf
  unfold State.performMsg.go
  refine .ite h1 (.ite h1.performHeld (.ite h1.setLineQ (.ite h1.setLineQ ?_)))
  split
  · exact h1.performLoad
  · split
    · exact h1.parkMsg
    · exact h1.parkMsg
    · exact h1.refuseAt
    · exact h1.performStore
  · exact h1.eraseNamed.reply
  · exact h1.performRls
  · exact h1.performWatch
  · exact h1.performDiag
  · exact h1.performDiag
  · exact h1.performAttend
  · exact h1.performAttend
  · exact h1

theorem MemOk.performMsg {m} (h : MemOk s) : MemOk (s.performMsg m) := by
  unfold State.performMsg
  extract_lets line q
  split
  · exact .ite h.performMsgGo h.parkMsg
  · refine .ite (h.placeAgain fun s m h1 => h1) ?_
    split
    · exact h.parkMsg
    · exact .ite h h.performMsgGo

theorem MemOk.performBank {b} (h : MemOk s) : MemOk (s.performBank b) := by
  unfold State.performBank
  split
  · split
    · exact h.setLineQ.performMsg
    · exact h
  · split
    · exact h
    · exact .ite h (.performMsg h)

theorem MemOk.grantLine {line} (h : MemOk s) : MemOk (s.grantLine line) := by
  unfold State.grantLine
  refine .ite h ?_
  split
  · exact h
  · refine .ite h ?_
    extract_lets
    split
    · next e => exact h.setLineQ.noteBank.homeReads.snd e
    · next e =>
        have h1 := h.setLineQ.noteBank.homeReads.snd e
        split
        · next e => exact (h1.readNamed.snd e).lostRead
        · next e =>
            have h2 := h1.readNamed.snd e
            split
            · exact .reply (.ite h2 h2.dropAcquire)
            · split <;> exact h2

theorem MemOk.releaseBank {b} (h : MemOk s) : MemOk (s.releaseBank b) := by
  unfold State.releaseBank
  split
  · exact h
  · refine .ite h ?_
    split
    · next e => exact (MemOk.snd e (.homeReadsOf h)).releaseRel
    · next e => exact MemOk.snd e (.homeReadsOf h)

theorem MemOk.breakLine {q} (h : MemOk s) : MemOk (s.breakLine q) := by
  unfold State.breakLine
  split
  · exact h
  · refine .ite (.of_mem h.freeLine rfl) ?_
    split
    · exact h.freeLine
    · exact .setLineQ (.of_mem h.freeLine rfl)

theorem MemOk.breakWaited {line} (h : MemOk s) : MemOk (s.breakWaited line) := .ite h.breakLine h
theorem MemOk.breakMoving {line} (h : MemOk s) : MemOk (s.breakMoving line) := .ite h.breakLine h
theorem MemOk.breakDue (h : MemOk s) : MemOk (s.breakDue) := .foldl (fun _ _ h1 => .ite h1.breakLine h1) _ h

theorem MemOk.fillDst {d tag v} (h : MemOk s) : MemOk (s.fillDst d tag v) := by
  unfold State.fillDst
  split
  · exact h
  · exact h
  · exact h.modCore
  · exact h.modCore

theorem MemOk.landRed {m} (h : MemOk s) : MemOk (s.landRed m) := by
  unfold State.landRed
  split
  · exact h.modCore
  · exact h

theorem MemOk.wakeDropped {r} (h : MemOk s) : MemOk (s.wakeDropped r) := by
  unfold State.wakeDropped
  extract_lets
  split
  · exact h.modWho.wakeBlock.noteCtx
  · exact h.modWho.wakeBlock

theorem MemOk.finish {r} (h : MemOk s) : MemOk (s.finish r) := by
  unfold State.finish
  split
  · exact .fillDst (.modWho (.fillPlace (.completeSaved (.ite h.closeSlot h))))
  · extract_lets
    split
    · exact h.modWho.dropDst
    · exact .ite h.modWho.dropDst.modAt.userTrapAt h.modWho.dropDst.modAt.supTrapAt

theorem MemOk.completeReply {r} (h : MemOk s) : MemOk (s.completeReply r) := by
  unfold State.completeReply
  refine .ite h (.ite (.wakeDropped (.landRed h)) ?_)
  extract_lets
  split
  · exact .ite (.noteCtx (.finish (.landRed h))) (.ite (.noteCtx (.finish (.landRed h))) (.finish (.landRed h)))
  · exact .finish (.landRed h)

theorem MemOk.redo {r} (h : MemOk s) : MemOk (s.redo r) := .ite h.modMe.finish h.modMe.finish.goto

theorem MemOk.probeBank {b} (h : MemOk s) : MemOk (s.probeBank b) := by
  unfold State.probeBank
  split
  · exact h
  · split
    · exact .ite (.noteBank h) h
    · exact h

theorem MemOk.echoBack {tag} (h : MemOk s) : MemOk (s.echoBack tag) := by
  unfold State.echoBack
  split
  · exact h
  · exact .modWho h

theorem MemOk.lineBack {c e} (h : MemOk s) : MemOk (s.lineBack c e) := by
  unfold State.lineBack
  extract_lets
  split
  · exact h
  · exact .ite h h.modWho

theorem MemOk.replayOne {f} (h : MemOk s) : MemOk (s.replayOne f) := by
  unfold State.replayOne
  split
  · exact h.note.lineBack
  · exact h.note.wake
  · refine .ite ?_ (h.note.placeAgain (fun s m h2 => h2))
    split
    · exact h.note.placeAgain (fun s m h1 => h1)
    · exact h

theorem MemOk.replay {p} (h : MemOk s) : MemOk (s.replay p) :=
  .foldl (fun _ _ h => h.replayOne) _ (.foldl (fun _ _ h => h.replayOne) _ h)

theorem MemOk.retryOrders (h : MemOk s) : MemOk (s.retryOrders) := .ite h.replay h

theorem MemOk.execComplete {i} (h : MemOk s) : NextOk (execComplete i s) := by
  unfold Machine.execComplete
  apply NextOk.next
  split
  · exact h.completeReply
  · exact h

theorem MemOk.cmpI {p x k f} (h : MemOk s) : EffOk MemOk (cmpI p x k f s) := h.cmp2

theorem MemOk.predOp {d x y nx ny f} (h : MemOk s) : EffOk MemOk (predOp d x y nx ny f s) :=
  .bind h.ready fun _ _ => .pure h.modMe.advance

/-! ### The issue of an engine operation -/

theorem MemOk.modOp {c e f} (h : MemOk s) : MemOk (s.modOp c e f) := h.modCore

theorem MemOk.readAcc {c t} (h : MemOk s) : MemOk (s.readAcc c t).2 :=
  .iteSnd h.consume (.iteSnd h (MemOk.modCore (.foldl (fun _ _ h1 => h1.note) _ h)))

theorem MemOk.engIssue {t r base} (h : MemOk s) (hb : MemOk base) : EffOk MemOk (s.engIssue base t r) := by
  unfold State.engIssue
  refine .ite (.stop h) ?_
  split
  · exact .stop hb
  · refine .ite (.stop h) (.ite (.stop h) ?_)
    exact .ite (.stop h) (.bind hb.sideEffect fun _ h1 => .pure (.ite (.modMe (.advance h1)) (.advance h1)))

theorem MemOk.noteTile {c o va} (h : MemOk s) : MemOk (s.noteTile c o va) := h.notes

theorem MemOk.mmaNext {c o u k x y m} (h : MemOk s) : MemOk (s.mmaNext c o u k x y m).2 := by
  unfold State.mmaNext
  extract_lets +onlyGivenNames coded ef e
  split
  · extract_lets +onlyGivenNames la lb rest out
    refine .iteSnd h ?_
    split
    · extract_lets +onlyGivenNames va vb
      clear_value va vb
      split
      · split
        · next e => exact h.readAcc.snd e
        · next e => exact (h.readAcc.snd e).modCore
      · exact .iteSnd h h.modCore.noteTile
    · exact h
  · exact h

theorem MemOk.accNext {c o u} (h : MemOk s) : MemOk (s.accNext c o u).2 := by
  unfold State.accNext
  extract_lets +onlyGivenNames withAcc none put
  have hput {k r s} (h : MemOk s) : MemOk (put k r s).2 := h.modCore
  have hacc {k f} (hf : ∀ w s, MemOk s → MemOk (f w s).2) : MemOk (withAcc k f).2 := by
    unfold withAcc
    split
    · next e => exact h.readAcc.snd e
    · next e => exact hf _ _ (h.readAcc.snd e)
  clear_value withAcc put
  split
  · exact hput h
  · split
    · exact hput h
    · exact h
  · exact hacc fun _ _ h1 => h1
  · exact hacc fun _ _ h1 => h1
  · refine hacc fun _ _ h1 => ?_
    split
    · next e => exact h1.readAcc.snd e
    · next e => exact hput (h1.readAcc.snd e)
  · split
    · exact hacc fun _ _ h1 => hput h1
    · exact h
  · exact hacc fun _ _ h1 => h1
  · exact h

theorem MemOk.engNextUnpkBad {c o f d x len} (h : MemOk s) : MemOk (State.engNext.unpkBad c o s f d x len).2 :=
  .iteSnd h h.noteTile

theorem MemOk.engNext {c o u} (h : MemOk s) : MemOk (s.engNext c o u).2 := by
  unfold State.engNext
  extract_lets lead
  split
  · exact h
  · split <;> exact h
  · split <;> exact h
  · split
    · exact h
    · extract_lets len inside rest src
      refine .iteSnd h ?_
      split
      · exact h
      · split
        · exact .iteSnd h h.engNextUnpkBad
        · exact h.engNextUnpkBad
  · split <;> exact h
  · split <;> exact h
  · split
    · exact .iteSnd h h
    · exact h
  · split
    · extract_lets e
      split <;> exact h
    · exact h
  · exact h.mmaNext
  · exact h.accNext
  · exact h.accNext
  · exact h.accNext
  · exact h.accNext
  · exact h.accNext
  · exact h.accNext
  · exact h.accNext
  · split <;> exact h
  · exact h
  · split <;> exact h
  · exact h
  · exact h
  · exact h

/-! ### The running of engine operations -/

theorem MemOk.engPort {c o va w ld} (h : MemOk s) : MemOk (s.engPort c o va w ld).2 := by
  unfold State.engPort
  extract_lets
  split
  · exact h
  · exact .iteSnd h h
  · split
    · next e => exact h.port.snd e
    · next e =>
        have h1 := h.port.snd e
        split <;> exact h1
    · next e => exact h.port.snd e
    · next e => exact h.port.snd e
    · next e => exact h.port.snd e
    · next e => exact h.port.snd e

theorem MemOk.engLine {c o va w ld} (h : MemOk s) : MemOk (s.engLine c o va w ld).2 := by
  unfold State.engLine
  split
  · next e =>
      have h1 := h.engPort.snd e
      refine .iteSnd h1 (.iteSnd h1 (.iteSnd h1 ?_))
      extract_lets killed
      split
      · next e => exact h1.homeReads.snd e
      · next e =>
          have h2 := h1.homeReads.snd e
          split <;> exact h2
  · exact h.engPort

theorem MemOk.denyLine {c e o str va cause} (h : MemOk s) : MemOk (s.denyLine c e o str va cause) :=
  .ite h (.ite (.ite h h.postEvent.modCtx.modOp) (.ite h.modOp (.ite h h.logRefusal.modOp)))

theorem MemOk.parkLine {c e o va u k} (h : MemOk s) : MemOk (s.parkLine c e o va u k) := by
  unfold State.parkLine
  extract_lets +onlyGivenNames s1
  have h1 : MemOk s1 := by
    unfold s1
    split
    · exact h.modCore
    · exact h
  refine .ite h1 ?_
  extract_lets +onlyGivenNames place
  clear_value place
  split
  · exact h1
  · exact .ite h1.parkFault.modWho h1.parkFault

theorem MemOk.aimAway {o b} (h : MemOk s) : MemOk (s.aimAway o b) := .ite h h.modWho

theorem MemOk.translateAll {c e o l} (h : MemOk s) : MemOk (s.translateAll c e o l).2 := by
  unfold State.translateAll
  split
  · next e =>
      have h3 := MemOk.thd e (by
          refine .foldlThd (fun r x h1 => ?_) _ h
          split
          · next e => exact h1.engPort.snd e
          · next e => exact h1.engPort.snd e
          · next e => exact h1.engPort.snd e
          · next e => exact (h1.engPort.snd e).denyLine
          · next e => exact (h1.engPort.snd e).parkLine)
      exact MemOk.ite h3.modOp h3

theorem MemOk.takeUp {c e ui} (h : MemOk s) : MemOk (s.takeUp c e ui) := by
  unfold State.takeUp
  split
  · exact h
  · split
    · exact h
    · refine .ite h ?_
      split
      · next e =>
          have h1 := h.engNext.snd e
          refine .ite h ?_
          extract_lets
          split
          · exact .ite h1.modOp h1.modOp.fillWho
          · exact h1.modOp

theorem MemOk.skipLines {c o units} (h : MemOk s) : MemOk (s.skipLines c o units).2 := by
  unfold State.skipLines
  split
  · refine .foldlSnd (fun r x h1 => ?_) _ h
    show MemOk _
    refine .foldlSnd (fun r x h2 => ?_) _ h1
    split
    · next e => exact h2.engPort.snd e
    · next e => exact h2.engPort.snd e
  · exact h

theorem MemOk.startRed {c o m} (h : MemOk s) : NextOk (s.startRed c o m) := by
  unfold State.startRed
  extract_lets
  split
  · exact .next h.modOp.refuseAt
  · exact .next h
  · split
    · next e =>
        have h1 := h.port.snd e
        exact .next h1
    · next e =>
        have h1 := h.port.snd e
        exact .next h1
    · next e => exact .next (h.port.snd e)
    · next e => exact .next (h.port.snd e).modOp.refuseAt
    · next e => exact .next (h.port.snd e).modOp.modWho.refuseAt
    · next e =>
        have h1 := h.port.snd e
        exact .ite (.next h1.modOp.refuseAt) (.ite (.next h1.modOp.parkFault) (.next h1))

theorem MemOk.engStart {c e} (h : MemOk s) : NextOk (s.engStart c e) := by
  unfold State.engStart
  split
  · exact .next h
  · refine .ite (.next h) ?_
    split
    · exact .next h
    · exact h.startRed
    · extract_lets
      split
      · next e =>
          have h1 := MemOk.snd e (.iteSnd h.translateAll h)
          refine .ite (.next h1) ?_
          split
          · next e =>
              have h2 := MemOk.snd e (.iteSnd h1 h1.skipLines)
              extract_lets
              split
              · split
                · next e => exact .next (h2.readAcc.snd e)
                · next e => exact .next (.foldl (fun _ _ h4 => h4.takeUp) _ (h2.readAcc.snd e).modCore.modOp)
              · exact .next (.foldl (fun _ _ h5 => h5.takeUp) _ h2.modOp)

theorem MemOk.modUnit {c e ui f} (h : MemOk s) : MemOk (s.modUnit c e ui f) := h.modOp
theorem MemOk.cutGather {c e ui n} (h : MemOk s) : MemOk (s.cutGather c e ui n) := h.modOp

theorem MemOk.lineRead {c e o ui j r} (h : MemOk s) : NextOk (s.lineRead c e o ui j r) := by
  unfold State.lineRead
  extract_lets +onlyGivenNames put kept
  have hput {s v} (h : MemOk s) : MemOk (put s v) := h.modUnit.takeUp
  clear_value kept
  split
  · next e =>
      have h1 := h.engLine.snd e
      split
      · next e => exact .next (hput (h1.readNamed.snd e))
      · next e => exact .next (hput (h1.readNamed.snd e).lostReader)
  · next e =>
      have h1 := h.engLine.snd e
      apply NextOk.next
      split
      · exact h1.cutGather.takeUp
      · exact hput h1.denyLine
  · next e =>
      have h1 := h.engLine.snd e
      apply NextOk.next
      split
      · exact h1.cutGather.takeUp
      · exact h1.parkLine
  · next e =>
      have h1 := h.engLine.snd e
      exact .next (.ite h1.modCore h1)
  · next e => exact .next (hput (h.engLine.snd e))

theorem MemOk.lineWrite {c e o ui j w} (h : MemOk s) : MemOk (s.lineWrite c e o ui j w) := by
  unfold State.lineWrite
  extract_lets
  split
  · next e =>
      have h1 := MemOk.snd e (.iteSnd h.translateAll h)
      refine .ite h1 ?_
      split
      · next e =>
          have h2 := h1.engLine.snd e
          extract_lets
          split
          · exact .of_mem h2.writeNamed.aimAway rfl
          · exact h2.writeNamed.aimAway.modUnit
      · next e => exact (h1.engLine.snd e).denyLine.modUnit
      · next e =>
          have h2 := h1.engLine.snd e
          apply MemOk.parkLine
          split
          · exact h2.aimAway
          · exact h2
      · next e => exact h1.engLine.snd e
      · next e => exact (h1.engLine.snd e).modUnit

theorem MemOk.performLine {c e ui j} (h : MemOk s) : NextOk (s.performLine c e ui j) := by
  unfold State.performLine
  split
  · exact .next h
  · refine .ite (.next h) ?_
    split
    · exact .next h
    · refine .ite (.next h) (.ite ?_ ?_)
      · refine .ite (.next h.takeUp) ?_
        split
        · exact .next h
        · exact .ite (.next h) h.lineRead
      · refine .ite (.next h) ?_
        split
        · exact .next h
        · exact .next (.ite h h.lineWrite)

theorem MemOk.mmaReplay {c} (h : MemOk s) : MemOk (s.mmaReplay c) := by
  unfold State.mmaReplay
  split
  · exact h
  · exact .ite h (.ite h h.modCore.modOp.modCore)

theorem MemOk.ownerlessDone {tag} (h : MemOk s) : MemOk (s.ownerlessDone tag) :=
  .ite h (.foldl (fun _ _ h1 => h1.modCore) _ h)

theorem MemOk.threadOpDone {who tag} (h : MemOk s) : MemOk (s.threadOpDone who tag) := by
  unfold State.threadOpDone
  extract_lets
  split
  · exact h.ownerlessDone
  · exact .modWho (.foldl (fun _ _ h1 => h1.modCore) _ h.ownerlessDone.modWho)

theorem MemOk.retireOp {c e o} (h : MemOk s) : MemOk (s.retireOp c e o) := by
  unfold State.retireOp
  extract_lets +onlyGivenNames s1 s2 s3
  have h1 : MemOk s3 := by
    unfold s3
    split
    · exact .modCore h
    · exact h
  exact .threadOpDone (.ite h1.note h1.note.orSstWho)

theorem MemOk.wakeWaiting {o} (h : MemOk s) : MemOk (s.wakeWaiting o) := by
  unfold State.wakeWaiting
  extract_lets +onlyGivenNames s1 s2
  have h2 : MemOk s2 := by
    unfold s2
    split
    · exact .ite (.homeWrite (.foldl (fun _ _ h1 => h1.putReg) _ h)) (.foldl (fun _ _ h1 => h1.putReg) _ h)
    · exact .foldl (fun _ _ h1 => h1.putReg) _ h
  exact h2.modWho

theorem MemOk.trapWaiting {o cause val} (h : MemOk s) : MemOk (s.trapWaiting o cause val) := by
  unfold State.trapWaiting
  split
  · exact h
  · exact h.modAt.userTrapAt

theorem MemOk.moveWaiting {o dest} (h : MemOk s) : MemOk (s.moveWaiting o dest) := by
  unfold State.moveWaiting
  split
  · exact h
  · extract_lets +onlyGivenNames s0 s1
    have h0 : MemOk s0 := h.modAt
    have h1 : MemOk s1 := h0
    exact .of_mem h1.leaveFor rfl

theorem MemOk.lateBack {o} (h : MemOk s) : MemOk (s.lateBack o) := by
  unfold State.lateBack
  split
  · exact h.fillWho
  · exact h

theorem MemOk.engFinish {c e o} (h : MemOk s) : MemOk (s.engFinish c e o) := by
  unfold State.engFinish
  extract_lets
  split
  · exact h.retireOp.lateBack.trapWaiting
  · exact h.retireOp.lateBack.moveWaiting
  · exact .ite h.retireOp.lateBack.wakeWaiting h.retireOp.lateBack

theorem MemOk.execEngineOpStart {core e} (h : MemOk s) : NextOk (execEngineOpStart core e s) := by
  unfold Machine.execEngineOpStart
  split
  · exact .next h
  · split
    · exact .next h.consume
    · next e => exact (h.checkStore e).engStart

theorem MemOk.execPerform {t} (h : MemOk s) : NextOk (execPerform t s) := by
  unfold Machine.execPerform
  split
  · exact .next h.performBank
  · exact h.performLine

theorem MemOk.execStockRefill {i} (h : MemOk s) : NextOk (execStockRefill i s) := by
  unfold Machine.execStockRefill
  apply NextOk.next
  split
  · exact h
  · extract_lets +onlyGivenNames pool
    clear_value pool
    split
    next e =>
      have h1 := MemOk.snd e (by
        split
        · refine .iteSnd h (.iteSnd h ?_)
          split
          · exact h.audit
          · exact h.refill
        · exact h)
      exact .ite h1 h1.replay

/-! ### Vector and matrix instructions -/

theorem MemOk.elemIssue {opc op f sf e d xs} (h : MemOk s) : EffOk MemOk (s.elemIssue opc op f sf e d xs) :=
  .bind h.ready fun _ _ => h.engIssue h

theorem MemOk.execVcvt {f e d x y} (h : MemOk s) : NextOk (execVcvt f e d x y s) := by
  refine .done (.bind h.ready fun t _ => ?_)
  split
  · exact .stop h
  · exact h.elemIssue

theorem MemOk.foldIssue {opc max f e d x} (h : MemOk s) : EffOk MemOk (s.foldIssue opc max f e d x) :=
  .bind h.ready fun _ _ => h.engIssue h

theorem MemOk.execMma {k x y o} (h : MemOk s) : NextOk (execMma k x y o s) := by
  refine .done (.bind h.limit fun _ _ => .bind h.ready fun t _ => ?_)
  split
  exact h.engIssue h

/-! ### Memory instructions -/

theorem MemOk.load {opc d p sz off inc rlx pre kind} (h : MemOk s) :
    EffOk MemOk (s.load opc d p sz off inc rlx pre kind) := by
  refine .bind h.ready fun t _ => ?_
  split
  exact h.access h

theorem MemOk.storeOp {opc x p sz off inc rlx pre rel} (h : MemOk s) :
    EffOk MemOk (s.storeOp opc x p sz off inc rlx pre rel) := by
  refine .bind h.ready fun _ _ => .bind (?_ : EffOk MemOk _) fun _ h1 => h.access h1.pop
  cases rel with
  | some sc => exact h.beginDrain
  | none => exact .pure h

theorem MemOk.execLdx {d p sz pr off} (h : MemOk s) : NextOk (execLdx d p sz pr off s) := by
  refine .done (.bind h.ready fun t _ => ?_)
  split
  exact h.access h

theorem MemOk.execLdaq {d p sz sc off} (h : MemOk s) : NextOk (execLdaq d p sz sc off s) := by
  refine .done (.bind h.ready fun t _ => ?_)
  split
  exact h.access h

theorem MemOk.execPref {p sz off} (h : MemOk s) : NextOk (execPref p sz off s) := by
  refine .done (.bind h.ready fun t _ => ?_)
  split
  exact .bind (h.locate h) fun _ _ => .pure h.advance

theorem MemOk.fenceEnd {t} (h : MemOk s) : EffOk MemOk (s.fenceEnd t) := by
  unfold State.fenceEnd
  refine .ite (.stop h.modCtx) ?_
  split
  · exact .stop h.modMe
  · exact .stop h.modCtx
  · exact .pure h.advance

theorem MemOk.execRlx (h : MemOk s) : NextOk (execRlx s) := by
  refine .done (.bind h.ready fun t _ => .ite (.illegal h) ?_)
  split
  · refine .ite (.illegal h) ?_
    split
    · split
      · exact h.load
      · exact h.load
      · exact .stop h
    · split
      · exact .ite (.stop h) h.load
      · exact .ite (.stop h) h.load
      · exact .stop h
    · exact h.storeOp
    · exact h.storeOp
    · exact .stop h

theorem MemOk.atomDrain {t o} (h : MemOk s) : EffOk MemOk (s.atomDrain t o) := .ite h.beginDrain (.ok h)

theorem MemOk.fetchOp {opc d p x o f} (h : MemOk s) : EffOk MemOk (s.fetchOp opc d p x o f) :=
  .bind h.ready fun _ _ => .bind h.atomDrain fun _ h1 => h.access h1.pop

theorem MemOk.awaitIt {w} (h : MemOk s) : MemOk (s.awaitIt w) := by
  unfold State.awaitIt
  split
  · split
    · exact h
    · exact h.park
  · exact h

theorem MemOk.execRsv {d p o} (h : MemOk s) : NextOk (execRsv d p o s) := by
  refine .done (.bind h.limit fun _ _ => .bind h.ready fun t _ => ?_)
  exact .ite (.illegal h) (.bind (h.access h) fun _ h1 => .pure h1.awaitIt)

theorem MemOk.releaseRsv {t a base} (h : MemOk s) (hb : MemOk base) : EffOk MemOk (s.releaseRsv base t a) := by
  unfold State.releaseRsv
  split
  · exact .illegal hb
  · refine .ite (.stop h) (.bind (h.locate hb) fun _ _ => ?_)
    split
    · exact .ite (.illegal hb) (.ite (.pure hb.modMe.write.advance) (.bind (h.access hb) fun _ h1 => .pure h1.modMe))

theorem MemOk.execRls {d p x o} (h : MemOk s) : NextOk (execRls d p x o s) := by
  unfold Machine.execRls
  exact .done (.bind h.limit fun _ _ => .bind h.ready fun t _ => .bind h.atomDrain fun _ h1 => h.releaseRsv h1.pop)

theorem MemOk.execRlsn {d p o} (h : MemOk s) : NextOk (execRlsn d p o s) := by
  unfold Machine.execRlsn
  exact .done (.bind h.limit fun _ _ => .bind h.ready fun t _ => .bind h.atomDrain fun _ h1 => h.releaseRsv h1)

theorem MemOk.execWaitrs (h : MemOk s) : NextOk (execWaitrs s) := by
  refine .done (.bind h.ready fun t _ => ?_)
  split
  · exact .illegal h
  · exact .ite (.illegal h) (.ite (.stop h) (.bind h.sideEffect fun _ h1 => .pure (.park h1)))

theorem MemOk.nibble {hi} (h : MemOk s) : EffOk (fun _ => True) (s.nibble hi) := h.limit

theorem MemOk.counter {t opc d p off hi f writes base} (h : MemOk s) (hb : MemOk base) :
    EffOk MemOk (s.counter base t opc d p off hi f writes) :=
  h.access hb

/-! ### Copies, attendance words, deposits and reductions -/

theorem MemOk.attend {t opc d p op write base} (h : MemOk s) (hb : MemOk base) :
    EffOk MemOk (s.attend base t opc d p op write) := by
  unfold State.attend
  refine .ite (.stop h) (.bind (h.locate hb) fun _ _ => ?_)
  split
  · exact .stop hb
  · exact h.access hb

theorem MemOk.execAwait {d p x} (h : MemOk s) : NextOk (execAwait d p x s) := by
  refine .done (.bind h.ready fun t _ => ?_)
  split
  · next e =>
      have h1 := MemOk.snd e (by
          split
          · exact h
          · exact h.pop)
      exact .bind (h.attend h1) fun _ h2 => .pure h2.modMe

theorem MemOk.execAttendanceArrival {i} (h : MemOk s) : NextOk (execAttendanceArrival i s) := by
  unfold Machine.execAttendanceArrival
  apply NextOk.next
  split
  · exact h
  · extract_lets
    split
    · refine .ite h (.ite (.homeWrite h) ?_)
      split
      · next e => exact h.signalWait e
      · exact .setRel (.homeWrite h)

theorem MemOk.execCcinc {c} (h : MemOk s) : NextOk (execCcinc c s) := by
  refine .done (.bind h.ready fun t _ => ?_)
  exact .ite (.pure h.advance) (.ite (.stop h) (.ite (.stop h) (.pure h.modCore.modMe.advance)))

theorem MemOk.locateRed {t a base} (_ : MemOk s) (hb : MemOk base) :
    EffOk (fun _ => True) (s.locateRed base t a) := by
  unfold State.locateRed
  refine .ite (.stop hb) (.ite (.stop hb) ?_)
  split
  · exact .stop hb
  · exact .ite (.stop hb) (.ite (.stop hb) (.ok trivial))
  · exact .ite (.stop hb) (.ok trivial)

theorem MemOk.redIssue {opc f c p x dbl off} (h : MemOk s) : EffOk MemOk (s.redIssue opc f c p x dbl off) := by
  refine .bind h.ready fun t _ => .ite (.stop h) ?_
  exact .bind (h.locateRed h.pop) fun va _ => .bind (h.engIssue h.pop) fun _ h1 => .pure h1.modMe

/-! ### Segments and registers -/

theorem MemOk.setUserCsr {n v} (h : MemOk s) : MemOk (s.setUserCsr n v) := by
  unfold State.setUserCsr
  split
  · exact h.modMe
  · exact h.modMe
  · exact h.modMe
  · exact h.modMe
  · exact h.modMe
  · exact h.modMe
  · exact h.modMe
  · exact h.modMe
  · exact h.modMe
  · exact h.modMe
  · exact .ite (.ite h.orFlags h.modCore) h

theorem MemOk.csrOp {op d x n} (h : MemOk s) : EffOk MemOk (s.csrOp op d x n) := by
  unfold State.csrOp
  refine .ite (.bind h.ready fun t _ => .ite (.illegal h) (.stop h)) (.bind h.limit fun _ _ => ?_)
  refine .bind h.ready fun t _ => ?_
  split
  · exact .illegal h
  · refine .ite (.stop h) ?_
    split
    · next e =>
        have h1 := MemOk.snd e (.iteSnd h h.read1)
        exact .ite (.illegal h1) (.pure (.advance (.write (.ite h1 h1.setUserCsr))))

theorem MemOk.setSupCsr {t n v} (h : MemOk s) : MemOk (s.setSupCsr t n v) := by
  unfold State.setSupCsr
  split
  · exact h.modMe
  · exact h.modMe
  · exact h.modMe
  · exact h.modMe
  · exact h.modMe
  · exact h.modMe
  · exact h.modPart
  · exact h.modPart
  · exact h.modCore
  · exact h.modCtx
  · exact h.modMe
  · exact h.modMe
  · exact h.modMe
  · exact h.modCore
  · exact h.modSlot.modMe
  · exact h.modSlot.modMe
  · exact h.setUserCsr

theorem MemOk.sendInval {α : Type} {Q : α → Prop} {t page whole} (h : MemOk s) : EffOk Q (s.sendInval t page whole) :=
  .stop h

theorem MemOk.scsrOp {w d x n} (h : MemOk s) : EffOk MemOk (s.scsrOp w d x n) := by
  refine .bind h.limit fun _ _ => .bind h.ready fun t _ => .bind h.privileged fun _ _ => ?_
  refine .ite (.pure h.modMe.advance) ?_
  split
  · exact .illegal h
  · refine .ite (.stop h) (.ite (.pure h.write.advance) (.ite ?_ ?_))
    · refine .bind h.drainOr fun _ _ => .ite (.illegal h.pop) ?_
      exact .ite (.stop h.pop) (.ite h.pop.setSupCsr.write.sendInval (.pure h.pop.setSupCsr.write.advance))
    · refine .ite (.illegal h.pop) ?_
      exact .ite (.stop h.pop) (.ite h.pop.setSupCsr.write.sendInval (.pure h.pop.setSupCsr.write.advance))

/-! ### Tile handles -/

theorem MemOk.waitRepair {α : Type} {Q : α → Prop} {t va u k} (h : MemOk s) : EffOk Q (s.waitRepair t va u k) := by
  unfold State.waitRepair
  extract_lets +onlyGivenNames c place
  clear_value place
  split
  · exact .stop h
  · exact .stop (.modMe (.parkFault h))

theorem MemOk.issueName {t va k need xval} (h : MemOk s) :
    EffOk (fun r => MemOk r.2.2) (s.issueName t va k need xval) := by
  unfold State.issueName
  split
  · exact .stop h
  · exact .ite (.ok h) (.stop h)
  · extract_lets
    split
    · exact .stop h
    · next e => exact .stop (h.port.snd e)
    · next e => exact .stop (h.port.snd e)
    · next e => exact (h.port.snd e).waitRepair
    · next e => exact (h.port.snd e).waitRepair
    · next e =>
        have h1 := h.port.snd e
        split
        · exact h1.waitRepair
        · exact .ok h1

theorem MemOk.issueRead {t va name n g} (h : MemOk s) : EffOk (fun r => MemOk r.2) (s.issueRead t va name n g) := by
  unfold State.issueRead
  refine .ite (.stop h) (.ite (.stop h) ?_)
  split
  · next e => exact .stop (h.homeReads.snd e)
  · next e =>
      have h1 := h.homeReads.snd e
      split
      · next e => exact .ok (h1.readNamed.snd e)
      · next e => exact .stop (h1.readNamed.snd e).lostReader

theorem MemOk.handleWord {t va name} (h : MemOk s) : EffOk (fun r => MemOk r.2) (s.handleWord t va name) :=
  .bind h.issueRead fun ⟨_, _⟩ h1 => .pure h1

theorem MemOk.handlePtr {t p need} (h : MemOk s) : EffOk (fun r => MemOk r.2.2) (s.handlePtr t p need) := by
  unfold State.handlePtr
  exact .ite (.stop h) (.ite (.stop h) (.bind h.issueName fun ⟨name, x, s1⟩ h1 => .pure h1))

theorem MemOk.tilePtr {t p n align need} (h : MemOk s) : EffOk (fun _ => True) (s.tilePtr t p n align need) := by
  unfold State.tilePtr
  refine .ite (.stop h) (.ite (.stop h) ?_)
  split
  · exact .stop h
  · exact .ok trivial
  · exact .ite (.ok trivial) (.stop h)

theorem MemOk.oarEmpty {t} (h : MemOk s) : EffOk (fun _ => True) (s.oarEmpty t) := .ite (.stop h) (.ok trivial)

theorem MemOk.takeCell {t idx c} (h : MemOk s) : EffOk MemOk (s.takeCell t idx c) :=
  .ite (.stop h) (.ok h.modCtx.homeWrite)

theorem MemOk.putSpark {c ctx va} (h : MemOk s) : MemOk (s.putSpark c ctx va) := h.modCore

theorem MemOk.forceTrap {α : Type} {Q : α → Prop} {t c v} (h : MemOk s) : EffOk Q (s.forceTrap t c v) :=
  .ite (.stop h.modMe) (.stop h.unwind)

theorem MemOk.walkTrap {α : Type} {Q : α → Prop} {t c v} (h : MemOk s) : EffOk Q (s.walkTrap t c v) := .stop h.unwind
theorem MemOk.sparkPrio {who} (h : MemOk s) : MemOk (s.sparkPrio who) := h.modWho
theorem MemOk.squash {t desc} (h : MemOk s) : MemOk (s.squash t desc) := h.dropClaims.dropWaits.modDesc.vacate

theorem MemOk.waitHandle {α : Type} {Q : α → Prop} {t va name} (h : MemOk s) : EffOk Q (s.waitHandle t va name) := by
  unfold State.waitHandle
  extract_lets b add
  have hadd {s w} (h : MemOk s) : MemOk (add s w) := by
    unfold add
    extract_lets s1
    have h1 : MemOk s1 := h
    split
    · exact h1.sparkPrio
    · exact h1
  split
  · exact .stop h.abandon
  · refine .ite (.stop h) ?_
    split
    · exact .stop (hadd h.squash)
    · exact .stop (hadd h)

theorem MemOk.walkClaim {t va name} (h : MemOk s) : EffOk MemOk (s.walkClaim t va name) :=
  .ite (.stop h.unwind) (.ite (.stop h) (.ok (.ite h.claim.homeWrite.modMe.sparkPrio h.claim.homeWrite.modMe)))

theorem MemOk.forceEvent {t va name base} (h : MemOk s) :
    EffOk (fun r => MemOk r.2) (s.forceEvent t va name base) := by
  refine .bind h.handleWord fun ⟨w, s1⟩ h1 => .ite h1.forceTrap ?_
  split
  · exact .pure h1
  · exact h1.forceTrap
  · exact .ite h1.walkTrap h1.waitHandle
  · split
    · next e => exact .stop (h1.walkClaim.of_ok e)
    · next e => exact h1.walkClaim.of_error e

theorem MemOk.nextFrame {words} (h : MemOk s) : MemOk (s.nextFrame words) := by
  unfold State.nextFrame
  split
  · exact h
  · exact .modMe (.ite h.homeWrite h)

theorem MemOk.popFrame {f} (h : MemOk s) : MemOk (s.popFrame f) := h.modMe

theorem MemOk.walkCompute {t opc j} (h : MemOk s) : EffOk MemOk (s.walkCompute t opc j) := by
  unfold State.walkCompute
  extract_lets +onlyGivenNames k tag job e
  split
  refine .ite (.stop h) (.ite (.stop h) (.ite (.stop h) ?_))
  extract_lets +onlyGivenNames o s1 s2
  have h1 : MemOk s1 := h.modCore.note
  have h2 : MemOk s2 := h1.modMe
  exact .ok h2

theorem MemOk.startApply {t c} (h : MemOk s) : EffOk MemOk (s.startApply t c) := by
  unfold State.startApply
  refine .ite (.stop h) (.ite (.stop h) (.ite (.stop h.unwind) ?_))
  split
  · exact h.walkTrap
  · exact .ok (.modMe (.homeWrite (.foldr (fun _ _ h1 => h1.homeWrite) _ h)))

theorem MemOk.endApply {t} (h : MemOk s) : MemOk (s.endApply t) := by
  unfold State.endApply
  split
  · exact h
  · refine .ite h.audit ?_
    extract_lets
    split
    · exact .ite h.audit.modMe h.audit.modMe.saveSegs
    · exact h.audit.modMe

theorem MemOk.operandName {t va base} (h : MemOk s) : EffOk (fun r => MemOk r.2) (s.operandName t va base) := by
  unfold State.operandName
  split
  · next e => exact .ok (h.issueName.of_ok e)
  · next e => exact MemOk.walkTrap (h.issueName.of_error e)
  · next e => exact h.issueName.of_error e

theorem MemOk.badCell {α : Type} {Q : α → Prop} {t f cell base} (h : MemOk s) : EffOk Q (s.badCell t f cell base) :=
  h.loseLine.poison.modCtx.walkTrap

theorem MemOk.walkStep {t w f opc base} (h : MemOk s) : EffOk MemOk (s.walkStep t w f opc base) := by
  unfold State.walkStep
  split
  · exact h.walkTrap
  · refine .ite (.ok h.popFrame) (.ite (.stop h.unwind) (.ite h.badCell ?_))
    refine .ite (.ite h.correctNoted.walkTrap h.correctNoted.startApply) (.ite ?_ ?_)
    · refine .ite (.ok h.correctNoted.nextFrame) (.bind h.correctNoted.operandName fun ⟨name, s1⟩ h1 => ?_)
      exact .bind h1.forceEvent fun ⟨v, s2⟩ h2 => .pure h2.nextFrame
    · refine .ite ?_ h.correctNoted.walkCompute
      refine .bind h.correctNoted.drainOr fun _ _ => ?_
      apply EffOk.pure
      split
      · exact h.correctNoted.fillHandle.popFrame.modMe.sparkPrio
      · exact h.correctNoted.fillHandle.popFrame.modMe

theorem MemOk.walkOn {t opc base} (h : MemOk s) : EffOk (fun _ => True) (s.walkOn t opc base) := by
  unfold State.walkOn
  split
  · exact .ok trivial
  · split
    · exact .ok trivial
    · split
      · next e => exact .stop (h.walkStep.of_ok e)
      · next e => exact h.walkStep.of_error e

theorem MemOk.acquireHandle {name} (h : MemOk s) : MemOk (s.acquireHandle name) := .ite h h.orFlags

theorem MemOk.execForce {d p} (h : MemOk s) : NextOk (execForce d p s) := by
  refine .done (.bind h.ready fun t _ => .bind h.oarEmpty fun _ _ => .bind h.walkOn fun _ _ => ?_)
  refine .bind h.handlePtr fun ⟨va, name, s1⟩ h1 => ?_
  exact .bind h1.forceEvent fun ⟨w, s2⟩ h2 => .pure h2.modMe.acquireHandle.write.advance

theorem MemOk.execHtest {d p pr} (h : MemOk s) : NextOk (execHtest d p pr s) := by
  refine .done (.bind h.ready fun t _ => .bind h.oarEmpty fun _ _ => .bind h.handlePtr fun ⟨va, name, s1⟩ h1 => ?_)
  exact .bind h1.handleWord fun ⟨w, s2⟩ h2 => .pure (.advance (.modMe (.write (.ite h2.acquireHandle h2))))

theorem MemOk.execSpark {p} (h : MemOk s) : NextOk (execSpark p s) := by
  refine .done (.bind h.ready fun t _ => ?_)
  exact .bind h.oarEmpty fun _ _ => .ite (.stop h) (.ite (.stop h) (.pure h.putSpark.advance))

theorem MemOk.handleOpen {t va name xval} (h : MemOk s) : EffOk MemOk (s.handleOpen t va name xval) :=
  .ite (.stop h) (.bind h.handleWord fun ⟨_, _⟩ h1 => .ite (.stop h1) (.pure h1))

theorem MemOk.handlePut {name v} (h : MemOk s) : MemOk (s.handlePut name v) := h.homeWriteRel

theorem MemOk.handleWrite {t va name v xval} (h : MemOk s) : EffOk MemOk (s.handleWrite t va name v xval) :=
  .bind h.handleOpen fun _ h1 => .pure h1.handlePut

theorem MemOk.suspend {t va name idx c rows cols xval} (h : MemOk s) :
    EffOk MemOk (s.suspend t va name idx c rows cols xval) :=
  .bind h.handleOpen fun _ h1 => .bind h1.takeCell fun _ h2 => .pure h2.handlePut.shown

theorem MemOk.execHval {d x sh} (h : MemOk s) : NextOk (execHval d x sh s) := by
  refine .done (.bind h.ready fun t _ => .bind h.oarEmpty fun _ _ => .bind h.handlePtr fun ⟨va, name, s1⟩ h1 => ?_)
  refine .bind h1.tilePtr fun tile _ => .bind h1.drainOr fun _ _ => ?_
  exact .bind h1.noSpark fun _ _ => .bind h1.handleWrite fun _ h2 => .pure h2.shown.advance

theorem MemOk.strictSusp {t w d x y c j} (h : MemOk s) : EffOk MemOk (s.strictSusp t w d x y c j) := by
  unfold State.strictSusp
  split
  · exact h.walkTrap
  · extract_lets
    split
    · split
      · refine .bind h.walkOn fun _ _ => .bind h.handlePtr fun ⟨va, name, s1⟩ h1 => ?_
        exact .bind h1.forceEvent fun ⟨v, s2⟩ h2 => .pure h2.modMe
      · refine .ite h.walkCompute (.bind h.drainOr fun _ _ => .bind h.modMe.handlePtr fun ⟨va, name, s1⟩ h3 => ?_)
        exact .bind h3.handleWrite fun _ h4 => .pure h4.shown.advance

theorem MemOk.execSusp {d x y pl op res} (h : MemOk s) : NextOk (execSusp d x y pl op res s) := by
  refine .done (.bind h.limit fun _ _ => .bind h.ready fun t _ => .bind h.oarEmpty fun _ _ => ?_)
  extract_lets +onlyGivenNames addr c
  split
  · exact h.strictSusp
  · refine .bind h.handlePtr fun ⟨va, name, s1⟩ h1 => .bind h1.handlePtr fun ⟨xa, xn, s2⟩ h2 => ?_
    dsimp -zeta only
    extract_lets +onlyGivenNames finish pair
    have hfinish : ∀ r, MemOk r.2 → EffOk MemOk (finish r) := by
      rintro ⟨ws, s5⟩ h5
      unfold finish
      split
      · exact .stop h5
      · refine .bind h5.tilePtr fun place _ => .bind h5.noSpark fun _ _ => ?_
        split
        · exact .pure h5.modMe
        · exact .bind h5.suspend fun _ h6 => .pure h6.advance
    have hpair : ∀ r, MemOk r.2.2 → EffOk MemOk (pair r) := by
      rintro ⟨ya, yn, s3⟩ h3
      refine .bind h3.drainOr fun _ _ => .bind h3.handleWord fun ⟨wa, s4⟩ h4 => ?_
      clear_value finish
      cases y with
      | some p => exact .bind (.map h4.handleWord fun _ h => h) hfinish
      | none => exact .bind (.ok h4 : EffOk (fun r : List Nat × State => MemOk r.2) _) hfinish
    clear_value pair
    cases y with
    | some p => exact .bind h2.handlePtr hpair
    | none => exact .bind (.ok h2 : EffOk (fun r : Nat × Nat × State => MemOk r.2.2) _) hpair

theorem MemOk.entryOk {e} (h : MemOk s) : EffOk (fun _ => True) (s.entryOk e) := .ite (.stop h) (.ok trivial)
theorem MemOk.enqueue {d} (h : MemOk s) : MemOk (s.enqueue d) := h

theorem MemOk.execApply {d entry arg pl sh} (h : MemOk s) : NextOk (execApply d entry arg pl sh s) := by
  refine .done (.bind h.ready fun t _ => .bind h.oarEmpty fun _ _ => .bind h.handlePtr fun ⟨va, name, s1⟩ h1 => ?_)
  refine .bind h1.tilePtr fun args _ => .bind h1.tilePtr fun place _ => .bind h1.entryOk fun _ _ => .ite (.stop h1) ?_
  refine .bind h1.drainOr fun _ _ => .bind h1.noSpark fun _ _ => ?_
  split
  · exact .illegal h1
  · exact .bind h1.suspend fun _ h2 => .pure h2.enqueue.advance

theorem MemOk.commitHeld {t} (h : MemOk s) : EffOk MemOk (s.commitHeld t) := by
  unfold State.commitHeld
  refine .foldlM (fun s x h1 => ?_) _ h
  refine .bind h1.issueName fun ⟨name, g, s1⟩ h2 => .ite (.stop h2) (.ite (.stop h2.abandon) ?_)
  split
  · next e => exact .stop (h2.homeReads.snd e)
  · next e =>
      have h3 := h2.homeReads.snd e
      split
      · exact .pure h3.writeNamed
      · exact .stop h3.abandon
      · exact h3.waitRepair
      · exact h3.waitRepair

theorem MemOk.execHfill {p} (h : MemOk s) : NextOk (execHfill p s) := by
  refine .done (.bind h.ready fun t _ => .bind h.oarEmpty fun _ _ => .bind h.handlePtr fun ⟨va, name, s1⟩ h1 => ?_)
  refine .ite (.stop h1) (.bind h1.drainOr fun _ _ => .ite (.stop h1) (.bind h1.commitHeld fun _ h2 => ?_))
  apply EffOk.pure
  apply MemOk.advance
  split
  · exact h2.fillHandle.modMe.sparkPrio
  · exact h2.fillHandle.modMe

theorem MemOk.depend {t num va name} (h : MemOk s) : EffOk MemOk (s.depend t num va name) := by
  unfold State.depend
  split
  · next e => exact .stop (h.readNamed.snd e).lostReader
  · next e =>
      have h1 := h.readNamed.snd e
      exact .ok (.ite (.ite h1.setClaim.putSpark h1.setClaim) h1.modDesc)

theorem MemOk.argBlock {t p k} (h : MemOk s) : EffOk (fun _ => True) (s.argBlock t p k) := by
  unfold State.argBlock
  refine .ite h.tilePtr (.bind (h.locate h) fun _ _ => ?_)
  split
  exact .ite (.stop h) (.pure trivial)

theorem MemOk.execTask {entry arg n} (h : MemOk s) : NextOk (execTask entry arg n s) := by
  refine .done (.bind h.ready fun t _ => .ite (.stop h) ?_)
  refine .bind h.oarEmpty fun _ _ => .bind h.entryOk fun _ _ => .bind h.argBlock fun args _ => .ite (.stop h) ?_
  refine .bind h.drainOr fun _ _ => .bind (?_ : EffOk (fun r => MemOk r.2) _) fun ⟨_, s1⟩ h1 => ?_
  · exact .foldlM (fun r _ h1 => .bind h1.issueName fun ⟨_, _, _⟩ h2 => .bind h2.issueRead fun ⟨_, _⟩ h3 => .pure h3) _ h
  · refine .bind (.foldlM (fun r va h2 => ?_) _ h1 : EffOk (fun r => MemOk r.2) _) fun ⟨_, s2⟩ h2 => ?_
    · refine .ite (.stop h2) (.bind h2.issueName fun ⟨_, _, _⟩ h3 => .ite (.stop h3) (.pure h3))
    · refine .ite (.stop h2) (.ite (.stop h2) (.bind h2.sideEffect fun _ h3 => ?_))
      exact .bind (.foldlM (fun _ _ h4 => h4.depend) _ h3.enqueue) fun _ h4 => .pure h4.modDesc.advance

theorem MemOk.autoForce {t va} (h : MemOk s) : EffOk MemOk (s.autoForce t va) := by
  refine .bind h.walkOn fun _ _ => ?_
  split
  · exact .pure h.retire
  · extract_lets
    split
    · next e => exact .ite (.stop h.abandon) (h.issueName.of_error e)
    · next e =>
        have h1 := h.issueName.of_ok e
        refine .bind h1.handleWord fun ⟨w, s2⟩ h2 => ?_
        exact .ite (.pure h2.retire) (.ite (.ite (.pure h2.abandon) h2.walkTrap) h2.walkClaim)

theorem MemOk.execClaimRetry {core slot} (h : MemOk s) : NextOk (execClaimRetry core slot s) := by
  unfold Machine.execClaimRetry
  apply NextOk.next
  split
  · exact h
  · split
    · exact .ite h.modAt h
    · exact h

theorem MemOk.tileDone {c e o} (h : MemOk s) : MemOk (s.tileDone c e o) := h.retireOp.modWho

theorem MemOk.execEngineOpComplete {core e} (h : MemOk s) : NextOk (execEngineOpComplete core e s) := by
  unfold Machine.execEngineOpComplete
  apply NextOk.next
  split
  · exact h
  · exact .ite h (.ite h.consume (.ite h.tileDone (.ite h h.engFinish)))

/-! ### Tasks, messages and barriers -/

theorem MemOk.execHalt (h : MemOk s) : NextOk (execHalt s) := by
  refine .done (.bind h.ready fun t _ => .bind h.drainOr fun _ _ => .ite (.pure h) (.pure (.ite h.dropRsv.retire ?_)))
  split
  · exact h.dropRsv.endApply
  · exact h.dropRsv

theorem MemOk.needLaunch {t} (h : MemOk s) : EffOk (fun _ => True) (s.needLaunch t) := by
  refine .bind h.noSpark fun _ _ => ?_
  split
  · exact .ite (.pure trivial) (.stop h)
  · exact .stop h

theorem MemOk.setRange {core part seq lo hi} (h : MemOk s) : MemOk (s.setRange core part seq lo hi) := h.modCore
theorem MemOk.drawn {d pr i} (h : MemOk s) : MemOk (s.drawn d pr i) := h.write.modMe
theorem MemOk.handOut {who i} (h : MemOk s) : MemOk (s.handOut who i) := h.modWho

theorem MemOk.drawFrom {core part seq} (h : MemOk s) : MemOk (s.drawFrom core part seq).2 := by
  unfold State.drawFrom
  split
  · exact .iteSnd h.setRange h
  · exact h

theorem MemOk.askSteal {core part seq who} (h : MemOk s) : MemOk (s.askSteal core part seq who).2 := by
  unfold State.askSteal
  split
  · exact h
  · split <;> exact h

theorem MemOk.unitOpen {core} (h : MemOk s) : EffOk (fun _ => True) (s.unitOpen core) := .ite (.stop h) (.ok trivial)

theorem MemOk.execNext {d pr} (h : MemOk s) : NextOk (execNext d pr s) := by
  refine .done (.bind h.ready fun t _ => .bind h.needLaunch fun q _ => ?_)
  split
  · exact .pure h.drawn.advance
  · exact .pure h.drawn.advance
  · refine .bind h.unitOpen fun _ _ => .bind h.useStore fun _ h1 => ?_
    split
    · next e => exact .pure (h1.drawFrom.snd e).handOut.drawn.advance
    · next e =>
        have h2 := h1.drawFrom.snd e
        split
        · next e => exact .stop (h2.askSteal.snd e)
        · next e => exact .pure (h2.askSteal.snd e).drawn.advance

theorem MemOk.execRange {d} (h : MemOk s) : NextOk (execRange d s) := by
  refine .done (.bind h.ready fun t _ => .bind h.needLaunch fun q _ => ?_)
  exact .bind h.unitOpen fun _ _ => .bind h.useStore fun _ h1 => .pure h1.write.advance

theorem MemOk.execStealRequest {i} (h : MemOk s) : NextOk (execStealRequest i s) := by
  unfold Machine.execStealRequest
  apply NextOk.next
  split
  · exact h
  · extract_lets +onlyGivenNames core
    refine .ite h ?_
    extract_lets +onlyGivenNames say
    have hsay {s r} (h : MemOk s) : MemOk (say s r) := h
    refine .ite (hsay h) ?_
    split
    · exact h.consume
    · next e _ => exact hsay (h.checkStore e)
    · next e _ =>
        have h1 := h.checkStore e
        exact .ite (hsay h1) (hsay h1.setRange)

theorem MemOk.answerNext {tag who k v} (h : MemOk s) : MemOk (s.answerNext tag who k v) := h.modWho.wake

theorem MemOk.serveNext {x l} (h : MemOk s) : MemOk (s.serveNext x l) := by
  induction l generalizing s with
  | nil => exact h
  | cons w l ih =>
    unfold State.serveNext
    split
    · next e => exact ih (h.drawFrom.snd e).handOut.answerNext
    · next e =>
        have h1 := h.drawFrom.snd e
        split
        · exact h1
        · exact ih h1.answerNext

theorem MemOk.execStealReply {i} (h : MemOk s) : NextOk (execStealReply i s) := by
  unfold Machine.execStealReply
  apply NextOk.next
  split
  · exact h
  · refine .ite h ?_
    split
    · exact h
    · split
      · exact h
      · exact h.setRange.serveNext
    · split
      · exact h
      · split
        · exact h
        · exact h.answerNext.serveNext

theorem MemOk.moveTo {t dest} (h : MemOk s) : EffOk MemOk (s.moveTo t dest) :=
  .bind h.noSpark fun _ _ => .ite (.stop h) (.ite (.pure h.advance) (.stop h))

theorem MemOk.execSend {d x y} (h : MemOk s) : NextOk (execSend d x y s) := by
  refine .done (.bind h.ready fun t _ => ?_)
  split
  · exact .pure h.modMe.write.advance
  · exact .stop h
  · exact .ite (.stop h.pop) (.bind h.pop.sideEffect fun _ h1 => .stop h1)

theorem MemOk.endSend {m v} (h : MemOk s) : MemOk (s.endSend m v) := h

theorem MemOk.execMessageArrival {i} (h : MemOk s) : NextOk (execMessageArrival i s) := by
  unfold Machine.execMessageArrival
  apply NextOk.next
  split
  · exact h
  · exact .ite h (.ite h.noteCtx.endSend (.ite h.modSlot.endSend (.ite h.modSlot.endSend h)))

theorem MemOk.execBar {sc} (h : MemOk s) : NextOk (execBar sc s) := by
  refine .done (.bind h.ready fun t _ => .bind h.needLaunch fun q _ => .ite (.pure h.advance) (.ite (.stop h) ?_))
  split
  · exact .pure h.modMe.advance
  · split
    · exact .stop h
    · refine .bind h.drainOr fun _ _ => ?_
      extract_lets u
      split <;> exact .stop h

theorem MemOk.barWake {i l now} (h : MemOk s) : MemOk (s.barWake i l now) := by
  unfold State.barWake
  refine .foldl (fun s w h1 => ?_) _ h
  split
  · exact .ite h1.modAt.wakeAt h1.modAt.wake
  · exact h1.modWho.wake

theorem MemOk.execBarrierComplete {i} (h : MemOk s) : NextOk (execBarrierComplete i s) := by
  unfold Machine.execBarrierComplete
  apply NextOk.next
  split
  · exact h
  · exact .ite h (.ite (.ite h (.modCore (.barWake h))) (.barWake h))

theorem MemOk.execRedn {d x n op sc} (h : MemOk s) : NextOk (execRedn d x n op sc s) := by
  refine .done (.bind h.limit fun _ _ => .bind h.ready fun t _ => ?_)
  extract_lets
  split
  · exact .pure h.write.modMe.advance
  · exact .stop h
  · split
    · exact .stop h
    · refine .ite (.stop h) (.bind h.drainOr fun _ _ => .ite (.stop h) (.bind h.sideEffect fun _ h1 => ?_))
      refine .ite (.pure h1.write.modMe.advance) (.ite (.pure h1.write.modMe.advance) ?_)
      split <;> exact .stop h1

theorem MemOk.execReductionComplete {i} (h : MemOk s) : NextOk (execReductionComplete i s) := by
  unfold Machine.execReductionComplete
  apply NextOk.next
  split
  · exact h
  · exact .ite h (.of_mem (MemOk.foldl (fun _ _ h1 => h1.modWho.orSstWho.wake) _ h) rfl)

theorem MemOk.newSeq {part} (h : MemOk s) : MemOk (s.newSeq part).2 := h.modPart

theorem MemOk.execLaunch {d p} (h : MemOk s) : NextOk (execLaunch d p s) := by
  refine .done (.bind h.ready fun t _ => .bind h.oarEmpty fun _ _ => .bind (h.locate h) fun _ _ => ?_)
  split
  · refine .bind h.issueName fun ⟨name, g, s1⟩ h1 => .bind h1.drainOr fun _ _ => ?_
    refine .bind h1.issueRead fun ⟨b, s2⟩ h2 => .ite (.stop h2) (.ite (.stop h2) (.bind h2.sideEffect fun _ h3 => ?_))
    split
    · next e =>
        have h4 := h3.newSeq.snd e
        exact .pure (.advance (.write h4))

/-! ### Saving and restoring -/

theorem MemOk.copyMem {src dst n} (h : MemOk s) : MemOk (s.copyMem src dst n) :=
  .wakeWatchers (.clearLost (.clearRel (Memory.copyRange_wf _ _ _ h)))

theorem MemOk.breakHeld {who} (h : MemOk s) : MemOk (s.breakHeld who) := .foldl (fun _ _ h => h.breakLine) _ h

theorem MemOk.saveInto {t code lines manual} (h : MemOk s) : MemOk (s.saveInto t code lines manual) := by
  unfold State.saveInto
  extract_lets +onlyGivenNames home s1 s2 u hs b s3
  have h1 : MemOk s1 := .foldr (fun _ _ h => h.homeWrite) _ h
  have h3 : MemOk s3 := .foldl (fun _ _ h => h.homeWrite) _ h1.breakHeld
  exact h3.vacate.modSlot.modCore

theorem MemOk.saveThread {t code} (h : MemOk s) : MemOk (s.saveThread t code) := h.saveInto

theorem MemOk.preemptAt {c i} (h : MemOk s) : MemOk (s.preemptAt c i) := by
  unfold State.preemptAt
  split
  · exact h
  · split
    · exact h.sendProbes
    · exact .ite h.sendProbes (.ite h.consume (.ite h h.saveThread))

theorem MemOk.checkpoint {c p} (h : MemOk s) : MemOk (s.checkpoint c p) := by
  unfold State.checkpoint
  split
  · exact h
  · exact .ite h h

theorem MemOk.writeBlockRest {c base copies} (h : MemOk s) : MemOk (s.writeBlockRest c base copies) := by
  unfold State.writeBlockRest
  extract_lets +onlyGivenNames k qs s1
  have h1 : MemOk s1 := .foldl (fun _ _ h => h.homeWrite) _ h
  exact h1.homeWrite.homeWrite.homeWrite.homeWrite.homeWrite.homeWrite.homeWrite.homeWrite

theorem MemOk.coreUnsound {c b s1} (h : MemOk s) (e : s.coreUnsound c b = some s1) : MemOk s1 := by
  unfold State.coreUnsound at e
  extract_lets k sp at e
  split at e
  · exact Option.some.inj e ▸ h.consume
  · split at e
    · nomatch e
    · exact Option.some.inj e ▸ h.audit

theorem MemOk.coreCorrected {c} (h : MemOk s) : MemOk (s.coreCorrected c) :=
  .foldl (fun _ _ h1 => h1.readAcc) _ h.correctNoted

theorem MemOk.saveCore {c p other} (h : MemOk s) : MemOk (s.saveCore c p other) :=
  .modCore (.writeBlockRest (.foldl (fun _ _ h1 => h1.homeWrite) _ h.coreCorrected.copyMem))

theorem MemOk.restoreCore {c b} (h : MemOk s) : MemOk (s.restoreCore c b) :=
  .modCore (.foldl (fun _ _ h1 => h1.modCore) _ h.copyMem)

theorem MemOk.tagCheck {c i} (h : MemOk s) : MemOk (s.tagCheck c i) := by
  unfold State.tagCheck
  split
  · exact h
  · exact .ite h h.userTrapAt

theorem MemOk.segsAudit {t} (h : MemOk s) : MemOk (s.segsAudit t) := h.segsOfAudit

theorem MemOk.restoreThread {c x} (h : MemOk s) : MemOk (s.restoreThread c x) :=
  .tagCheck (.segsAudit (.ite h.modCore.modSlot.setOcc h.modCore.modSlot))

theorem MemOk.blockAudit {c x} (h : MemOk s) : MemOk (s.blockAudit c x) := by
  unfold State.blockAudit
  split
  · exact h.audit
  · exact .foldl (fun _ _ h1 => h1.correctNoted) _ h

/-! ### What reaches a core from outside -/

theorem MemOk.wakeSaved {w} (h : MemOk s) : MemOk (s.wakeSaved w) := by
  unfold State.wakeSaved
  split
  · exact h
  · exact .ite h h.homeWrite.modWho

theorem MemOk.execWakeMessage {i} (h : MemOk s) : NextOk (execWakeMessage i s) := by
  unfold Machine.execWakeMessage
  apply NextOk.next
  split
  · exact h
  · extract_lets
    split
    · exact .wakeSaved h
    · refine .ite h ?_
      split
      · exact h
      · exact .ite (.modAt (.wakeAt h)) h

theorem MemOk.endDeposit {d} (h : MemOk s) : MemOk (s.endDeposit d) := by
  unfold State.endDeposit
  split
  · exact h
  · exact h.modCore

theorem MemOk.dropDeposit {d c} (h : MemOk s) : MemOk (s.dropDeposit d c) := h.noteCtx.endDeposit

theorem MemOk.execDepositArrival {i} (h : MemOk s) : NextOk (execDepositArrival i s) := by
  unfold Machine.execDepositArrival
  apply NextOk.next
  split
  · exact h
  · refine .ite h ?_
    split
    · exact .ite h (.dropDeposit h)
    · exact h
    · exact .ite h (.modCore h)

theorem MemOk.landDeposit {core i} (h : MemOk s) : MemOk (s.landDeposit core i) := by
  unfold State.landDeposit
  split
  · exact h
  · refine .ite h (.ite h.consume ?_)
    split
    · exact h.modCore.dropDeposit
    · exact h
    · refine .ite h ?_
      split
      · exact h
      · exact .ite h h.modCore.modAt.modSlot.endDeposit

theorem MemOk.placeMig {c i t src} (h : MemOk s) : MemOk (s.placeMig c i t src) :=
  h.setOcc.modCore.segsAudit.noteCtx.tagCheck

theorem MemOk.execMigrationArrival {i} (h : MemOk s) : NextOk (execMigrationArrival i s) := by
  unfold Machine.execMigrationArrival
  apply NextOk.next
  split
  · exact h
  · exact .ite h (.ite (.placeMig h) (.ite h (.modCore h)))

theorem MemOk.startTask {c i d} (h : MemOk s) : MemOk (s.startTask c i d) := by
  unfold State.startTask
  extract_lets
  split
  · exact h.modDesc.place.setOcc
  · exact h.modDesc.place

theorem MemOk.startSpark {c i ctx va} (h : MemOk s) : MemOk (s.startSpark c i ctx va) := h.place

theorem MemOk.restoreSlot {core x} (h : MemOk s) : MemOk (s.restoreSlot core x) :=
  .ite h (.ite h.blockAudit.restoreThread h.blockAudit)

theorem MemOk.restoreBlock {core b x slot} (h : MemOk s) : MemOk (s.restoreBlock core b x slot) :=
  .ite h (.ite h.audit (.ite h.audit.restoreCore.restoreSlot h.audit.restoreCore))

theorem MemOk.execSlotFillFill {core slot} (h : MemOk s) : MemOk (execSlotFill.fill core slot s) := by
  unfold Machine.execSlotFill.fill
  extract_lets
  split
  · split
    · exact h.consume
    · next e => exact (h.checkStore e).modCore.placeMig
  · split
    · split
      · exact h.consume
      · next e => exact (h.checkStore e).startTask
    · split
      · exact h
      · split
        · exact h
        · exact h.modCore.startSpark

theorem MemOk.execSlotFill {core slot} (h : MemOk s) : NextOk (execSlotFill core slot s) := by
  refine .next (.ite h ?_)
  split
  · exact .ite h.restoreBlock h
  · exact .ite h.restoreSlot (.ite h h.execSlotFillFill)
  · exact h.execSlotFillFill

theorem MemOk.execTaskSteal {thief victim} (h : MemOk s) : NextOk (execTaskSteal thief victim s) := by
  refine .next (.ite h ?_)
  extract_lets
  split
  · refine .ite h ?_
    split
    · exact h.consume
    · next e => exact (h.checkStore e).modCore.modCore
  · exact h

theorem MemOk.checkHall {c} (h : MemOk s) : EffOk MemOk (s.checkHall c) := .foldlM (fun _ _ h1 => h1.useStore) _ h

theorem MemOk.checkUses {t i} (h : MemOk s) : EffOk MemOk (s.checkUses t i) := by
  unfold State.checkUses
  exact .ite (.stop h) (.bind (.foldlM (fun s k h1 => h1.useStore) _ h) fun _ h2 => .ite h2.checkHall (.ok h2))

theorem MemOk.syncPairs {s s1 : State} (h : MemOk s1) : MemOk (s.syncPairs s1) := by
  unfold State.syncPairs
  refine .foldl (fun r x h1 => ?_) _ h
  split
  refine .foldl (fun r i h2 => ?_) _ h1
  split
  · exact .ite h2 h2.modSlot
  · exact h2

/-! ### The launch path -/

theorem MemOk.unitRead {part name n g p} (h : MemOk s) (e : s.unitRead part name n g = some p) : MemOk p.2 := by
  unfold State.unitRead at e
  extract_lets k at e
  split at e
  · nomatch e
  · split at e
    · next e1 =>
        cases e
        exact MemOk.snd e1 (.readNamed (.foldl (fun _ _ h1 => h1.correctNoted) _ h))
    · nomatch e

theorem MemOk.unitLine {part ctx va n x p} (h : MemOk s) (e : s.unitLine part ctx va n x = some p) : MemOk p.2 := by
  obtain ⟨_, _, e⟩ := Option.bind_eq_some_iff.mp e
  exact h.unitRead e

theorem MemOk.acceptRecord {part seq q w d} (h : MemOk s) : MemOk (s.acceptRecord part seq q w d) := h
theorem MemOk.refuseRecord {part seq} (h : MemOk s) : MemOk (s.refuseRecord part seq) := h.modPart

theorem MemOk.takeHost {part q} (h : MemOk s) : MemOk (s.takeHost part q) := by
  unfold State.takeHost
  refine .ite h (.ite h ?_)
  split
  · next e =>
      have h1 := h.newSeq.snd e
      split
      · next e =>
          have h3 := MemOk.snd e (by
              split
              · next e => exact h1.unitRead e
              · exact h1)
          split
          · refine .ite (.acceptRecord (.modPart (.ite h3.homeWrite h3))) ?_
            exact .refuseRecord (.modPart (.ite h3.homeWrite h3))

theorem MemOk.takeDevice {die} (h : MemOk s) : MemOk (s.takeDevice die) := by
  unfold State.takeDevice
  split
  · exact h
  · refine .ite h ?_
    split
    exact .ite (.acceptRecord h) (.postEvent (.refuseRecord h))

theorem MemOk.execLaunchRecordTake {q} (h : MemOk s) : NextOk (execLaunchRecordTake q s) := by
  unfold Machine.execLaunchRecordTake
  apply NextOk.next
  split
  · exact h.takeHost
  · exact h.takeDevice

theorem MemOk.modLaunch {l f} (h : MemOk s) : MemOk (s.modLaunch l f) := h
theorem MemOk.noteChosen {l} (h : MemOk s) : MemOk (s.noteChosen l) := .ite h h.modLaunch.bump
theorem MemOk.reserveSlots {l c all} (h : MemOk s) : MemOk (s.reserveSlots l c all) := h.modCore

theorem MemOk.beginCore {l c j k} (h : MemOk s) : MemOk (s.beginCore l c j k) := by
  unfold State.beginCore
  split
  extract_lets +onlyGivenNames w vs unit p s1 s2 s3 s4
  have h2 : MemOk s2 := .foldl (fun _ _ h1 => h1.modWho) _ h.modCore
  have h3 : MemOk s3 := .ite h2 h2.note
  have h4 : MemOk s4 := h3.reserveSlots
  exact .ite h4.modCore.modLaunch h4

theorem MemOk.beginDispatch {l} (h : MemOk s) : MemOk (s.beginDispatch l) := by
  unfold State.beginDispatch
  extract_lets +onlyGivenNames cs s1
  have h1 : MemOk s1 := .foldl (fun _ _ h1 => h1.beginCore) _ h
  exact h1.modLaunch.modPart

theorem MemOk.preemptStep {who} (h : MemOk s) : MemOk (s.preemptStep who) := by
  unfold State.preemptStep
  split
  · exact h.preemptAt
  · split
    · exact .ite h.saveThread h
    · exact h

theorem MemOk.stepCore {l c} (h : MemOk s) : MemOk (s.stepCore l c) := by
  unfold State.stepCore
  extract_lets +onlyGivenNames all s1
  have h1 : MemOk s1 := .foldl (fun _ _ h => h.preemptStep) _ h
  split
  · exact h1.reserveSlots
  · extract_lets +onlyGivenNames s2 written
    have h2 : MemOk s2 := h1.checkpoint.reserveSlots
    refine .ite ?_ h2
    split
    · exact h2.modCore.modLaunch
    · refine .ite h2 ?_
      split
      · next e => exact h2.coreUnsound e
      · exact h2.saveCore.modLaunch

theorem MemOk.startCore {l c j} (h : MemOk s) : MemOk (s.startCore l c j) := by
  unfold State.startCore
  extract_lets +onlyGivenNames r fresh s1 s2
  have h2 : MemOk s2 := by
    unfold s2
    refine .foldl (fun s i h1 => ?_) _ h.modCore
    extract_lets
    split
    · exact h1.place.modSlot
    · exact h1.place
  exact h2.note

theorem MemOk.startLaunch {l} (h : MemOk s) : MemOk (s.startLaunch l) :=
  .modLaunch (.foldl (fun _ _ h1 => h1.startCore) _ h)

theorem MemOk.abortScans {l} (h : MemOk s) : MemOk (s.abortScans l) := .ite h (.foldl (fun _ _ h1 => h1.modCore) _ h)

theorem MemOk.execLaunchDispatch {part seq} (h : MemOk s) : NextOk (execLaunchDispatch part seq s) := by
  unfold Machine.execLaunchDispatch
  apply NextOk.next
  split
  · exact h
  · refine .ite h (.ite (.ite h (.ite h.consume ?_)) ?_)
    · extract_lets +onlyGivenNames s1
      have h1 : MemOk s1 := MemOk.abortScans (.ite h h.modLaunch)
      exact .ite h1.beginDispatch h1.noteChosen
    · extract_lets +onlyGivenNames s1
      have h1 : MemOk s1 := by
        refine .foldl (fun _ _ h1 => ?_) _ h
        split
        · exact h1.stepCore
        · exact h1
      split
      · exact h1
      · exact .ite h1.startLaunch h1

theorem MemOk.execImageLoad {part seq core} (h : MemOk s) : NextOk (execImageLoad part seq core s) := by
  unfold Machine.execImageLoad
  apply NextOk.next
  split
  · exact h
  · refine .ite h ?_
    extract_lets +onlyGivenNames lines
    cases e : lines with
    | none => exact h
    | some s1 =>
      refine .modLaunch (.modCore (.foldlM_some (fun r i r1 h1 e1 => ?_) _ h e))
      obtain ⟨p, e2, rfl⟩ := Option.map_eq_some_iff.mp e1
      exact (h1.unitLine e2).homeWrite

/-! ### The privileged instructions -/

theorem MemOk.needCfg {t die target} (h : MemOk s) : EffOk (fun _ => True) (s.needCfg t die target) :=
  .ite (.ok trivial) (.stop h)

theorem MemOk.takeAnswer {t d v} (h : MemOk s) : MemOk (s.takeAnswer t d v) := h.modMe.write.advance

theorem MemOk.answer {who k v} (h : MemOk s) : MemOk (s.answer who k v) := by
  unfold State.answer
  split
  · exact h.modWho.wake
  · exact h

theorem MemOk.execSret (h : MemOk s) : NextOk (execSret s) := by
  refine .done (.bind h.ready fun t _ => .bind h.privileged fun _ _ => ?_)
  split
  · exact .stop h
  · exact .pure h.supReturn

theorem MemOk.execIdle (h : MemOk s) : NextOk (execIdle s) := by
  unfold Machine.execIdle
  exact .done (.bind h.ready fun t _ => .bind h.privileged fun _ _ => .ite (.pure h.modSlot.advance) (.stop h))

theorem MemOk.blockVa {t opc p write} (h : MemOk s) : EffOk (fun _ => True) (s.blockVa t opc p write) := by
  refine .bind (h.locate h) fun _ _ => ?_
  split
  exact .ite (.stop h) (.pure trivial)

theorem MemOk.blockPlaces {t va write xval} (h : MemOk s) :
    EffOk (fun r => MemOk r.2) (s.blockPlaces t va write xval) :=
  .foldlM (fun _ _ h1 => .bind h1.issueName fun ⟨_, _, _⟩ h2 => .ite (.stop h2) (.pure h2)) _ h

theorem MemOk.blockStore {t va l xval} (h : MemOk s) : EffOk (fun r => MemOk r.2) (s.blockStore t va l xval) := by
  unfold State.blockStore
  refine .foldlM (fun r x h1 => ?_) _ h
  split
  split
  next e =>
    have h2 := h1.homeReads.snd e
    refine .ite (.stop h2) (.bind (?_ : EffOk MemOk _) fun _ h3 => .pure h3)
    split
    · exact .pure h2.birth
    · exact .stop h2
    · exact h2.waitRepair
    · exact h2.waitRepair

theorem MemOk.execCtxsv {d x p} (h : MemOk s) : NextOk (execCtxsv d x p s) := by
  refine .done (.bind h.ready fun t _ => .bind h.privileged fun _ _ => .ite (.illegal h) ?_)
  refine .bind h.oarEmpty fun _ _ => .bind h.blockVa fun va _ => ?_
  extract_lets +onlyGivenNames i
  split
  · exact .pure h.takeAnswer
  · refine .ite (.pure h.takeAnswer) (.ite (.pure h.takeAnswer) (.bind h.blockPlaces fun ⟨l, s1⟩ h1 => ?_))
    have h2 {c i f g} : MemOk ((s1.modMe f).modAt c i g) := h1.modMe.modAt
    dsimp only
    split
    · exact .stop h2.sendProbes
    · refine .ite (.stop h2.sendProbes) (.ite (.stop h2) (.ite (.stop h2) ?_))
      exact .bind h2.blockStore fun _ h3 => .pure h3.saveInto.takeAnswer

theorem MemOk.blockThreadFresh {t b id} (h : MemOk s) : MemOk (State.blockThread.fresh t b s id).2 :=
  MemOk.bump (.iteSnd h.modSlot h)

theorem MemOk.blockThread {t b} (h : MemOk s) : MemOk (s.blockThread t b).2 := by
  unfold State.blockThread
  extract_lets +onlyGivenNames id
  split
  · exact .iteSnd h h.blockThreadFresh
  · exact h.blockThreadFresh

theorem MemOk.execCtxld {d x p} (h : MemOk s) : NextOk (execCtxld d x p s) := by
  refine .done (.bind h.ready fun t _ => .bind h.privileged fun _ _ => .ite (.illegal h) ?_)
  refine .bind h.oarEmpty fun _ _ => .bind h.blockVa fun va _ => .bind h.blockPlaces fun ⟨l, s1⟩ h1 => ?_
  refine .bind (?_ : EffOk (fun r => MemOk r.2) _) fun ⟨b, s2⟩ h2 => .ite (.illegal h2) (.ite (.pure h2.takeAnswer) ?_)
  · exact .foldlM (fun _ _ h => .bind h.issueRead fun ⟨_, _⟩ h => .pure h) _ h1
  · split
    next e =>
      have h3 := h2.blockThread.snd e
      exact .pure (.takeAnswer (.tagCheck (.ite h3.modSlot.modCore.setOcc h3.modSlot.modCore)))

theorem MemOk.tlbinv {srcs whole page} (h : MemOk s) : EffOk MemOk (s.tlbinv srcs whole page) := by
  refine .bind h.ready fun t _ => .bind h.privileged fun _ _ => ?_
  exact .ite (.pure h.modMe.advance) (.bind h.drainOr fun _ _ => h.sendInval)

theorem MemOk.diagAccess {t opc k loc op d chk} (h : MemOk s) : EffOk MemOk (s.diagAccess t opc k loc op d chk) := by
  unfold State.diagAccess
  split
  · exact .illegal h
  · split
    · refine .ite (.stop h) ?_
      extract_lets +onlyGivenNames tag s1
      have h1 : MemOk s1 := by
        unfold s1
        split
        · exact h.modMe
        · exact h
      exact .ok h1.sendAccess

theorem MemOk.execDiagst {x y c k} (h : MemOk s) : NextOk (execDiagst x y c k s) := by
  refine .done (.bind h.ready fun t _ => .bind h.privileged fun _ _ => .bind h.oarEmpty fun _ _ => ?_)
  extract_lets
  split
  · split
    · exact .illegal h
    · exact .pure h.modCore.advance
  · exact h.diagAccess

theorem MemOk.execDiagld {d x c k} (h : MemOk s) : NextOk (execDiagld d x c k s) := by
  refine .done (.bind h.ready fun t _ => .bind h.privileged fun _ _ => .bind h.oarEmpty fun _ _ => ?_)
  split
  · split
    · exact .illegal h
    · exact .pure h.write.write.advance
  · exact h.diagAccess

theorem MemOk.execDetain {d x} (h : MemOk s) : NextOk (execDetain d x s) := by
  refine .done (.bind h.ready fun t _ => .bind h.privileged fun _ _ => ?_)
  split
  · exact .pure h.takeAnswer
  · exact .ite (.illegal h) (.bind h.needCfg fun _ _ => .stop h.startDetention)

theorem MemOk.redirect {old new} (h : MemOk s) : MemOk (s.redirect old new) :=
  .of_mem (.foldl (fun _ _ h1 => h1.modWho) _ h) rfl

theorem MemOk.bindCore {l new} (h : MemOk s) : MemOk (s.bindCore l new) :=
  .modCore (.modCore (.of_mem h.redirect rfl))

theorem MemOk.execLmapw {d x y} (h : MemOk s) : NextOk (execLmapw d x y s) := by
  refine .done (.bind h.ready fun t _ => .bind h.privileged fun _ _ => .ite (.illegal h) ?_)
  refine .bind h.needCfg fun _ _ => ?_
  exact .ite (.pure h.write.advance) (.ite (.pure h.write.advance) (.pure h.bindCore.write.advance))

theorem MemOk.execScant {d x} (h : MemOk s) : NextOk (execScant d x s) := by
  refine .done (.bind h.ready fun t _ => .bind h.privileged fun _ _ => ?_)
  split
  · exact .pure h.takeAnswer
  · exact .ite (.illegal h) (.bind h.needCfg fun _ _ => .ite (.pure h.write.advance) (.stop h.modCore.bump))

theorem MemOk.endScan {core x r} (h : MemOk s) : MemOk (s.endScan core x r) := by
  unfold State.endScan
  extract_lets
  split
  · exact h.note.modCore.answer
  · exact h.note.modCore

theorem MemOk.execScanTestEnd {core fail} (h : MemOk s) : NextOk (execScanTestEnd core fail s) := by
  unfold Machine.execScanTestEnd
  apply NextOk.next
  split
  · exact h
  · refine .ite h ?_
    split
    · exact .ite h.endScan h
    · exact .ite h.endScan h.endScan

theorem MemOk.execDfrz (h : MemOk s) : NextOk (execDfrz s) := by
  refine .done (.bind h.ready fun t _ => .bind h.privileged fun _ _ => ?_)
  split
  · exact .pure h.modMe.advance
  · exact .stop h.fatal.bump

theorem MemOk.targetOf {d x} (h : MemOk s) : EffOk (fun _ => True) (s.targetOf d x) := by
  refine .bind h.ready fun t _ => ?_
  exact .bind h.privileged fun _ _ => .ite (.illegal h) (.bind h.needCfg fun _ _ => .pure trivial)

theorem MemOk.execSlotkill {d x} (h : MemOk s) : NextOk (execSlotkill d x s) := by
  refine .done (.bind h.targetOf fun _ _ => ?_)
  split
  · split
    · exact .pure h.write.advance
    · exact .ite (.pure h.write.advance) (.pure (.ite h.write.advance.modWho h.write.advance.killThread))

theorem MemOk.killOf {u core cause} (h : MemOk s) : MemOk (s.killOf u core cause) := h.fatal.killCtx

theorem MemOk.execSlotkillCtx {d x} (h : MemOk s) : NextOk (execSlotkillCtx d x s) := by
  refine .done (.bind h.targetOf fun _ _ => ?_)
  split
  · split
    · exact .pure h.write.advance
    · exact .ite (.pure h.write.advance) (.pure (.ite h.write.advance.bump.modWho h.write.advance.bump.killOf))

theorem MemOk.execPreempt {d x} (h : MemOk s) : NextOk (execPreempt d x s) := by
  refine .done (.bind h.targetOf fun _ _ => ?_)
  split
  · split
    · exact .pure h.write.advance
    · exact .ite (.pure h.write.advance) (.pure h.write.advance.modWho)

theorem MemOk.execMatw {d x y z} (h : MemOk s) : NextOk (execMatw d x y z s) := by
  refine .done (.bind h.ready fun t _ => .bind h.privileged fun _ _ => ?_)
  exact .ite (.illegal h) (.ite (.stop h) (.pure (.advance (.write h))))

/-! ### Roll Call -/

theorem MemOk.forward {c i w origin since hops queues} (h : MemOk s) :
    MemOk (s.forward c i w origin since hops queues) := by
  unfold State.forward
  refine .foldl (fun _ _ h1 => ?_) _ h
  exact .ite h1 h1

theorem MemOk.execRollCallSend {core slot} (h : MemOk s) : NextOk (execRollCallSend core slot s) := by
  unfold Machine.execRollCallSend
  apply NextOk.next
  split
  · exact h
  · split
    · exact .ite h h.modAt.forward
    · exact h

theorem MemOk.rollBack {c i t w queues} (h : MemOk s) : MemOk (s.rollBack c i t w queues) :=
  .ite h.modAt (.ite h (.userTrapAt (.of_mem h.unwind rfl)))

theorem MemOk.execRollCall {i} (h : MemOk s) : NextOk (execRollCall i s) := by
  unfold Machine.execRollCall
  apply NextOk.next
  split
  · exact h
  · extract_lets
    split
    · exact h
    · split
      · exact h
      · split
        · exact .ite h (.ite (.ite (.rollBack h) h) (.forward h))
        · exact h

/-! ### Pages and their moves -/

theorem MemOk.mail {part tag status data} (h : MemOk s) : MemOk (s.mail part tag status data) := .modPart h
theorem MemOk.dropCached {r} (h : MemOk s) : MemOk (s.dropCached r) := h
theorem MemOk.repaired {r} (h : MemOk s) : MemOk (s.repaired r) := h.dropCached.replay

theorem MemOk.execPageResponse {part tag gen ok} (h : MemOk s) : NextOk (execPageResponse part tag gen ok s) := by
  refine .next (h.hostWrite (fun s h1 => ?_))
  extract_lets
  split
  · exact h1.modPart
  · refine .ite h1.modPart (.ite h1.repaired ?_)
    split
    exact h1.postEvent.fatal.killCtx

theorem MemOk.mapThreads {f} (h : MemOk s) : MemOk (s.mapThreads f) := h
theorem MemOk.moveLine {v q} (h : MemOk s) : MemOk (s.moveLine v q) := .setLineQ h

theorem MemOk.copyPlain {v} (h : MemOk s) : MemOk (s.copyPlain v) :=
  Memory.foldl_wf _ _ (fun _ _ w => Memory.write_wf _ _ w) (Memory.filter_wf _ h)

theorem MemOk.freshMaps {v} (h : MemOk s) : MemOk (s.freshMaps v) := h

theorem MemOk.copySparse {v} (h : MemOk s) : MemOk (s.copySparse v) := by
  unfold State.copySparse
  extract_lets +onlyGivenNames old new s0 s1 map pool s2
  have h1 : MemOk s1 := h.correctNoted.correctNoted.correctNoted.copyMem.copyMem.freshMaps
  have h2 : MemOk s2 := .foldl (fun _ _ h => h.homeWrite) _ h1
  refine .foldl (fun _ _ h => ?_) _ h2
  extract_lets +onlyGivenNames n f from_ gone s3
  have h3 : MemOk s3 := h.homeWrite.copyMem.homeWrite
  exact h3

theorem MemOk.moveEnd {v status} (h : MemOk s) : MemOk (s.moveEnd v status) := .mail h
theorem MemOk.moveRefuse {v} (h : MemOk s) : MemOk (s.moveRefuse v) := .mail (.replay h)

theorem MemOk.forwardPage {v} (h : MemOk s) : MemOk (s.forwardPage v) :=
  .replay (.mapThreads (.of_mem (.foldl (fun _ _ h2 => h2.moveLine) _ (.foldl (fun _ _ h1 => h1.modWho) _ h)) rfl))

theorem MemOk.moveData {v} (h : MemOk s) : MemOk (s.moveData v) := by
  unfold State.moveData
  extract_lets
  split
  · exact .forwardPage (.of_mem (.foldl (fun _ _ h1 => h1.homeWrite) _ (.ite h.copySparse h.copyPlain)) rfl)
  · exact h
  · exact h.moveRefuse

theorem MemOk.execPagemove {hd ctx va leaf} (h : MemOk s) : NextOk (execPagemove hd ctx va leaf s) := by
  refine .next (.ite (h.hostWrite (fun s h1 => h1.mail)) ?_)
  split
  · exact .ite (h.hostWrite (fun s h2 => h2.mail)) (.ite h (.ite h.moveRefuse h.moveData))
  · refine h.hostWrite (fun s h3 => ?_)
    split
    · exact .ite h3.mail h3
    · exact h3
    · exact h3.mail

theorem MemOk.portAck {i port} (h : MemOk s) : MemOk (s.portAck i port) := by
  unfold State.portAck
  split
  · exact h
  · refine .ite h (.ite ?_ h)
    extract_lets
    split
    · exact .answer h
    · split
      · exact .moveEnd h
      · exact h

/-! ### Detentions and errors in storage -/

theorem MemOk.forgetWaits {who} (h : MemOk s) : MemOk (s.forgetWaits who) := h

theorem MemOk.loseUnit {d x} (h : MemOk s) : MemOk (s.loseUnit d x) := by
  unfold State.loseUnit
  split
  · extract_lets
    split
    · refine .ite ?_ ?_
      · exact .of_mem (.retire (.foldl (fun _ _ h1 => h1.postEvent) _ h.dropRsv.dropClaims.forgetWaits.bump)) rfl
      · exact h.dropRsv.dropClaims.forgetWaits.retire
    · refine .ite ?_ ?_
      · exact .of_mem (.retire (.foldl (fun _ _ h2 => h2.postEvent) _ h.dropRsv.dropClaims.forgetWaits.bump)) rfl
      · exact h.dropRsv.dropClaims.forgetWaits.modDesc.vacate
    · exact .of_mem (.retire (.foldl (fun _ _ h3 => h3.postEvent) _ h.dropRsv.dropClaims.forgetWaits.bump)) rfl

theorem MemOk.revertInside {rect} (h : MemOk s) : MemOk (s.revertInside rect) := .foldl (fun _ _ h1 => h1.revert) _ h

theorem MemOk.dropRanges {rect} (h : MemOk s) : MemOk (s.dropRanges rect) :=
  .foldl (fun _ _ h3 => h3.modCore) _ (.of_mem (.foldl (fun _ _ h1 => .foldl (fun _ _ h2 => h2.answerNext) _ h1) _ h) rfl)

theorem MemOk.detStage {d stage} (h : MemOk s) : MemOk (s.detStage d stage) :=
  .of_mem (.foldl (fun _ _ h1 => h1.note) _ h) rfl

theorem MemOk.execDetentionNotice {i} (h : MemOk s) : NextOk (execDetentionNotice i s) := by
  unfold Machine.execDetentionNotice
  apply NextOk.next
  split
  · exact h
  · exact .detStage (.dropRanges (.revertInside (.foldl (fun _ _ h1 => h1.loseUnit) _ h)))

theorem MemOk.resetCore {c} (h : MemOk s) : MemOk (s.resetCore c) := by
  unfold State.resetCore
  extract_lets +onlyGivenNames s0 ops s00 s1 s2
  have h0 : MemOk s0 := .foldl (fun _ _ h => h.dropHeld) _ h
  have h00 : MemOk s00 := .foldl (fun _ _ h => h.dropDeposit) _ h0
  have h1 : MemOk s1 := h00.modCore
  exact .foldl (fun _ _ h => h.threadOpDone) _ h1

theorem MemOk.failRedns {rect} (h : MemOk s) : MemOk (s.failRedns rect) :=
  .of_mem (.foldl (fun _ _ h1 => .foldl (fun _ _ h2 => h2.modWho.wake) _ h1) _ h) rfl

theorem MemOk.freeLost (h : MemOk s) : MemOk (s.freeLost) := .foldl (fun _ _ h1 => h1.freeLine) _ h

theorem MemOk.execDetentionReset {i} (h : MemOk s) : NextOk (execDetentionReset i s) := by
  unfold Machine.execDetentionReset
  apply NextOk.next
  split
  · exact h
  · exact .detStage (.failRedns (.freeLost (.foldl (fun _ _ h => h.resetCore) _ h)))

theorem MemOk.remap {c} (h : MemOk s) : MemOk (s.remap c) := by
  unfold State.remap
  split
  · exact h
  · refine .ite h ?_
    split
    · exact h.bindCore.modCore.postEvent
    · exact h.postEvent

theorem MemOk.startHeld (h : MemOk s) : MemOk (s.startHeld) := by
  unfold State.startHeld
  refine .foldl (fun _ _ h1 => ?_) _ h
  exact .ite h1 (.ite h1 h1.fenceIn)

theorem MemOk.execDetentionRejoin {i} (h : MemOk s) : NextOk (execDetentionRejoin i s) := by
  unfold Machine.execDetentionRejoin
  apply NextOk.next
  split
  · exact h
  · extract_lets +onlyGivenNames cs s1 s2 s3 s4
    have h3 : MemOk s4 := by
      unfold s4
      refine .foldl (fun s c h2 => ?_) _ (.foldl (fun _ _ h1 => .ite h1 h1.modCore) _ (.of_mem h.detStage rfl))
      split
      · exact h2.endScan
      · exact h2
    extract_lets +onlyGivenNames s5 s6
    have h4 : MemOk s6 := by
      unfold s6
      split
      · exact .answer (.foldl (fun _ _ h => h.remap) _ h3)
      · exact .foldl (fun _ _ h => h.remap) _ h3
    exact h4.startHeld

theorem MemOk.flipWord {k data chk} (h : MemOk s) : MemOk (s.flipWord k data chk) := .setSynd (Memory.writes_wf _ _ h)

theorem MemOk.flipCached {k data chk} (h : MemOk s) : MemOk (s.flipCached k data chk) := by
  unfold State.flipCached
  extract_lets +onlyGivenNames w
  split
  exact .ite h (.setSynd (Memory.writes_wf _ _ h))

theorem MemOk.stepError {c e} (h : MemOk s) : MemOk (s.stepError c e) := by
  unfold State.stepError
  split
  · exact h
  · exact .ite h (.ite h.consume h.modCore)

theorem MemOk.execStorageError {l flip} (h : MemOk s) : NextOk (execStorageError l flip s) := by
  unfold Machine.execStorageError
  extract_lets
  split
  · exact .ite (.next h.flipWord) trivial
  · exact .ite (.next h.flipWord) trivial
  · exact .ite (.next h.flipCached) trivial
  · exact .next h.flipWord
  · exact .next h.modCore
  · exact .next h.modSlot
  · exact .next h.stepError
  · exact .next h.modCore
  · exact .next h.modSlot
  · exact .next h.modAt
  · exact .next h
  · exact .next h
  · exact .next h
  · exact .next h
  · exact .next h.modSlot
  · exact .next h.modAt
  · exact .ite (.next (.ite h.modCore.modCore h.modCore)) (.next h.modAt)
  · exact .next h.modCore
  · exact .next h.setDiary

theorem MemOk.mismatch {c i e} (h : MemOk s) : MemOk (s.mismatch c i e) :=
  .consume (.note (.foldl (fun _ _ h1 => h1.dropHeld) _ h))

theorem MemOk.execMarkerTimeout {core slot} (h : MemOk s) : NextOk (execMarkerTimeout core slot s) := by
  unfold Machine.execMarkerTimeout
  apply NextOk.next
  split
  · exact .ite h.mismatch h
  · exact h

theorem MemOk.satAlu {d x y w f} (h : MemOk s) : EffOk MemOk (satAlu d x y w f s) :=
  .bind h.ready fun _ _ => .pure h.pop.pop.write.orFlags.advance

/-! ### Freezes, the capsule store, the host and resets -/

theorem MemOk.execFreeze {src} (h : MemOk s) : NextOk (execFreeze src s) := by
  unfold Machine.execFreeze
  apply NextOk.next
  split
  · exact h
  · exact .ite h h.freeze

theorem MemOk.execTimeMark {src} (h : MemOk s) : NextOk (execTimeMark src s) := .next (.ite h h.note.setDiary)

theorem MemOk.ringsRead (h : MemOk s) : MemOk (s.ringsRead) :=
  .foldl (fun _ _ h1 => .ite h1 (.foldl (fun _ _ h2 => h2.note) _ h1.setDiary)) _ h

theorem MemOk.resume {src} (h : MemOk s) : MemOk (s.resume src) := .ite h h.setDiary

theorem MemOk.cardDone {f} (h : MemOk s) : MemOk (s.cardDone f) := by
  unfold State.cardDone
  refine .foldl (fun s x h1 => ?_) _ (.modPart (.foldl (fun _ _ h => h.resume) _ h))
  split
  · exact h1.answer
  · exact h1

theorem MemOk.execReportCard (h : MemOk s) : NextOk (execReportCard s) := by
  unfold Machine.execReportCard
  apply NextOk.next
  split
  · exact h
  · exact .ite h (.ite (.cardDone h) (.ite (.ringsRead h) (.cardDone h)))

theorem MemOk.command {part tag f} (h : MemOk s) (hf : ∀ s, MemOk s → MemOk (f s)) : MemOk (s.command part tag f) :=
  .ite h (.ite h.mail (hf _ h))

theorem MemOk.execDoorbell {hd core slot} (h : MemOk s) : NextOk (execDoorbell hd core slot s) := by
  refine .next (h.hostWrite (fun s h1 => h1.command (fun s h2 => .ite h2.mail ?_)))
  extract_lets +onlyGivenNames s1 s2
  have h3 : MemOk s2 := by
    unfold s2
    split
    · exact .ite h2.modSlot.wakeAt h2.modSlot
    · exact h2.modSlot
  exact h3.mail

theorem MemOk.postAll {part n} (h : MemOk s) : MemOk (s.postAll part n) := by
  induction n generalizing s with
  | zero => exact h
  | succ n ih => exact ih h.postHeld

theorem MemOk.setHostReg {r v} (h : MemOk s) : MemOk (s.setHostReg r v) := by
  unfold State.setHostReg
  split
  · exact h.modPart
  · exact h.modPart
  · exact h.modPart
  · exact h
  · exact h
  · exact h.modPart
  · exact h.modPart.postAll
  · exact h.modPart
  · exact h.modPart
  · exact .ite h h.nack

theorem MemOk.execRegisterWrite {r v} (h : MemOk s) : NextOk (execRegisterWrite r v s) := by
  unfold Machine.execRegisterWrite
  apply NextOk.next
  split
  · exact h.hostWrite (fun s h1 => h1.setHostReg)
  · exact .ite h h.setHostReg

theorem MemOk.memWindow {part pa w n} (h : MemOk s) : MemOk (s.memWindow part pa w n) := by
  unfold State.memWindow
  refine .ite h.nack (.ite h ?_)
  split
  · exact .foldl (fun _ _ h1 => h1.homeWrite) _ h
  · extract_lets +onlyGivenNames r
    have hr : MemOk r.2 := by
      unfold r
      refine .foldlSnd (fun _ _ h1 => ?_) _ (show MemOk (some ([] : List Byte), s).2 from h)
      exact h1.readStored
    exact hr

theorem MemOk.submit {part} (h : MemOk s) : NextOk (s.submit part) := by
  unfold State.submit
  extract_lets
  split
  · exact .next (h.hostWrite (fun _ h1 => .ite h1.mail (.ite h1.mail (.ite h1.mail (.mail (.modPart h1))))))
  · split
    exact h.execDoorbell
  · split
    exact h.execPagemove
  · exact .next (h.command (fun _ h1 => .ite h1.nack h1.mail))
  · split
    exact .next (h.command (fun _ h1 => .ite h1.nack (.ite h1.mail (.ite h1.mail h1.mail))))
  · exact .next (h.command (fun _ h1 => .ite h1.nack (.ite h1.mail (.mail h1))))
  · exact .next (h.command (fun s h1 => h1.mail))

theorem MemOk.windowWrite {part off b} (h : MemOk s) : NextOk (s.windowWrite part off b) := by
  unfold State.windowWrite
  extract_lets
  split
  · split
    · exact .next h.setHostReg
    · exact .next h.setHostReg
    · exact .next h.setHostReg
    · exact .next (.ite h.hostBusy (h.hostWrite (fun _ h1 => h1.modPart)))
    · exact .next h
  · exact .ite h.submit (.next h.modPart)
  · split
    · exact .next h.setHostReg
    · exact .next h.setHostReg
    · exact .next h
  · exact .next h

theorem MemOk.linkAccess {part off w n} (h : MemOk s) : NextOk (s.linkAccess part off w n) := by
  unfold State.linkAccess
  refine .ite (.next h) (.ite (.next h.nack) ?_)
  split
  · exact h.windowWrite
  · exact .next h

theorem MemOk.execColdReset (_ : MemOk s) : NextOk (execColdReset s) := .next (show Memory.wf [] = true from rfl)

theorem MemOk.loadStage {stage} (h : MemOk s) : MemOk (s.loadStage stage) := by
  unfold State.loadStage
  split <;> exact h

theorem MemOk.bringUp {ok} (h : MemOk s) : MemOk (s.bringUp ok) := by
  unfold State.bringUp
  refine .ite h (.ite h ?_)
  exact .ite (.foldl (fun _ _ h1 => h1.modPart) _ (.of_mem h.loadStage rfl)) (.of_mem h.loadStage rfl)

/-! ### Every instruction and every event -/

theorem MemOk.exec {i} (h : MemOk s) : NextOk (exec i s) := by
  cases i with
  | nop => exact .done (.bind h.ready fun _ _ => .pure h.advance)
  | rlx => exact h.execRlx
  | halt => exact h.execHalt
  | yield => exact .done (.bind h.ready fun _ _ => .pure (.advance (.ite h h.modSlot)))
  | br | brn => exact .done h.branch
  | jmp => exact .done (.bind h.ready fun _ _ => h.pop.transfer)
  | call => exact .done (.bind h.ready fun _ _ => h.callTo h)
  | callr => exact .done (.bind h.ready fun _ _ => h.callTo h.pop)
  | ret => exact h.execRet
  | loop => exact h.execLoop
  | trap | brk => exact .done (.bind h.ready fun _ _ => .stop h)
  | xret => exact .done (.bind h.ready fun _ _ => .pure h.userReturn)
  | scall => exact .done (.bind h.ready fun _ _ => .ite (.illegal h) (.pure h.supTrap))
  | add | sub | and | or | xor | andn | shl | shr | sra | rotl | mul | mulh | mulhu | div | divu | rem | remu
  | min | max | minu | maxu | sext | zext => exact .done h.alu2
  | adds | subs => exact .done h.satAlu
  | clz | ctz | popc | bswp | mov | addi | andi | ori | xori | shli | shri | srai | muli | movh => exact .done h.alu1
  | movi | adr | pget | segrd | qcnt => exact .done (.bind h.ready fun _ _ => .pure h.write.advance)
  | empt | pnot | tfull => exact .done (.bind h.ready fun _ _ => .pure h.modMe.advance)
  | ceq | cne | clt | cle | cltu | cleu => exact .done h.cmp2
  | ceqi | clti | cltui => exact .done h.cmpI
  | pand | por | pxor => exact .done h.predOp
  | sel => exact .done (.bind h.ready fun _ _ => .pure h.pop.pop.write.advance)
  | pset => exact .done (.bind h.ready fun _ _ => .pure h.pop.modMe.advance)
  | fadd | fsub | fmul | fdiv | fmin | fmax => exact .done h.fop2
  | fsqrt | fabs | fneg | fcvt | fcvti | icvtf | fclass => exact .done h.fop1
  | fma => exact .done (.bind h.ready fun _ _ => .pure h.pop.pop.pop.write.orFlags.advance)
  | fceq | fclt | fcle => exact .done h.fcmp
  | ld | lda => exact .done h.load
  | ldpi => exact .done (.bind h.limit fun _ _ => h.load)
  | st | stpi | strel => exact .done h.storeOp
  | ldx => exact h.execLdx
  | erase => exact .done (.bind h.ready fun _ _ => h.access h)
  | fence => exact .done (.bind h.ready fun _ _ => .bind h.beginDrain fun _ h1 => h1.fenceEnd)
  | ldaq => exact h.execLdaq
  | pref => exact h.execPref
  | rsv => exact h.execRsv
  | rls => exact h.execRls
  | rlsn => exact h.execRlsn
  | waitrs => exact h.execWaitrs
  | aadd | aand | aor | axor | amin | amax | aminu | amaxu | aswp | aincb | afadd => exact .done h.fetchOp
  | cas => exact .done (.bind h.ready fun _ _ => .bind h.atomDrain fun _ h1 => h.access h1.pop)
  | redadd | redmin | redmax | redfadd => exact .done h.redIssue
  | pcadd | pclvSet =>
    exact .done (.bind h.nibble fun _ _ => .bind h.ready fun _ _ => .ite (.stop h.pop) (h.counter h.pop))
  | pcrd | pcmrg | pclv => exact .done (.bind h.nibble fun _ _ => .bind h.ready fun _ _ => h.counter h)
  | segnw => exact .done (.bind h.ready fun _ _ => .ite (.stop h.pop.pop) (.pure h.pop.pop.modMe.homeWrite.advance))
  | csrr | csrw | csrset | csrclr => exact .done h.csrOp
  | vadd | vsub | vmul | vfma | vmin | vmax | vabs | vneg | vdiv | vsqrt | vrsq | vexp2 | vand | vor | vxor | vshl
  | vshr | vsra | vceq | vclt | vsel | viota | vset | vmov => exact .done h.elemIssue
  | vrsum | vrmax => exact .done h.foldIssue
  | vcvt => exact h.execVcvt
  | vpack | vtrn | cpy => exact .done (.bind h.ready fun _ _ => .ite (.stop h) (h.engIssue h))
  | vunpk | gath | gathf | scat | mzero | mlda | mstc | madd | mscal | mrssq | cpy2 =>
    exact .done (.bind h.ready fun _ _ => h.engIssue h)
  | vlen => exact .done (.bind h.ready fun _ _ => .pure h.pop.modMe.write.advance)
  | vcmpr => exact .done (.bind h.ready fun _ _ => .ite (.illegal h) (h.engIssue h))
  | mma => exact h.execMma
  | msta => exact .done (.bind h.limit fun _ _ => .bind h.ready fun _ _ => h.engIssue h)
  | cpym => exact .done (.bind h.limit fun _ _ => .bind h.ready fun _ _ => .ite (.stop h) (h.engIssue h))
  | attn => exact .done (.bind h.ready fun _ _ => h.attend h.pop)
  | await => exact h.execAwait
  | depo => exact .done (.bind h.ready fun _ _ => .ite (.stop h.pop.pop) (h.engIssue h.pop.pop))
  | ccinc => exact h.execCcinc
  | waitlt => exact .done (.bind h.ready fun _ _ => .ite (.illegal h) (.ite (.pure h.advance) (.stop h)))
  | efence => exact .done (.bind h.ready fun _ _ => .ite (.pure h.advance) (.pure h))
  | susp => exact h.execSusp
  | apply => exact h.execApply
  | force => exact h.execForce
  | spark => exact h.execSpark
  | htest => exact h.execHtest
  | hval => exact h.execHval
  | hfill => exact h.execHfill
  | task => exact h.execTask
  | next => exact h.execNext
  | range => exact h.execRange
  | mig => exact .done (.bind h.ready fun _ _ => .ite (.stop h) h.moveTo)
  | home => exact .done (.bind h.ready fun _ _ => h.moveTo)
  | send => exact h.execSend
  | bar => exact h.execBar
  | redn => exact h.execRedn
  | launch => exact h.execLaunch
  | sret => exact h.execSret
  | scsrr | scsrw => exact .done h.scsrOp
  | ctxsv => exact h.execCtxsv
  | ctxld => exact h.execCtxld
  | tlbinvCtx | tlbinvPage | tlbinvPart => exact .done h.tlbinv
  | diagst => exact h.execDiagst
  | diagld => exact h.execDiagld
  | detain => exact h.execDetain
  | lmapw => exact h.execLmapw
  | scant => exact h.execScant
  | dfrz => exact h.execDfrz
  | slotkill => exact h.execSlotkill
  | slotkillCtx => exact h.execSlotkillCtx
  | preempt => exact h.execPreempt
  | matw => exact h.execMatw
  | idle => exact h.execIdle
  | qtail => exact .next (.ite h.hostBusy (h.hostWrite (fun _ h1 => h1.modPart)))
  | launchRecordTake => exact h.execLaunchRecordTake
  | launchDispatch => exact h.execLaunchDispatch
  | imageLoad => exact h.execImageLoad
  | stealRequest => exact h.execStealRequest
  | stealReply => exact h.execStealReply
  | taskSteal thief victim => exact (h.execTaskSteal : NextOk (Machine.execTaskSteal thief victim s))
  | slotFill => exact h.execSlotFill
  | migrationArrival => exact h.execMigrationArrival
  | depositArrival => exact h.execDepositArrival
  | depositLand => exact .next h.landDeposit
  | messageArrival => exact h.execMessageArrival
  | windowSpill => exact .next h.spillCycle
  | forcedSpill => exact .next (.ite h.spillCycle h)
  | wakeMessage => exact h.execWakeMessage
  | arrive => exact .next h.arrive
  | perform => exact h.execPerform
  | complete => exact h.execComplete
  | probe => exact .next h.probeBank
  | echo => exact .next h.echoBack
  | grant => exact .next h.grantLine
  | release => exact .next h.releaseBank
  | reservationBreak => exact .next h.breakWaited
  | migrationReservationBreak => exact .next h.breakMoving
  | claimRetry => exact h.execClaimRetry
  | engineOpStart => exact h.execEngineOpStart
  | engineOpComplete => exact h.execEngineOpComplete
  | attendanceArrival => exact h.execAttendanceArrival
  | mmaReplay => exact .next h.mmaReplay
  | rollCallSend => exact h.execRollCallSend
  | rollCall => exact h.execRollCall
  | stockRefill => exact h.execStockRefill
  | pageResponse => exact h.execPageResponse
  | pagemove => exact h.execPagemove
  | portAck => exact .next h.portAck
  | detentionNotice => exact h.execDetentionNotice
  | detentionReset => exact h.execDetentionReset
  | detentionRejoin => exact h.execDetentionRejoin
  | scrub => exact .ite trivial (.next h.readStored)
  | markerTimeout => exact h.execMarkerTimeout
  | scanTestEnd => exact h.execScanTestEnd
  | freeze => exact h.execFreeze
  | reportCard => exact h.execReportCard
  | timeMark => exact h.execTimeMark
  | coldReset => exact h.execColdReset
  | warmReset => exact .next h
  | partcfg =>
    exact .next (h.hostWrite (fun _ h1 => .ite h1.mail (.ite h1.mail (.ite h1.mail (.mail (.modPart h1))))))
  | doorbell => exact h.execDoorbell
  | capinfo => exact .next (h.command (fun _ h1 => .ite h1.nack h1.mail))
  | capread => exact .next (h.command (fun _ h1 => .ite h1.nack (.ite h1.mail (.ite h1.mail h1.mail))))
  | capclear => exact .next (h.command (fun _ h1 => .ite h1.nack (.ite h1.mail (.mail h1))))
  | debugRead => exact .ite trivial (.next h)
  | barrierComplete => exact h.execBarrierComplete
  | reductionComplete => exact h.execReductionComplete
  | registerWrite => exact h.execRegisterWrite
  | unassignedOpcode => exact .done (.bind h.ready fun _ _ => .illegal h)
  | deviceMemoryWindowAccess => exact .ite h.linkAccess (.ite (.next h) (.next h.memWindow))
  | windowReload => exact h.execWindowReload
  | flitResent => exact .next (.ite h.consume (.ite h.modCore h))
  | storageError => exact h.execStorageError

/-! ### The issue stage, the cycle and the turns -/

theorem MemOk.runWord {t w} (h : MemOk s) : NextOk (s.runWord t w) := by
  unfold State.runWord
  refine .ite (.next h.supTrap) ?_
  split
  · split
    · next e => exact (h.checkUses.of_ok e).exec
    · next e => exact (h.checkUses.of_error e).stopped
  · exact .done (.bind h.ready fun _ _ => .illegal h)
  · exact .next h.userTrap

theorem MemOk.runHead {t} (h : MemOk s) : NextOk (s.runHead t) := by
  unfold State.runHead
  refine .ite (.next h.userTrap) ?_
  split
  · next e => exact .next (h.checked.of_error e)
  · next e =>
      have h1 := h.checked.of_ok e
      split
      · exact .next h1.userTrap
      · exact h1.runWord

theorem MemOk.runTurnOf {t} (h : MemOk s) : NextOk (s.runTurnOf t) := by
  unfold State.runTurnOf
  split
  · exact .next h.redo
  · exact .done h.autoForce
  · exact h.runHead

theorem MemOk.pairNote {c i t m s1} (h : MemOk s) (h1 : MemOk s1) : MemOk (s.pairNote s1 c i t m) := by
  unfold State.pairNote
  extract_lets +onlyGivenNames ran shared
  refine .ite ?_ ?_
  · unfold shared
    split
    · exact h1.modSlot
    · exact h1
  · extract_lets +onlyGivenNames now g eats
    split
    refine .ite h.consume (.ite h.mismatch ?_)
    split
    · exact h1
    · exact h1.modSlot

theorem MemOk.markerTurn {c i} (h : MemOk s) : MemOk (s.markerTurn c i) := by
  unfold State.markerTurn
  split
  · exact h
  · exact .ite h.consume (.ite h.mismatch h.modSlot)

theorem MemOk.unheldTurn {c i t} (h : MemOk s) : NextOk (s.unheldTurn c i t) := by
  unfold State.unheldTurn
  extract_lets +onlyGivenNames o
  have ho : NextOk o := h.runTurnOf
  clear_value o
  split
  · refine .ite ho ?_
    split
    · next e => exact .ite (.next (h.modCore.runTurnOf.of_next e).modCore) ho
    · exact ho
  · exact ho

theorem MemOk.attempt {c i t} (h : MemOk s) : NextOk (s.attempt c i t) := by
  unfold State.attempt
  extract_lets s0
  have h0 : MemOk s0 := h
  exact .ite (.next h0.park) h0.unheldTurn

theorem MemOk.afterTurn {c i t s1} (h : MemOk s) (hs1 : MemOk s1) : MemOk (s.afterTurn s1 c i t) := by
  unfold State.afterTurn
  apply MemOk.modCore
  split
  · exact .ite (h.pairNote hs1) hs1
  · exact hs1

theorem MemOk.turn {c i t} (h : MemOk s) : NextOk (s.turn c i t) := by
  have ha : NextOk (s.attempt c i t) := h.attempt
  unfold State.turn
  split
  · next e => exact .next (MemOk.afterTurn h (ha.of_next e))
  · exact ha

theorem MemOk.boundary {c i t p} (h : MemOk s) : MemOk (s.boundary c i t p) := by
  unfold State.boundary
  split
  · exact h.killThread
  · exact h.killOf
  · exact h.preemptAt
  · exact .ite h h.modAt

theorem MemOk.issueTurn {c i} (h : MemOk s) : NextOk (s.issueTurn c i) := by
  unfold State.issueTurn
  split
  · split
    · exact .ite (.ite h.turn (.next h)) (.next (.ite h h.boundary))
    · exact .ite h.turn (.next h)
  · exact .next (.ite h.markerTurn.modCore h)
  · exact .next h

theorem MemOk.retest {c i} (h : MemOk s) : MemOk (s.retest c i) := by
  unfold State.retest
  split
  · exact h
  · split
    · refine .ite h ?_
      split
      · next e =>
          have h1 := h.attempt.of_next e
          exact .ite h1 h.wakeAt
      · exact h.wakeAt
    · exact h

theorem MemOk.retestAll (h : MemOk s) : MemOk (s.retestAll) :=
  .foldl (fun _ _ h1 => .foldl (fun _ _ h2 => h2.retest) _ h1) _ h

theorem MemOk.endCycle (h : MemOk s) : MemOk (s.endCycle) := by
  unfold State.endCycle
  refine .foldl (fun s x h1 => ?_) _ h
  exact .ite (.foldl (fun _ _ h2 => h2.landDeposit) _ h1) (.spillBubble (.foldl (fun _ _ h2 => h2.landDeposit) _ h1))

theorem MemOk.barriersDue (h : MemOk s) : MemOk (s.barriersDue) := by
  unfold State.barriersDue
  refine .foldl (fun s g h1 => ?_) _ h
  refine .ite ?_ h1
  split
  · next e => exact h1.execBarrierComplete.of_next e
  · exact h1

theorem MemOk.spillsDue (h : MemOk s) : MemOk (s.spillsDue) :=
  .foldl (fun _ _ h1 => .foldl (fun _ _ h2 => .ite h2.spillCycle h2) _ h1) _ h

theorem MemOk.marksDue (h : MemOk s) : MemOk (s.marksDue) := by
  unfold State.marksDue
  refine .foldl (fun s x h1 => ?_) _ h
  split
  · next e => exact h1.execTimeMark.of_next e
  · exact h1

theorem MemOk.tick (h : MemOk s) : MemOk (s.tick) := by
  unfold State.tick
  refine .ite h ?_
  extract_lets +onlyGivenNames s1 r s2 s3 now
  have hr : MemOk r := h.barriersDue.endCycle.flushSignals.retestAll
  have h2 : MemOk s2 := hr
  have h3 : MemOk s3 := .ite h2.marksDue h2
  exact .spillsDue (.retryOrders (.breakDue h3))

theorem MemOk.behind {cs a} (h : MemOk s) (ha : NextOk (a s)) : NextOk (s.behind cs a) := .ite (.next h) ha

theorem MemOk.shared {strikes a} (h : NextOk (a s)) : NextOk (s.shared strikes a) := by
  unfold State.shared
  split
  · next e =>
      have h1 := h.of_next e
      exact .next (.ite h1 h1.syncPairs)
  · exact h

theorem ActsOk.shared {l} (h : ActsOk l) : ActsOk (l.map fun a s => s.shared false a) := by
  intro a ha s hs
  obtain ⟨b, hb, rfl⟩ := List.mem_map.mp ha
  exact MemOk.shared (h b hb s hs)

theorem MemOk.eventTurn {i} (h : MemOk s) : NextOk (s.eventTurn i) := MemOk.shared (h.behind h.exec)

theorem MemOk.runTurn {x} (h : MemOk s) : NextOk (s.runTurn x) := by
  unfold State.runTurn
  split
  · exact h.issueTurn
  · exact .ite h.eventTurn trivial
  · exact .next h.tick
  · exact .next h.modAt
  · exact .next h.fillMap
  · exact .next h.forgetMap
  · exact .next h
  · exact .next h.bringUp

theorem ActsOk.path : ActsOk s.pathTurns :=
  .append (.append (.append (.append (.append (.append (.append (.append
    (.map fun _ _ h => .next h.arrive)
    (.flatMap fun _ => .cons (fun _ h => h.execPerform) (.cons (fun _ h => .next h.probeBank) .nil)))
    (.map fun _ _ h => .next h.releaseBank))
    (.map fun _ _ h => h.behind h.execComplete))
    (.map fun _ _ h => .next h.echoBack))
    (.flatMap fun _ => .cons (fun _ h => .next h.grantLine) (.cons (fun _ h => .next h.breakWaited)
      (.cons (fun _ h => .next h.breakMoving) .nil))))
    (.map fun _ _ h => h.execStockRefill))
    (.flatMap fun _ => .map fun _ _ h => .next h.portAck))
    (.map fun _ _ h => h.execPagemove)

theorem ActsOk.message : ActsOk s.messageTurns :=
  .append (.append (.append (.append (.append (.append (.append (.append
    (.map fun _ _ h => h.execWakeMessage)
    (.map fun _ _ h => h.behind h.execAttendanceArrival))
    (.map fun _ _ h => h.execDepositArrival))
    (.map fun _ _ h => h.execMessageArrival))
    (.map fun _ _ h => h.execMigrationArrival))
    (.flatMap fun _ => .cons (fun _ h => h.execStealRequest) (.cons (fun _ h => h.execStealReply) .nil)))
    (.map fun _ _ h => h.behind h.execBarrierComplete))
    (.map fun _ _ h => h.execReductionComplete))
    (.map fun _ _ h => h.execRollCall)

theorem ActsOk.engine {c e x} : ActsOk (Engine.turns c e x) := by
  unfold Engine.turns
  split
  · exact .nil
  · exact .append (.append
      (.cons (fun _ h => h.execEngineOpStart) (.cons (fun _ h => h.behind h.execEngineOpComplete) .nil))
      (.ite (.cons (fun _ h => .next h.mmaReplay) .nil) .nil))
      (.flatMap fun _ => .map fun _ _ h => h.execPerform)

theorem ActsOk.core {c k time} : ActsOk (Core.turns c k time) := by
  refine .append (.append (.append (.append (.append (.append (.append .engine .engine) .engine)
    (.map fun _ _ h => h.behind (.next h.landDeposit)))
    (.map fun _ _ h => h.execSlotFill))
    (.flatMap fun _ => ?_))
    (.flatMap fun _ => .cons (fun _ h => h.execRollCallSend) (.cons (fun _ h => h.execMarkerTimeout) .nil)))
    (.ite (.cons (fun _ h => h.execScanTestEnd) .nil) .nil)
  dsimp only
  split
  · exact .cons (fun _ h => h.behind (.next h.spillCycle)) .nil
  · exact .cons (fun _ h => h.execWindowReload) .nil
  · exact .ite .nil (.cons (fun _ h => h.execClaimRetry) .nil)
  · exact .nil

theorem ActsOk.launch : ActsOk s.launchTurns :=
  .append (.append
    (.flatMap fun _ => .cons (fun _ h => h.execLaunchDispatch) (.map fun _ _ h => h.execImageLoad))
    (.flatMap fun _ => .map fun _ _ h => h.execLaunchRecordTake))
    (.map fun _ _ h => h.execLaunchRecordTake)

theorem ActsOk.module : ActsOk s.moduleTurns :=
  .append (.append (.append (.append
    (.flatMap fun _ => .cons (fun _ h => h.execDetentionNotice) (.cons (fun _ h => h.execDetentionReset)
      (.cons (fun _ h => h.execDetentionRejoin) .nil)))
    (.flatMap fun _ => .map fun _ _ h => h.execFreeze))
    (.ite .nil (.cons (fun _ h => h.execReportCard) .nil)))
    (.map fun _ _ h => h.execTimeMark))
    (.cons (fun _ h => .next h.bringUp) .nil)

theorem ActsOk.steal : ActsOk s.stealTurns :=
  .flatMap fun _ => .ite .nil (.map fun _ _ h => h.execTaskSteal)

theorem ActsOk.turns : ActsOk s.turns := by
  refine .append (.shared ?_) (.flatMap fun _ => .map fun _ _ h => h.issueTurn)
  exact .append (.append (.append (.append (.append .path .message) (.flatMap fun _ => .core)) .launch) .steal) .module

theorem MemOk.defaultTurn (h : MemOk s) : NextOk (s.defaultTurn) := by
  unfold State.defaultTurn
  split
  · next e => exact ActsOk.turns _ (List.mem_of_find?_eq_some e) s h
  · exact .next h.tick

/-! ### One step -/

theorem MemOk.step (h : MemOk s) : NextOk (step s) := by
  unfold Machine.step
  split
  · exact MemOk.runTurn h
  · exact h.defaultTurn

end

/-- Settles O57: the next state of every turn has canonical memory, from `MemOk.step`. -/
theorem memoryStaysCanonical : Obligations.MemoryStaysCanonical := by
  unfold Obligations.MemoryStaysCanonical
  intro _ _ h e
  exact h.step.of_next e

end Sys2Proof.Safety
end

section
/-! SUPPORT. Rules of the state that the statements about cores, draws and arrivals use: reading a core, a slot or a thread after an update at
a place, by identity or by a map over all cores; the issuing thread after a result is written; code as another state with the same memory
reads it; and the reads of a word whose store holds no error. -/

set_option Elab.async false

namespace Sys2Proof.Machine

/-! ## Cores -/

theorem coreIn_map (l : List (Nat × Core)) (f : Nat → Core → Core) (c : Nat) (h : f c .reset = .reset) :
    coreIn (l.map (fun x => (x.1, f x.1 x.2))) c = f c (coreIn l c) := by
  induction l with
  | nil => exact h.symm
  | cons x r ih =>
    obtain ⟨k, y⟩ := x
    by_cases hk : k = c
    · simp [coreIn, hk]
    · simp [coreIn, hk, ih]

section
variable (s : State) (c d : Nat) (i j : Fin 8)

theorem State.core_modCore (f : Core → Core) : (s.modCore c f).core d = if d = c then f (s.core c) else s.core d :=
  coreIn_updCores s.cores c d f

/-- An update of a core that keeps what is read of it is not seen in any core. -/
theorem State.core_modCore_read {α : Sort _} (g : Core → α) (f : Core → Core) (h : g (f (s.core c)) = g (s.core c)) :
    g ((s.modCore c f).core d) = g (s.core d) := by
  rw [State.core_modCore]
  split
  · next e => rw [h, e]
  · rfl

theorem State.slot_modCore (f : Core → Core) (h : (f (s.core c)).slots = (s.core c).slots) : (s.modCore c f).slot d i = s.slot d i :=
  s.core_modCore_read c d (fun k => k.slots[i]) f (by rw [h])

theorem State.threadAt_modCore (f : Core → Core) (h : (f (s.core c)).slots = (s.core c).slots) :
    (s.modCore c f).threadAt d i = s.threadAt d i := by
  simp only [State.threadAt, State.slot_modCore _ _ _ _ _ h]

/-- An update of a slot is not seen in the rest of any core. -/
theorem State.core_modSlot_read {α : Sort _} (g : Core → α) (f : Slot → Slot)
    (h : ∀ (k : Core) (v : Vector Slot 8), g { k with slots := v } = g k) : g ((s.modSlot c i f).core d) = g (s.core d) :=
  s.core_modCore_read c d g _ (h _ _)

end

/-! ## Threads by identity -/

section
variable (s : State) (w : Ident) (f : Thread → Thread) (c : Nat) (i : Fin 8)

theorem Core.mapWho_reset : Core.reset.mapWho w f = .reset := by
  simp [Core.reset, Core.mapWho, Slot.reset, Occ.map]

theorem State.core_modWho : (s.modWho w f).core c = (s.core c).mapWho w f :=
  coreIn_map s.cores (fun _ k => k.mapWho w f) c (Core.mapWho_reset w f)

/-- What a change of a thread by its identity does to the thread in a slot. -/
def onWho (w : Ident) (f : Thread → Thread) (t : Thread) : Thread := if t.id = w then f t else t

theorem State.slot_modWho : (s.modWho w f).slot c i = { s.slot c i with occ := (s.slot c i).occ.map (onWho w f) } := by
  simp only [State.slot, State.core_modWho, Core.mapWho, Fin.getElem_fin, Vector.getElem_map]
  rfl

theorem Occ.thread?_map (o : Occ) (g : Thread → Thread) : (o.map g).thread? = o.thread?.map g := by
  cases o <;> rfl

theorem State.threadAt_modWho : (s.modWho w f).threadAt c i = (s.threadAt c i).map (onWho w f) := by
  simp only [State.threadAt, State.slot_modWho, Occ.thread?_map]

theorem State.me_modWho : (s.modWho w f).me = s.me.map (onWho w f) := State.threadAt_modWho s w f s.cur.core s.cur.slot

end

/-! ## Searches over all cores -/

/-- A search that finds nothing in a reset core, and in the updated core what it found there, finds what it found before. -/
theorem findSome?_updCores {α : Type _} (l : List (Nat × Core)) (c : Nat) (f : Core → Core) (g : Nat × Core → Option α)
    (h : g (c, f (coreIn l c)) = g (c, coreIn l c)) (h0 : g (c, .reset) = none) :
    (updCores l c f).findSome? g = l.findSome? g := by
  induction l with
  | nil =>
    simp only [coreIn, h0] at h
    simp [updCores, h]
  | cons x r ih =>
    obtain ⟨k, y⟩ := x
    by_cases hk : k = c
    · simp only [coreIn, hk, if_true] at h
      simp only [updCores, hk, if_true, List.findSome?_cons, h]
    · simp only [coreIn, hk, if_false] at h
      simp only [updCores, hk, if_false, List.findSome?_cons, ih h]

/-- The first thread with an identity in a list of what holds threads. -/
def findId {β : Type} (g : β → Thread) (w : Ident) (l : List β) : Option Thread := (l.find? (fun x => (g x).id == w)).map g

theorem findId_map {β : Type} {g : β → Thread} {w : Ident} {f : Thread → Thread} {m : β → β} (hid : ∀ t, (f t).id = t.id)
    (hm : ∀ x, g (m x) = onWho w f (g x)) (l : List β) : findId g w (l.map m) = (findId g w l).map f := by
  have hp : (fun x => (g x).id == w) ∘ m = fun x => (g x).id == w := by
    funext x
    simp only [Function.comp, hm, onWho]
    split
    · rw [hid]
    · rfl
  unfold findId
  rw [List.find?_map, hp]
  cases hx : l.find? (fun x => (g x).id == w) with
  | none => rfl
  | some x =>
    have hw : (g x).id = w := by simpa using List.find?_some hx
    simp [hm, onWho, hw]

section
variable (s : State) (w : Ident) (k : Core)

theorem Core.thread?_of_slot {i : Fin 8} (h : k.slotOf? w = some i) : k.thread? w = k.slots[i].occ.thread? := by
  simp only [Core.thread?, h]

theorem Core.thread?_of_none (h : k.slotOf? w = none) :
    k.thread? w = (findId (fun x : Saved => x.t) w k.saved).or (findId Prod.fst w k.migBuf) := by
  simp only [Core.thread?, h, findId]
  cases k.saved.find? (fun x => x.t.id == w) <;> rfl

theorem State.thread?_eq : s.thread? w = (s.cores.findSome? (fun x => x.2.thread? w)).or (findId (fun m : Mig => m.t) w s.migs) := by
  show (match s.cores.findSome? (fun x => x.2.thread? w) with | some t => some t | none => findId (fun m : Mig => m.t) w s.migs) = _
  cases s.cores.findSome? (fun x => x.2.thread? w) <;> rfl

/-- The slot that holds a thread with this identity. -/
theorem Core.slotOf?_some {i : Fin 8} (h : k.slotOf? w = some i) : ∃ t, k.slots[i].occ = .thread t ∧ t.id = w := by
  have hi := List.find?_some h
  cases ho : k.slots[i].occ <;> simp only [ho, Bool.false_eq_true] at hi
  exact ⟨_, rfl, by simpa using hi⟩

theorem Core.thread?_reset : Core.reset.thread? w = none := by
  simp [Core.thread?, Core.slotOf?, allSlots, Core.reset, Slot.reset]

theorem State.thread?_modCore (c : Nat) (f : Core → Core) (h : (f (s.core c)).thread? w = (s.core c).thread? w) :
    (s.modCore c f).thread? w = s.thread? w := by
  rw [State.thread?_eq, State.thread?_eq]
  congr 1
  exact findSome?_updCores s.cores c f (fun x => x.2.thread? w) h (Core.thread?_reset w)

/-- An update of a slot that keeps what it holds keeps every thread. -/
theorem State.thread?_modSlot (c : Nat) (i : Fin 8) (f : Slot → Slot) (h : (f (s.slot c i)).occ = (s.slot c i).occ) :
    (s.modSlot c i f).thread? w = s.thread? w := by
  refine s.thread?_modCore w c _ ?_
  have hocc : ∀ j : Fin 8, ((s.core c).modSlot i f).slots[j].occ = (s.core c).slots[j].occ := by
    intro j
    by_cases hj : j = i
    · subst hj
      rw [Core.modSlot_same]
      exact h
    · rw [Core.modSlot_ne _ _ _ _ hj]
  simp only [Core.thread?, Core.slotOf?, hocc]
  rfl

section
variable (f : Thread → Thread) (hid : ∀ t, (f t).id = t.id)
include hid

theorem Core.slotOf?_mapWho : (k.mapWho w f).slotOf? w = k.slotOf? w := by
  unfold Core.slotOf?
  congr 1
  funext i
  simp only [Core.mapWho, Fin.getElem_fin, Vector.getElem_map]
  cases (k.slots[i.val]).occ with
  | thread t =>
    simp only [Occ.map]
    split
    · rw [hid]
    · rfl
  | _ => rfl

theorem Core.thread?_mapWho : (k.mapWho w f).thread? w = (k.thread? w).map f := by
  have hm := Core.slotOf?_mapWho w k f hid
  cases hs : k.slotOf? w with
  | some i =>
    obtain ⟨t, ho, hw⟩ := k.slotOf?_some w hs
    rw [Core.thread?_of_slot _ _ (hm.trans hs), Core.thread?_of_slot _ _ hs]
    simp only [Core.mapWho, Fin.getElem_fin, Vector.getElem_map] at ho ⊢
    simp [ho, Occ.map, Occ.thread?, hw]
  | none =>
    have hsaved := findId_map (g := fun x : Saved => x.t) (w := w) (m := fun x => { x with t := onWho w f x.t }) hid (fun _ => rfl) k.saved
    have hbuf := findId_map (g := Prod.fst) (w := w) (m := fun x : Thread × Nat => (onWho w f x.1, x.2)) hid (fun _ => rfl) k.migBuf
    rw [Core.thread?_of_none _ _ (hm.trans hs), Core.thread?_of_none _ _ hs, Option.map_or, ← hsaved, ← hbuf]
    rfl

theorem State.thread?_modWho : (s.modWho w f).thread? w = (s.thread? w).map f := by
  have hmigs := findId_map (g := fun m : Mig => m.t) (w := w) (m := fun m => { m with t := onWho w f m.t }) hid (fun _ => rfl) s.migs
  rw [State.thread?_eq, State.thread?_eq, Option.map_or, ← hmigs, List.map_findSome?]
  congr 1
  show (s.cores.map (fun x => (x.1, x.2.mapWho w f))).findSome? _ = _
  rw [List.findSome?_map]
  congr 1
  funext x
  exact Core.thread?_mapWho w x.2 f hid

end

/-- A thread that is changed by its identity is found as it has become. -/
theorem State.thread?_modWho_some {s : State} {w : Ident} {f : Thread → Thread} {t : Thread} (h : s.thread? w = some t)
    (hid : ∀ t, (f t).id = t.id := by intro _; rfl) : (s.modWho w f).thread? w = some (f t) := by
  rw [State.thread?_modWho s w f hid, h]
  rfl

end

/-! ## The issuing thread after a result is written -/

section
variable (t : Thread) (d : Operand) (v : Word)

/-- What the write of a result does to the issuing thread. -/
def Thread.written (d : Operand) (v : Word) (t : Thread) : Thread :=
  match d with
  | .g n => t.setCell (.g n) (.of v)
  | .a n => t.setCell (.a n) (.of v)
  | .q _ => { t with spare := false }
  | .nf | .rq | .zr => t

theorem State.me_write (s : State) : (s.write d v).me = s.me.map (Thread.written d v) := by
  have keep : ∀ o : Option Thread, o = o.map (fun t => t) := fun o => by simp
  cases d with
  | g n => exact s.me_modMe _
  | a n => exact s.me_modMe _
  | q n =>
    exact ((s.modMe (fun t => { t with spare := false })).me_modCore s.cur.core (fun k => k.pushQ n (.val v) s.time.toNat)
      (fun _ => rfl)).trans (s.me_modMe _)
  | nf =>
    refine Eq.trans ?_ (keep _)
    show (s.modCore s.cur.core _).threadAt s.cur.core s.cur.slot = s.threadAt s.cur.core s.cur.slot
    simp only [State.threadAt, State.slot, State.core_modCore_same, Core.setNf]
    by_cases h : s.cur.slot + 1 = s.cur.slot
    · omega
    · rw [Core.modSlot_ne _ _ _ _ (fun e => h e.symm)]
  | rq => exact keep _
  | zr => exact keep _

theorem Thread.cell_congr {u : Thread} (hg : u.g = t.g) (hw : u.win = t.win) (ha : u.a = t.a) (r : RegName) : u.cell r = t.cell r := by
  cases r <;> simp only [Thread.cell, Thread.gCell, hg, hw, ha]

open Sys2Proof.Safety in
theorem Thread.cell_written (r : RegName) : (t.written d v).cell r = if r ∈ regsOf d then .of v else t.cell r := by
  cases d with
  | g n => simp [Thread.written, Thread.cell_setCell, regsOf]
  | a n => simp [Thread.written, Thread.cell_setCell, regsOf]
  | q n => exact t.cell_congr rfl rfl rfl r
  | nf => rfl
  | rq => rfl
  | zr => rfl

theorem Thread.pc_setCell (r : RegName) (x : RegCell) : (t.setCell r x).pc = t.pc :=
  (congrArg Thread.pc (t.setCell_rest r x) :)

/-- A result changes the registers of the issuing thread and the use of a reserve entry, and nothing else of it. -/
theorem Thread.written_rest : { t.written d v with g := t.g, win := t.win, a := t.a, spare := t.spare } = t := by
  cases d with
  | g n => exact congrArg (fun u : Thread => { u with spare := t.spare }) (t.setCell_rest (.g n) (.of v))
  | a n => rfl
  | q n => rfl
  | nf => rfl
  | rq => rfl
  | zr => rfl

end

/-! ## Code in a state with the same memory -/

section
variable {s u : State}

/-- The two states store the same bytes with the same syndromes. -/
def State.SameStore (s u : State) : Prop := u.mem = s.mem ∧ u.synd = s.synd

theorem State.SameStore.correctWord (h : s.SameStore u) (w : Nat) : (s.correctWord w).SameStore (u.correctWord w) := by
  obtain ⟨hm, hs⟩ := h
  have e : u.syndAt w = s.syndAt w := by simp only [State.syndAt, hs]
  unfold State.correctWord
  rw [e]
  split
  · exact ⟨hm, hs⟩
  · exact ⟨hm, hs⟩
  · exact ⟨hm, by simp only [State.setSynd, hs]⟩
  · exact ⟨by simp only [State.rawNat, State.raw, hm], by simp only [State.setSynd, hs]⟩

theorem State.SameStore.correct (h : s.SameStore u) (k n : Nat) : (s.correct k n).SameStore (u.correct k n) := by
  have fold : ∀ (l : List Nat) (s u : State), s.SameStore u → (l.foldl State.correctWord s).SameStore (l.foldl State.correctWord u) := by
    intro l
    induction l with
    | nil => exact fun _ _ h => h
    | cons w l ih => exact fun _ _ h => ih _ _ (h.correctWord w)
  unfold State.correct
  rw [h.2]
  split
  · exact h
  · exact fold _ _ _ h

theorem State.SameStore.goodBytes (h : s.SameStore u) (k n : Nat) : u.goodBytes k n = s.goodBytes k n := by
  simp only [State.goodBytes, State.raw, (h.correct k n).1]

theorem State.SameStore.goodNat (h : s.SameStore u) (k n : Nat) : u.goodNat k n = s.goodNat k n := by
  simp only [State.goodNat, h.goodBytes]

theorem State.SameStore.lineAt (h : s.SameStore u) (c base : Nat) : u.lineAt c base = s.lineAt c base := by
  simp only [State.lineAt, h.goodBytes]

theorem State.SameStore.myLine (h : s.SameStore u) (hc : u.cur = s.cur) (t : Thread) : u.myLine t = s.myLine t := by
  simp only [State.myLine, hc, h.lineAt]

/-- The successor of a head is the same in a state with the same memory. -/
theorem State.SameStore.succ (h : s.SameStore u) (hc : u.cur = s.cur) (t : Thread) : u.succ t = s.succ t := by
  simp only [State.succ, h.myLine hc]

end

/-! ## Words without an address -/

section
variable {s : State} {c : Nat}

/-- A core with no error in such a word reads each of them as it is. -/
theorem State.checkStore_eq (h : (s.core c).marks = []) (u : CoreStore) : s.checkStore c u = some s := by
  simp [State.checkStore, h]

theorem State.useStore_eq (h : (s.core c).marks = []) (u : CoreStore) : s.useStore c u = .ok s := by
  simp [State.useStore, State.checkStore_eq h]

end

/-! ## Segments, and units that come to a slot -/

section
variable {s u : State}

/-- The two states store the same, with the same tables of partitions, access and logical cores. -/
structure State.SameTables (s u : State) : Prop where
  mem   : u.mem = s.mem
  synd  : u.synd = s.synd
  lost  : u.lost = s.lost
  parts : u.parts = s.parts
  acl   : u.acl = s.acl
  lmap  : u.lmap = s.lmap

namespace State.SameTables

theorem refl (s : State) : s.SameTables s := ⟨rfl, rfl, rfl, rfl, rfl, rfl⟩

theorem trans {v : State} (h : s.SameTables u) (g : u.SameTables v) : s.SameTables v :=
  ⟨g.mem.trans h.mem, g.synd.trans h.synd, g.lost.trans h.lost, g.parts.trans h.parts, g.acl.trans h.acl, g.lmap.trans h.lmap⟩

theorem store (h : s.SameTables u) : s.SameStore u := ⟨h.mem, h.synd⟩

theorem partn (h : s.SameTables u) (p : Nat) : u.partn p = s.partn p := by simp only [State.partn, h.parts]
theorem partOf (h : s.SameTables u) (c : Nat) : u.partOf c = s.partOf c := by simp only [State.partOf, h.parts]
theorem physOf (h : s.SameTables u) (l : Nat) : u.physOf l = s.physOf l := by simp only [State.physOf, h.lmap]
theorem homeOf (h : s.SameTables u) (t : Thread) : u.homeOf t = s.homeOf t := h.physOf _

theorem grants (h : s.SameTables u) (b : Bank) (part : Nat) (mask : BitVec 8) : u.grants b part mask = s.grants b part mask := by
  simp only [State.grants, State.rights, h.acl]

theorem centry (h : s.SameTables u) (part ctx : Nat) : u.centry part ctx = s.centry part ctx := by
  simp only [State.centry, h.partn, h.grants, State.rawNat, State.raw, h.mem]

theorem segBase (h : s.SameTables u) (part ctx : Nat) (sup : Bool) : u.segBase part ctx sup = s.segBase part ctx sup := by
  simp only [State.segBase, h.centry]

theorem segSet (h : s.SameTables u) (part ctx : Nat) (sup : Bool) : u.segSet part ctx sup = s.segSet part ctx sup := by
  simp only [State.segSet, h.segBase, h.grants, h.store.goodNat]

theorem segsFor (h : s.SameTables u) (t : Thread) : u.segsFor t = s.segsFor t := by
  simp only [State.segsFor, State.segsOf, State.segSlot, h.segSet, h.homeOf, h.store.goodNat]

open Sys2Proof.Claims in
theorem segsRead (h : s.SameTables u) {part ctx : Nat} {sup : Bool} (hs : SegsRead s part ctx sup) : SegsRead u part ctx sup := by
  obtain ⟨⟨hmem, hsynd, hlost⟩, hg⟩ := hs
  refine ⟨⟨?_, h.synd.trans hsynd, h.lost.trans hlost⟩, fun i => ?_⟩
  · unfold Sys2Proof.Safety.MemOk at *
    rwa [h.mem]
  · rw [h.segBase, h.grants]
    exact hg i

end State.SameTables

/-- With no error stored and no line lost, a read of the hardware finds nothing. -/
theorem State.audit_clean (hs : s.synd = []) (hl : s.lost = []) (k n part ctx lcore slot : Nat) : s.audit k n part ctx lcore slot = s := by
  simp [State.audit, hs, hl]

open Sys2Proof.Claims in
/-- A segment set that can be read leaves nothing behind (R270, R319). -/
theorem State.segAudit_eq {part ctx : Nat} {sup : Bool} (h : SegsRead s part ctx sup) : s.segAudit part ctx sup = s := by
  obtain ⟨⟨-, hsynd, hlost⟩, hg⟩ := h
  have hn : allSlots.find? (fun i => !s.grants (bankOf (s.segBase part ctx sup + 16 * i.val)) part 1) = none :=
    List.find?_eq_none.mpr fun i _ => by simpa using hg i
  simp only [State.segAudit, hn, State.audit_clean hsynd hlost]

open Sys2Proof.Claims in
theorem State.segsAudit_eq {t : Thread} (h : SegsRead s t.part t.id.ctx.toNat t.mode) : s.segsAudit t = s := by
  obtain ⟨⟨-, hsynd, hlost⟩, -⟩ := id h
  simp only [State.segsAudit, State.segsOfAudit, State.segAudit_eq h, State.audit_clean hsynd hlost, ite_self]

section
variable (s) (c : Nat) (i : Fin 8)

@[simp] theorem State.slot_setOcc_same (o : Occ) : (s.setOcc c i o).slot c i = { s.slot c i with occ := o, left := none } :=
  State.slot_modSlot_same s c i _

theorem State.threadAt_setOcc_same (t : Thread) : (s.setOcc c i (.thread t)).threadAt c i = some t := by
  simp [State.threadAt, Occ.thread?]

/-- A thread that comes to a slot of its image, with segments that can be read, takes the slot; its arrival is noted (R26, R50, R84). -/
theorem State.placeMig_eq {t : Thread} {src : Nat} (h : Sys2Proof.Claims.SegsRead s t.part t.id.ctx.toNat t.mode)
    (ht : t.tag = (s.core c).itag) :
    s.placeMig c i t src = ((s.setOcc c i (.thread { t with segs := s.segsFor t })).modCore c
      (fun k => { k with lastCtx := some (t.part, t.id.ctx.toNat) })).noteCtx c i 0x04 (src * 2 ^ 20) t.id.ctx := by
  have hs1 : s.SameTables ((s.setOcc c i (.thread { t with segs := s.segsFor t })).modCore c
      (fun k => { k with lastCtx := some (t.part, t.id.ctx.toNat) })) := ⟨rfl, rfl, rfl, rfl, rfl, rfl⟩
  have hat : (((s.setOcc c i (.thread { t with segs := s.segsFor t })).modCore c
      (fun k => { k with lastCtx := some (t.part, t.id.ctx.toNat) })).noteCtx c i 0x04 (src * 2 ^ 20) t.id.ctx).threadAt c i =
      some { t with segs := s.segsFor t } :=
    (State.threadAt_modCore _ c c i _ rfl).trans (State.threadAt_setOcc_same s c i _)
  have htag : (((s.setOcc c i (.thread { t with segs := s.segsFor t })).modCore c
      (fun k => { k with lastCtx := some (t.part, t.id.ctx.toNat) })).core c).itag = (s.core c).itag :=
    ((s.setOcc c i _).core_modCore_read c c Core.itag _ rfl).trans (s.core_modSlot_read c c i Core.itag _ fun _ _ => rfl)
  simp only [State.placeMig, State.segsAudit_eq (hs1.segsRead h), State.tagCheck, hat]
  exact if_pos (ht.trans htag.symm)

end

end

end Sys2Proof.Machine
end

section
/-! PROOFS. The stages of a Detention (O52 fails): `Core.detained` keeps the range units of a core, whose bounds the notice has made equal, and the
statement has the reset leave none. -/

namespace Sys2Proof.Safety
open Sys2Proof.Machine Sys2Proof.Claims

/-- A module whose core 0 holds an empty range unit while the Detention of its router has come to its notice (stage 2). -/
def detainedWithRange : State :=
  { State.reset with
    detentions := [⟨0, none, 0, 0, 2, 0, 0⟩]
    cores := [(0, { Core.reset with ranges := [⟨0, 0, 0, 0, (0, 0, 0, 0)⟩] })] }

/-- What `DETENTION_RESET` leaves of the range units of core 0 there: the unit is kept, as `Core.detained` has it. -/
theorem detentionReset_keeps_range {s' : State} (h : Runs (.detentionReset 0) detainedWithRange s') :
    (s'.core 0).ranges = [⟨0, 0, 0, 0, (0, 0, 0, 0)⟩] := by
  have e : exec (.detentionReset 0) detainedWithRange =
    .next (((((rectCores 0).foldl State.resetCore detainedWithRange).freeLost).failRedns 0).detStage ⟨0, none, 0, 0, 2, 0, 0⟩ 2) := rfl
  cases e.symm.trans h
  decide +kernel

/-- Refutes O52: a core behind the fence that holds a range unit with no index left (`lo = hi`), as the notice leaves it, holds it after the
reset too, and the third clause has the core hold none. -/
theorem not_detentionEvents : ¬ Obligations.DetentionEvents := by
  unfold Obligations.DetentionEvents
  rintro ⟨-, -, hreset, -⟩
  obtain ⟨s', x, hr, -, -, -, -, hc⟩ := hreset detainedWithRange 0 ⟨0, none, 0, 0, 2, 0, 0⟩ rfl
  obtain ⟨-, -, -, -, -, -, -, -, hranges, -⟩ := hc 0 (by decide)
  rw [detentionReset_keeps_range hr] at hranges
  exact absurd hranges (by simp)

end Sys2Proof.Safety
end

section
/-! PROOFS. `NEXT` and `RANGE` (O40). -/

set_option Elab.async false

namespace Sys2Proof.Safety

open Sys2Proof.Machine Sys2Proof.Claims

variable {s : State} {t : Thread} {q : BitVec 32} {d : Operand} {pr : BitVec 5}

/-! ### What both check -/

theorem needLaunch_eq (h : InLaunch t q) : s.needLaunch t = .ok q := by
  obtain ⟨⟨ro, st, hk⟩, hh⟩ := h
  have hn : s.noSpark t = .ok () := State.noSpark_eq (by simp [hk])
  simp [State.needLaunch, hn, hk, hh, bind, Except.bind, pure, Except.pure]

/-- A task draws from no launch (R252). -/
theorem needLaunch_task {n : Nat} (h : t.kind = .task n) : s.needLaunch t = .error (.trap cILLEGAL 0, s) := by
  have hn : s.noSpark t = .ok () := State.noSpark_eq (by simp [h])
  simp [State.needLaunch, hn, h, bind, Except.bind, stop]

theorem unitOpen_eq {c : Nat} (h : c ≠ s.cur.core → s.fenced c = false) : s.unitOpen c = .ok () := by
  by_cases hc : c = s.cur.core
  · simp [State.unitOpen, hc]
  · simp [State.unitOpen, h hc]

/-! ### Range units -/

theorem rangeOf?_modCore {c home part seq : Nat} {f : Core → Core} (h : (f (s.core c)).ranges = (s.core c).ranges) :
    (s.modCore c f).rangeOf? home part seq = s.rangeOf? home part seq :=
  s.core_modCore_read c home (fun k : Core => k.ranges.find? (fun r : RangeUnit => r.part == part && r.seq == seq)) f (by rw [h])

/-- A unit whose range is set has the bounds that it was given. -/
theorem rangeOf?_setRange {c part seq lo hi : Nat} {r : RangeUnit} (h : s.rangeOf? c part seq = some r) :
    (s.setRange c part seq lo hi).rangeOf? c part seq = some { r with lo := lo, hi := hi } := by
  simp only [State.rangeOf?, State.setRange, State.core_modCore_same] at h ⊢
  have hr := List.find?_some h
  have keep : ∀ x : RangeUnit, (fun r : RangeUnit => r.part == part && r.seq == seq)
      (if x.part = part && x.seq = seq then { x with lo := lo, hi := hi } else x) = (x.part == part && x.seq == seq) := by
    intro x
    split <;> rfl
  rw [List.find?_map, Function.comp_def]
  simp only [keep, h, Option.map_some]
  rw [if_pos (by simpa using hr)]

theorem rangeOf?_modWho {c part seq : Nat} {w : Ident} {f : Thread → Thread} :
    (s.modWho w f).rangeOf? c part seq = s.rangeOf? c part seq := by
  simp only [State.rangeOf?, State.core_modWho, Core.mapWho]

theorem rangeOf?_modMe {c part seq : Nat} {f : Thread → Thread} : (s.modMe f).rangeOf? c part seq = s.rangeOf? c part seq :=
  rangeOf?_modCore rfl

theorem rangeOf?_write {c part seq : Nat} {v : Word} : (s.write d v).rangeOf? c part seq = s.rangeOf? c part seq := by
  cases d with
  | q n => exact (rangeOf?_modCore rfl).trans rangeOf?_modMe
  | nf => exact rangeOf?_modCore rfl
  | g n => exact rangeOf?_modMe
  | a n => exact rangeOf?_modMe
  | rq => rfl
  | zr => rfl

/-! ### A draw that is answered -/

/-- A state of the same memory in which the issuing thread is as before but for what a draw notes of it. -/
structure DrawReady (s s1 : State) (t t1 : Thread) : Prop where
  mem   : s1.mem = s.mem
  synd  : s1.synd = s.synd
  cur   : s1.cur = s.cur
  me    : s1.me = some t1
  cells : ∀ r, t1.cell r = t.cell r

theorem DrawReady.refl (h : s.me = some t) : DrawReady s s t t := ⟨rfl, rfl, rfl, h, fun _ => rfl⟩

theorem DrawReady.draws {s1 : State} {t1 : Thread} (h : DrawReady s s1 t t1) (i : Option Word)
    (hr : Runs (.next d pr) s ((s1.drawn d pr i).advance t)) :
    Draws d pr s ((s1.drawn d pr i).advance t) t (i.getD (BitVec.allOnes 64)) i.isSome := by
  have hme : ((s1.drawn d pr i).advance t).me =
      some { (t1.written d (i.getD (BitVec.allOnes 64))).setP pr i.isSome with
        carried := none, pc := (s1.drawn d pr i).succ t, status := .ready } := by
    simp [State.advance, State.drawn, State.me_write, h.me]
  have hs : s.SameStore (s1.drawn d pr i) := ⟨by simp [State.drawn, h.mem], by simp [State.drawn, h.synd]⟩
  have hcell : ∀ r : RegName, ({ (t1.written d (i.getD (BitVec.allOnes 64))).setP pr i.isSome with
      carried := none, pc := (s1.drawn d pr i).succ t, status := .ready } : Thread).cell r =
      (t1.written d (i.getD (BitVec.allOnes 64))).cell r := fun r => Thread.cell_congr _ rfl rfl rfl r
  refine ⟨_, hr, hme, ?_, ?_, ?_, rfl, ?_, ?_⟩
  · exact hs.succ (by simp [State.drawn, h.cur]) t
  · intro r hm
    rw [hcell, Thread.cell_written, if_pos hm]
  · intro hp
    exact (Thread.p_setP _ pr pr _).trans (if_pos ⟨rfl, hp⟩)
  · intro r hm
    rw [hcell, Thread.cell_written, if_neg hm, h.cells]
  · simp [State.drawn, h.mem]

/-! ### What a unit gives -/

theorem drawFrom_index {c part seq : Nat} {r : RangeUnit} (h : s.rangeOf? c part seq = some r) (hlt : r.lo < r.hi) :
    s.drawFrom c part seq = (some r.lo, s.setRange c part seq (r.lo + 1) r.hi) := by
  simp [State.drawFrom, h, hlt]

theorem drawFrom_empty {c part seq : Nat} {r : RangeUnit} (h : s.rangeOf? c part seq = some r) (hle : r.hi ≤ r.lo) :
    s.drawFrom c part seq = (none, s) := by
  simp [State.drawFrom, h, Nat.not_lt.mpr hle]

/-- A steal begins. -/
def startSteal (s : State) (x : Steal) : State := { s with steals := s.steals ++ [x], nextTag := s.nextTag + 1 }

section
variable {c part seq : Nat} {r : RangeUnit} {w : Ident} (h : s.rangeOf? c part seq = some r)
variable (hs : ∀ x ∈ s.steals, ¬(x.thief = c ∧ x.part = part ∧ x.seq = seq))
include h hs

theorem askSteal_exhausted (hv : s.victims c r = []) : s.askSteal c part seq w = (none, s) := by
  have hn : s.steals.find? (fun x => x.thief == c && x.part == part && x.seq == seq) = none := by
    simpa [and_assoc] using hs
  simp [State.askSteal, hn, h, hv]

theorem askSteal_starts {v : Nat} {l : List Nat} (hv : s.victims c r = v :: l) :
    s.askSteal c part seq w = (some s.nextTag, startSteal s ⟨s.nextTag, [w], part, seq, c, v, l, none⟩) := by
  have hn : s.steals.find? (fun x => x.thief == c && x.part == part && x.seq == seq) = none := by
    simpa [and_assoc] using hs
  simp [State.askSteal, startSteal, hn, h, hv]

end

/-! ### `NEXT` -/

section
variable (hi : Issues s t [] [d] [pr]) (hl : InLaunch t q)
include hi hl

theorem next_carried_index {v : Word} (hc : t.carried = some (0, v)) : Runs (.next d pr) s ((s.drawn d pr (some v)).advance t) := by
  obtain ⟨hme, hw, hp⟩ := hi
  show execNext d pr s = _
  simp only [execNext, State.ready_eq hme hw hp, Eff.bind_ok, needLaunch_eq hl, hc, Eff.done_pure]

theorem next_carried_end {v : Word} (hc : t.carried = some (1, v)) : Runs (.next d pr) s ((s.drawn d pr none).advance t) := by
  obtain ⟨hme, hw, hp⟩ := hi
  show execNext d pr s = _
  simp only [execNext, State.ready_eq hme hw hp, Eff.bind_ok, needLaunch_eq hl, hc, Eff.done_pure]

variable (hm : (s.core (s.homeOf t)).marks = []) (hf : s.homeOf t ≠ s.cur.core → s.fenced (s.homeOf t) = false)
variable (hc : t.carried = none) {r : RangeUnit} (hr : s.rangeOf? (s.homeOf t) t.part q.toNat = some r)
include hm hf hc hr

theorem next_index (hlt : r.lo < r.hi) : Runs (.next d pr) s
    ((((s.setRange (s.homeOf t) t.part q.toNat (r.lo + 1) r.hi).handOut t.id r.lo).drawn d pr
      (some (w64 (r.lo % 2 ^ 32)))).advance t) := by
  obtain ⟨hme, hw, hp⟩ := hi
  show execNext d pr s = _
  simp only [execNext, State.ready_eq hme hw hp, Eff.bind_ok, needLaunch_eq hl, hc, unitOpen_eq hf, State.useStore_eq hm,
    drawFrom_index hr hlt, Eff.done_pure]

variable (hle : r.hi ≤ r.lo) (hs : ∀ x ∈ s.steals, ¬(x.thief = s.homeOf t ∧ x.part = t.part ∧ x.seq = q.toNat))
include hle hs

theorem next_exhausted (hv : s.victims (s.homeOf t) r = []) : Runs (.next d pr) s ((s.drawn d pr none).advance t) := by
  obtain ⟨hme, hw, hp⟩ := hi
  show execNext d pr s = _
  simp only [execNext, State.ready_eq hme hw hp, Eff.bind_ok, needLaunch_eq hl, hc, unitOpen_eq hf, State.useStore_eq hm,
    drawFrom_empty hr hle, askSteal_exhausted hr hs hv, Eff.done_pure]

theorem next_steals {v : Nat} {l : List Nat} (hv : s.victims (s.homeOf t) r = v :: l) : Runs (.next d pr) s
    ((startSteal s ⟨s.nextTag, [t.id], t.part, q.toNat, s.homeOf t, v, l, none⟩).park (.next s.nextTag)) := by
  obtain ⟨hme, hw, hp⟩ := hi
  show execNext d pr s = _
  simp only [execNext, State.ready_eq hme hw hp, Eff.bind_ok, needLaunch_eq hl, hc, unitOpen_eq hf, State.useStore_eq hm,
    drawFrom_empty hr hle, askSteal_starts hr hs hv]
  rfl

end

/-! ### `RANGE` and tasks -/

/-- The bounds that `RANGE` gives: hi above lo, and 0 for a launch with no unit (R253). -/
def rangeBounds : Option RangeUnit → Word
  | some r => BitVec.ofNat 64 (r.hi % 2 ^ 32 * 2 ^ 32 + r.lo % 2 ^ 32)
  | none => 0

theorem range_bounds (hi : Issues s t [] [d] []) (hl : InLaunch t q) (hm : (s.core (s.homeOf t)).marks = [])
    (hf : s.homeOf t ≠ s.cur.core → s.fenced (s.homeOf t) = false) :
    Runs (.range d) s ((s.write d (rangeBounds (s.rangeOf? (s.homeOf t) t.part q.toNat))).advance t) := by
  obtain ⟨hme, hw, hp⟩ := hi
  show execRange d s = _
  simp only [execRange, State.ready_eq hme hw hp, Eff.bind_ok, needLaunch_eq hl, unitOpen_eq hf, State.useStore_eq hm, Eff.done_pure]
  cases s.rangeOf? (s.homeOf t) t.part q.toNat <;> rfl

theorem next_task {n : Nat} (hi : Issues s t [] [d] [pr]) (hk : t.kind = .task n) : Runs (.next d pr) s (s.userTrap 0x01 0 t.pc) := by
  obtain ⟨hme, hw, hp⟩ := hi
  show execNext d pr s = _
  simp only [execNext, State.ready_eq hme hw hp, Eff.bind_ok, needLaunch_task hk, Eff.bind_error, Eff.done_error,
    State.stopped_trap s hme]
  rfl

theorem range_task {n : Nat} (hi : Issues s t [] [d] []) (hk : t.kind = .task n) : Runs (.range d) s (s.userTrap 0x01 0 t.pc) := by
  obtain ⟨hme, hw, hp⟩ := hi
  show execRange d s = _
  simp only [execRange, State.ready_eq hme hw hp, Eff.bind_ok, needLaunch_task hk, Eff.bind_error, Eff.done_error,
    State.stopped_trap s hme]
  rfl

/-! ### Parking -/

/-- The issuing thread parks: it waits as given, at its instruction and with its registers (R34). -/
theorem park_waits (hme : s.me = some t) (w : Wait) : Waits (s.park w) t w := by
  have hp : (s.park w).me = some (t.park w s.time.toNat) := by
    have hat : s.threadAt s.cur.core s.cur.slot = some t := hme
    simp only [State.park, State.parkAt, hat]
    split
    · exact (State.threadAt_modAt_same s s.cur.core s.cur.slot _).trans (by rw [hat]; rfl)
    · exact (State.threadAt_modAt_same s s.cur.core s.cur.slot _).trans (by rw [hat]; rfl)
  exact ⟨_, hp, rfl, rfl, fun r _ => Thread.cell_congr t rfl rfl rfl r⟩

theorem park_steals (w : Wait) : (s.park w).steals = s.steals := by
  unfold State.park State.parkAt
  split
  · rfl
  · split <;> rfl

/-- Settles O40, clause by clause from `next_index`, `next_exhausted`, `next_steals` and the answers that a thread carries. -/
theorem drawResults : Obligations.DrawResults := by
  unfold Obligations.DrawResults
  intro s t q d home unit hm hf
  refine ⟨fun pr hi hl => ⟨?_, ?_, ?_, ?_⟩, ?_, ?_⟩
  · intro r hc hr hlt
    have hready : DrawReady s ((s.setRange home t.part q.toNat (r.lo + 1) r.hi).handOut t.id r.lo) t { t with drew := r.lo :: t.drew } := by
      refine ⟨rfl, rfl, rfl, ?_, fun x => Thread.cell_congr t rfl rfl rfl x⟩
      have hset : (s.setRange home t.part q.toNat (r.lo + 1) r.hi).me = some t := (State.me_modCore s home (fun k => { k with
        ranges := k.ranges.map (fun x : RangeUnit => if x.part = t.part && x.seq = q.toNat then { x with lo := r.lo + 1, hi := r.hi } else x) })
        fun _ => rfl).trans hi.1
      simp [State.handOut, State.me_modWho, hset, onWho]
    exact ⟨_, hready.draws (some _) (next_index hi hl hm hf hc hr hlt),
      (rangeOf?_modMe.trans (rangeOf?_modMe.trans (rangeOf?_write.trans rangeOf?_modWho))).trans (rangeOf?_setRange hr)⟩
  · intro r hc hr hle hs
    refine ⟨fun hv => ⟨_, (DrawReady.refl hi.1).draws none (next_exhausted hi hl hm hf hc hr hle hs hv)⟩, fun v l hv => ?_⟩
    exact ⟨_, ⟨s.nextTag, [t.id], t.part, q.toNat, home, v, l, none⟩, next_steals hi hl hm hf hc hr hle hs hv, park_steals _, rfl, rfl, rfl, rfl, rfl, rfl,
      park_waits (s := startSteal s _) hi.1 _⟩
  · exact fun v hc => ⟨_, (DrawReady.refl hi.1).draws (some v) (next_carried_index hi hl hc)⟩
  · exact fun v hc => ⟨_, (DrawReady.refl hi.1).draws none (next_carried_end hi hl hc)⟩
  · intro hi hl
    have h := range_bounds hi hl hm hf
    simp only [unit, home]
    cases hr : s.rangeOf? (s.homeOf t) t.part q.toNat <;> rw [hr] at h <;> exact h
  · exact fun n pr hi hi' hk => ⟨next_task hi hk, range_task hi' hk⟩

end Sys2Proof.Safety
end

section
/-! SUPPORT. New units in a slot (R16, R19, R23), and descriptors by number (R299). -/

set_option Elab.async false

namespace Sys2Proof.Machine

variable {s : State} {c : Nat} {i : Fin 8}

/-! ## A new unit takes a slot -/

/-- The slot's incarnation count advances (R16). -/
def State.newInc (s : State) (c : Nat) (i : Fin 8) : State := s.modSlot c i (fun sl => { sl with inc := s.nextInc c i })

/-- The unit that a state makes takes the slot. -/
def State.seat (s : State) (c : Nat) (i : Fin 8) (t : Thread) : State :=
  (s.setOcc c i (.thread t)).modCore c (fun k => { k with lastCtx := some (t.part, t.id.ctx.toNat) })

theorem State.sameTables_newInc : s.SameTables (s.newInc c i) := ⟨rfl, rfl, rfl, rfl, rfl, rfl⟩

theorem State.sameTables_seat {t : Thread} : s.SameTables (s.seat c i t) := ⟨rfl, rfl, rfl, rfl, rfl, rfl⟩

/-- A new unit whose segment set can be read is seated, and its segments leave nothing behind. -/
theorem State.place_eq (mk : State → Thread)
    (h : Sys2Proof.Claims.SegsRead s (mk (s.newInc c i)).part (mk (s.newInc c i)).id.ctx.toNat (mk (s.newInc c i)).mode) :
    s.place c i mk = (s.newInc c i).seat c i (mk (s.newInc c i)) :=
  State.segAudit_eq (sameTables_seat.segsRead (sameTables_newInc.segsRead h))

theorem State.threadAt_seat {t : Thread} : (s.seat c i t).threadAt c i = some t :=
  (State.threadAt_modCore _ c c i _ rfl).trans (State.threadAt_setOcc_same s c i t)

/-- What no slot and no context of a core shows is as before once a unit has come to it. -/
theorem State.core_seated {α : Sort _} (g : Core → α) (d : Nat) (t : Thread)
    (hs : ∀ (k : Core) (v : Vector Slot 8), g { k with slots := v } = g k)
    (hc : ∀ (k : Core) x, g { k with lastCtx := x } = g k) :
    g (((s.newInc c i).seat c i t).core d) = g (s.core d) :=
  (State.core_modCore_read _ c d g _ (hc _ _)).trans ((State.core_modSlot_read _ c d i g _ hs).trans (State.core_modSlot_read _ c d i g _ hs))

/-! ## Descriptors by number -/

theorem State.desc?_modCore {num : Nat} {f : Core → Core} (h : (f (s.core c)).tasks = (s.core c).tasks) :
    (s.modCore c f).desc? num = s.desc? num :=
  findSome?_updCores s.cores c f (fun x => x.2.tasks.find? (fun d : Desc => d.num == num))
    (congrArg (List.find? fun d : Desc => d.num == num) h) rfl

theorem find?_desc_map {num : Nat} {f : Desc → Desc} (hf : ∀ d, (f d).num = d.num) (l : List Desc) :
    (l.map (fun d => if d.num = num then f d else d)).find? (fun d => d.num == num) = (l.find? (fun d => d.num == num)).map f := by
  have hp : (fun d : Desc => d.num == num) ∘ (fun d => if d.num = num then f d else d) = fun d => d.num == num := by
    funext d
    simp only [Function.comp]
    split
    · rw [hf]
    · rfl
  rw [List.find?_map, hp]
  cases hd : l.find? (fun d => d.num == num) with
  | none => rfl
  | some d =>
    have hn : d.num = num := by simpa using List.find?_some hd
    simp [hn]

/-- A changed descriptor is found as it has become. -/
theorem State.desc?_modDesc {num : Nat} {f : Desc → Desc} (hf : ∀ d, (f d).num = d.num) :
    (s.modDesc num f).desc? num = (s.desc? num).map f := by
  show (s.cores.map _).findSome? _ = Option.map f (s.cores.findSome? _)
  rw [List.findSome?_map, List.map_findSome?]
  congr 1
  funext x
  exact find?_desc_map hf x.2.tasks

/-- A core of which anything is known is listed. -/
theorem mem_of_coreIn_ne {l : List (Nat × Core)} (h : coreIn l c ≠ .reset) : (c, coreIn l c) ∈ l := by
  induction l with
  | nil => exact absurd rfl h
  | cons x r ih =>
    obtain ⟨k, y⟩ := x
    by_cases hk : k = c
    · simp [coreIn, hk]
    · simp only [coreIn, hk, if_false] at h ⊢
      exact List.mem_cons_of_mem _ (ih h)

/-- A core with a descriptor is listed. -/
theorem State.core_listed_of_task {d : Desc} (h : d ∈ (s.core c).tasks) : (c, s.core c) ∈ s.cores := by
  refine mem_of_coreIn_ne fun e => ?_
  have hr : s.core c = .reset := e
  rw [hr] at h
  cases h

theorem State.desc?_of_task {d : Desc} (h : d ∈ (s.core c).tasks) : ∃ x, s.desc? d.num = some x := by
  refine Option.isSome_iff_exists.mp (List.findSome?_isSome_iff.mpr ⟨_, State.core_listed_of_task h, ?_⟩)
  exact List.find?_isSome.mpr ⟨d, h, beq_self_eq_true _⟩

/-- A search by ranks that finds an item finds it too among the items that also meet a condition it meets. -/
theorem findSome?_find?_and {α β : Type} {P : α → β → Bool} {Q : β → Bool} {ps : List α} {l : List β} {d : β}
    (h : ps.findSome? (fun p => l.find? (P p)) = some d) (hq : Q d = true) :
    ps.findSome? (fun p => l.find? (fun x => P p x && Q x)) = some d := by
  induction ps with
  | nil => cases h
  | cons p ps ih =>
    rw [List.findSome?_cons] at h ⊢
    cases hp : l.find? (P p) with
    | some e =>
      rw [hp] at h
      obtain rfl : e = d := by simpa using h
      obtain ⟨hpe, as, bs, rfl, has⟩ := List.find?_eq_some_iff_append.mp hp
      have : (as ++ e :: bs).find? (fun x => P p x && Q x) = some e :=
        List.find?_eq_some_iff_append.mpr ⟨by simp [hpe, hq], as, bs, rfl, fun a ha => by simp [by simpa using has a ha]⟩
      rw [this]
    | none =>
      rw [hp] at h
      have : l.find? (fun x => P p x && Q x) = none :=
        List.find?_eq_none.mpr fun x hx => by simp [by simpa using List.find?_eq_none.mp hp x hx]
      rw [this]
      exact ih h

end Sys2Proof.Machine
end

section
/-! PROOFS. Requests and replies of steals (O46, its last two parts). -/

set_option Elab.async false

namespace Sys2Proof.Safety

open Sys2Proof.Machine Sys2Proof.Claims

variable {s : State} {i : Nat} {x : Steal}

/-! ### The victim answers (R21) -/

/-- The victim of a steal answers. -/
def sayReply (s : State) (i : Nat) (r : Option (Nat × Nat)) : State :=
  { s with steals := s.steals.map (fun (y : Steal) => if y.tag = i then { y with reply := some r } else y) }

theorem mem_sayReply (hx : x ∈ s.steals) (ht : x.tag = i) (r : Option (Nat × Nat)) :
    { x with reply := some r } ∈ (sayReply s i r).steals :=
  List.mem_map.mpr ⟨x, hx, by rw [if_pos ht]⟩

section
variable (h : s.steals.find? (fun y => y.tag == i && y.reply.isNone) = some x)
variable (hf : s.fenced (s.physOf x.victim) = false)
include h hf

theorem stealRequest_scan (hs : (s.core (s.physOf x.victim)).scan ≠ none) : Runs (.stealRequest i) s (sayReply s i none) := by
  have hs' : (s.core (s.physOf x.victim)).scan.isSome = true := Option.isSome_iff_ne_none.mpr hs
  show execStealRequest i s = _
  simp only [execStealRequest, h, hf, hs']
  rfl

variable (hm : (s.core (s.physOf x.victim)).marks = [])
include hm

/-- A unit with fewer than two indices, or none, gives no range. -/
theorem stealRequest_none (hr : s.rangeOf? (s.physOf x.victim) x.part x.seq = none ∨
      ∃ r, s.rangeOf? (s.physOf x.victim) x.part x.seq = some r ∧ r.hi ≤ r.lo + 1) :
    Runs (.stealRequest i) s (sayReply s i none) := by
  show execStealRequest i s = _
  obtain hr | ⟨r, hr, hle⟩ := hr
  · simp only [execStealRequest, h, hf, Bool.false_eq_true, if_false, State.checkStore_eq hm, hr]
    split <;> rfl
  · simp only [execStealRequest, h, hf, Bool.false_eq_true, if_false, State.checkStore_eq hm, hr,
      show r.hi - r.lo < 2 from by omega, if_true]
    split <;> rfl

theorem stealRequest_splits {r : RangeUnit} (hn : (s.core (s.physOf x.victim)).scan = none)
    (hr : s.rangeOf? (s.physOf x.victim) x.part x.seq = some r) (hle : r.lo + 2 ≤ r.hi) :
    Runs (.stealRequest i) s
      (sayReply (s.setRange (s.physOf x.victim) x.part x.seq r.lo (r.lo + (r.hi - r.lo + 1) / 2)) i
        (some (r.lo + (r.hi - r.lo + 1) / 2, r.hi))) := by
  show execStealRequest i s = _
  simp only [execStealRequest, h, hf, Bool.false_eq_true, if_false, State.checkStore_eq hm, hr, hn, Option.isSome_none,
    show ¬(r.hi - r.lo < 2) from by omega]
  rfl

end

/-! ### The thief takes the answer (R21) -/

/-- A steal that failed goes to its next victim. -/
def nextVictim (s : State) (i v : Nat) (l : List Nat) : State :=
  { s with steals := s.steals.map (fun (y : Steal) => if y.tag = i then { y with victim := v, left := l, reply := none } else y) }

/-- A steal is over. -/
def endSteal (s : State) (i : Nat) : State := { s with steals := s.steals.filter (fun y => y.tag != i) }

theorem tag_ne_of_mem_endSteal : ∀ y ∈ (endSteal s i).steals, y.tag ≠ i := by
  simp [endSteal]

theorem answerNext_wakes (w : Ident) (k : Nat) (v : Word) : ∃ x ∈ (s.answerNext i w k v).wakes, x.who = w ∧ x.wait = .inl (.next i) :=
  ⟨_, List.mem_append_right _ (List.mem_singleton_self _), rfl, rfl⟩

theorem thread?_answerNext {w : Ident} {t : Thread} (h : s.thread? w = some t) (k : Nat) (v : Word) :
    (s.answerNext i w k v).thread? w = some { t with carried := some (k, v) } :=
  State.thread?_modWho_some h

section
variable (h : s.steals.find? (fun y => y.tag == i) = some x) (hf : s.fenced x.thief = false)
include h hf

theorem stealReply_next {v : Nat} {l : List Nat} (hr : x.reply = some none) (hl : x.left = v :: l) :
    Runs (.stealReply i) s (nextVictim s i v l) := by
  show execStealReply i s = _
  simp only [execStealReply, h, hf, Bool.false_eq_true, if_false, hr, hl]
  rfl

theorem stealReply_exhausted {w : Ident} (hr : x.reply = some none) (hl : x.left = []) (hw : x.who = [w]) :
    Runs (.stealReply i) s (endSteal (s.answerNext i w 1 0) i) := by
  have ht : x.tag = i := by simpa using List.find?_some h
  show execStealReply i s = _
  simp only [execStealReply, h, hf, Bool.false_eq_true, if_false, hr, hl, hw, State.serveNext, ht]
  rfl

theorem stealReply_range {r : RangeUnit} {lo hi : Nat} {w : Ident} (hr : x.reply = some (some (lo, hi)))
    (hu : s.rangeOf? x.thief x.part x.seq = some r) (hlt : lo < hi) (hw : x.who = [w]) :
    Runs (.stealReply i) s (endSteal ((((s.setRange x.thief x.part x.seq lo hi).setRange x.thief x.part x.seq (lo + 1) hi).handOut w lo).answerNext
      i w 0 (w64 (lo % 2 ^ 32))) i) := by
  have ht : x.tag = i := by simpa using List.find?_some h
  have hd := drawFrom_index (rangeOf?_setRange (lo := lo) (hi := hi) hu) hlt
  show execStealReply i s = _
  simp only [execStealReply, h, hf, Bool.false_eq_true, if_false, hr, hu, hw, State.serveNext, ht, hd]
  rfl

end

end Sys2Proof.Safety
end

section
/-! PROOFS. Free slots are filled, tasks are stolen, and O46. -/

set_option Elab.async false

namespace Sys2Proof.Safety

open Sys2Proof.Machine Sys2Proof.Claims

variable {s : State} {c : Nat} {i : Fin 8}

/-! ### What a free slot takes (R26) -/

section
variable (hshut : s.shut c = false) (hfree : (s.slot c i).occ = .free) (hsaved : (s.core c).saved = [])
include hshut hfree hsaved

/-- With nothing SAVED the slot takes what comes after the restores. -/
theorem slotFill_fill : execSlotFill c i s = .next (execSlotFill.fill c i s) := by
  simp [execSlotFill, hshut, hfree, Occ.isFree, State.nextRestore, hsaved]

variable (hmarks : (s.core c).marks = [])
include hmarks

theorem slotFill_migrant {t : Thread} {src : Nat} {l : List (Thread × Nat)} (hbuf : (s.core c).migBuf = (t, src) :: l)
    (hctx : s.slotsCtx c = none ∨ s.slotsCtx c = some (t.part, t.id.ctx.toNat)) :
    Runs (.slotFill c i) s ((s.modCore c (fun k => { k with migBuf := k.migBuf.filter (fun x => x.1.id != t.id) })).placeMig c i t src) := by
  refine (slotFill_fill hshut hfree hsaved).trans (congrArg _ ?_)
  rcases hctx with hctx | hctx <;> simp [execSlotFill.fill, hbuf, hctx, State.checkStore_eq hmarks]

variable (hbuf : (s.core c).migBuf = [])
include hbuf

theorem slotFill_task {d : Desc} (htask : s.taskFor c i = some d) : Runs (.slotFill c i) s (s.startTask c i d) := by
  refine (slotFill_fill hshut hfree hsaved).trans (congrArg _ ?_)
  simp [execSlotFill.fill, hbuf, htask, State.checkStore_eq hmarks]

omit hmarks in
theorem slotFill_spark {p x va : Nat} {l : List (Nat × Nat)} (htasks : (s.core c).tasks = []) (hwork : s.workCtx c = some (p, x))
    (hsparks : (s.core c).sparks = (x, va) :: l) :
    Runs (.slotFill c i) s ((s.modCore c (fun k => { k with sparks := dropSpark (x, va) k.sparks })).startSpark c i x va) := by
  refine (slotFill_fill hshut hfree hsaved).trans (congrArg _ ?_)
  simp [execSlotFill.fill, hbuf, State.taskFor, htasks, hwork, hsparks]

end

/-! ### Tasks and sparks start (R23, R25) -/

/-- The thread that a descriptor starts as (R23). -/
def taskThread (s : State) (c : Nat) (i : Fin 8) (d : Desc) : Thread :=
  let t := s.startThread c i (s.partOf c) d.ctx (.task d.num) d.prio.toNat (d.entry.setWidth 64)
  { t with
    g := t.g.set 0 (.of (d.args.setWidth 64)), cds := d.cds, sbud := d.sbud, fmtp := d.fmtp.setWidth 64
    sclp := d.sclp.setWidth 64, lead := d.redun.isSome }

theorem gCell_taskThread (d : Desc) (n : Fin 16) : (taskThread s c i d).gCell n = if n = 0 then .of (d.args.setWidth 64) else .of 0 := by
  have hg : (taskThread s c i d).gCell n =
      ((s.startThread c i (s.partOf c) d.ctx (.task d.num) d.prio.toNat (d.entry.setWidth 64)).setG 0 (.of (d.args.setWidth 64))).gCell n := rfl
  rw [hg, Thread.gCell_setG]
  split
  · rfl
  · simp [State.startThread, Thread.fresh, Thread.gCell, freshWin]

theorem nextTask_mem {d : Desc} (h : s.nextTask c = some d) : d ∈ (s.core c).tasks := by
  obtain ⟨p, -, hp⟩ := List.exists_of_findSome?_eq_some h
  exact List.mem_of_find?_eq_some hp

/-- A task of one thread fits every free slot. -/
theorem taskFor_eq {d : Desc} (h : s.nextTask c = some d) (hr : d.redun = none) : s.taskFor c i = some d :=
  findSome?_find?_and h (by simp [State.taskFits, hr])

/-- A descriptor runs. -/
def runDesc (s : State) (num : Nat) : State := s.modDesc num (fun x => { x with state := 2 })

theorem startTask_eq {d : Desc} (hr : d.redun = none)
    (hsegs : SegsRead s (s.partOf c) d.ctx.toNat (entSupv (s.centry (s.partOf c) d.ctx.toNat))) :
    s.startTask c i d = ((runDesc s d.num).newInc c i).seat c i (taskThread ((runDesc s d.num).newInc c i) c i d) := by
  have hrun : s.SameTables (runDesc s d.num) := ⟨rfl, rfl, rfl, rfl, rfl, rfl⟩
  have ht : s.SameTables ((runDesc s d.num).newInc c i) := hrun.trans State.sameTables_newInc
  have hone : s.startTask c i d = (runDesc s d.num).place c i (fun s => taskThread s c i d) := by
    simp only [State.startTask, runDesc, taskThread, hr]
  rw [hone]
  refine State.place_eq (s := runDesc s d.num) (fun s => taskThread s c i d) (hrun.segsRead ?_)
  have hp : (taskThread ((runDesc s d.num).newInc c i) c i d).part = s.partOf c := ht.partOf c
  have hm : (taskThread ((runDesc s d.num).newInc c i) c i d).mode = entSupv (s.centry (s.partOf c) d.ctx.toNat) := by
    show entSupv (State.centry _ (State.partOf _ c) _) = _
    rw [ht.partOf, ht.centry]
  rw [hp, hm]
  exact hsegs

/-- The thread that a spark starts as (R25). -/
def sparkThread (s : State) (c : Nat) (i : Fin 8) (ctx va : Nat) : Thread :=
  s.startThread c i (s.partOf c) (BitVec.ofNat 12 ctx) (.spark va) 4 0

theorem startSpark_eq {x va : Nat} (hx : x < 4096) (hsegs : SegsRead s (s.partOf c) x (entSupv (s.centry (s.partOf c) x))) :
    s.startSpark c i x va = (s.newInc c i).seat c i (sparkThread (s.newInc c i) c i x va) := by
  have ht : s.SameTables (s.newInc c i) := State.sameTables_newInc
  refine State.place_eq (fun s => sparkThread s c i x va) ?_
  have hc : (BitVec.ofNat 12 x).toNat = x := by simp; omega
  have hp : (sparkThread (s.newInc c i) c i x va).part = s.partOf c := ht.partOf c
  have hm : (sparkThread (s.newInc c i) c i x va).mode = entSupv (s.centry (s.partOf c) x) := by
    show entSupv (State.centry _ (State.partOf _ c) (BitVec.ofNat 12 x).toNat) = _
    rw [ht.partOf, ht.centry, hc]
  rw [hp, hm]
  exact hc.symm ▸ hsegs

/-! ### A task is stolen (R23) -/

theorem taskSteal_takes {thief victim : Nat} {d : Desc} {before after : List Nat} (ht : s.shut thief = false) (hv : s.shut victim = false)
    (hne : thief ≠ victim) (hp : s.partOf victim = s.partOf thief) (hfree : ∃ j, (s.slot thief j).occ = .free)
    (hsaved : (s.core thief).saved = []) (hnext : s.nextTask thief = none) (hm : (s.core victim).marks = [])
    (hd : (s.core victim).tasks.find? (s.startable thief) = some d) (hroom : (s.core thief).taskCount d.prio.toNat < 64)
    (ho : (s.tryOrder (s.logOf thief) (List.range 3968)).map s.physOf = before ++ victim :: after)
    (hb : ∀ c ∈ before, (s.core c).tasks = []) :
    Runs (.taskSteal thief victim) s ((s.modCore victim (fun k => k.keepTasks (fun x => x.num != d.num))).modCore thief
      (fun k => { k with tasks := k.tasks ++ [d] })) := by
  have hslot : allSlots.any (fun i => ((s.core thief).slots[i]).occ.isFree) = true := by
    obtain ⟨j, hj⟩ := hfree
    have hj' : (s.core thief).slots[j].occ = .free := hj
    exact List.any_eq_true.mpr ⟨j, by fin_cases j <;> simp [allSlots], by rw [hj']; rfl⟩
  have hblock : s.blockNext thief = false := by simp [State.blockNext, State.nextRestore, hsaved]
  have hlisted : s.cores.any (fun x => x.1 == victim) = true :=
    List.any_eq_true.mpr ⟨_, State.core_listed_of_task (List.mem_of_find?_eq_some hd), beq_self_eq_true _⟩
  have hfrom : (if s.shut victim || s.partOf victim != s.partOf thief then none else (s.core victim).tasks.find? (s.startable thief)) =
      some d := by simp [hv, hp, hd]
  have hfirst : (before ++ victim :: after).find? (fun c => (s.cores.any (fun x => x.1 == c)) &&
      (if s.shut c || s.partOf c != s.partOf thief then none else (s.core c).tasks.find? (s.startable thief)).isSome) = some victim := by
    refine List.find?_eq_some_iff_append.mpr ⟨by rw [hlisted, hfrom]; rfl, before, after, rfl, fun c hc => ?_⟩
    simp [hb c hc]
  have ho' : (s.tryOrder (s.logOf thief) (List.range Config.logCores)).map s.physOf = before ++ victim :: after := ho
  show execTaskSteal thief victim s = _
  simp only [execTaskSteal, ht, hslot, hnext, hblock, hne, ho', hfirst, hfrom, State.checkStore_eq hm]
  simp [show ¬ (64 ≤ (s.core thief).taskCount d.prio.toNat) from by omega]

theorem thread?_setRange {w : Ident} {part seq lo hi : Nat} : (s.setRange c part seq lo hi).thread? w = s.thread? w :=
  s.thread?_modCore w c _ rfl

/-- Settles O46, from `slotFill_migrant`, `slotFill_task`, `slotFill_spark`, `taskSteal_takes` and the requests and replies of steals. -/
theorem slotsTasksAndSteals : Obligations.SlotsTasksAndSteals := by
  unfold Obligations.SlotsTasksAndSteals
  refine ⟨fun s c i hshut hfree hsaved hmarks => ⟨?_, ?_, ?_⟩, ?_, ?_, ?_⟩
  · intro t src l hbuf hctx htag hsegs
    let f : Core → Core := fun k => { k with migBuf := k.migBuf.filter (fun x => x.1.id != t.id) }
    have ht : s.SameTables (s.modCore c f) := ⟨rfl, rfl, rfl, rfl, rfl, rfl⟩
    have hitag : t.tag = ((s.modCore c f).core c).itag := htag.trans (s.core_modCore_read c c Core.itag f rfl).symm
    have hrun := slotFill_migrant hshut hfree hsaved hmarks hbuf hctx
    rw [State.placeMig_eq _ c i (ht.segsRead hsegs) hitag, ht.segsFor] at hrun
    refine ⟨_, hrun, (State.threadAt_modCore _ c c i _ rfl).trans (State.threadAt_setOcc_same _ c i _), ?_, rfl⟩
    refine (State.core_modCore_read _ c c Core.migBuf _ rfl).trans ((State.core_modSlot_read _ c c i Core.migBuf _ fun _ _ => rfl).trans ?_)
    simp [State.core_modCore_same, f, hbuf]
  · intro d hbuf hnext hred hsegs
    have hrun := slotFill_task hshut hfree hsaved hmarks hbuf (taskFor_eq hnext hred)
    rw [startTask_eq hred hsegs] at hrun
    obtain ⟨x, hx⟩ := State.desc?_of_task (nextTask_mem hnext)
    refine ⟨_, _, { x with state := 2 }, hrun, State.threadAt_seat, rfl, rfl, rfl, rfl, rfl, rfl, gCell_taskThread d 0, rfl, rfl, rfl, rfl, rfl,
      fun n hn => (gCell_taskThread d n).trans (if_neg hn), fun n => by simp [taskThread, State.startThread, Thread.fresh, freshWin], ?_, rfl, rfl⟩
    refine (State.desc?_modCore rfl).trans ((State.desc?_modCore rfl).trans ((State.desc?_modCore rfl).trans ?_))
    simp [runDesc, State.desc?_modDesc, hx]
  · intro p x va l hbuf htasks hwork hsparks hx hsegs
    let f : Core → Core := fun k => { k with sparks := dropSpark (x, va) k.sparks }
    have ht : s.SameTables (s.modCore c f) := ⟨rfl, rfl, rfl, rfl, rfl, rfl⟩
    have hrun := slotFill_spark hshut hfree hsaved hbuf htasks hwork hsparks
    rw [startSpark_eq hx (by rw [ht.partOf, ht.centry]; exact ht.segsRead hsegs)] at hrun
    refine ⟨_, _, hrun, State.threadAt_seat, rfl, rfl, ?_, rfl, ?_, rfl⟩
    · simp [sparkThread, State.startThread, Thread.fresh, Thread.gCell, freshWin]
    · refine (State.core_seated Core.sparks c _ (fun _ _ => rfl) (fun _ _ => rfl)).trans ?_
      simp [State.core_modCore_same, hsparks, dropSpark]
  · intro s thief victim d before after ht hv hne hp hfree hsaved hnext hm hd hroom ho hb
    refine ⟨_, taskSteal_takes ht hv hne hp hfree hsaved hnext hm hd hroom ho hb, ?_, ?_, rfl⟩
    · rw [State.core_modCore_ne _ _ _ _ hne.symm, State.core_modCore_same]
      rfl
    · rw [State.core_modCore_same, State.core_modCore_ne _ _ _ _ hne]
  · intro s i x h c hf hm
    have hmem := List.mem_of_find?_eq_some h
    have htag : x.tag = i := by
      have hx := List.find?_some h
      simp only [Bool.and_eq_true, beq_iff_eq] at hx
      exact hx.1
    exact ⟨fun hs => ⟨_, stealRequest_scan h hf hs, rfl, mem_sayReply hmem htag _⟩,
      fun r hn hr hle => ⟨_, stealRequest_splits h hf hm hn hr hle, rangeOf?_setRange hr, mem_sayReply hmem htag _, rfl⟩,
      fun hr => ⟨_, stealRequest_none h hf hm hr, rfl, mem_sayReply hmem htag _⟩⟩
  · intro s i x h hf
    refine ⟨?_, ?_, ?_⟩
    · intro r lo hi w t hrep hr hlt hw ht
      have hset : ((s.setRange x.thief x.part x.seq lo hi).setRange x.thief x.part x.seq (lo + 1) hi).thread? w = some t :=
        thread?_setRange.trans (thread?_setRange.trans ht)
      have hdrew : (((s.setRange x.thief x.part x.seq lo hi).setRange x.thief x.part x.seq (lo + 1) hi).handOut w lo).thread? w =
          some { t with drew := lo :: t.drew } := State.thread?_modWho_some hset
      refine ⟨_, _, stealReply_range h hf hrep hr hlt hw, ?_, thread?_answerNext (i := i) hdrew _ _, rfl, rfl, answerNext_wakes _ _ _,
        tag_ne_of_mem_endSteal⟩
      exact rangeOf?_modWho.trans (rangeOf?_modWho.trans (rangeOf?_setRange (r := { r with lo := lo, hi := hi }) (rangeOf?_setRange hr)))
    · intro v l hrep hl
      have hx : x.tag = i := by simpa using List.find?_some h
      exact ⟨_, stealReply_next h hf hrep hl, rfl, List.mem_map.mpr ⟨x, List.mem_of_find?_eq_some h, by rw [if_pos hx]⟩⟩
    · intro w t hrep hl hw ht
      exact ⟨_, _, _, stealReply_exhausted h hf hrep hl hw, thread?_answerNext (i := i) ht _ _, rfl, answerNext_wakes _ _ _, tag_ne_of_mem_endSteal⟩

end Sys2Proof.Safety
end

section
/-! PROOFS. Wakes, deposits, messages and migrating threads arrive at a core (O45). -/

set_option Elab.async false

namespace Sys2Proof.Safety

open Sys2Proof.Machine Sys2Proof.Claims

variable {s : State} {i c : Nat} {j : Fin 8}

/-! ### Wakes (R29) -/

/-- A thread waits for what this wake brings. -/
def awaits (t : Thread) : Wait ⊕ Nat → Bool
  | .inl x => t.status.waits x
  | .inr g => match t.status with | .dropped h _ => g == h | _ => false

/-- A wake that was on its way has arrived. -/
def tookWake (s : State) (i : Nat) : State := { s with wakes := s.wakes.filter (fun x => x.tag != i) }

section
variable {w : Wake} {t : Thread} (hw : s.wakes.find? (fun x => x.tag == i) = some w) (hp : s.placeOf? w.who = some (c, j))
variable (hf : s.fenced c = false)
include hw hp hf

omit hf in
theorem wake_held (hn : s.wakeNext w c = false) : Runs (.wakeMessage i) s s := by
  show execWakeMessage i s = _
  simp [execWakeMessage, hw, hp, hn]

variable (ht : s.threadAt c j = some t) (hn : s.wakeNext w c = true)
include ht hn

theorem wake_arrives : Runs (.wakeMessage i) s
    (if awaits t w.wait then ((tookWake s i).wakeAt c j).modAt c j (Thread.woken w.wait) else tookWake s i) := by
  show execWakeMessage i s = _
  simp only [execWakeMessage, hw, hp, hf, hn, ht, awaits]
  cases w.wait <;> rfl

end

theorem Wait.same_self (x : Wait) : x.same x = true := by
  cases x <;> simp [Wait.same]

/-- A thread that is woken is READY, with what its reissue takes of the wake. -/
theorem threadAt_woken {t : Thread} (ht : s.threadAt c j = some t) (w : Wait ⊕ Nat) :
    ((s.wakeAt c j).modAt c j (Thread.woken w)).threadAt c j = some ({ t with status := .ready }.woken w) := by
  rw [State.threadAt_modAt_same]
  have hwake : (s.wakeAt c j).threadAt c j = some { t with status := .ready } := by
    simp only [State.wakeAt, ht]
    exact (State.threadAt_modAt_same s c j _).trans (by rw [ht]; rfl)
  rw [hwake]
  rfl

theorem wakeAt_rest (f : Thread → Thread) :
    ((s.wakeAt c j).modAt c j f).wakes = s.wakes ∧ ((s.wakeAt c j).modAt c j f).mem = s.mem := by
  unfold State.wakeAt
  split <;> exact ⟨rfl, rfl⟩

/-! ### Deposits (R36, R37) -/

/-- A deposit that was on its way has arrived. -/
def tookDep (s : State) (i : Nat) : State := { s with deps := s.deps.filter (fun x => x.tag != i) }

/-- The buffer of a core takes a deposit for a thread in a slot of it. -/
def bufferDep (s : State) (c : Nat) (d : Deposit) (w : Ident) (j : Fin 8) : State :=
  s.modCore c (fun k => { k with depBuf := k.depBuf ++ [{ d with who := some w, slot := j }] })

theorem depBuf_bufferDep {d : Deposit} {w : Ident} :
    ((bufferDep s c d w j).core c).depBuf = (s.core c).depBuf ++ [{ d with who := some w, slot := j }] := by
  simp only [bufferDep, State.core_modCore_same]

section
variable {d : Deposit} (hd : s.deps.find? (fun x => x.tag == i) = some d) (hn : d.who = none)
include hd hn

theorem depositArrival_held (hc : d.src.all (fun x => s.chanFirst x.1 d.lcore d.tag) = false) : Runs (.depositArrival i) s s := by
  show execDepositArrival i s = _
  simp [execDepositArrival, hd, hn, hc]

variable (hc : d.src.all (fun x => s.chanFirst x.1 d.lcore d.tag) = true)
include hc

section
variable {w : Ident} (hat : s.depAt d = .here c j w)
include hat

theorem depositArrival_buffers (hf : s.fenced c = false) (hroom : (s.core c).depBuf.length < 4) :
    Runs (.depositArrival i) s (bufferDep (tookDep s i) c d w j) := by
  show execDepositArrival i s = _
  simp only [execDepositArrival, hd, hn, hc, hat, hf, show ¬ 4 ≤ (s.core c).depBuf.length from by omega]
  rfl

theorem depositArrival_full (hfull : 4 ≤ (s.core c).depBuf.length) : Runs (.depositArrival i) s s := by
  show execDepositArrival i s = _
  simp [execDepositArrival, hd, hn, hc, hat, hfull]

end

theorem depositArrival_discards (hat : s.depAt d = .discard) (hf : s.fenced (s.physOf d.lcore) = false) :
    Runs (.depositArrival i) s ((tookDep s i).dropDeposit d (s.physOf d.lcore)) := by
  show execDepositArrival i s = _
  simp only [execDepositArrival, hd, hn, hc, hat, hf]
  rfl

end

section
variable {d : Deposit} {t : Thread}

theorem depAt_thread (hn : d.who = none) (ho : (s.slot (s.physOf d.lcore) d.slot).occ = .thread t) (hp : t.part = d.part)
    (hx : t.id.ctx.toNat = d.ctx) : s.depAt d = .here (s.physOf d.lcore) d.slot t.id := by
  simp [State.depAt, hn, ho, hp, hx]

/-- A deposit for a thread that is away goes to where the thread is (R28). -/
theorem depAt_away {w : Ident} {prio : Nat} {st : Bool} (hn : d.who = none)
    (ho : (s.slot (s.physOf d.lcore) d.slot).occ = .away w prio d.part st) (hx : w.ctx.toNat = d.ctx) (hw : s.placeOf? w = some (c, j)) :
    s.depAt d = .here c j w := by
  simp [State.depAt, hn, ho, hx, hw]

theorem depAt_free (hn : d.who = none) (ho : (s.slot (s.physOf d.lcore) d.slot).occ = .free)
    (hl : (s.slot (s.physOf d.lcore) d.slot).left = none) : s.depAt d = .discard := by
  simp [State.depAt, hn, ho, hl]

theorem depAt_who {w : Ident} (hn : d.who = some w) (hw : s.placeOf? w = some (c, j)) : s.depAt d = .here c j w := by
  simp [State.depAt, hn, hw]

/-- The end of a deposit changes no core but in the operation that sent it. -/
theorem core_endDeposit_read {α : Sort _} (g : Core → α) (k : Nat) (hg : ∀ (x : Core) e, g { x with copy := e } = g x) :
    g ((s.endDeposit d).core k) = g (s.core k) := by
  unfold State.endDeposit
  cases d.src with
  | none => rfl
  | some p => exact s.core_modCore_read p.1 k g _ (hg _ _)

theorem landed_endDeposit {k tag : Nat} (hs : d.src = some (k, tag)) :
    ∀ o ∈ ((s.endDeposit d).core k).copy.queue, o.tag = tag → o.landed = true := by
  simp only [State.endDeposit, hs, State.core_modCore_same, List.mem_map]
  rintro o ⟨x, -, rfl⟩ ho
  by_cases hx : x.tag = tag
  · rw [if_pos hx]
  · rw [if_neg hx] at ho
    exact absurd ho hx

theorem endDeposit_rest : (s.endDeposit d).deps = s.deps ∧ (s.endDeposit d).mem = s.mem := by
  unfold State.endDeposit
  cases d.src <;> exact ⟨rfl, rfl⟩

/-- A deposit lands in its register. -/
def landDep (s : State) (c i : Nat) (j : Fin 8) (d : Deposit) : State :=
  (((s.modCore c (fun k => { k with depBuf := k.depBuf.filter (fun x => x.tag != i) })).modAt c j
    (fun t => t.setCell (regOfCode d.code) (.of d.val))).modSlot c j (fun sl => { sl with shutAt := some s.time.toNat })).endDeposit d

section
variable (hd : (s.core c).depBuf.find? (fun x => x.tag == i) = some d) (hw : d.who = some t.id) (hp : s.placeOf? t.id = some (c, j))
variable (ht : s.threadAt c j = some t) (hf : s.fenced c = false) (hfirst : firstFor d (s.core c).depBuf = true)
variable (hm : (s.core c).marks = [])
include hd hw hp ht hf hfirst hm

theorem depositLand_tried : Runs (.depositLand c i) s
    (if (t.cell (regOfCode d.code)).full || (t.cell (regOfCode d.code)).pend.isSome || t.emptied == some (d.code, s.time.toNat) then s
     else landDep s c i j d) := by
  show execDepositLand c i s = _
  simp [execDepositLand, State.landDeposit, hd, hf, hfirst, State.checkStore_eq hm, depAt_who hw hp, ht, landDep]

end

theorem threadAt_landDep (ht : s.threadAt c j = some t) :
    (landDep s c i j d).threadAt c j = some (t.setCell (regOfCode d.code) (.of d.val)) := by
  refine (congrArg Occ.thread? (core_endDeposit_read (fun k => k.slots[j].occ) c fun _ _ => rfl)).trans ?_
  have hat : (((s.modCore c (fun k => { k with depBuf := k.depBuf.filter (fun x => x.tag != i) })).modAt c j
      (fun t => t.setCell (regOfCode d.code) (.of d.val))).slot c j).occ.thread? = some (t.setCell (regOfCode d.code) (.of d.val)) := by
    refine (State.threadAt_modAt_same _ c j _).trans ?_
    rw [State.threadAt_modCore _ _ _ _ _ rfl, ht]
    rfl
  exact (congrArg (fun sl : Slot => sl.occ.thread?) (State.slot_modSlot_same _ c j _)).trans hat

theorem depBuf_landDep : ((landDep s c i j d).core c).depBuf = (s.core c).depBuf.filter (fun x => x.tag != i) := by
  refine (core_endDeposit_read Core.depBuf c fun _ _ => rfl).trans ((State.core_modSlot_read _ c c j Core.depBuf _ fun _ _ => rfl).trans
    ((State.core_modSlot_read _ c c j Core.depBuf _ fun _ _ => rfl).trans ?_))
  rw [State.core_modCore_same]

end

/-! ### Messages (R255) -/

section
variable {m : SendMsg} (hs : s.sends.find? (fun x => x.tag == i) = some m) (hf : s.fenced (s.physOf m.lcore) = false)
variable (hpair : s.pairHeld m.src m.tag = false)
include hs hf hpair

omit hf hpair in
theorem messageArrival_held (ht : m.there = false) (hc : s.chanFirst m.src m.lcore m.tag = false) : Runs (.messageArrival i) s s := by
  show execMessageArrival i s = _
  simp [execMessageArrival, hs, ht, hc]

variable (hc : m.there = true ∨ s.chanFirst m.src m.lcore m.tag = true)
include hc

theorem messageArrival_discarded (ho : (s.slot (s.physOf m.lcore) m.slot).occ = .free) :
    Runs (.messageArrival i) s ((s.noteCtx (s.physOf m.lcore) m.slot 0x18 (2 ^ 36) m.who.ctx).endSend m 0) := by
  have hc' : (m.there || s.chanFirst m.src m.lcore m.tag) = true := by simpa using hc
  show execMessageArrival i s = _
  simp only [execMessageArrival, hs, hf, hpair, hc', ho]
  rfl

section
variable {t : Thread} (ho : (s.slot (s.physOf m.lcore) m.slot).occ = .thread t) (hp : t.part = m.part) (hx : t.id.ctx = m.who.ctx)
include ho hp hx

theorem messageArrival_accepted (hroom : (s.slot (s.physOf m.lcore) m.slot).rq.length < 16) :
    Runs (.messageArrival i) s
      ((s.modSlot (s.physOf m.lcore) m.slot (fun sl => { sl with rq := sl.rq ++ [m.val] })).endSend m 1) := by
  have hc' : (m.there || s.chanFirst m.src m.lcore m.tag) = true := by simpa using hc
  show execMessageArrival i s = _
  simp [execMessageArrival, hs, hf, hpair, hc', ho, hp, hx, hroom]

theorem messageArrival_waits {u : Thread} (hu : s.thread? m.who = some u) (hspare : u.spare = false)
    (hfull : 16 ≤ (s.slot (s.physOf m.lcore) m.slot).rq.length) :
    Runs (.messageArrival i) s
      { s with sends := s.sends.map (fun x => if x.tag = m.tag then { x with there := true } else x) } := by
  have hc' : (m.there || s.chanFirst m.src m.lcore m.tag) = true := by simpa using hc
  show execMessageArrival i s = _
  simp [execMessageArrival, hs, hf, hpair, hc', ho, hp, hx, Nat.not_lt.mpr hfull, hu, hspare]

end

end

theorem thread?_endSend {m : SendMsg} {u : Thread} (hu : s.thread? m.who = some u) (v : Word) :
    (s.endSend m v).thread? m.who = some { u with carried := some (3, v) } :=
  State.thread?_modWho_some hu

theorem rq_endSend {m : SendMsg} (v : Word) : ((s.endSend m v).slot c j).rq = (s.slot c j).rq := by
  have h : (s.endSend m v).slot c j = _ := State.slot_modWho s m.who (fun t => { t with carried := some (3, v) }) c j
  rw [h]

/-! ### Migrating threads (R26, R28) -/

/-- A migrating thread is on its way no more. -/
def tookMig (s : State) (i : Nat) : State := { s with migs := s.migs.filter (fun x => x.tag != i) }

section
variable {m : Mig} (hm : s.migs.find? (fun x => x.tag == i) = some m) (hshut : s.shut (s.physOf m.dest) = false)
variable (hdrop : s.migDropped m = false)
include hm hshut hdrop

omit hshut hdrop in
theorem migrationArrival_held (hc : s.chanFirst m.src m.dest m.tag = false) : Runs (.migrationArrival i) s s := by
  show execMigrationArrival i s = _
  simp [execMigrationArrival, hm, hc]

variable (hc : s.chanFirst m.src m.dest m.tag = true)
include hc

theorem migrationArrival_home {prio part : Nat} {st : Bool}
    (ho : (s.slot (s.physOf m.dest) m.t.id.hslot).occ = .away m.t.id prio part st) (hh : s.physOf m.dest = s.homeOf m.t) :
    Runs (.migrationArrival i) s ((tookMig s i).placeMig (s.physOf m.dest) m.t.id.hslot m.t (s.logOf m.src)) := by
  show execMigrationArrival i s = _
  simp [execMigrationArrival, hm, hshut, hdrop, hc, ho, ← hh, tookMig]

variable (hh : s.physOf m.dest ≠ s.homeOf m.t)
include hh

/-- Away from its home core a thread goes to the inbound buffer, while that has room. -/
theorem migrationArrival_away : Runs (.migrationArrival i) s
    (if 4 ≤ (s.core (s.physOf m.dest)).migBuf.length then s
     else (tookMig s i).modCore (s.physOf m.dest) (fun k => { k with migBuf := k.migBuf ++ [(m.t, s.logOf m.src)] })) := by
  show execMigrationArrival i s = _
  cases ho : (s.slot (s.physOf m.dest) m.t.id.hslot).occ <;>
    simp [execMigrationArrival, hm, hshut, hdrop, hc, ho, hh, tookMig]

end

/-- Settles O45, arrival by arrival. -/
theorem arrivalsAtACore : Obligations.ArrivalsAtACore := by
  unfold Obligations.ArrivalsAtACore
  refine ⟨?_, ?_, ?_, ?_, ?_⟩
  · intro s i w c j t hw hp ht hf
    refine ⟨wake_held hw hp, fun hn => ⟨_, wake_arrives hw hp hf ht hn, ?_, ?_, ?_, ?_, ?_⟩⟩
    · split
      · exact (wakeAt_rest _).1
      · rfl
    · split
      · exact (wakeAt_rest _).2
      · rfl
    · rintro (⟨x, hx, hst, hk⟩ | ⟨g, r, hx, hst⟩)
      · have ha : awaits t w.wait = true := by simp [awaits, hx, hst, Status.waits, Wait.same_self]
        rw [if_pos ha, threadAt_woken (s := tookWake s i) ht, hx]
        cases x with
        | attend k => exact absurd rfl (hk k)
        | _ => rfl
      · have ha : awaits t w.wait = true := by simp [awaits, hx, hst]
        rw [if_pos ha, threadAt_woken (s := tookWake s i) ht, hx]
        rfl
    · intro k hx hst
      have ha : awaits t w.wait = true := by simp [awaits, hx, hst, Status.waits, Wait.same_self]
      rw [if_pos ha, threadAt_woken (s := tookWake s i) ht, hx]
      rfl
    · intro h1 h2
      have ha : awaits t w.wait = false := by
        cases hx : w.wait with
        | inl x => exact h1 x hx
        | inr g =>
          cases hst : t.status with
          | dropped h r => simpa [awaits, hst] using fun e : g = h => h2 g r hx (e ▸ hst)
          | _ => simp [awaits, hst]
      rw [ha]
      rfl
  · intro s i d hd hn c hf
    refine ⟨depositArrival_held hd hn, fun hc => ⟨?_, ?_, ?_, ?_⟩⟩
    · intro t ho hp hx hroom
      refine ⟨_, depositArrival_buffers hd hn hc (depAt_thread hn ho hp hx) hf hroom, rfl, rfl, depBuf_bufferDep⟩
    · exact fun t ho hp hx hfull => depositArrival_full hd hn hc (depAt_thread hn ho hp hx) hfull
    · intro w prio st k j ho hx hw hfk hroom
      refine ⟨_, depositArrival_buffers hd hn hc (depAt_away hn ho hx hw) hfk hroom, rfl, rfl, depBuf_bufferDep⟩
    · intro ho hl
      exact ⟨_, depositArrival_discards hd hn hc (depAt_free hn ho hl) hf, endDeposit_rest.1, endDeposit_rest.2,
        core_endDeposit_read Core.depBuf c fun _ _ => rfl, fun k tag hs => landed_endDeposit hs⟩
  · intro s c i j d t hd hw hp ht hf hfirst hm r
    have hrun := depositLand_tried hd hw hp ht hf hfirst hm
    refine ⟨fun hfull hpend hem => ?_, fun h => ?_⟩
    · have hgo : ((t.cell r).full || (t.cell r).pend.isSome || t.emptied == some (d.code, s.time.toNat)) = false := by
        simp [hfull, hpend, hem]
      rw [if_neg (by rw [hgo]; exact Bool.false_ne_true)] at hrun
      refine ⟨_, _, hrun, threadAt_landDep ht, ?_, fun q hq => ?_, ?_, depBuf_landDep, endDeposit_rest.2⟩
      · rw [Thread.cell_setCell, if_pos rfl]
      · rw [Thread.cell_setCell, if_neg (by simpa using hq)]
      · exact t.pc_setCell r _
    · have hstay : ((t.cell r).full || (t.cell r).pend.isSome || t.emptied == some (d.code, s.time.toNat)) = true := by
        simpa [Option.isSome_iff_ne_none, or_assoc] using h
      rwa [if_pos hstay] at hrun
  · intro s i m u hs c sl hf hu hpair
    have htag : m.tag = i := by simpa using List.find?_some hs
    refine ⟨messageArrival_held hs, fun hc => ⟨?_, ?_, ?_⟩⟩
    · intro t ho hp hx hroom
      have hu' : (s.modSlot c m.slot (fun sl => { sl with rq := sl.rq ++ [m.val] })).thread? m.who = some u :=
        (s.thread?_modSlot m.who c m.slot _ rfl).trans hu
      exact ⟨_, _, messageArrival_accepted hs hf hpair hc ho hp hx hroom,
        (rq_endSend 1).trans (congrArg Slot.rq (State.slot_modSlot_same s c m.slot _)), thread?_endSend hu' 1, rfl, rfl, rfl⟩
    · intro t ho hp hx hfull hspare
      exact ⟨_, messageArrival_waits hs hf hpair hc ho hp hx hu hspare hfull,
        List.mem_map.mpr ⟨m, List.mem_of_find?_eq_some hs, if_pos rfl⟩, rfl, rfl⟩
    · intro ho
      exact ⟨_, _, messageArrival_discarded hs hf hpair hc ho, rq_endSend 0, thread?_endSend (s := s.noteCtx ..) hu 0, rfl, rfl, rfl⟩
  · intro s i m hm c h hshut hdrop
    refine ⟨migrationArrival_held hm, fun hc => ⟨?_, ?_, ?_⟩⟩
    · intro prio part st ho hh htag hsegs
      have ht : s.SameTables (tookMig s i) := ⟨rfl, rfl, rfl, rfl, rfl, rfl⟩
      have hrun := migrationArrival_home hm hshut hdrop hc ho hh
      rw [State.placeMig_eq _ _ _ (ht.segsRead hsegs) htag, ht.segsFor] at hrun
      exact ⟨_, hrun, rfl, (State.threadAt_modCore _ c c h _ rfl).trans (State.threadAt_setOcc_same _ c h _), rfl⟩
    · intro hh hroom
      have hrun := migrationArrival_away hm hshut hdrop hc hh
      rw [if_neg (Nat.not_le.mpr hroom)] at hrun
      exact ⟨_, hrun, rfl, by rw [State.core_modCore_same]; rfl, rfl⟩
    · intro hh hfull
      have hrun := migrationArrival_away hm hshut hdrop hc hh
      rwa [if_pos hfull] at hrun

end Sys2Proof.Safety
end

section
/-! PROOFS. A launch dispatches (O48, its first part). -/

set_option Elab.async false

namespace Sys2Proof.Safety

open Sys2Proof.Machine Sys2Proof.Claims

variable {s u : State} {l : Launch} {c j k : Nat}

/-! ### Lists that a machine goes through in order -/

/-- What a fold keeps at each step it keeps altogether. -/
theorem foldl_rel {α σ : Type} {R : σ → σ → Prop} {f : σ → α → σ} (hr : ∀ s, R s s) (ht : ∀ {a b c}, R a b → R b c → R a c)
    (hf : ∀ s x, R s (f s x)) (xs : List α) (s : σ) : R s (xs.foldl f s) := by
  induction xs generalizing s with
  | nil => exact hr s
  | cons x xs ih => exact ht (hf s x) (ih _)

/-- The j-th core of a rectangle, with its place, stands between those before and those behind it. -/
theorem zip_range_split {cs : List Nat} (h : j < cs.length) :
    ∃ as bs, (List.range cs.length).zip cs = as ++ (j, cs[j]) :: bs := by
  have hlen : j < ((List.range cs.length).zip cs).length := by simpa using h
  refine ⟨((List.range cs.length).zip cs).take j, ((List.range cs.length).zip cs).drop (j + 1), ?_⟩
  have hj : ((List.range cs.length).zip cs)[j] = (j, cs[j]) := by simp
  rw [← hj, List.cons_getElem_drop_succ, List.take_append_drop]

/-! ### Launches by number -/

theorem launch?_modLaunch {part seq : Nat} {f : Launch → Launch} {m : Launch} (h : s.launch? part seq = some m)
    (hp : m.part = l.part) (hs : m.seq = l.seq) (hf : ∀ x, (f x).part = x.part ∧ (f x).seq = x.seq) :
    (s.modLaunch l f).launch? part seq = some (f m) := by
  simp only [State.launch?, State.modLaunch] at h ⊢
  have hq : (fun x : Launch => x.part == part && x.seq.toNat == seq) ∘ (fun x => if x.part == l.part && x.seq == l.seq then f x else x) =
      fun x => x.part == part && x.seq.toNat == seq := by
    funext x
    simp only [Function.comp]
    split
    · rw [(hf x).1, (hf x).2]
    · rfl
  rw [List.find?_map, hq, h]
  simp [hp, hs]

theorem launch?_modPart {part seq p : Nat} {f : Part → Part} : (s.modPart p f).launch? part seq = s.launch? part seq := rfl

section
variable {f : Launch → Launch} {g : Part → Part} {p : Nat}

theorem core_modLaunch (d : Nat) : (s.modLaunch l f).core d = s.core d := rfl
theorem mem_modLaunch : (s.modLaunch l f).mem = s.mem := rfl
theorem core_modPart (d : Nat) : (s.modPart p g).core d = s.core d := rfl
theorem mem_modPart : (s.modPart p g).mem = s.mem := rfl

end

/-! ### What a dispatch that begins keeps (R20, R295) -/

/-- Slots that are free stay free or become reserved for the launch, slots reserved for it and range units stay, and of the launch only the
core blocks that it waits for change. -/
structure Begins (l : Launch) (s u : State) : Prop where
  mem : u.mem = s.mem
  launch : ∀ part seq k, s.launch? part seq = some k → ∃ b, u.launch? part seq = some { k with blocks := b }
  ranges : ∀ c r, r ∈ (s.core c).ranges → r ∈ (u.core c).ranges
  free : ∀ c i, (s.slot c i).occ = .free → (u.slot c i).occ = .free ∨ (u.slot c i).occ = .launch l.part l.seq.toNat
  held : ∀ c i, (s.slot c i).occ = .launch l.part l.seq.toNat → (u.slot c i).occ = .launch l.part l.seq.toNat

namespace Begins

theorem refl (s : State) : Begins l s s := ⟨rfl, fun _ _ k h => ⟨k.blocks, h⟩, fun _ _ h => h, fun _ _ h => .inl h, fun _ _ h => h⟩

theorem trans {v : State} (h : Begins l s u) (g : Begins l u v) : Begins l s v where
  mem := g.mem.trans h.mem
  launch := fun part seq k hk => by
    obtain ⟨b, hb⟩ := h.launch part seq k hk
    exact g.launch part seq { k with blocks := b } hb
  ranges := fun c r hr => g.ranges c r (h.ranges c r hr)
  free := fun c i hi => (h.free c i hi).elim (g.free c i) fun hl => .inr (g.held c i hl)
  held := fun c i hi => g.held c i (h.held c i hi)

/-- An update of a core that keeps its slots and its range units. -/
theorem modCore (f : Core → Core) (hs : (f (s.core c)).slots = (s.core c).slots)
    (hr : ∀ r ∈ (s.core c).ranges, r ∈ (f (s.core c)).ranges) : Begins l s (s.modCore c f) where
  mem := rfl
  launch := fun _ _ k h => ⟨k.blocks, h⟩
  ranges := fun d r h => by
    rw [State.core_modCore]
    split
    · next e => exact hr r (e ▸ h)
    · exact h
  free := fun d i h => .inl (by rw [State.slot_modCore _ _ _ _ _ hs, h])
  held := fun d i h => by rw [State.slot_modCore _ _ _ _ _ hs, h]

theorem modWho (w : Ident) (f : Thread → Thread) : Begins l s (s.modWho w f) where
  mem := rfl
  launch := fun _ _ k h => ⟨k.blocks, h⟩
  ranges := fun d r h => by rwa [State.core_modWho]
  free := fun d i h => .inl (by rw [State.slot_modWho, h]; rfl)
  held := fun d i h => by rw [State.slot_modWho, h]; rfl

theorem note (src : Source) (ty payload : Nat) : Begins l s (s.note src ty payload) :=
  ⟨rfl, fun _ _ k h => ⟨k.blocks, h⟩, fun _ _ h => h, fun _ _ h => .inl h, fun _ _ h => h⟩

end Begins

/-- A slot after the reservations of a launch on a core (R295). -/
theorem occ_reserveSlots (all : Bool) (d : Nat) (i : Fin 8) : ((s.reserveSlots l c all).slot d i).occ =
    if d = c ∧ (all || l.r.needs i) = true ∧ (s.slot d i).occ = .free then .launch l.part l.seq.toNat else (s.slot d i).occ := by
  by_cases hd : d = c
  · subst hd
    simp only [State.reserveSlots, State.slot, State.core_modCore_same, Fin.getElem_fin, Vector.getElem_ofFn, true_and]
    cases ho : ((s.core d).slots[i.val]).occ with
    | free => by_cases hn : (all || l.r.needs i) = true <;> simp [Occ.isFree, hn, ho]
    | _ => simp [Occ.isFree, ho]
  · simp only [State.reserveSlots, State.slot, State.core_modCore_ne _ _ _ _ hd, hd, false_and, if_false]

theorem Begins.reserveSlots (all : Bool) : Begins l s (s.reserveSlots l c all) where
  mem := rfl
  launch := fun _ _ k h => ⟨k.blocks, h⟩
  ranges := fun d r h => by
    rw [show ((s.reserveSlots l c all).core d).ranges = (s.core d).ranges from s.core_modCore_read c d Core.ranges _ rfl]
    exact h
  free := fun d i h => by
    rw [occ_reserveSlots]
    split
    · exact .inr rfl
    · exact .inl h
  held := fun d i h => by rw [occ_reserveSlots, h]; simp

/-- The core block that a dispatch waits for is noted with it (R302). -/
theorem Begins.addBlock (x : Nat × Nat) : Begins l s (s.modLaunch l (fun y => { y with blocks := y.blocks ++ [x] })) where
  mem := rfl
  launch := fun part seq k h => by
    refine ⟨if k.part == l.part && k.seq == l.seq then k.blocks ++ [x] else k.blocks, ?_⟩
    simp only [State.launch?, State.modLaunch] at h ⊢
    have hp : (fun y : Launch => y.part == part && y.seq.toNat == seq) ∘
        (fun y => if y.part == l.part && y.seq == l.seq then { y with blocks := y.blocks ++ [x] } else y) =
        fun y => y.part == part && y.seq.toNat == seq := by
      funext y
      simp only [Function.comp]
      split <;> rfl
    rw [List.find?_map, hp, h]
    simp only [Option.map_some, Option.some.injEq]
    split <;> rfl
  ranges := fun _ _ h => h
  free := fun _ _ h => .inl h
  held := fun _ _ h => h

/-! ### A dispatch begins on a core -/

/-- The range unit that the j-th of k cores holds (R20). -/
def rangeUnit (l : Launch) (j k : Nat) : RangeUnit :=
  ⟨l.part, l.seq.toNat, l.r.first.toNat + l.r.count.toNat * j / k, l.r.first.toNat + l.r.count.toNat * (j + 1) / k,
    (l.r.lix0.toNat, l.r.lix1.toNat, l.r.die0.toNat, l.r.die1.toNat)⟩

/-- A dispatch begins on a core up to its reservations: the range unit is there, and what stands on the core is asked to leave. -/
def beginUnit (s : State) (l : Launch) (c j k : Nat) : State :=
  ((s.victimsOn l c).getD []).foldl (fun s v => s.modWho v (Thread.ask .preempt))
    (s.modCore c (fun x => { x with ranges := x.ranges ++ [rangeUnit l j k] }))

theorem begins_unit : Begins l s (beginUnit s l c j k) :=
  (Begins.modCore _ rfl fun _ h => List.mem_append_left _ h).trans
    (foldl_rel (R := Begins l) Begins.refl Begins.trans (fun _ _ => Begins.modWho _ _) _ _)

theorem rangeUnit_mem_beginUnit : rangeUnit l j k ∈ ((beginUnit s l c j k).core c).ranges := by
  refine (foldl_rel (R := Begins l) Begins.refl Begins.trans (fun _ _ => Begins.modWho _ _) _ _).ranges c _ ?_
  rw [State.core_modCore_same]
  exact List.mem_append_right _ (List.mem_singleton_self _)

/-- A dispatch begins on a core with its unit, its reservations, and what a core block asks for (R20, R295, R302). -/
theorem beginCore_eq : ∃ v, Begins l (beginUnit s l c j k) v ∧ Begins l (v.reserveSlots l c (s.whole l c)) (s.beginCore l c j k) := by
  cases hv : ((s.victimsOn l c).getD []).isEmpty with
  | true =>
    refine ⟨beginUnit s l c j k, .refl _, ?_⟩
    simp only [State.beginCore, hv, Bool.not_true, Bool.and_false, Bool.false_eq_true, if_false, if_true]
    exact .refl _
  | false =>
    refine ⟨_, Begins.note (.core c) 0x15 (l.seq.toNat % 2 ^ 28 * 2 ^ 12 + l.r.ctx.toNat), ?_⟩
    simp only [State.beginCore, hv, Bool.not_false, Bool.and_true, Bool.false_eq_true, if_false]
    split
    · exact (Begins.modCore _ rfl fun _ h => h).trans (Begins.addBlock _)
    · exact .refl _

theorem beginCore_begins : Begins l s (s.beginCore l c j k) := by
  obtain ⟨v, hv, hb⟩ := beginCore_eq (s := s) (l := l) (c := c) (j := j) (k := k)
  exact begins_unit.trans (hv.trans ((Begins.reserveSlots _).trans hb))

theorem rangeUnit_mem_beginCore : rangeUnit l j k ∈ ((s.beginCore l c j k).core c).ranges := by
  obtain ⟨v, hv, hb⟩ := beginCore_eq (s := s) (l := l) (c := c) (j := j) (k := k)
  exact hb.ranges c _ ((Begins.reserveSlots _).ranges c _ (hv.ranges c _ rangeUnit_mem_beginUnit))

/-- A slot that the launch needs, free or already reserved for it, is reserved (R295). -/
theorem occ_beginCore {i : Fin 8} (hn : l.r.needs i = true)
    (h : (s.slot c i).occ = .free ∨ (s.slot c i).occ = .launch l.part l.seq.toNat) :
    ((s.beginCore l c j k).slot c i).occ = .launch l.part l.seq.toNat := by
  obtain ⟨v, hv, hb⟩ := beginCore_eq (s := s) (l := l) (c := c) (j := j) (k := k)
  refine hb.held c i ?_
  have hsv := begins_unit.trans hv
  rw [occ_reserveSlots]
  have h' : (v.slot c i).occ = .free ∨ (v.slot c i).occ = .launch l.part l.seq.toNat :=
    h.elim (hsv.free c i) fun e => .inr (hsv.held c i e)
  obtain e | e := h'
  · simp [hn, e]
  · simp [e]

/-! ### A dispatch begins -/

/-- A dispatch has begun on every core of a list. -/
def beginCores (s : State) (l : Launch) (k : Nat) (xs : List (Nat × Nat)) : State :=
  xs.foldl (fun s x => s.beginCore l x.2 x.1 k) s

theorem beginCores_begins (xs : List (Nat × Nat)) : Begins l s (beginCores s l k xs) :=
  foldl_rel Begins.refl Begins.trans (fun _ _ => beginCore_begins) xs s

theorem beginCores_split (as bs : List (Nat × Nat)) (j c : Nat) : ∃ v, Begins l s v ∧
    Begins l (v.beginCore l c j k) (beginCores s l k (as ++ (j, c) :: bs)) :=
  ⟨beginCores s l k as, beginCores_begins as, by
    simp only [beginCores, List.foldl_append, List.foldl_cons]
    exact beginCores_begins bs⟩

theorem rangeUnit_mem_beginCores {cs : List Nat} (h : j < cs.length) :
    rangeUnit l j k ∈ ((beginCores s l k ((List.range cs.length).zip cs)).core cs[j]).ranges := by
  obtain ⟨as, bs, e⟩ := zip_range_split h
  obtain ⟨v, -, hb⟩ := beginCores_split (s := s) (l := l) (k := k) as bs j cs[j]
  rw [e]
  exact hb.ranges _ _ rangeUnit_mem_beginCore

theorem occ_beginCores {cs : List Nat} (hc : c ∈ cs) {i : Fin 8} (hn : l.r.needs i = true) (ho : (s.slot c i).occ = .free) :
    ((beginCores s l k ((List.range cs.length).zip cs)).slot c i).occ = .launch l.part l.seq.toNat := by
  obtain ⟨j, h, rfl⟩ := List.getElem_of_mem hc
  obtain ⟨as, bs, e⟩ := zip_range_split h
  obtain ⟨v, hv, hb⟩ := beginCores_split (s := s) (l := l) (k := k) as bs j cs[j]
  rw [e]
  exact hb.held _ _ (occ_beginCore hn (hv.free _ _ ho))

section
variable {part seq : Nat} (h : s.launch? part seq = some l) (hr : l.running = false) (hd : l.dispatched = false)
include h hr hd

theorem launchDispatch_waits (ht : s.mayTake l = false) : Runs (.launchDispatch part seq) s s := by
  show execLaunchDispatch part seq s = _
  simp [execLaunchDispatch, h, hr, hd, ht]

theorem launchDispatch_begins (ht : s.mayTake l = true) (hp : l.r.prio ≠ 0) (he : l.err = 0) (hc : s.canDispatch l = true) :
    Runs (.launchDispatch part seq) s (s.beginDispatch l) := by
  have hecc : (eccClass (0 : BitVec 8) == .bad) = false := rfl
  have hscan : s.abortScans l = s := if_pos (bne_iff_ne.mpr hp)
  show execLaunchDispatch part seq s = _
  simp only [execLaunchDispatch, h, hr, hd, ht, he, hecc, hscan, hc, Bool.not_false, Bool.not_true, Bool.false_eq_true, if_false, if_true]

end

/-- A partition notes whose turn it was (R294). -/
def noteTurn (l : Launch) (p : Part) : Part :=
  let key := (l.r.die0.toNat, l.r.prio.toNat)
  { p with rr := (key, l.r.ctx.toNat) :: p.rr.filter (fun x => x.1 != key) }

/-- The launch has been dispatched, and these cores need its image (R296). -/
def dispatchedWith (load : List Nat) (l : Launch) : Launch := { l with dispatched := true, load := load }

theorem dispatchedWith_load (load : List Nat) (x : Launch) : (dispatchedWith load x).load = load := rfl

theorem dispatchedWith_running (load : List Nat) (x : Launch) : (dispatchedWith load x).running = x.running := rfl

theorem dispatchedWith_number (load : List Nat) (x : Launch) :
    (dispatchedWith load x).part = x.part ∧ (dispatchedWith load x).seq = x.seq := ⟨rfl, rfl⟩

/-- A dispatch has begun on every core of its rectangle (R17). -/
def beginAll (s : State) (l : Launch) : State :=
  beginCores s l (l.r.cores.map s.physOf).length ((List.range (l.r.cores.map s.physOf).length).zip (l.r.cores.map s.physOf))

/-- The cores of a rectangle that need the image (R296). -/
def needImage (s : State) (l : Launch) : List Nat := (l.r.cores.map s.physOf).filter (fun c => (s.core c).itag != l.tag)

/-- A dispatch that has begun on its cores notes those that need the image, and the turn of its context (R294, R296). -/
theorem beginDispatch_eq : s.beginDispatch l =
    ((beginAll s l).modLaunch l (dispatchedWith (needImage s l))).modPart l.part (noteTurn l) := rfl

theorem core_beginDispatch (d : Nat) : (s.beginDispatch l).core d = (beginAll s l).core d := by
  rw [beginDispatch_eq, core_modPart, core_modLaunch]

theorem slot_beginDispatch (d : Nat) (i : Fin 8) : (s.beginDispatch l).slot d i = (beginAll s l).slot d i := by
  rw [State.slot, core_beginDispatch, State.slot]

theorem mem_beginDispatch : (s.beginDispatch l).mem = s.mem := by
  rw [beginDispatch_eq, mem_modPart, mem_modLaunch]
  exact (beginCores_begins (l := l) _).mem

/-- What a dispatch leaves of its launch (R294, R296). -/
theorem launch?_beginDispatch {part seq : Nat} (h : s.launch? part seq = some l) : ∃ k, (s.beginDispatch l).launch? part seq = some k ∧
    k.dispatched = true ∧ k.running = l.running ∧ k.load = needImage s l := by
  obtain ⟨b, hb⟩ : ∃ b, (beginAll s l).launch? part seq = some { l with blocks := b } := (beginCores_begins _).launch part seq l h
  refine ⟨dispatchedWith (needImage s l) { l with blocks := b }, ?_, rfl, dispatchedWith_running _ _, dispatchedWith_load _ _⟩
  rw [beginDispatch_eq, launch?_modPart]
  exact launch?_modLaunch hb rfl rfl (dispatchedWith_number _)

end Sys2Proof.Safety
end

section
/-! PROOFS. An image is loaded (O48, its second part): what a write at a home keeps where no error is stored, and reads of DRAM while
scratchpads are written. -/

set_option Elab.async false

namespace Sys2Proof.Safety

open Sys2Proof.Machine Sys2Proof.Claims

variable {s u r : State} {k n : Nat}

/-! ### What a write at a home stirs (R133, R195) -/

/-- Only wakes, release records and lists of watchers change; no line gets or loses its holder. -/
structure Stirs (s u : State) : Prop where
  rest : { u with wakes := s.wakes, nextTag := s.nextTag, relRec := s.relRec, lines := s.lines } = s
  holder : ∀ line, (u.lineQ line).holder = (s.lineQ line).holder

namespace Stirs

theorem refl (s : State) : Stirs s s := ⟨rfl, fun _ => rfl⟩

theorem trans {v : State} (h : Stirs s u) (g : Stirs u v) : Stirs s v :=
  ⟨(congrArg (fun x : State => { x with wakes := s.wakes, nextTag := s.nextTag, relRec := s.relRec, lines := s.lines }) g.rest :).trans h.rest,
    fun l => (g.holder l).trans (h.holder l)⟩

section
variable (h : Stirs s u)
include h

theorem mem : u.mem = s.mem := (congrArg State.mem h.rest :)
theorem synd : u.synd = s.synd := (congrArg State.synd h.rest :)
theorem lost : u.lost = s.lost := (congrArg State.lost h.rest :)
theorem cacheBad : u.cacheBad = s.cacheBad := (congrArg State.cacheBad h.rest :)
theorem acl : u.acl = s.acl := (congrArg State.acl h.rest :)
theorem ctxs : u.ctxs = s.ctxs := (congrArg State.ctxs h.rest :)
theorem launches : u.launches = s.launches := (congrArg State.launches h.rest :)

end

theorem wake (w : Ident) (x : Wait ⊕ Nat) : Stirs s (s.wake w x) := ⟨rfl, fun _ => rfl⟩

theorem clearRel : Stirs s (s.clearRel k n) := ⟨rfl, fun _ => rfl⟩

/-- Watchers leave the lists of some lines. -/
theorem dropWatch (p : LineQ → Bool) :
    Stirs s { s with lines := s.lines.map (fun q => if p q then { q with watch := [] } else q) } := by
  refine ⟨rfl, fun line => ?_⟩
  simp only [State.lineQ]
  have hq : (fun q : LineQ => q.line == line) ∘ (fun q => if p q then { q with watch := [] } else q) = fun q => q.line == line := by
    funext q
    simp only [Function.comp]
    split <;> rfl
  rw [List.find?_map, hq]
  cases s.lines.find? (fun q => q.line == line) with
  | none => rfl
  | some q =>
    simp only [Option.map_some, Option.getD_some]
    split <;> rfl

/-- The watchers of a line are woken. -/
theorem wakeList (q : LineQ) : Stirs s (q.watch.foldl (fun s w => s.wake w (.inl (.watch q.line))) s) :=
  foldl_rel refl trans (fun _ _ => wake _ _) q.watch s

theorem wakeWatchers : Stirs s (s.wakeWatchers k n) := by
  unfold State.wakeWatchers
  dsimp only
  split
  · exact .refl s
  · exact (foldl_rel refl trans (fun _ q => wakeList q) _ s).trans (dropWatch fun q => lineOf k ≤ q.line && q.line < k + n)

theorem wakeAwaits : Stirs s (s.wakeAwaits k n) := by
  unfold State.wakeAwaits
  split
  · exact .refl s
  · refine foldl_rel refl trans (fun s i => ?_) allSlots s
    cases s.threadAt (spOf k).2.1 i with
    | none => exact .refl s
    | some t =>
      dsimp only
      cases s.awaitsOn t k n with
      | none => exact .refl s
      | some pa => exact .wake _ _

end Stirs

/-- No error is stored, no line is lost, and no line of a slice's cache has an error. -/
structure Clean (s : State) : Prop where
  synd  : s.synd = []
  lost  : s.lost = []
  cache : s.cacheBad = []

/-- Bytes lie in the memory, and nothing else is touched. -/
def laidDown (s : State) (k : Nat) (b : List Byte) : State := { s with mem := Memory.writes s.mem k b }

/-- With no error stored a write at a home writes its bytes, and stirs what watches them. -/
theorem homeWrite_stirs (h : Clean s) (b : List Byte) : Stirs (laidDown s k b) (s.homeWrite k b) := by
  obtain ⟨hs, hl, hc⟩ := h
  have hstore : (s.correctEdges k b.length).store k b = laidDown s k b := by
    have he : s.correctEdges k b.length = s := by simp [State.correctEdges, hs]
    rw [he]
    simp [State.store, State.correct, laidDown, hs]
  have hlost : ∀ v : State, v.lost = [] → v.clearLost k b.length = v := fun v hv => by
    have he : v.lost.filter (fun l => !(k ≤ l.2 && l.2 + 64 ≤ k + b.length)) = v.lost := by rw [hv]; rfl
    rw [State.clearLost, he]
  have hfetch : ∀ v : State, v.cacheBad = [] → v.refetch k b.length = v := fun v hv => by simp [State.refetch, hv]
  have hrel : Stirs (laidDown s k b)
      ((((laidDown s k b).clearRel k b.length).wakeWatchers k b.length).wakeAwaits k b.length) :=
    Stirs.clearRel.trans (Stirs.wakeWatchers.trans Stirs.wakeAwaits)
  unfold State.homeWrite State.writeAs
  dsimp only
  rw [hstore, hlost ((laidDown s k b).clearRel k b.length) hl, hfetch _ (hrel.cacheBad.trans hc)]
  exact hrel

theorem mem_homeWrite (h : Clean s) (b : List Byte) : (s.homeWrite k b).mem = Memory.writes s.mem k b := (homeWrite_stirs h b).mem

/-! ### Reads of a clean memory -/

theorem isLost_clean (h : Clean s) (k : Nat) : s.isLost k = false := by simp [State.isLost, h.lost]

theorem badAt_clean (h : Clean s) (k n : Nat) : s.badAt k n = false := by
  have hc : eccClass 0#8 = .clean := rfl
  simp [State.badAt, State.syndAt, h.synd, hc]

theorem sound_clean (h : Clean s) (k n : Nat) : s.sound k n = true := by
  simp [State.sound, isLost_clean h, badAt_clean h]

theorem goodNat_clean (h : Clean s) (k n : Nat) : s.goodNat k n = leNat (Memory.reads s.mem k n) := by
  simp [State.goodNat, State.goodBytes, State.correct, State.raw, h.synd]

/-- A read of a stored line gives its bytes and changes nothing. -/
theorem readStored_clean (h : Clean s) (k n : Nat) : s.readStored k n = (some (s.raw k n), s) := by
  have hn : s.correctNoted k n = s := by simp [State.correctNoted, h.synd]
  have hf : s.refetch k n = s := by simp [State.refetch, h.cache]
  simp [State.readStored, isLost_clean h, badAt_clean h, hn, hf]

theorem not_isDev_of_isDram (h : isDram k = true) : isDev k = false := by
  have hd : dieOff k < 0x2CB4178000 := by
    simp only [isDram, Config.dramPerDie, Bool.and_eq_true, decide_eq_true_eq] at h
    exact of_decide_eq_true h.2
  have hn : ¬ 0x3000000000 ≤ dieOff k := by omega
  simp [isDev, Config.devBase, hn]

/-- A name in DRAM of a granted slice is read as a line (R289). -/
theorem unitRead_clean {part : Nat} (h : Clean s) (hk : isDram k = true) (hg : s.grants (bankOf k) part 1 = true) :
    s.unitRead part k n none = some (s.raw k n, s) := by
  have hg1 : s.grants (bankOf k) part 1#8 = true := hg
  simp [State.unitRead, hg1, State.granExists, State.storageKey, State.homeWords, State.readNamed, hk, not_isDev_of_isDram hk,
    badAt_clean h, isLost_clean h, readStored_clean h]

/-- DRAM lies below the scratchpads, with what follows a byte of it. -/
theorem isDram_below (h : isDram k = true) : k + 64 ≤ 2 ^ 52 := by
  simp only [isDram, dieOff, Config.dramPerDie, Bool.and_eq_true, decide_eq_true_eq, beq_iff_eq] at h
  obtain ⟨⟨h1, h2⟩, -⟩ := h
  omega

theorem reads_congr {m m' : Memory} {a : Nat} (h : ∀ i < n, Memory.read m (a + i) = Memory.read m' (a + i)) :
    Memory.reads m a n = Memory.reads m' a n := by
  induction n generalizing a with
  | zero => rfl
  | succ n ih =>
    simp only [Memory.reads]
    rw [show Memory.read m a = Memory.read m' a from h 0 (by omega)]
    refine congrArg _ (ih fun i hi => ?_)
    have := h (i + 1) (by omega)
    rwa [show a + (i + 1) = a + 1 + i by omega] at this

/-! ### A machine that writes scratchpads only -/

/-- A state that has come from s by writes to scratchpads, s being clean. -/
structure Fills (s r : State) : Prop where
  clean    : Clean r
  mem      : MemOk r
  acl      : r.acl = s.acl
  ctxs     : r.ctxs = s.ctxs
  launches : r.launches = s.launches
  holder   : ∀ line, (r.lineQ line).holder = (s.lineQ line).holder
  low      : ∀ a < 2 ^ 52, Memory.read r.mem a = Memory.read s.mem a

namespace Fills

theorem homeWrite (h : Fills s r) (hk : 2 ^ 52 ≤ k) (b : List Byte) : Fills s (r.homeWrite k b) := by
  have hr := homeWrite_stirs (k := k) h.clean b
  exact {
    clean := ⟨hr.synd.trans h.clean.synd, hr.lost.trans h.clean.lost, hr.cacheBad.trans h.clean.cache⟩
    mem := h.mem.homeWrite
    acl := hr.acl.trans h.acl
    ctxs := hr.ctxs.trans h.ctxs
    launches := hr.launches.trans h.launches
    holder := fun line => (hr.holder line).trans (h.holder line)
    low := fun a ha => by
      rw [hr.mem, laidDown, Memory.read_writes_out h.mem k b (.inl (by omega)), h.low a ha] }

theorem raw (h : Fills s r) (hk : k + n ≤ 2 ^ 52) : r.raw k n = s.raw k n := reads_congr fun i hi => h.low (k + i) (by omega)

theorem grants (h : Fills s r) (b : Bank) (part : Nat) (mask : BitVec 8) : r.grants b part mask = s.grants b part mask := by
  simp only [State.grants, State.rights, h.acl]

variable (hs : Clean s)
include hs

theorem pte (h : Fills s r) (part : Nat) : r.pte part = s.pte part := by
  funext k
  unfold State.pte
  rw [h.grants, h.holder, sound_clean hs, sound_clean h.clean, goodNat_clean hs, goodNat_clean h.clean]
  split
  · rfl
  · next hk =>
    have hd : isDram k = true := by
      simp only [Bool.not_eq_true', Bool.not_eq_false, Bool.and_eq_true] at hk
      exact hk.1
    have hb := isDram_below hd
    have hraw : Memory.reads r.mem k 8 = Memory.reads s.mem k 8 := h.raw (k := k) (n := 8) (by omega)
    rw [hraw]

theorem walkAt (h : Fills s r) (part va lv : Nat) : ∀ table, r.walkAt part va table lv = s.walkAt part va table lv := by
  induction lv with
  | zero => intro table; simp only [State.walkAt, h.pte hs]
  | succ lv ih => intro table; simp only [State.walkAt, h.pte hs, ih]

theorem walk (h : Fills s r) (part ctx va : Nat) : r.walk part ctx va = s.walk part ctx va := by
  have hctx : r.ctx part ctx = s.ctx part ctx := by simp only [State.ctx, h.ctxs]
  simp only [State.walk, hctx, h.walkAt hs]

/-- A plain name is found as before. -/
theorem unitName (h : Fills s r) {part ctx va : Nat} {x : Bool} (hn : s.unitName part ctx va x = some (n, none)) :
    r.unitName part ctx va x = some (n, none) := by
  rw [← hn]
  unfold State.unitName at hn ⊢
  rw [h.walk hs]
  split at hn
  · cases hn
  · next hva =>
    rw [if_neg hva, if_neg hva]
    cases hw : s.walk part ctx va with
    | leaf base size e from_ =>
      simp only [hw] at hn ⊢
      split at hn
      · next hc =>
        rw [if_pos hc, if_pos hc]
        have hplain : lfCls e.toNat ≠ 1 := by
          intro h1
          simp [State.place?, h1] at hn
        simp [State.place?, hplain]
      · cases hn
    | _ => rfl

/-- A line of DRAM that the launch unit could read it can still read (R289). -/
theorem unitLine (h : Fills s r) {part ctx va : Nat} (hn : s.unitName part ctx va true = some (k, none)) (hk : isDram k = true)
    (hg : s.grants (bankOf k) part 1 = true) : r.unitLine part ctx va 64 true = some (s.raw k 64, r) := by
  simp only [State.unitLine, h.unitName hs hn, Option.bind_some]
  rw [unitRead_clean h.clean hk ((h.grants _ _ _).trans hg), h.raw (isDram_below hk)]

end Fills

/-! ### The lines of an image (R296) -/

/-- Bytes that are stored right behind others extend them. -/
theorem Stored.append {b c : List Byte} {e : Nat} (h : Stored s r k b) (hr : MemOk r) (he : e = k + b.length)
    (hu : u.mem = Memory.writes r.mem e c) : Stored s u k (b ++ c) := by
  intro a
  rw [hu, he, List.length_append]
  by_cases hc : k + b.length ≤ a ∧ a < k + b.length + c.length
  · have hi : a - (k + b.length) < c.length := by omega
    have hin := Memory.read_writes_in hr (k + b.length) c _ hi
    rw [show k + b.length + (a - (k + b.length)) = a by omega] at hin
    rw [hin, if_pos (by omega), List.getD_append_right _ _ _ _ (by omega), show a - k - b.length = a - (k + b.length) by omega]
    simp [hi]
  · rw [Memory.read_writes_out hr _ _ (by omega), h a]
    by_cases hb : k ≤ a ∧ a < k + b.length
    · rw [if_pos hb, if_pos (by omega), List.getD_append _ _ _ _ (by omega)]
    · rw [if_neg hb, if_neg (by omega)]

theorem Stored.nil : Stored s s k [] := fun a => by rw [if_neg (by rintro ⟨h, h'⟩; simp only [List.length_nil] at h'; omega)]

/-- The bytes of the first lines of an image. -/
def imageBytes (s : State) (names : Nat → Nat) (n : Nat) : List Byte := (List.range n).flatMap (fun i => s.raw (names i) 64)

theorem imageBytes_succ (names : Nat → Nat) (n : Nat) : imageBytes s names (n + 1) = imageBytes s names n ++ s.raw (names n) 64 := by
  simp [imageBytes, List.range_succ]

theorem imageBytes_length (names : Nat → Nat) (n : Nat) : (imageBytes s names n).length = 64 * n := by
  induction n with
  | zero => rfl
  | succ n ih =>
    rw [imageBytes_succ, List.length_append, ih, State.raw, Memory.reads_length]
    omega

/-- One line of an image is loaded. -/
def loadLine (part ctx src core : Nat) (r : State) (i : Nat) : Option State :=
  (r.unitLine part ctx (src + 64 * i) 64 true).map (fun p => p.2.homeWrite (spKey Config.pkg core (64 * i)) p.1)

/-- The lines of an image are loaded one behind the other. -/
theorem loadLines {part ctx src core : Nat} {names : Nat → Nat} (hs : Clean s) (hm : MemOk s) (N : Nat)
    (h : ∀ i < N, s.unitName part ctx (src + 64 * i) true = some (names i, none) ∧ isDram (names i) = true ∧
      s.grants (bankOf (names i)) part 1 = true) :
    ∃ r, (List.range N).foldlM (loadLine part ctx src core) s = some r ∧ Fills s r ∧
      Stored s r (spKey Config.pkg core 0) (imageBytes s names N) := by
  induction N with
  | zero => exact ⟨s, rfl, ⟨hs, hm, rfl, rfl, rfl, fun _ => rfl, fun _ _ => rfl⟩, Stored.nil⟩
  | succ N ih =>
    obtain ⟨r, hr, hf, hst⟩ := ih fun i hi => h i (by omega)
    obtain ⟨hn, hd, hg⟩ := h N (by omega)
    have hkey : spKey Config.pkg core (64 * N) = spKey Config.pkg core 0 + (imageBytes s names N).length := by
      rw [imageBytes_length]
      simp only [spKey]
      omega
    refine ⟨r.homeWrite (spKey Config.pkg core (64 * N)) (s.raw (names N) 64), ?_, hf.homeWrite (by simp only [spKey]; omega) _, ?_⟩
    · simp [List.range_succ, List.foldlM_append, hr, loadLine, hf.unitLine hs hn hd hg]
    · rw [imageBytes_succ]
      exact Stored.append hst hf.mem hkey (mem_homeWrite hf.clean _)

end Sys2Proof.Safety
end

section
/-! PROOFS. The threads of a launch start (O48, its third part), and O48. -/

set_option Elab.async false

namespace Sys2Proof.Safety

open Sys2Proof.Machine Sys2Proof.Claims

variable {s u : State} {l : Launch} {c j : Nat}

/-! ### A dispatch with nothing left to do on a core -/

theorem updCores_self {cs : List (Nat × Core)} {f : Core → Core} (h : coreIn cs c ≠ .reset) (hf : f (coreIn cs c) = coreIn cs c) :
    updCores cs c f = cs := by
  induction cs with
  | nil => exact absurd rfl h
  | cons x r ih =>
    obtain ⟨k, y⟩ := x
    by_cases hk : k = c
    · simp only [coreIn, hk, if_true] at hf
      simp [updCores, hk, hf]
    · simp only [coreIn, hk, if_false] at h hf
      simp [updCores, hk, ih h hf]

/-- An update that leaves a listed core as it is changes nothing. -/
theorem modCore_self {f : Core → Core} (h : s.core c ≠ .reset) (hf : f (s.core c) = s.core c) : s.modCore c f = s := by
  simp only [State.modCore, updCores_self h hf]

/-- The slots of a core are those that the launch needs, all of them reserved for it, and free ones. -/
def Reserved (s : State) (l : Launch) (c : Nat) : Prop :=
  ∀ i : Fin 8, (s.slot c i).occ = if i.val < l.r.nslot.toNat + 1 then .launch l.part l.seq.toNat else .free

theorem Reserved.ne_reset (h : Reserved s l c) : s.core c ≠ .reset := by
  intro e
  have h0 := h 0
  simp only [State.slot, e] at h0
  simp [Core.reset, Slot.reset] at h0

theorem needs_eq (hr : l.r.redun = false) (i : Fin 8) : l.r.needs i = decide (i.val < l.r.nslot.toNat + 1) := by
  simp [LRec.needs, LRec.n, hr]

/-- Every slot that the launch needs is reserved already. -/
theorem reserveSlots_self (h : Reserved s l c) (hr : l.r.redun = false) : s.reserveSlots l c false = s := by
  refine modCore_self h.ne_reset ?_
  have hv : Vector.ofFn (fun i : Fin 8 => if (false || l.r.needs i) && (s.core c).slots[i].occ.isFree
      then { (s.core c).slots[i] with occ := .launch l.part l.seq.toNat } else (s.core c).slots[i]) = (s.core c).slots := by
    apply Vector.ext
    intro i hi
    have hocc : (s.core c).slots[(⟨i, hi⟩ : Fin 8)].occ = _ := h ⟨i, hi⟩
    have hno : ((false || l.r.needs ⟨i, hi⟩) && (s.core c).slots[(⟨i, hi⟩ : Fin 8)].occ.isFree) = false := by
      by_cases hn : i < l.r.nslot.toNat + 1
      · rw [hocc, if_pos hn]
        simp [Occ.isFree]
      · simp [needs_eq hr, hn]
    rw [Vector.getElem_ofFn, hno]
    rfl
  exact congrArg (fun v : Vector Slot 8 => { s.core c with slots := v }) hv

theorem stillThere_nil (h : Reserved s l c) : s.stillThere l c = [] := by
  refine List.filterMap_eq_nil_iff.mpr fun i _ => ?_
  have hn : s.occThread c i = none := by
    by_cases hi : i.val < l.r.nslot.toNat + 1
    · simp only [State.occThread, h i, hi, if_true]
    · simp only [State.occThread, h i, hi, if_false]
  rw [hn]

theorem stepCore_self (h : Reserved s l c) (hr : l.r.redun = false) (hl : l.load = []) (hb : l.blocks = []) : s.stepCore l c = s := by
  simp [State.stepCore, stillThere_nil h, hl, hb, reserveSlots_self h hr]

theorem foldl_self {α σ : Type} {f : σ → α → σ} {s : σ} {xs : List α} (h : ∀ x ∈ xs, f s x = s) : xs.foldl f s = s := by
  induction xs with
  | nil => rfl
  | cons x xs ih => rw [List.foldl_cons, h x List.mem_cons_self, ih fun y hy => h y (List.mem_cons_of_mem _ hy)]

/-- With its images loaded and its slots reserved a launch starts (R18). -/
theorem launchDispatch_starts {part seq : Nat} (h : s.launch? part seq = some l) (hrun : l.running = false) (hd : l.dispatched = true)
    (hl : l.load = []) (hb : l.blocks = []) (hr : l.r.redun = false) (hc : ∀ c ∈ l.r.cores.map s.physOf, Reserved s l c) :
    Runs (.launchDispatch part seq) s (s.startLaunch l) := by
  have hall : s.allReserved l = true := by
    refine List.all_eq_true.mpr fun x hx => List.all_eq_true.mpr fun i _ => ?_
    rw [hc _ (List.mem_map_of_mem hx) i, needs_eq hr]
    split
    · simp
    · next hn => simp [hn]
  show execLaunchDispatch part seq s = _
  simp only [execLaunchDispatch, h, hrun, hd, Bool.not_true, Bool.false_eq_true, if_false]
  rw [foldl_self (s := s) (xs := l.r.cores.map s.physOf) fun c hm => by
    simp only [h]
    exact stepCore_self (hc c hm) hr hl hb]
  simp only [h, hl, hb, hall, List.isEmpty_nil, Bool.and_self, if_true]

/-! ### A thread of a launch (R19, R297) -/

theorem launchThread_startsAs (i : Fin 8) : StartsAs l j i (s.launchThread l c i j) := by
  refine ⟨rfl, rfl, rfl, rfl, rfl, rfl, ?_, ?_, ?_, ?_, rfl, rfl, rfl, rfl, rfl, rfl⟩ <;>
    simp [Thread.gCell, State.launchThread, State.startThread, Thread.fresh, freshWin, LRec.n, w64]

/-- The segment set with which the threads of a launch start can be read. -/
def LaunchSegs (s : State) (l : Launch) : Prop := SegsRead s l.part l.r.ctx.toNat (entSupv (s.centry l.part l.r.ctx.toNat))

theorem LaunchSegs.of_tables (h : LaunchSegs s l) (ht : s.SameTables u) : LaunchSegs u l := by
  unfold LaunchSegs
  rw [ht.centry]
  exact ht.segsRead h

theorem place_launchThread (h : LaunchSegs s l) (i : Fin 8) :
    s.place c i (fun s => s.launchThread l c i j) = (s.newInc c i).seat c i ((s.newInc c i).launchThread l c i j) := by
  refine State.place_eq _ ?_
  have hm : ((s.newInc c i).launchThread l c i j).mode = entSupv (s.centry l.part l.r.ctx.toNat) := by
    show entSupv (State.centry _ _ _) = _
    rw [State.sameTables_newInc.centry]
  rw [hm]
  exact h

/-! ### The threads of a core start -/

/-- What the threads that start on a core one behind the other keep. -/
structure Starting (l : Launch) (c j : Nat) (s u : State) : Prop where
  tables   : s.SameTables u
  launches : u.launches = s.launches
  others   : ∀ d, d ≠ c → u.core d = s.core d
  nf       : ∀ i, (u.slot c i).nf = (s.slot c i).nf
  started  : ∀ i, (∃ t, s.threadAt c i = some t ∧ StartsAs l j i t) → ∃ t, u.threadAt c i = some t ∧ StartsAs l j i t

namespace Starting

theorem refl (s : State) : Starting l c j s s := ⟨.refl s, rfl, fun _ _ => rfl, fun _ => rfl, fun _ h => h⟩

theorem trans {v : State} (h : Starting l c j s u) (g : Starting l c j u v) : Starting l c j s v :=
  ⟨h.tables.trans g.tables, g.launches.trans h.launches, fun d hd => (g.others d hd).trans (h.others d hd),
    fun i => (g.nf i).trans (h.nf i), fun i hi => g.started i (h.started i hi)⟩

/-- A new thread takes a slot and leaves the others as they are. -/
theorem seat {i : Fin 8} {t : Thread} (ht : StartsAs l j i t) : Starting l c j s ((s.newInc c i).seat c i t) where
  tables := State.sameTables_newInc.trans State.sameTables_seat
  launches := rfl
  others := fun d hd => (State.core_modCore_ne _ _ _ _ hd).trans ((State.core_modCore_ne _ _ _ _ hd).trans (State.core_modCore_ne _ _ _ _ hd))
  nf := fun k => by
    have hslot : ((s.newInc c i).seat c i t).slot c k = ((s.newInc c i).setOcc c i (.thread t)).slot c k :=
      State.slot_modCore _ _ _ _ _ rfl
    rw [hslot]
    by_cases hk : k = i
    · subst hk
      simp [State.newInc]
    · rw [State.setOcc, State.slot_modSlot_ne _ _ _ _ _ _ (.inr hk), State.newInc, State.slot_modSlot_ne _ _ _ _ _ _ (.inr hk)]
  started := fun k hk => by
    by_cases he : k = i
    · subst he
      exact ⟨t, State.threadAt_seat, ht⟩
    · have hat : ((s.newInc c i).seat c i t).threadAt c k = s.threadAt c k := by
        refine (State.threadAt_modCore _ _ _ _ _ rfl).trans ?_
        simp only [State.threadAt, State.setOcc, State.newInc, State.slot_modSlot_ne _ _ _ _ _ _ (.inr he)]
      rwa [hat]

end Starting

/-- Threads of a launch start in the slots of a list. -/
theorem places_start (is : List (Fin 8)) (h : LaunchSegs s l) :
    Starting l c j s (is.foldl (fun s i => s.place c i (fun s => s.launchThread l c i j)) s) ∧
    ∀ i ∈ is, ∃ t, (is.foldl (fun s i => s.place c i (fun s => s.launchThread l c i j)) s).threadAt c i = some t ∧ StartsAs l j i t := by
  induction is generalizing s with
  | nil => exact ⟨.refl s, fun _ hi => nomatch hi⟩
  | cons i is ih =>
    rw [List.foldl_cons, place_launchThread h i]
    have hseat := Starting.seat (s := s) (c := c) (launchThread_startsAs (s := s.newInc c i) (l := l) (c := c) (j := j) i)
    obtain ⟨hst, hin⟩ := ih (h.of_tables hseat.tables)
    refine ⟨hseat.trans hst, fun k hk => ?_⟩
    rcases List.mem_cons.mp hk with rfl | hk
    · exact hst.started k ⟨_, State.threadAt_seat, launchThread_startsAs k⟩
    · exact hin k hk

/-- A launch has started on a core: its latches are 0, and each of its slots has its thread (R18, R39). -/
def CoreStarted (l : Launch) (s : State) (c j : Nat) : Prop :=
  ∀ i : Fin 8, (s.slot c i).nf = 0 ∧ (i.val < l.r.nslot.toNat + 1 → ∃ t, s.threadAt c i = some t ∧ StartsAs l j i t)

theorem CoreStarted.congr (h : CoreStarted l s c j) (hc : u.core c = s.core c) : CoreStarted l u c j := by
  simp only [CoreStarted, State.threadAt, State.slot, hc] at h ⊢
  exact h

/-- A core as the threads of a launch find it: latches 0 and slots free, counters and accumulators anew unless others share them (R18, R39). -/
def clearedCore (s : State) (l : Launch) (c : Nat) (k : Core) : Core :=
  let fresh := (s.core c).lastCtx != some (l.part, l.r.ctx.toNat)
  { k with
    cc := if s.sharesCounters l c then k.cc else k.cc.map CC.atDispatch
    marks := if s.sharesCounters l c then k.marks else k.soundCounters
    acc := if fresh then [] else k.acc
    accSynd := if fresh then [] else k.accSynd
    slots := k.slots.map (fun sl => { sl with nf := 0, badNf := false, occ := (match sl.occ with
      | .launch p q => if p = l.part && q = l.seq.toNat then .free else sl.occ
      | o => o) }) }

theorem startCore_eq (hr : l.r.redun = false) : s.startCore l c j =
    ((allSlots.filter (fun i => i.val < l.r.n)).foldl (fun s i => s.place c i (fun s => s.launchThread l c i j))
      (s.modCore c (clearedCore s l c))).note (.core c) 0x14 (l.seq.toNat % 2 ^ 28 * 2 ^ 12 + l.r.ctx.toNat) := by
  simp only [State.startCore, hr]
  rfl

theorem sameTables_note {src : Source} {ty p : Nat} : s.SameTables (s.note src ty p) := ⟨rfl, rfl, rfl, rfl, rfl, rfl⟩

theorem startCore_started (h : LaunchSegs s l) (hr : l.r.redun = false) :
    s.SameTables (s.startCore l c j) ∧ (s.startCore l c j).launches = s.launches ∧
    (∀ d, d ≠ c → (s.startCore l c j).core d = s.core d) ∧ CoreStarted l (s.startCore l c j) c j := by
  have hv : s.SameTables (s.modCore c (clearedCore s l c)) := ⟨rfl, rfl, rfl, rfl, rfl, rfl⟩
  have hnf : ∀ i, ((s.modCore c (clearedCore s l c)).slot c i).nf = 0 := fun i => by simp [State.slot, clearedCore]
  obtain ⟨hst, hin⟩ := places_start (c := c) (j := j) (allSlots.filter (fun i => i.val < l.r.n)) (h.of_tables hv)
  rw [startCore_eq hr]
  refine ⟨hv.trans (hst.tables.trans sameTables_note), hst.launches, fun d hd => (hst.others d hd).trans (State.core_modCore_ne _ _ _ _ hd), fun i => ⟨(hst.nf i).trans (hnf i), fun hi => ?_⟩⟩
  refine hin i (List.mem_filter.mpr ⟨?_, by simpa [LRec.n] using hi⟩)
  fin_cases i <;> simp [allSlots]

/-- A launch starts on the cores of a list, each with its place in the rectangle. -/
def startCores (s : State) (l : Launch) (xs : List (Nat × Nat)) : State := xs.foldl (fun s x => s.startCore l x.2 x.1) s

/-- Every core of a rectangle, with its place (R17). -/
def placedCores (s : State) (l : Launch) : List (Nat × Nat) :=
  (List.range (l.r.cores.map s.physOf).length).zip (l.r.cores.map s.physOf)

/-- The launch runs, with so many threads (R18). -/
def runsWith (n : Nat) (l : Launch) : Launch := { l with running := true, live := n }

theorem startLaunch_eq : s.startLaunch l =
    (startCores s l (placedCores s l)).modLaunch l (runsWith ((l.r.cores.map s.physOf).length * l.r.n)) := rfl

theorem core_startLaunch (d : Nat) : (s.startLaunch l).core d = (startCores s l (placedCores s l)).core d := by
  rw [startLaunch_eq, core_modLaunch]

theorem launch?_startLaunch {part seq : Nat} (h : s.launch? part seq = some l)
    (hl : (startCores s l (placedCores s l)).launches = s.launches) :
    (s.startLaunch l).launch? part seq = some (runsWith ((l.r.cores.map s.physOf).length * l.r.n) l) := by
  rw [startLaunch_eq]
  refine launch?_modLaunch ?_ rfl rfl fun _ => ⟨rfl, rfl⟩
  rw [State.launch?, hl]
  exact h

theorem startCores_started (xs : List (Nat × Nat)) (h : LaunchSegs s l) (hr : l.r.redun = false) (hn : (xs.map Prod.snd).Nodup) :
    s.SameTables (startCores s l xs) ∧ (startCores s l xs).launches = s.launches ∧
    (∀ d, d ∉ xs.map Prod.snd → (startCores s l xs).core d = s.core d) ∧
    ∀ x ∈ xs, CoreStarted l (startCores s l xs) x.2 x.1 := by
  induction xs generalizing s with
  | nil => exact ⟨.refl s, rfl, fun _ _ => rfl, fun _ hx => nomatch hx⟩
  | cons x xs ih =>
    obtain ⟨hx, hn⟩ := List.nodup_cons.mp hn
    obtain ⟨ht, hl, ho, hs⟩ := startCore_started (c := x.2) (j := x.1) h hr
    obtain ⟨ht', hl', ho', hs'⟩ := ih (h.of_tables ht) hn
    refine ⟨ht.trans ht', hl'.trans hl, fun d hd => ?_, fun y hy => ?_⟩
    · simp only [List.map_cons, List.mem_cons, not_or] at hd
      exact (ho' d hd.2).trans (ho d hd.1)
    · rcases List.mem_cons.mp hy with rfl | hy
      · exact hs.congr (ho' _ hx)
      · exact hs' y hy

/-- Settles O48, from `launchDispatch_begins`, `loadLines` and `launchDispatch_starts`. -/
theorem dispatchResults : Obligations.DispatchResults := by
  unfold Obligations.DispatchResults
  refine ⟨fun s part seq l h hrun hd => ⟨launchDispatch_waits h hrun hd, fun ht hp he hc => ?_⟩, ?_, ?_⟩
  · obtain ⟨k, hk, hkd, hkr, hkl⟩ := launch?_beginDispatch h
    refine ⟨_, k, launchDispatch_begins h hrun hd ht hp he hc, hk, hkd, hkr.trans hrun, hkl, fun j hj => ?_, fun c hm i hi ho => ?_,
      mem_beginDispatch⟩
    · rw [core_beginDispatch]
      exact rangeUnit_mem_beginCores hj
    · rw [slot_beginDispatch]
      exact occ_beginCores hm (by simp [LRec.needs, LRec.n]; omega) ho
  · intro s part seq core l names h hready hs hcache hcore hlines
    obtain ⟨hmem, hsynd, hlost⟩ := hs
    obtain ⟨r, hr, hf, hst⟩ := loadLines (core := core) ⟨hsynd, hlost, hcache⟩ hmem (l.len / 64) hlines
    have hk : r.launch? part seq = some l := by
      simp only [State.launch?, hf.launches]
      exact h
    refine ⟨(r.modCore core (fun k => { k with xb := w64 l.len, itag := l.tag })).modLaunch l
      (fun x => { x with load := x.load.filter (· != core) }), { l with load := l.load.filter (· != core) }, ?_, hst, ?_, ?_,
      launch?_modLaunch (s := r.modCore core _) hk rfl rfl (fun _ => ⟨rfl, rfl⟩), rfl⟩
    · show execImageLoad part seq core s = _
      have hr' : (List.range (l.len / 64)).foldlM (fun (r : State) i =>
          (r.unitLine part l.r.ctx.toNat (l.src + 64 * i) 64 true).map (fun p =>
            p.2.homeWrite (spKey Config.pkg core (64 * i)) p.1)) s = some r := hr
      simp only [execImageLoad, h, hready, Bool.not_true, Bool.false_eq_true, if_false, hr']
    · exact congrArg Core.xb (r.core_modCore_same core _)
    · exact congrArg Core.itag (r.core_modCore_same core _)
  · intro s part seq l h hrun hd cs n hl hb hr hn hsegs hocc
    have hsnd : (placedCores s l).map Prod.snd = cs := List.map_snd_zip (by simp)
    obtain ⟨ht, hlau, -, hst⟩ := startCores_started (placedCores s l) (l := l) hsegs hr (by rwa [hsnd])
    have hcore : ∀ j (hj : j < cs.length), CoreStarted l (s.startLaunch l) cs[j] j := fun j hj => by
      obtain ⟨as, bs, e⟩ := zip_range_split hj
      have hmem : (j, cs[j]) ∈ placedCores s l := by
        rw [placedCores, e]
        simp
      exact (hst _ hmem).congr (core_startLaunch _)
    refine ⟨_, _, launchDispatch_starts h hrun hd hl hb hr hocc, launch?_startLaunch h hlau, rfl, rfl, hcore, ?_⟩
    rw [startLaunch_eq, mem_modLaunch]
    exact ht.mem

end Sys2Proof.Safety
end

section
/-! PROOFS. `HALT` (O39, its first part): what a thread that ends leaves of its slot, its descriptor and its launch. -/

set_option Elab.async false

namespace Sys2Proof.Safety

open Sys2Proof.Machine Sys2Proof.Claims

variable {s u : State} {w : Ident} {c : Nat} {i : Fin 8}

/-! ### What is outstanding (R129, R136) -/

/-- An access of the thread within the package that is still to be performed. -/
def mine (w : Ident) (m : Msg) : Bool := [w].contains m.who && bankHere m.bank && (match m.op with | .probe => false | _ => true)

/-- Nothing of the thread is outstanding, place by place. -/
structure Quiet (w : Ident) (s : State) : Prop where
  net : s.net.any (mine w) = false
  inbox : s.inbox.any (mine w) = false
  lines : s.lines.any (fun q => q.queue.any (mine w) || q.aside.any (mine w)) = false
  rels : s.rels.any (fun r => mine w r.msg) = false
  faults : s.faultQ.any (fun f => match f.what with | .access m => mine w m | _ => false) = false
  reds : s.cores.any (fun x => x.2.copy.queue.any (fun o => match o.job with | .red m => mine w m && !o.landed && !o.started | _ => false)) =
    false

theorem quiet_iff : Quiet w s ↔ s.outstanding [w] = false := by
  constructor
  · rintro ⟨h1, h2, h3, h4, h5, h6⟩
    show (s.net.any (mine w) || s.inbox.any (mine w) || s.lines.any (fun q => q.queue.any (mine w) || q.aside.any (mine w)) ||
      s.rels.any (fun r => mine w r.msg) || s.faultQ.any (fun f => match f.what with | .access m => mine w m | _ => false) ||
      s.cores.any (fun x => x.2.copy.queue.any (fun o => match o.job with | .red m => mine w m && !o.landed && !o.started | _ => false))) = false
    rw [h1, h2, h3, h4, h5, h6]
    rfl
  · intro h
    change (s.net.any (mine w) || s.inbox.any (mine w) || s.lines.any (fun q => q.queue.any (mine w) || q.aside.any (mine w)) ||
      s.rels.any (fun r => mine w r.msg) || s.faultQ.any (fun f => match f.what with | .access m => mine w m | _ => false) ||
      s.cores.any (fun x => x.2.copy.queue.any (fun o => match o.job with | .red m => mine w m && !o.landed && !o.started | _ => false))) =
      false at h
    simp only [Bool.or_eq_false_iff] at h
    obtain ⟨⟨⟨⟨⟨h1, h2⟩, h3⟩, h4⟩, h5⟩, h6⟩ := h
    exact ⟨h1, h2, by simpa using h3, h4, h5, h6⟩

theorem any_filter_false {α : Type} {p q : α → Bool} {l : List α} (h : l.any p = false) : (l.filter q).any p = false :=
  List.any_eq_false.mpr fun x hx => List.any_eq_false.mp h x (List.mem_filter.mp hx).1

/-- A reduction of the thread waits in the queue of its core's engine. -/
def redsIn (w : Ident) (k : Core) : Bool :=
  k.copy.queue.any (fun o => match o.job with | .red m => mine w m && !o.landed && !o.started | _ => false)

/-- An update of a core that leaves no new reduction leaves none of the thread. -/
theorem reds_updCores {f : Core → Core} (hf : ∀ k, redsIn w k = false → redsIn w (f k) = false) {l : List (Nat × Core)}
    (h : l.any (fun x => redsIn w x.2) = false) : (updCores l c f).any (fun x => redsIn w x.2) = false := by
  induction l with
  | nil => simpa [updCores] using hf .reset rfl
  | cons x r ih =>
    obtain ⟨k, y⟩ := x
    simp only [List.any_cons, Bool.or_eq_false_iff] at h
    obtain ⟨hy, hr⟩ := h
    by_cases hk : k = c
    · simp only [updCores, hk, if_true, List.any_cons, Bool.or_eq_false_iff]
      exact ⟨hf y hy, hr⟩
    · simp only [updCores, hk, if_false, List.any_cons, Bool.or_eq_false_iff]
      exact ⟨hy, ih hr⟩

/-! ### What the end of a thread keeps until its slot is given up -/

/-- Memory, launches and partitions stay, every slot keeps its thread, and nothing becomes outstanding. -/
structure Ends (w : Ident) (s u : State) : Prop where
  mem : u.mem = s.mem
  launches : u.launches = s.launches
  parts : u.parts = s.parts
  quiet : Quiet w s → Quiet w u
  here : ∀ c i t, (s.slot c i).occ = .thread t → ∃ x, (u.slot c i).occ = .thread x ∧ x.id = t.id

namespace Ends

theorem refl (s : State) : Ends w s s := ⟨rfl, rfl, rfl, fun h => h, fun _ _ t h => ⟨t, h, rfl⟩⟩

theorem trans {v : State} (h : Ends w s u) (g : Ends w u v) : Ends w s v where
  mem := g.mem.trans h.mem
  launches := g.launches.trans h.launches
  parts := g.parts.trans h.parts
  quiet := fun q => g.quiet (h.quiet q)
  here := fun c i t ht => by
    obtain ⟨x, hx, hi⟩ := h.here c i t ht
    obtain ⟨y, hy, hj⟩ := g.here c i x hx
    exact ⟨y, hy, hj.trans hi⟩

theorem noteBank (b : Bank) (ty p : Nat) : Ends w s (s.noteBank b ty p) := by
  unfold State.noteBank
  cases sliceSource b with
  | none => exact .refl s
  | some src => exact ⟨rfl, rfl, rfl, fun ⟨h1, h2, h3, h4, h5, h6⟩ => ⟨h1, h2, h3, h4, h5, h6⟩, fun _ _ t h => ⟨t, h, rfl⟩⟩

/-- What stands in a line's queue of the machine, or in none where the line is not listed, is nothing of a quiet thread. -/
theorem quiet_lineQ (h : Quiet w s) (line : Nat) : ((s.lineQ line).queue.any (mine w) || (s.lineQ line).aside.any (mine w)) = false := by
  unfold State.lineQ
  cases hf : s.lines.find? (fun q => q.line == line) with
  | none => rfl
  | some q => exact Bool.eq_false_iff.mpr (List.any_eq_false.mp h.lines q (List.mem_of_find?_eq_some hf))

theorem setLineQ {q : LineQ} (hq : Quiet w s → (q.queue.any (mine w) || q.aside.any (mine w)) = false) : Ends w s (s.setLineQ q) := by
  refine ⟨rfl, rfl, rfl, fun h => ⟨h.net, h.inbox, ?_, h.rels, h.faults, h.reds⟩, fun _ _ t h => ⟨t, h, rfl⟩⟩
  simp only [State.setLineQ]
  split
  · exact any_filter_false h.lines
  · rw [List.any_cons, hq h, any_filter_false h.lines, Bool.or_false]

theorem freeLine (line : Nat) (broken : Bool) : Ends w s (s.freeLine line broken) := by
  have hn : Ends w s (s.noteBank (bankOf line) 0x0C (broken.toNat * 2 ^ 32 + noteG6 line)) := .noteBank _ _ _
  refine hn.trans (setLineQ fun h => ?_)
  have hl : ∀ b ty p, ((s.noteBank b ty p).lineQ line) = s.lineQ line := fun b ty p => by
    unfold State.noteBank
    cases sliceSource b <;> rfl
  have := quiet_lineQ h line
  rwa [hl] at this

theorem modWho {f : Thread → Thread} (hf : ∀ t, (f t).id = t.id) : Ends w s (s.modWho w f) where
  mem := rfl
  launches := rfl
  parts := rfl
  quiet := fun h => ⟨h.net, h.inbox, h.lines, h.rels, h.faults, by
    show (s.cores.map (fun x => (x.1, x.2.mapWho w f))).any _ = false
    rw [List.any_map]
    exact h.reds⟩
  here := fun c i t ht => by
    refine ⟨onWho w f t, by rw [State.slot_modWho, ht]; rfl, ?_⟩
    simp only [onWho]
    split
    · exact hf t
    · rfl

theorem dropRsv : Ends w s (s.dropRsv w) :=
  (foldl_rel refl trans (fun _ _ => freeLine _ _) _ s).trans (modWho fun _ => rfl)

theorem dropHeld (d lo hi : Nat) : Ends w s (s.dropHeld d lo hi) where
  mem := rfl
  launches := rfl
  parts := rfl
  quiet := fun h => ⟨any_filter_false h.net, h.inbox, h.lines, h.rels, any_filter_false h.faults,
    by
      refine reds_updCores (fun k hk => ?_) h.reds
      exact any_filter_false hk⟩
  here := fun c i t ht => ⟨t, (congrArg Slot.occ (State.slot_modCore s d c i _ rfl)).trans ht, rfl⟩

theorem dropPair : Ends w s (s.dropPair w) := by
  refine foldl_rel refl trans (fun s x => foldl_rel refl trans (fun s i => ?_) allSlots s) s.cores s
  cases (x.2.slots[i]).occ with
  | marker m =>
    dsimp only
    split
    · exact foldl_rel refl trans (fun _ (e : Trail) => dropHeld x.1 e.lo e.hi) _ s
    · exact .refl s
  | _ => exact .refl s

end Ends

/-! ### The slot is given up (R16) -/

/-- No slot holds a thread with this identity. -/
def Gone (w : Ident) (s : State) : Prop := ∀ x ∈ s.cores, ∀ (i : Fin 8) t, (x.2.slots[i]).occ = .thread t → t.id ≠ w

theorem Gone.placeOf? (h : Gone w s) : s.placeOf? w = none := by
  refine List.findSome?_eq_none_iff.mpr fun x hx => ?_
  have hn : x.2.slotOf? w = none := by
    cases hs : x.2.slotOf? w with
    | none => rfl
    | some i =>
      obtain ⟨t, ht, hw⟩ := Core.slotOf?_some w x.2 hs
      exact absurd hw (h x hx i t ht)
  show (x.2.slotOf? w).map _ = none
  rw [hn]
  rfl

/-- A core that a machine-wide change has gone over: what it showed and shows of a slot. -/
theorem coreIn_map_cases (l : List (Nat × Core)) (f : Nat → Core → Core) (c : Nat) :
    coreIn (l.map (fun x => (x.1, f x.1 x.2))) c = f c (coreIn l c) ∨
    (coreIn l c = .reset ∧ coreIn (l.map (fun x => (x.1, f x.1 x.2))) c = .reset) := by
  induction l with
  | nil => exact .inr ⟨rfl, rfl⟩
  | cons x r ih =>
    obtain ⟨k, y⟩ := x
    by_cases hk : k = c
    · simp [coreIn, hk]
    · simpa [coreIn, hk] using ih

/-- A change over all cores that puts no thread in a slot: what a free slot and a thread that is gone are then. -/
structure Clears (s u : State) (f : Nat → Core → Core) : Prop where
  cores : u.cores = s.cores.map (fun x => (x.1, f x.1 x.2))
  free : ∀ c k (i : Fin 8), (k.slots[i]).occ = .free → ((f c k).slots[i]).occ = .free
  ids : ∀ c k (i : Fin 8) t, ((f c k).slots[i]).occ = .thread t → ∃ x, (k.slots[i]).occ = .thread x ∧ x.id = t.id

namespace Clears

variable {f : Nat → Core → Core}

theorem gone (h : Clears s u f) (hg : Gone w s) : Gone w u := by
  intro y hy i t ht
  rw [h.cores] at hy
  obtain ⟨x, hx, rfl⟩ := List.mem_map.mp hy
  obtain ⟨t', ht', hi⟩ := h.ids x.1 x.2 i t ht
  exact hi ▸ hg x hx i t' ht'

theorem slot_free (h : Clears s u f) (hf : (s.slot c i).occ = .free) : (u.slot c i).occ = .free := by
  have hc : u.core c = coreIn (s.cores.map (fun x => (x.1, f x.1 x.2))) c := congrArg (coreIn · c) h.cores
  rw [State.slot, hc]
  rcases coreIn_map_cases s.cores f c with e | ⟨-, e⟩
  · rw [e]
    exact h.free c _ i hf
  · rw [e]
    simp [Core.reset, Slot.reset]

end Clears

/-- What a slot holds once a thread has given up whatever it held (R16). -/
def occWithout (w : Ident) (o : Occ) : Occ :=
  match o with
  | .thread t => if t.id = w then .free else o
  | .away x _ _ _ => if x = w then .free else o
  | .marker m => if m.id = w then .free else o
  | _ => o

theorem occWithout_thread {o : Occ} {t : Thread} (h : occWithout w o = .thread t) : o = .thread t ∧ t.id ≠ w := by
  cases o with
  | thread x =>
    simp only [occWithout] at h
    split at h
    · cases h
    · next hx =>
      cases h
      exact ⟨rfl, hx⟩
  | away x a b d =>
    simp only [occWithout] at h
    split at h <;> cases h
  | marker m =>
    simp only [occWithout] at h
    split at h <;> cases h
  | free => cases h
  | launch p q => cases h

/-- A core once a thread has left it. -/
def coreWithout (w : Ident) (k : Core) : Core :=
  { k with
    slots := k.slots.map (fun sl => { sl with occ := occWithout w sl.occ, trail := if (occWithout w sl.occ).isFree then [] else sl.trail })
    saved := k.saved.filter (fun x => x.t.id != w)
    migBuf := k.migBuf.filter (fun x => x.1.id != w) }

theorem vacate_eq : s.vacate w = { s.dropPair w with
    cores := (s.dropPair w).cores.map (fun x => (x.1, coreWithout w x.2)), migs := (s.dropPair w).migs.filter (fun m => m.t.id != w) } := rfl

theorem occ_coreWithout (k : Core) (i : Fin 8) : ((coreWithout w k).slots[i]).occ = occWithout w (k.slots[i]).occ := by
  simp [coreWithout]

theorem gone_vacate : Gone w (s.vacate w) := by
  intro y hy i t ht
  rw [vacate_eq] at hy
  obtain ⟨x, -, rfl⟩ := List.mem_map.mp hy
  rw [occ_coreWithout] at ht
  exact (occWithout_thread ht).2

theorem slot_vacate {t : Thread} (h : (s.slot c i).occ = .thread t) (ht : t.id = w) : ((s.vacate w).slot c i).occ = .free := by
  obtain ⟨x, hx, hi⟩ := (Ends.dropPair (w := w) (s := s)).here c i t h
  rw [vacate_eq]
  show (coreIn ((s.dropPair w).cores.map (fun x => (x.1, (fun _ => coreWithout w) x.1 x.2))) c).slots[i].occ = .free
  rcases coreIn_map_cases (s.dropPair w).cores (fun _ => coreWithout w) c with e | ⟨-, e⟩
  · have hx' : ((coreIn (s.dropPair w).cores c).slots[i]).occ = .thread x := hx
    rw [e, occ_coreWithout, hx']
    simp [occWithout, hi, ht]
  · rw [e]
    simp [Core.reset, Slot.reset]

theorem quiet_vacate (h : Quiet w s) : Quiet w (s.vacate w) := by
  obtain ⟨h1, h2, h3, h4, h5, h6⟩ := Ends.dropPair.quiet h
  rw [vacate_eq]
  refine ⟨h1, h2, h3, h4, h5, ?_⟩
  show (List.map _ _).any _ = false
  rw [List.any_map]
  exact h6

theorem vacate_rest : (s.vacate w).mem = s.mem ∧ (s.vacate w).launches = s.launches ∧ (s.vacate w).parts = s.parts := by
  rw [vacate_eq]
  have h := Ends.dropPair (w := w) (s := s)
  exact ⟨h.mem, h.launches, h.parts⟩

/-! ### A task's descriptor retires, a launch ends (R22, R299) -/

theorem clears_retireDesc (n : Nat) : Clears s (s.retireDesc n) (fun _ k => k.keepTasks (fun d => d.num != n)) :=
  ⟨rfl, fun _ _ _ h => h, fun _ _ _ t h => ⟨t, h, rfl⟩⟩

theorem desc?_retireDesc (n : Nat) : (s.retireDesc n).desc? n = none := by
  refine List.findSome?_eq_none_iff.mpr fun y hy => ?_
  obtain ⟨x, -, rfl⟩ := List.mem_map.mp hy
  refine List.find?_eq_none.mpr fun d hd => ?_
  have hd' : d ∈ x.2.tasks.filter (fun d => d.num != n) := hd
  simpa using (List.mem_filter.mp hd').2

/-- The cores of a dispatch that is forgotten: no slot gets a thread (R295). -/
structure KeepsIds (k k' : Core) : Prop where
  free : ∀ i : Fin 8, (k.slots[i]).occ = .free → (k'.slots[i]).occ = .free
  ids : ∀ (i : Fin 8) t, (k'.slots[i]).occ = .thread t → ∃ x, (k.slots[i]).occ = .thread x ∧ x.id = t.id

namespace KeepsIds

theorem refl (k : Core) : KeepsIds k k := ⟨fun _ h => h, fun _ t h => ⟨t, h, rfl⟩⟩

theorem trans {a b d : Core} (h : KeepsIds a b) (g : KeepsIds b d) : KeepsIds a d where
  free := fun i hi => g.free i (h.free i hi)
  ids := fun i t ht => by
    obtain ⟨x, hx, he⟩ := g.ids i t ht
    obtain ⟨y, hy, hf⟩ := h.ids i x hx
    exact ⟨y, hy, hf.trans he⟩

theorem dropBlock (k : Core) (p : Nat) : KeepsIds k (k.dropBlock p) := ⟨fun _ h => h, fun _ t h => ⟨t, h, rfl⟩⟩

theorem dropDispatch (c : Nat) (l : Launch) (k : Core) : KeepsIds k (k.dropDispatch c l) := by
  refine (foldl_rel (R := KeepsIds) (f := fun (k : Core) (b : Nat × Nat) => k.dropBlock b.2) refl trans (fun k b => dropBlock k b.2)
    (l.blocks.filter (fun b => b.1 == c)) k).trans ?_
  unfold Core.dropDispatch
  dsimp only
  generalize (l.blocks.filter (fun b => b.1 == c)).foldl (fun k b => k.dropBlock b.2) k = k1
  refine ⟨fun i h => ?_, fun i t h => ?_⟩
  · simp only [Fin.getElem_fin, Vector.getElem_map] at h ⊢
    rw [h]
  · simp only [Fin.getElem_fin, Vector.getElem_map] at h ⊢
    cases ho : (k1.slots[i.val]).occ with
    | thread x =>
      rw [ho] at h
      dsimp only at h
      split at h
      · cases h
        exact ⟨x, rfl, rfl⟩
      · cases h
        exact ⟨_, rfl, rfl⟩
    | launch p q =>
      rw [ho] at h
      dsimp only at h
      split at h <;> cases h
    | _ =>
      rw [ho] at h
      cases h

end KeepsIds

/-- A launch that has ended leaves no record and marks its number (R22, R293). -/
theorem endLaunch_rest (p : Nat) (q : BitVec 32) : (s.endLaunch p q).mem = s.mem ∧ q ∈ ((s.endLaunch p q).partn p).ended ∧
    ∀ x ∈ (s.endLaunch p q).launches, ¬(x.part = p ∧ x.seq = q) := by
  refine ⟨rfl, ?_, fun x hx => ?_⟩
  · have hp : (s.endLaunch p q).partn p = Part.mark q (s.partn p) := by simp [State.endLaunch, State.partn, State.modPart]
    rw [hp]
    exact List.mem_cons_self
  · have hx' : x ∈ s.launches.filter (fun l => !(l.part == p && l.seq == q)) := hx
    rintro ⟨hp, hq⟩
    simpa [hp, hq] using (List.mem_filter.mp hx').2

/-- A core once a launch has ended (R22). -/
def coreEnded (s : State) (p : Nat) (q : BitVec 32) (c : Nat) (k : Core) : Core :=
  { (s.launches.filter (fun l => l.part == p && l.seq == q && l.dispatched && !l.running)).foldl (fun k l => k.dropDispatch c l) k with
    ranges := k.ranges.filter (fun r => !(r.part == p && r.seq == q.toNat)) }

theorem clears_endLaunch (p : Nat) (q : BitVec 32) : Clears s (s.endLaunch p q) (coreEnded s p q) := by
  have hk : ∀ c k, KeepsIds k (coreEnded s p q c k) := fun c k =>
    have h : KeepsIds k ((s.launches.filter (fun l => l.part == p && l.seq == q && l.dispatched && !l.running)).foldl
        (fun k l => k.dropDispatch c l) k) := foldl_rel KeepsIds.refl KeepsIds.trans (fun k l => KeepsIds.dropDispatch c l k) _ k
    ⟨h.free, h.ids⟩
  exact ⟨rfl, fun c k => (hk c k).free, fun c k => (hk c k).ids⟩

/-! ### `HALT` (R162) -/

section
variable {t : Thread} (hi : Issues s t [] [] []) (ho : t.oar = none) (hd : t.drained s.cur.core .pd = true) (he : t.engOps = [])
variable (hh : t.holds = [])
include hi ho hd he hh

theorem halt_retires : Runs .halt s ((s.dropRsv t.id).retire t) := by
  obtain ⟨hme, hw, hp⟩ := hi
  show execHalt s = _
  simp only [execHalt, State.ready_eq hme hw hp, Eff.bind_ok, State.drainOr_eq hd ho, he, hh]
  rfl

end

/-- The state in which a thread has ended, but for its descriptor or launch. -/
def ended (s : State) (t : Thread) : State :=
  { (s.dropRsv t.id).vacate t.id with
    ownerless := (s.dropRsv t.id).ownerless ++ (((s.dropRsv t.id).thread? t.id).getD t).markers }

theorem retire_eq (t : Thread) : (s.dropRsv t.id).retire t = match t.kind with
    | .launch seq _ _ => (ended s t).launchLoses t.id t.part seq
    | .task d => (ended s t).retireDesc d
    | .spark _ => ended s t := rfl

section
variable {t : Thread}

theorem ended_slot (h : (s.slot c i).occ = .thread t) : ((ended s t).slot c i).occ = .free := by
  obtain ⟨x, hx, hi⟩ := (Ends.dropRsv (w := t.id) (s := s)).here c i t h
  exact slot_vacate hx hi

theorem ended_gone : Gone t.id (ended s t) := gone_vacate (s := s.dropRsv t.id)

theorem ended_quiet (h : s.outstanding [t.id] = false) : (ended s t).outstanding [t.id] = false := by
  refine quiet_iff.mp ?_
  obtain ⟨h1, h2, h3, h4, h5, h6⟩ := quiet_vacate (Ends.dropRsv.quiet (quiet_iff.mpr h))
  exact ⟨h1, h2, h3, h4, h5, h6⟩

theorem ended_rest : (ended s t).mem = s.mem ∧ (ended s t).launches = s.launches := by
  have h := Ends.dropRsv (w := t.id) (s := s)
  obtain ⟨h1, h2, -⟩ := vacate_rest (w := t.id) (s := s.dropRsv t.id)
  exact ⟨h1.trans h.mem, h2.trans h.launches⟩

end

/-- A launch that is found loses a thread: the last one ends it (R22). -/
theorem launchLoses_eq {p : Nat} {q : BitVec 32} {l : Launch} (hl : s.launches.find? (fun x => x.part == p && x.seq == q) = some l)
    (hq : s.outstanding [w] = false) : s.launchLoses w p q =
      if l.live ≤ 1 then s.endLaunch p q
      else { s with launches := s.launches.map (fun x => if x.part == p && x.seq == q then { x with live := x.live - 1 } else x) } := by
  simp only [State.launchLoses, hl, State.signal, hq, Bool.false_eq_true, if_false]
  rfl

theorem find?_loses {p : Nat} {q : BitVec 32} {l : Launch} {ls : List Launch} (hl : ls.find? (fun x => x.part == p && x.seq == q) = some l) :
    (ls.map (fun x => if x.part == p && x.seq == q then { x with live := x.live - 1 } else x)).find? (fun x => x.part == p && x.seq == q) =
      some { l with live := l.live - 1 } := by
  have hp : (fun x : Launch => x.part == p && x.seq == q) ∘ (fun x => if x.part == p && x.seq == q then { x with live := x.live - 1 } else x) =
      fun x => x.part == p && x.seq == q := by
    funext x
    simp only [Function.comp]
    split <;> rfl
  have hx := List.find?_some hl
  rw [List.find?_map, hp, hl]
  simp only [Option.map_some]
  rw [if_pos hx]

end Sys2Proof.Safety
end

section
/-! PROOFS. `TASK` with no handle, and O39. -/

set_option Elab.async false

namespace Sys2Proof.Safety

open Sys2Proof.Machine Sys2Proof.Claims

variable {s : State} {t : Thread} {e n : Fin 16} {arg : Fin 8}

/-! ### Checks of `TASK` (R251) -/

theorem oarEmpty_eq (h : t.oar = none) : s.oarEmpty t = .ok () := by simp [State.oarEmpty, h]

theorem entryOk_eq {v : Word} (h0 : v.getLsbD 0 = false) (h1 : v.toNat / 2 % 32 ≠ 0) : s.entryOk v = .ok () := by
  have hx : (pcIdx v == 0) = false := beq_eq_false_iff_ne.mpr h1
  simp only [State.entryOk, h0, hx, Bool.or_self, Bool.false_eq_true, if_false]

/-- A pointer that names what is asked for gives its address. -/
theorem tilePtr_eq {p : Fin 8} {k al : Nat} {need : Need} (h : TileAt s t p k al need) :
    s.tilePtr t p k al need = .ok (t.segs[p].base.toNat + (t.av p).toNat) := by
  obtain ⟨hg, hal, hsp⟩ := h
  rcases hsp with hsp | ⟨c, o, hsp⟩
  · simp only [State.tilePtr, hg, hal, hsp]
    rfl
  · simp only [State.tilePtr, hg, hal, hsp]
    rfl

/-- A descriptor with a changed number of dependences, not yet eligible (R251). -/
def newDesc (s : State) (t : Thread) (v : Word) (args : Nat) : Desc := { s.descOf t v args with depc := 1, state := 0 }

section
variable (hi : Issues s t [.g e, .a arg, .g n] [] [])
include hi

theorem task_count (hn : 8 < (t.gv n).toNat) : Runs (.task e arg n) s (s.userTrap 0x01 (t.gv n) t.pc) := by
  obtain ⟨hme, hw, hp⟩ := hi
  show execTask e arg n s = _
  simp only [execTask, State.ready_eq hme hw hp, Eff.bind_ok, hn, if_true]
  exact State.stopped_trap s hme _ _

/-- The state in which the descriptor has its entry in the queue. -/
def enqueued (s : State) (t : Thread) (v : Word) (args : Nat) : State :=
  let s1 := s.modMe (fun t => { t with visible := true })
  s1.enqueue (newDesc s1 t v args)

theorem task_enqueues (hn : t.gv n = 0) (hk : NotSpark t) (ho : t.oar = none) (hd : t.drained s.cur.core .pk = true)
    (h0 : (t.gv e).getLsbD 0 = false) (h1 : (t.gv e).toNat / 2 % 32 ≠ 0) (ht : TileAt s t arg 1 1 ⟨true, false, false⟩)
    (hroom : (s.core s.cur.core).taskCount (min t.prio 3) < 64) :
    Runs (.task e arg n) s
      (((enqueued s t (t.gv e) (t.segs[arg].base.toNat + (t.av arg).toNat)).modDesc s.nextTag Desc.lower).advance t) := by
  obtain ⟨hme, hw, hp⟩ := hi
  have hargs : s.argBlock t arg 0 = .ok (t.segs[arg].base.toNat + (t.av arg).toNat) := tilePtr_eq ht
  have hprio : t.taskPrio = min t.prio 3 := by
    unfold Thread.taskPrio
    split <;> omega
  have htr : s.taskRoom t s.cur.core t.taskPrio = true := by simp [State.taskRoom, hprio, hroom]
  show execTask e arg n s = _
  simp only [execTask, State.ready_eq hme hw hp, Eff.bind_ok, hn, oarEmpty_eq ho, entryOk_eq h0 h1]
  simp [hargs, htr, State.drainOr_eq hd ho, State.sideEffect_eq hk]
  rfl

end

/-! ### What a new descriptor leaves (R251, R299) -/

theorem core_modDesc (num : Nat) (f : Desc → Desc) (c : Nat) :
    (s.modDesc num f).core c = { s.core c with tasks := (s.core c).tasks.map (fun d => if d.num = num then f d else d) } :=
  coreIn_map s.cores (fun _ k => { k with tasks := k.tasks.map (fun d => if d.num = num then f d else d) }) c rfl

theorem me_modDesc (num : Nat) (f : Desc → Desc) : (s.modDesc num f).me = s.me := by
  simp only [State.me, State.threadAt, State.slot, core_modDesc]
  rfl

/-- Descriptors with other numbers stay as they are. -/
theorem map_desc_of_ne {num : Nat} {f : Desc → Desc} {l : List Desc} (h : ∀ x ∈ l, x.num ≠ num) :
    l.map (fun d => if d.num = num then f d else d) = l :=
  (List.map_congr_left (g := fun x => x) fun x hx => if_neg (h x hx)).trans (List.map_id' l)

/-- A core with one descriptor more, in the reserve entry of its queue where the queue is full (R299, R305). -/
def addTask (d : Desc) (k : Core) : Core :=
  let p := Fin.ofNat 4 d.prio.toNat
  { k with tasks := k.tasks ++ [d], taskSpare := k.taskSpare.set p (k.taskSpare[p] || 64 ≤ k.taskCount p.val) }

theorem enqueue_eq (d : Desc) : s.enqueue d =
    { (s.modMe (fun t => { t with spare := false })).modCore s.cur.core (addTask d) with nextTag := s.nextTag + 1 } := rfl

theorem me_enqueue (d : Desc) : (s.enqueue d).me = s.me.map (fun t => { t with spare := false }) := by
  rw [enqueue_eq]
  exact (State.me_modCore _ s.cur.core (addTask d) fun _ => rfl).trans (s.me_modMe _)

theorem tasks_modMe (f : Thread → Thread) (c : Nat) : ((s.modMe f).core c).tasks = (s.core c).tasks :=
  s.core_modSlot_read s.cur.core c s.cur.slot Core.tasks _ fun _ _ => rfl

theorem tasks_enqueue (d : Desc) : ((s.enqueue d).core s.cur.core).tasks = (s.core s.cur.core).tasks ++ [d] := by
  rw [enqueue_eq]
  refine (congrArg Core.tasks (State.core_modCore_same _ s.cur.core (addTask d))).trans ?_
  rw [addTask, tasks_modMe]

theorem me_enqueued {v : Word} {args : Nat} (hme : s.me = some t) :
    (enqueued s t v args).me = some { t with visible := true, spare := false } := by
  rw [enqueued, me_enqueue, State.me_modMe, hme]
  rfl

theorem tasks_enqueued {v : Word} {args : Nat} : ((enqueued s t v args).core s.cur.core).tasks =
    (s.core s.cur.core).tasks ++ [newDesc (s.modMe (fun t => { t with visible := true })) t v args] :=
  (tasks_enqueue _).trans (congrArg (· ++ _) (tasks_modMe _ s.cur.core))

/-- A waiting descriptor whose last dependence is met is eligible (R23). -/
theorem lower_last {d : Desc} (h : d.depc = 1) (hs : d.state = 0) : d.lower = { d with depc := 0, state := 1 } := by
  simp [Desc.lower, h, hs]

/-- The issuing core's queue once a descriptor of its own with no dependence is in it. -/
theorem tasks_after_task {v : Word} {args : Nat} (hnew : ∀ x ∈ (s.core s.cur.core).tasks, x.num ≠ s.nextTag) :
    ((((enqueued s t v args).modDesc s.nextTag Desc.lower).advance t).core s.cur.core).tasks =
      (s.core s.cur.core).tasks ++ [{ newDesc (s.modMe (fun t => { t with visible := true })) t v args with depc := 0, state := 1 }] := by
  refine (State.core_modSlot_read _ _ s.cur.core _ Core.tasks _ fun _ _ => rfl).trans ?_
  rw [core_modDesc, tasks_enqueued]
  have hnum : (newDesc (s.modMe (fun t => { t with visible := true })) t v args).num = s.nextTag := rfl
  show List.map _ _ = _
  rw [List.map_append, map_desc_of_ne hnew, List.map_cons, List.map_nil, if_pos hnum, lower_last rfl rfl]

/-- Settles O39, from `halt_retires` and what an ended thread leaves, and from `task_enqueues`. -/
theorem haltAndTaskResults : Obligations.HaltAndTaskResults := by
  unfold Obligations.HaltAndTaskResults
  refine ⟨fun s t hi ho hd he hh hq => ?_, ?_⟩
  · have hrun := halt_retires hi ho hd he hh
    obtain ⟨hme, -, -⟩ := hi
    have hocc : (s.slot s.cur.core s.cur.slot).occ = .thread t := by
      have hat : (s.slot s.cur.core s.cur.slot).occ.thread? = some t := hme
      cases h : (s.slot s.cur.core s.cur.slot).occ <;> simp [h, Occ.thread?] at hat
      exact hat ▸ rfl
    have hfree := ended_slot hocc
    have hgone := ended_gone (s := s) (t := t)
    have hquiet := ended_quiet hq
    obtain ⟨hmem, hlau⟩ := ended_rest (s := s) (t := t)
    rw [retire_eq] at hrun
    cases hkind : t.kind with
    | task d =>
      rw [hkind] at hrun
      refine ⟨_, hrun, (clears_retireDesc d).slot_free hfree, hmem, ((clears_retireDesc d).gone hgone).placeOf?, fun m hm => ?_,
        fun q ro st l hl => nomatch hl⟩
      cases hm
      exact desc?_retireDesc d
    | spark va =>
      rw [hkind] at hrun
      exact ⟨_, hrun, hfree, hmem, hgone.placeOf?, fun m hm => (nomatch hm), fun q ro st l hl => nomatch hl⟩
    | launch q ro st =>
      rw [hkind] at hrun
      dsimp only at hrun
      cases hf : s.launches.find? (fun x => x.part == t.part && x.seq == q) with
      | none =>
        have hf' : (ended s t).launches.find? (fun x => x.part == t.part && x.seq == q) = none := by rw [hlau]; exact hf
        have hl : (ended s t).launchLoses t.id t.part q = ended s t := by simp only [State.launchLoses, hf']
        rw [hl] at hrun
        refine ⟨_, hrun, hfree, hmem, hgone.placeOf?, fun m hm => (nomatch hm), fun q' ro' st' l hk hl => ?_⟩
        cases hk
        rw [hf] at hl
        cases hl
      | some l =>
        have hf' : (ended s t).launches.find? (fun x => x.part == t.part && x.seq == q) = some l := by rw [hlau]; exact hf
        rw [launchLoses_eq hf' hquiet] at hrun
        by_cases hlive : l.live ≤ 1
        · rw [if_pos hlive] at hrun
          have hc := clears_endLaunch (s := ended s t) t.part q
          obtain ⟨hm, hend, hlist⟩ := endLaunch_rest (s := ended s t) t.part q
          refine ⟨_, hrun, hc.slot_free hfree, hm.trans hmem, (hc.gone hgone).placeOf?, fun m hm => (nomatch hm), fun q' ro' st' l' hk hl => ?_⟩
          cases hk
          rw [hf] at hl
          cases hl
          exact ⟨fun _ => ⟨hend, hlist⟩, fun h => absurd h (by omega)⟩
        · rw [if_neg hlive] at hrun
          refine ⟨_, hrun, hfree, hmem, hgone.placeOf?, fun m hm => (nomatch hm), fun q' ro' st' l' hk hl => ?_⟩
          cases hk
          rw [hf] at hl
          cases hl
          exact ⟨fun h => absurd h hlive, fun _ => find?_loses hf'⟩
  · intro s t e arg n hi k
    refine ⟨task_count hi, fun hn hk ho hd h0 h1 ht hroom hnew => ?_⟩
    have hrun := task_enqueues hi hn hk ho hd h0 h1 ht hroom
    have hme : (((enqueued s t (t.gv e) (t.segs[arg].base.toNat + (t.av arg).toNat)).modDesc s.nextTag Desc.lower).advance t).me = some
        { t with visible := true, spare := false, status := .ready, pc := State.succ ((enqueued s t (t.gv e)
          (t.segs[arg].base.toNat + (t.av arg).toNat)).modDesc s.nextTag Desc.lower) t } := by
      rw [State.advance, State.me_goto, me_modDesc, me_enqueued hi.1]
      rfl
    have hstore : s.SameStore ((enqueued s t (t.gv e) (t.segs[arg].base.toNat + (t.av arg).toNat)).modDesc s.nextTag Desc.lower) := ⟨rfl, rfl⟩
    refine ⟨_, _, _, hrun, hme, hstore.succ rfl t, rfl, fun r _ => Thread.cell_congr t rfl rfl rfl r, rfl, tasks_after_task hnew, rfl, rfl, rfl, ?_,
      rfl, rfl, ?_, rfl, rfl, rfl, rfl, rfl, rfl⟩
    · exact (s.core_modSlot_read s.cur.core s.cur.core s.cur.slot Core.itag _ fun _ _ => rfl)
    · have hprio : t.taskPrio = min t.prio 3 := by
        unfold Thread.taskPrio
        split <;> omega
      show (BitVec.ofNat 2 t.taskPrio).toNat = min t.prio 3
      rw [hprio, BitVec.toNat_ofNat]
      omega

end Sys2Proof.Safety
end

section
/-! PROOFS. What a port, a drain and the reading of an operand leave as they are (O20, its first part). -/

set_option Elab.async false

namespace Sys2Proof.Machine

/-- A note of probes is forgotten. -/
def Thread.uncarried (t : Thread) : Thread := { t with carried := none }

/-- A side effect of the thread is visible. -/
def Thread.showing (t : Thread) : Thread := { t with visible := true }

end Sys2Proof.Machine

namespace Sys2Proof.Safety

open Sys2Proof.Machine Sys2Proof.Claims

variable {s u : State} {k n : Nat}

/-! ### The cores, the current slot and the map of the cores stay -/

/-- Threads stand where they stood, and every device address has the place that it had. -/
structure SameSites (s u : State) : Prop where
  cores : u.cores = s.cores
  cur   : u.cur = s.cur
  lmap  : u.lmap = s.lmap

namespace SameSites

theorem refl (s : State) : SameSites s s := ⟨rfl, rfl, rfl⟩

theorem trans {v : State} (h : SameSites s u) (g : SameSites u v) : SameSites s v :=
  ⟨g.cores.trans h.cores, g.cur.trans h.cur, g.lmap.trans h.lmap⟩

theorem of_stirs (h : Stirs s u) : SameSites s u :=
  ⟨(congrArg State.cores h.rest :), (congrArg State.cur h.rest :), (congrArg State.lmap h.rest :)⟩

theorem me (h : SameSites s u) : u.me = s.me := by
  simp only [State.me, State.threadAt, State.slot, State.core, h.cores, h.cur]

theorem foldl {α : Type} {f : State → α → State} (hf : ∀ s x, SameSites s (f s x)) (xs : List α) (s : State) :
    SameSites s (xs.foldl f s) := foldl_rel refl trans hf xs s

theorem ite {v : State} {P : Prop} [Decidable P] (h : SameSites s u) (g : SameSites s v) : SameSites s (if P then u else v) := by
  split
  · exact h
  · exact g

/-! ### A correction, a write at a home, and a port -/

theorem note (src : Source) (ty payload : Nat) : SameSites s (s.note src ty payload) := ⟨rfl, rfl, rfl⟩

theorem correctWord (w : Nat) : SameSites s (s.correctWord w) := by
  unfold State.correctWord
  split <;> exact ⟨rfl, rfl, rfl⟩

theorem correct : SameSites s (s.correct k n) := ite (refl s) (foldl (fun _ _ => correctWord _) _ s)

theorem correctNoted : SameSites s (s.correctNoted k n) := by
  refine ite (refl s) (foldl (fun s w => ?_) _ s)
  split
  · exact refl s
  · exact refl s
  · dsimp only
    split
    · exact (correctWord w).trans (note _ _ _)
    · exact correctWord w

theorem correctEdges : SameSites s (s.correctEdges k n) := ite (refl s) (foldl (fun _ _ => correctNoted) _ s)

theorem store (b : List Byte) : SameSites s (s.store k b) := correct.trans ⟨rfl, rfl, rfl⟩

theorem clearLost : SameSites s (s.clearLost k n) := ⟨rfl, rfl, rfl⟩

theorem refetch : SameSites s (s.refetch k n) := ite (refl s) ⟨rfl, rfl, rfl⟩

theorem homeWrite (b : List Byte) : SameSites s (s.homeWrite k b) :=
  (((((correctEdges.trans (store b)).trans (of_stirs .clearRel)).trans clearLost).trans (of_stirs .wakeWatchers)).trans
    (of_stirs .wakeAwaits)).trans refetch

theorem walkNotes (part ctx va : Nat) : SameSites s (s.walkNotes part ctx va) :=
  ite (refl s) (foldl (fun _ _ => correctNoted) _ s)

theorem openSparse (e : Word) : SameSites s (s.openSparse e) := by
  unfold State.openSparse
  dsimp only
  repeat' split
  all_goals exact ⟨rfl, rfl, rfl⟩

theorem setD (port part ctx va : Nat) : SameSites s (s.setD port part ctx va) := by
  unfold State.setD
  split
  · exact refl s
  · dsimp only
    refine ite (refl s) ?_
    refine (foldl (fun s k => ?_) _ s).trans ⟨rfl, rfl, rfl⟩
    exact ite correctNoted (correctNoted.trans (homeWrite _))

/-- Translation that finds a leaf caches it, and notes what its walk corrects. -/
theorem translate {port part ctx va base size key : Nat} {leaf : Word}
    (h : (s.translate port part ctx va).1 = .leaf base size leaf key) : SameSites s (s.translate port part ctx va).2 := by
  unfold State.translate at h ⊢
  split
  · exact refl s
  · next hc =>
    rw [hc] at h
    dsimp only at h
    split
    · exact ((walkNotes part ctx va).trans (openSparse _)).trans ⟨rfl, rfl, rfl⟩
    · next hl => rw [hl] at h; cases h
    · exact walkNotes part ctx va

theorem portLeaf (port part ctx va : Nat) (k : AccKind) (need : Need) (base : Nat) (leaf : Word) :
    SameSites s (s.portLeaf port part ctx va k need base leaf).2 := by
  unfold State.portLeaf
  dsimp only
  repeat' split
  · exact refl s
  · exact refl s
  · exact refl s
  · exact refl s
  · exact refl s
  · exact setD port part ctx va
  · exact refl s

/-- A port that accepts an access moves no thread. -/
theorem port {port part ctx va : Nat} {k : AccKind} {need : Need} {x : Xl} (h : s.port port part ctx va k need = (.ok x, u)) :
    SameSites s u := by
  unfold State.port at h
  split at h
  · cases h
  · split at h
    · cases h
    · cases h
    · cases h
    · cases h
    · next base size leaf key s1 ht =>
      have h1 : SameSites s s1 := by
        have := translate (s := s) (congrArg Prod.fst ht)
        rwa [ht] at this
      split at h
      · cases h
      · have h2 := portLeaf (s := s1) port part ctx va k need base leaf
        rw [h] at h2
        exact h1.trans h2

end SameSites

/-- A thread's own window stack lies where the map of the cores and its home put it. -/
theorem inOwnStack_congr (hl : u.lmap = s.lmap) (hc : u.cur = s.cur) (t : Thread) (va n : Nat) :
    u.inOwnStack t va n = s.inOwnStack t va n := by
  simp only [State.inOwnStack, State.spaceOf, State.coreIn, State.homeOf, State.physOf, hl, hc]

/-! ### The record that a release leaves of its drain -/

section
variable {t : Thread} {rel : Option Scope}

/-- A drain leaves the state, a thread that forgets its probes, or a record. -/
theorem drainNote_cases (s : State) (t : Thread) (rel : Option Scope) :
    drainNote s t rel = s ∨ drainNote s t rel = s.modMe Thread.uncarried ∨
      ∃ src ty payload, drainNote s t rel = s.note src ty payload := by
  cases rel with
  | none => exact .inl rfl
  | some sc =>
    refine .inr ?_
    unfold drainNote
    dsimp only
    split
    · exact .inl rfl
    · exact .inr ⟨_, _, _, rfl⟩

theorem cur_drainNote : (drainNote s t rel).cur = s.cur := by
  obtain h | h | ⟨src, ty, payload, h⟩ := drainNote_cases s t rel <;> rw [h] <;> rfl

theorem lmap_drainNote : (drainNote s t rel).lmap = s.lmap := by
  obtain h | h | ⟨src, ty, payload, h⟩ := drainNote_cases s t rel <;> rw [h] <;> rfl

/-- The two threads hold the same registers, accesses, predicates and stack of streams, at one PC. -/
structure SameBody (t w : Thread) : Prop where
  cell : ∀ q, w.cell q = t.cell q
  pc   : w.pc = t.pc
  oar  : w.oar = t.oar
  rlx  : w.rlx = t.rlx
  pw   : w.pw = t.pw
  sst  : w.sst = t.sst

theorem SameBody.refl (t : Thread) : SameBody t t := ⟨fun _ => rfl, rfl, rfl, rfl, rfl, rfl⟩

theorem SameBody.uncarried (t : Thread) : SameBody t t.uncarried := ⟨fun _ => t.cell_congr rfl rfl rfl _, rfl, rfl, rfl, rfl, rfl⟩

/-- The thread loses at most what it had noted of its probes. -/
theorem me_drainNote (h : s.me = some t) : ∃ w, (drainNote s t rel).me = some w ∧ SameBody t w := by
  obtain e | e | ⟨src, ty, payload, e⟩ := drainNote_cases s t rel
  · exact ⟨t, by rw [e]; exact h, .refl t⟩
  · exact ⟨t.uncarried, by rw [e, State.me_modMe, h]; rfl, .uncarried t⟩
  · exact ⟨t, by rw [e]; exact h, .refl t⟩

/-- An update of the issuing thread is not seen where an operand is read. -/
theorem peek_modMe (f : Thread → Thread) (x : Operand) : (s.modMe f).peek t x = s.peek t x := by
  have hq : (s.modMe f).myCore.q = s.myCore.q := State.core_modSlot_read _ _ _ _ Core.q _ (fun _ _ => rfl)
  have hsl := State.slot_modSlot_same s s.cur.core s.cur.slot (fun sl => { sl with occ := sl.occ.map f })
  cases x with
  | q m => simp only [State.peek, hq]
  | nf => exact (congrArg Slot.nf hsl :)
  | rq => exact (congrArg (fun sl : Slot => sl.rq.headD 0) hsl :)
  | g _ | a _ | zr => rfl

/-- A drain reads no operand. -/
theorem peek_drainNote (x : Operand) : (drainNote s t rel).peek t x = s.peek t x := by
  obtain e | e | ⟨src, ty, payload, e⟩ := drainNote_cases s t rel
  · rw [e]
  · rw [e, peek_modMe]
  · rw [e]; rfl

/-- A drain that is complete goes on with its record. -/
theorem beginDrain_eq {sc : Scope} (h : t.drained s.cur.core sc = true) (ho : t.oar = none) :
    s.beginDrain t sc = .ok (drainNote s t (some sc)) := by
  simp [State.beginDrain, drainNote, h, ho]

end

end Sys2Proof.Safety
end

section
/-! PROOFS. An access that has passed its checks is sent (O20, its second part). -/

set_option Elab.async false

namespace Sys2Proof.Machine

open Sys2Proof.Safety

/-! ## What an access does to the issuing thread (R126, R186) -/

section
variable (t : Thread) (d : Operand) (tag : Nat)

/-- The cell of a register awaits a message. -/
def RegCell.awaits (tag : Nat) (x : RegCell) : RegCell := { x with full := false, pend := some tag }

/-- The destination of an access awaits its message. -/
def Thread.reserving (d : Operand) (tag : Nat) (t : Thread) : Thread :=
  match d with
  | .g n => t.setCell (.g n) ((t.cell (.g n)).awaits tag)
  | .a n => t.setCell (.a n) ((t.cell (.a n)).awaits tag)
  | .q _ => { t with spare := false }
  | .nf | .rq | .zr => t

theorem Thread.cell_reserving (r : RegName) :
    (t.reserving d tag).cell r = if r ∈ regsOf d then (t.cell r).awaits tag else t.cell r := by
  cases d with
  | g n =>
    simp only [Thread.reserving, Thread.cell_setCell, regsOf, List.mem_singleton]
    split
    · next h => rw [h]
    · rfl
  | a n =>
    simp only [Thread.reserving, Thread.cell_setCell, regsOf, List.mem_singleton]
    split
    · next h => rw [h]
    · rfl
  | q n => exact t.cell_congr rfl rfl rfl r
  | nf | rq | zr => rfl

theorem Thread.reserving_rest : { t.reserving d tag with g := t.g, win := t.win, a := t.a, spare := t.spare } = t := by
  cases d with
  | g n => exact congrArg (fun u : Thread => { u with spare := t.spare }) (t.setCell_rest (.g n) _)
  | a n | q n | nf | rq | zr => rfl

/-- A place that is kept for a message changes no value. -/
theorem Thread.av_reserving (p : Fin 8) : (t.reserving d tag).av p = t.av p := by
  show ((t.reserving d tag).cell (.a p)).val = (t.cell (.a p)).val
  rw [Thread.cell_reserving]
  split <;> rfl

/-- The pointer of an access has moved by its size, where it does so. -/
def Thread.bumped (a : Access) (t : Thread) : Thread :=
  if a.inc then t.setCell (.a a.p) (.of (t.av a.p + BitVec.ofNat 64 a.n)) else t

variable (a : Access)

theorem Thread.cell_bumped (r : RegName) :
    (t.bumped a).cell r = if a.inc = true ∧ r = .a a.p then .of (t.av a.p + BitVec.ofNat 64 a.n) else t.cell r := by
  cases h : a.inc <;> simp [Thread.bumped, h, Thread.cell_setCell]

theorem Thread.bumped_rest : { t.bumped a with g := t.g, win := t.win, a := t.a } = t := by
  unfold Thread.bumped
  split <;> rfl

end

section
variable (s : State) (d : Operand) (tag : Nat) (a : Access)

theorem State.me_reserve : (s.reserve d tag).2.me = s.me.map (Thread.reserving d tag) := by
  have keep : ∀ o : Option Thread, o = o.map (fun t => t) := fun o => by simp
  cases d with
  | g n => exact s.me_modMe _
  | a n => exact s.me_modMe _
  | q n =>
    exact ((s.modMe (fun t => { t with spare := false })).me_modCore s.cur.core (fun k => k.pushQ n (.res tag) s.time.toNat)
      (fun _ => rfl)).trans (s.me_modMe _)
  | nf => exact keep _
  | rq => exact keep _
  | zr => exact keep _

theorem State.me_bumpPtr : (s.bumpPtr a).me = s.me.map (Thread.bumped a) := by
  have keep : ∀ o : Option Thread, o = o.map (fun t => t) := fun o => by simp
  unfold State.bumpPtr Thread.bumped
  cases a.inc with
  | false => exact keep _
  | true => exact s.me_modMe _

theorem State.mem_reserve : (s.reserve d tag).2.mem = s.mem := by cases d <;> rfl

theorem State.mem_bumpPtr : (s.bumpPtr a).mem = s.mem := by unfold State.bumpPtr; split <;> rfl

/-- The status of a thread whose access has been sent (R126). -/
def Access.statusAt (a : Access) (tag cls : Nat) (rlx : Bool) : Status :=
  if !rlx && ((cls == 1 && !a.op.isLoad) || a.op.flags) then .held tag else .ready

/-- The state of the issuing thread, with its access sent, from the one before. -/
def Thread.sent (a : Access) (tag name cls : Nat) (rlx : Bool) (pc : Word) (t : Thread) : Thread :=
  ((t.reserving a.dst tag).bumped a).sends a tag (bankOf name) (padBank (bankOf name)) rlx pc (a.statusAt tag cls rlx)

/-- The message of an access that met no fault enters the network, and its thread goes on. -/
theorem State.sendAccess_eq (t : Thread) (va name cls : Nat) (gran : Gran) (rlx : Bool) (h : a.unchk = false) :
    let m := a.msg s t va name cls gran rlx (s.reserve a.dst s.nextTag).1
    (s.sendAccess t a va name cls gran rlx none).me = s.me.map (Thread.sent a s.nextTag name cls rlx (s.after t a.pre)) ∧
    m ∈ (s.sendAccess t a va name cls gran rlx none).net ∧ (s.sendAccess t a va name cls gran rlx none).mem = s.mem := by
  refine ⟨?_, List.mem_append_right _ (List.mem_singleton.mpr rfl), ?_⟩
  · have hd : (((none : Option FaultKind).isSome || a.unchk) && !rlx) = false := by simp [h]
    have hme : (((s.reserve a.dst s.nextTag).2.bumpPtr a).modMe (Thread.sends a s.nextTag (bankOf name) (padBank (bankOf name)) rlx
        (s.after t a.pre) (a.statusAt s.nextTag cls rlx))).me = s.me.map (Thread.sent a s.nextTag name cls rlx (s.after t a.pre)) := by
      rw [State.me_modMe, State.me_bumpPtr, State.me_reserve]
      cases s.me <;> rfl
    unfold State.sendAccess
    dsimp only
    rw [hd]
    exact hme
  · exact (State.mem_bumpPtr _ a).trans (State.mem_reserve s a.dst s.nextTag)

end

end Sys2Proof.Machine
end

section
/-! PROOFS. What stands once an access of a row has been committed (O20, its third part). -/

set_option Elab.async false

namespace Sys2Proof.Safety

open Sys2Proof.Machine Sys2Proof.Claims

variable {s s1 s2 s' s'' : State} {t u w : Thread} {r : AccessRow} {m : Msg} {v : Word} {opc name cls tag : Nat} {rlx : Bool} {gran : Gran}

/-- The access that a row asks for, with the value of its data. -/
def request (r : AccessRow) (opc : Nat) (t : Thread) (v : Word) : Access :=
  { opc := opc, p := r.p, off := r.off, n := r.n, align := r.align, kind := r.kind, need := r.need, hall := r.hall, rlx := r.rlx
    pre := r.pre, op := r.op t v, dst := r.dst, inc := r.inc, pred := r.pred, acq := r.acq, side := r.side, alone := false
    unchk := false }

/-- The message of an access of a row. -/
def MessageOf (s : State) (t : Thread) (r : AccessRow) (v : Word) (name cls : Nat) (rlx : Bool) (m : Msg) : Prop :=
  m.who = t.id ∧ m.part = t.part ∧ m.core = s.cur.core ∧ m.slot = s.cur.slot ∧ m.pc = t.pc ∧ m.va = accessVa t r ∧ m.pa = name ∧
    m.bytes = r.n ∧ m.cls = cls ∧ m.bank = bankOf name ∧ m.op = r.op t v ∧ m.rlx = rlx

/-- What an access of a row leaves of the registers of its thread, with the tag of its message. -/
structure RegsAfter (t : Thread) (r : AccessRow) (tag : Nat) (u : Thread) : Prop where
  dst : ∀ q ∈ regsOf r.dst, (u.cell q).full = false ∧ (u.cell q).pend = some tag
  ptr : r.inc = true → u.cell (.a r.p) = .of (t.av r.p + BitVec.ofNat 64 r.n)
  rest : RegsBut t u (regsOf r.dst ++ if r.inc then [.a r.p] else [])

/-- What an access of a row leaves of its thread beside the registers: it goes on at a PC, holds the access, and shows its effect unless it
is quiet. -/
structure ThreadAfter (t : Thread) (r : AccessRow) (tag : Nat) (bank : Bank) (rlx : Bool) (pc : Word) (quiet : Prop) (u : Thread) : Prop where
  pc : u.pc = pc
  holds : if rlx then u.oar = none ∧ ∃ e ∈ u.rlx, e.tag = tag ∧ e.bank = bank
    else u.oar = some ⟨tag, r.acq, false, none⟩ ∧ u.rlx = t.rlx
  pw : u.pw = t.pw
  sst : u.sst = t.sst
  shows : r.side = true → u.visible = true ∨ quiet
  pred : ∀ p, r.pred = some p → p ≠ 0 → (p, tag) ∈ u.predPend

/-- A store into the own window stack. -/
def QuietStore (s : State) (t : Thread) (r : AccessRow) (v : Word) : Prop :=
  s.inOwnStack t (accessVa t r) r.n = true ∧ ∃ b rel, r.op t v = .store b rel

/-- An access of a row has been sent. -/
def Sent (s s2 : State) (t : Thread) (r : AccessRow) (v : Word) (name cls : Nat) (rlx : Bool) (s' : State) : Prop :=
  ∃ u m, s'.me = some u ∧ m ∈ s'.net ∧ MessageOf s t r v name cls rlx m ∧ RegsAfter t r m.tag u ∧
    ThreadAfter t r m.tag m.bank rlx (succPc (s2.myLine t) (if r.pre then t.pc + 2 else t.pc)) (QuietStore s t r v) u ∧ s'.mem = s2.mem

/-! ### The thread -/

/-- The registers that a thread has sent an access with. -/
theorem regsAfter_sent (hi : r.inc = true → .a r.p ∉ regsOf r.dst) (hb : SameBody t w) (pc : Word) :
    RegsAfter t r tag (w.sent (request r opc t v) tag name cls rlx pc) := by
  have hcell : ∀ q, (w.sent (request r opc t v) tag name cls rlx pc).cell q =
      if r.inc = true ∧ q = .a r.p then .of (t.av r.p + BitVec.ofNat 64 r.n)
      else if q ∈ regsOf r.dst then (t.cell q).awaits tag else t.cell q := fun q => by
    have hav : (w.reserving r.dst tag).av r.p = t.av r.p := by
      rw [Thread.av_reserving]
      exact congrArg RegCell.val (hb.cell (.a r.p))
    have hs : (w.sent (request r opc t v) tag name cls rlx pc).cell q = ((w.reserving r.dst tag).bumped (request r opc t v)).cell q :=
      Thread.cell_congr _ rfl rfl rfl q
    rw [hs, Thread.cell_bumped, Thread.cell_reserving, hb.cell]
    show (if r.inc = true ∧ q = .a r.p then RegCell.of ((w.reserving r.dst tag).av r.p + BitVec.ofNat 64 r.n) else _) = _
    rw [hav]
  constructor
  · intro q hq
    have hne : ¬(r.inc = true ∧ q = .a r.p) := fun h => hi h.1 (h.2 ▸ hq)
    rw [hcell, if_neg hne, if_pos hq]
    exact ⟨rfl, rfl⟩
  · intro h
    rw [hcell, if_pos ⟨h, rfl⟩]
  · intro q hq
    rw [List.mem_append, not_or] at hq
    rw [hcell, if_neg, if_neg hq.1]
    rintro ⟨h, rfl⟩
    simp [h] at hq

/-- A thread has sent an access: what it holds of it. -/
theorem threadAfter_sent (hb : SameBody t w) (ho : t.oar = none) (pc : Word) {quiet : Prop} (hq : r.side = true → quiet) :
    ThreadAfter t r tag (bankOf name) rlx pc quiet (w.sent (request r opc t v) tag name cls rlx pc) := by
  have hrest : { (w.reserving r.dst tag).bumped (request r opc t v) with g := w.g, win := w.win, a := w.a, spare := w.spare } = w :=
    (congrArg (fun x : Thread => { x with g := w.g, win := w.win, a := w.a, spare := w.spare })
      ((w.reserving r.dst tag).bumped_rest (request r opc t v)) :).trans (w.reserving_rest r.dst tag)
  have hoar : ((w.reserving r.dst tag).bumped (request r opc t v)).oar = none := (congrArg Thread.oar hrest :).trans (hb.oar.trans ho)
  have hrlx : ((w.reserving r.dst tag).bumped (request r opc t v)).rlx = t.rlx := (congrArg Thread.rlx hrest :).trans hb.rlx
  constructor
  case pc => rfl
  case holds =>
    cases rlx with
    | true =>
      refine ⟨?_, _, List.mem_append_right _ (List.mem_singleton.mpr rfl), rfl, rfl⟩
      show ((w.reserving r.dst tag).bumped (request r opc t v)).oar.map _ = none
      rw [hoar]
      rfl
    | false => exact ⟨rfl, hrlx⟩
  case pw => exact (congrArg Thread.pw hrest :).trans hb.pw
  case sst => exact (congrArg Thread.sst hrest :).trans hb.sst
  case shows => exact fun h => .inr (hq h)
  case pred =>
    intro p hp hne
    show (p, tag) ∈ (match r.pred with
      | some p => if p = 0 then _ else (p, tag) :: ((w.reserving r.dst tag).bumped (request r opc t v)).predPend
      | none => _)
    rw [hp]
    dsimp only
    rw [if_neg hne]
    exact List.mem_cons_self ..

theorem RegsAfter.congr (h : RegsAfter t r tag u) (hc : ∀ q, w.cell q = u.cell q) : RegsAfter t r tag w :=
  ⟨fun q hq => hc q ▸ h.dst q hq, fun hi => (hc _).trans (h.ptr hi), fun q hq => (hc q).trans (h.rest q hq)⟩

theorem ThreadAfter.showing {bank : Bank} {pc : Word} {quiet quiet' : Prop} (h : ThreadAfter t r tag bank rlx pc quiet' u) :
    ThreadAfter t r tag bank rlx pc quiet u.showing :=
  ⟨h.pc, h.holds, h.pw, h.sst, fun _ => .inl rfl, h.pred⟩

/-! ### The state -/

/-- Nothing else happens in a step but to the issuing thread, in what no access changes. -/
structure Calm (s' s'' : State) : Prop where
  net : s''.net = s'.net
  mem : s''.mem = s'.mem
  me  : ∀ u, s'.me = some u → ∃ st at' n rsv, s''.me = some { u with status := st, parkedAt := at', rolled := n, rsv := rsv }

theorem Sent.calm (h : Sent s s2 t r v name cls rlx s') (hc : Calm s' s'') : Sent s s2 t r v name cls rlx s'' := by
  obtain ⟨u, m, hu, hm, hmsg, hregs, hth, hmem⟩ := h
  obtain ⟨st, at', n, rsv, hw⟩ := hc.me u hu
  exact ⟨_, m, hw, hc.net ▸ hm, hmsg, hregs.congr fun q => Thread.cell_congr _ rfl rfl rfl q,
    ⟨hth.pc, hth.holds, hth.pw, hth.sst, hth.shows, hth.pred⟩, hc.mem.trans hmem⟩

/-- What the machine takes for quiet is a store into the own window stack (R24). -/
theorem quietStore_of_quiet (hl : s2.lmap = s.lmap) (hc : s2.cur = s.cur)
    (h : s2.quiet t (request r opc t v) (accessVa t r) = true) : QuietStore s t r v := by
  have hop : (request r opc t v).op = r.op t v := rfl
  unfold State.quiet at h
  rw [hop] at h
  split at h
  · next b rel e => exact ⟨(inOwnStack_congr hl hc t _ _).symm.trans h, b, rel, e⟩
  · cases h

/-- An access of a row is sent from a state in which its thread still stands. -/
theorem sent_commit (hns : NotSpark t) (hi : r.inc = true → .a r.p ∉ regsOf r.dst) (ho : t.oar = none) (hme : s2.me = some w)
    (hb : SameBody t w) (hcur : s2.cur = s.cur) (hlmap : s2.lmap = s.lmap) :
    Sent s s2 t r v name cls rlx (s2.commit t (request r opc t v) (accessVa t r) name cls gran rlx none) := by
  obtain ⟨hsme, hnet, hmem⟩ := s2.sendAccess_eq (request r opc t v) t (accessVa t r) name cls gran rlx rfl
  rw [hme] at hsme
  have hregs := regsAfter_sent (opc := opc) (v := v) (tag := s2.nextTag) (name := name) (cls := cls) (rlx := rlx) hi hb (s2.after t r.pre)
  have hth : ∀ {quiet : Prop}, (r.side = true → quiet) → ThreadAfter t r s2.nextTag (bankOf name) rlx
      (succPc (s2.myLine t) (if r.pre then t.pc + 2 else t.pc)) quiet
      (w.sent (request r opc t v) s2.nextTag name cls rlx (s2.after t r.pre)) := fun hq => by
    have hpc : s2.after t r.pre = succPc (s2.myLine t) (if r.pre then t.pc + 2 else t.pc) := by
      unfold State.after
      split <;> rfl
    rw [← hpc]
    exact threadAfter_sent hb ho _ hq
  have hmsg : MessageOf s t r v name cls rlx ((request r opc t v).msg s2 t (accessVa t r) name cls gran rlx (s2.reserve r.dst s2.nextTag).1) :=
    ⟨rfl, rfl, congrArg (·.core) hcur, congrArg (·.slot) hcur, rfl, rfl, rfl, rfl, rfl, rfl, rfl, rfl⟩
  rw [State.commit_eq hns]
  split
  · have hshown := (s2.sendAccess t (request r opc t v) (accessVa t r) name cls gran rlx none).me_modMe Thread.showing
    rw [hsme] at hshown
    exact ⟨_, _, hshown, hnet, hmsg, hregs.congr fun q => Thread.cell_congr _ rfl rfl rfl q,
      (hth (quiet := True) fun _ => trivial).showing, hmem⟩
  · next hq =>
    refine ⟨_, _, hsme, hnet, hmsg, hregs, hth fun hside => ?_, hmem⟩
    have hside' : (request r opc t v).side = true := hside
    exact quietStore_of_quiet hlmap hcur (by simpa [hside'] using hq)

end Sys2Proof.Safety
end

section
/-! PROOFS. An access of a row that passes its checks is refused by a table or sent (O20, its fourth part). -/

set_option Elab.async false

namespace Sys2Proof.Safety

open Sys2Proof.Machine Sys2Proof.Claims

variable {s s1 s2 s' : State} {t : Thread} {r : AccessRow} {v : Word} {opc name cls : Nat} {rlx : Bool}

theorem accWait_request (h : MayAccess s t r) : t.accWait r.rlx = false := by
  obtain ⟨-, -, ho, hl, -, -⟩ := h
  unfold Thread.accWait
  split
  · have hl' : ¬16 ≤ t.rlx.length := by omega
    simp [ho, hl']
  · simp [ho]

/-- No registered range forbids the access. -/
def NotForbidden (s : State) (t : Thread) (r : AccessRow) : Prop :=
  r.hall.any (fun w => s.hallHit s.cur.core (accessVa t r) r.n w) = false

/-- An access that is placed has an address that passes its checks, whatever state a trap would leave. -/
theorem locate_request (hp : PointerOk t r) (hh : NotForbidden s t r) (hpl : Placed s s1 t r name cls rlx s2) :
    ∃ sp, ∀ base, s.locate base t (request r opc t v) = .ok (accessVa t r, sp) := by
  obtain ⟨off, hs, hx, -, -, -, -, -⟩ | ⟨x, hs, -, -, -, -⟩ := hpl
  · exact ⟨_, fun base => State.locate_own hp.1 rfl hp.2 hs hx hh⟩
  · exact ⟨_, fun base => State.locate_glob hp.1 rfl hp.2 hs hh⟩

/-- An access that is placed is issued to its place. -/
theorem access_request (hm : MayAccess s t r) (hp : PointerOk t r) (hh : NotForbidden s t r) (hpl : Placed s s1 t r name cls rlx s2) :
    ∃ gran, s.access s1 t (request r opc t v) = s.issueTo s2 t (request r opc t v) (accessVa t r) name cls gran rlx none := by
  have hw : t.accWait (request r opc t v).rlx = false := accWait_request hm
  obtain ⟨off, hs, hx, hk, rfl, rfl, rfl, rfl⟩ | ⟨x, hs, hport, rfl, rfl, rfl⟩ := hpl
  · have hl := State.locate_own (va := accessVa t r) (base := s2) (a := request r opc t v) hp.1 rfl hp.2 hs hx hh
    have hk' : (request r opc t v).kind.allowed none = true := hk
    refine ⟨none, ?_⟩
    simp [State.access, hw, hl, hk']
    rfl
  · have hl := State.locate_glob (va := accessVa t r) (base := s1) (a := request r opc t v) hp.1 rfl hp.2 hs hh
    have hport' : s1.port (quadOf s.cur.core) t.part t.id.ctx.toNat (accessVa t r) (request r opc t v).kind (request r opc t v).need =
      (.ok x, s2) := hport
    refine ⟨x.gran, ?_⟩
    simp [State.access, hw, hl, hport']
    rfl

/-- An ordinary access that a table on its way refuses is stopped with its device address (R273, R368). -/
theorem issueTo_refused {a : Access} {va : Nat} {gran : Gran} (ho : t.oar = none)
    (hg : s.grantsTo s.cur.core t.part (bankOf name) name a.op.rights = false) :
    s.issueTo s2 t a va name cls gran false none = .error (.sup cACCESS (w64 va), s2) := by
  simp [State.issueTo, ho, hg, stop]

/-- A place moves no thread and no core. -/
theorem sameSites_of_placed (h : Placed s s1 t r name cls rlx s2) : SameSites s1 s2 := by
  obtain ⟨off, -, -, -, -, -, -, rfl⟩ | ⟨x, -, hport, -, -, -⟩ := h
  · exact .refl _
  · exact .port hport

/-- What an access of a row answers: refused by a table on its way, or sent. -/
theorem access_answers (hm : MayAccess s t r) (hp : PointerOk t r) (hh : NotForbidden s t r) (hi : r.inc = true → .a r.p ∉ regsOf r.dst)
    (hpl : Placed s ((drainNote s t r.rel).pop r.data) t r name cls rlx s2) :
    let granted := s.grantsTo s.cur.core t.part (bankOf name) name (r.op t v).rights
    let a := s.access ((drainNote s t r.rel).pop r.data) t (request r opc t v)
    (∃ w, s2.me = some w ∧ w.pc = t.pc) ∧
    (rlx = false → granted = false → a = .error (.sup 0x45 (BitVec.ofNat 64 (accessVa t r)), s2)) ∧
    ((rlx = false → granted = true) → ∃ s', a = .ok s' ∧ Sent s s2 t r v name cls rlx s') := by
  intro granted a
  obtain ⟨gran, ha⟩ := access_request (opc := opc) (v := v) hm hp hh hpl
  obtain ⟨⟨hme, -, -⟩, hns, ho, -, -, -⟩ := hm
  obtain ⟨w, hw, hb⟩ := me_drainNote (rel := r.rel) hme
  have hsites := sameSites_of_placed hpl
  have hw2 : s2.me = some w := by rw [hsites.me, State.me_pop]; exact hw
  refine ⟨⟨w, hw2, hb.pc⟩, fun hr hg => ?_, fun hg => ?_⟩
  · subst hr
    exact ha.trans (issueTo_refused (a := request r opc t v) ho hg)
  · have hgrant : rlx = true ∨ (none : Option FaultKind).isSome = true ∨
        s.grantsTo s.cur.core t.part (bankOf name) name (request r opc t v).op.rights = true := by
      cases rlx with
      | true => exact .inl rfl
      | false => exact .inr (.inr (hg rfl))
    refine ⟨_, ha.trans (State.issueTo_eq ho hgrant), sent_commit hns hi ho hw2 hb ?_ ?_⟩
    · rw [hsites.cur, State.pop_cur, cur_drainNote]
    · rw [hsites.lmap, State.pop_lmap, lmap_drainNote]

end Sys2Proof.Safety
end

section
/-! PROOFS. Each access instruction issues the access of its row (O20, its fifth part). -/

set_option Elab.async false

namespace Sys2Proof.Safety

open Sys2Proof.Machine Sys2Proof.Claims

variable {s s1 s2 s' : State} {t : Thread} {r : AccessRow} {p : Fin 8} {opc : Nat} {o : AtomCtl} {off : Word}

/-! ### What an instruction does after its access -/

/-- What follows an access in its instruction changes nothing that the access has left. -/
def Harmless (g : State → Eff) : Prop := ∀ s', ∃ s'', g s' = .ok s'' ∧ Calm s' s''

theorem calm_refl (s : State) : Calm s s := ⟨rfl, rfl, fun u h => ⟨u.status, u.parkedAt, u.rolled, u.rsv, h⟩⟩

theorem harmless_ok : Harmless .ok := fun s' => ⟨s', rfl, calm_refl s'⟩

/-- A reservation is given up. -/
def noRsv (t : Thread) : Thread := { t with rsv := none }

theorem harmless_noRsv : Harmless fun s1 => pure (s1.modMe noRsv) :=
  fun s' => ⟨_, rfl, rfl, rfl, fun u h => ⟨u.status, u.parkedAt, u.rolled, none, by rw [State.me_modMe, h]; rfl⟩⟩

/-- A thread that parks keeps what its access has left. -/
theorem calm_park (s : State) (w : Wait) : Calm s (s.park w) := by
  unfold State.park State.parkAt
  split
  · exact calm_refl s
  · next t ht =>
    have hme : (s.modMe (Thread.park w s.time.toNat)).me = some (t.park w s.time.toNat) := by
      rw [State.me_modMe]
      exact congrArg (Option.map _) ht
    have hu : ∀ u, s.me = some u → t.park w s.time.toNat = u.park w s.time.toNat := fun u hu =>
      congrArg _ (Option.some.inj (ht.symm.trans hu))
    dsimp only
    split
    · exact ⟨rfl, rfl, fun u h => ⟨_, _, _, _, hme.trans (congrArg some (hu u h))⟩⟩
    · exact ⟨rfl, rfl, fun u h => ⟨_, _, _, _, hme.trans (congrArg some (hu u h))⟩⟩

theorem harmless_awaitIt (w : Wait) : Harmless fun s1 => pure (s1.awaitIt w) := by
  intro s'
  refine ⟨_, rfl, ?_⟩
  unfold State.awaitIt
  split
  · split
    · exact calm_refl s'
    · exact calm_park s' w
  · exact calm_refl s'

/-- An instruction issues the access of a row, and then does nothing that the row speaks of. -/
def IssuesRow (i : Instr) (r : AccessRow) (s : State) (t : Thread) : Prop :=
  ∃ opc g, Harmless g ∧
    exec i s = Eff.done (s.access ((drainNote s t r.rel).pop r.data) t (request r opc t (s.peek t r.data)) >>= g)

theorem issuesRow_of_eq {i : Instr} (h : exec i s =
    Eff.done (s.access ((drainNote s t r.rel).pop r.data) t (request r opc t (s.peek t r.data)))) : IssuesRow i r s t := by
  refine ⟨opc, .ok, harmless_ok, h.trans (congrArg Eff.done ?_)⟩
  cases s.access ((drainNote s t r.rel).pop r.data) t (request r opc t (s.peek t r.data)) <;> rfl

/-! ### Operands and drains -/

theorem ready_of_mayAccess (h : MayAccess s t r) : s.ready r.srcs [r.dst] r.ps = .ok t := by
  obtain ⟨⟨hme, hw, hp⟩, -⟩ := h
  exact State.ready_eq hme hw hp

/-- The extent of an order bit has drained. -/
def Drained (s : State) (t : Thread) (rel : Option Scope) : Prop := rel.all (fun sc => t.drained s.cur.core sc) = true

section
variable (h : MayAccess s t r)
include h

theorem me_of_mayAccess : s.me = some t := h.1.1

theorem oar_of_mayAccess : t.oar = none := by
  obtain ⟨-, -, ho, -, -, -⟩ := h
  exact ho

theorem early_of_mayAccess : r.early t (s.peek t r.data) := by
  obtain ⟨-, -, -, -, he, -⟩ := h
  exact he

theorem drained_of_mayAccess : Drained s t r.rel := by
  obtain ⟨-, -, -, -, -, hd⟩ := h
  exact hd

end

theorem atomDrain_eq (h : Drained s t (Machine.orderOf o.rel o.sc)) (ho : t.oar = none) :
    s.atomDrain t o = .ok (drainNote s t (Machine.orderOf o.rel o.sc)) := by
  unfold State.atomDrain
  cases hr : o.rel with
  | false => rfl
  | true =>
    rw [hr] at h
    exact beginDrain_eq h ho

/-- A drain and the reading of one operand after it. -/
theorem read1_drainNote (rel : Option Scope) (x : Operand) :
    (drainNote s t rel).read1 t x = (s.peek t x, (drainNote s t rel).pop x) := by
  rw [State.read1, peek_drainNote]

/-! ### Loads and stores (R186 to R190) -/

/-- A load of a row, as it is plain, relaxed or under `RLX`. -/
def loadAs (d : Operand) (p : Fin 8) (sz : Size) (off : Word) (inc rlx pre : Bool) (kind : AccKind) : AccessRow :=
  { loadRow d p sz off with inc := inc, rlx := rlx, pre := pre, kind := kind }

theorem load_eq {d : Operand} {sz : Size} {inc rlx pre : Bool} {kind : AccKind} (hr : s.ready [.a p] [d] [] = .ok t) :
    s.load opc d p sz off inc rlx pre kind = s.access s t (request (loadAs d p sz off inc rlx pre kind) opc t 0) := by
  simp only [State.load, hr, Eff.bind_ok]
  cases sz <;> rfl

/-- A store of a row, as it is plain, relaxed or under `RLX`, or a release. -/
def storeAs (x : Operand) (p : Fin 8) (sz : StSize) (off : Word) (inc rlx pre : Bool) (rel : Option Scope) : AccessRow :=
  { storeRow x p sz off with
    inc := inc, rlx := rlx, pre := pre, kind := if pre then .rlx else .store, rel := rel
    op := fun _ v => .store (leBytes (stBytes sz) v.toNat) rel }

theorem storeOp_eq {x : Operand} {sz : StSize} {inc rlx pre : Bool} {rel : Option Scope} (hr : s.ready [.a p, x] [] [] = .ok t)
    (hd : Drained s t rel) (ho : t.oar = none) :
    s.storeOp opc x p sz off inc rlx pre rel =
      s.access ((drainNote s t rel).pop x) t (request (storeAs x p sz off inc rlx pre rel) opc t (s.peek t x)) := by
  cases rel with
  | none =>
    simp only [State.storeOp, hr, Eff.bind_ok]
    cases sz <;> rfl
  | some sc =>
    simp only [State.storeOp, hr, Eff.bind_ok, beginDrain_eq (sc := sc) hd ho, read1_drainNote]
    cases sz <;> rfl

/-! ### Atomics (R192 to R194) -/

theorem fetchOp_eq {d x : Operand} {f : Thread → AtomFn} (hr : s.ready [.a p, x] [d] [] = .ok t)
    (hd : Drained s t (Machine.orderOf o.rel o.sc)) (ho : t.oar = none) :
    s.fetchOp opc d p x o f =
      s.access ((drainNote s t (Machine.orderOf o.rel o.sc)).pop x) t (request (fetchRow f d p x o) opc t (s.peek t x)) := by
  simp only [State.fetchOp, hr, Eff.bind_ok, atomDrain_eq hd ho, read1_drainNote]
  rfl

/-- A fetch-and-op issues its row. -/
theorem issuesRow_fetch {i : Instr} {d x : Operand} {f : Thread → AtomFn} (he : exec i s = Eff.done (s.fetchOp opc d p x o f))
    (hm : MayAccess s t (fetchRow f d p x o)) : IssuesRow i (fetchRow f d p x o) s t :=
  issuesRow_of_eq (opc := opc)
    (he.trans (congrArg Eff.done (fetchOp_eq (ready_of_mayAccess hm) (drained_of_mayAccess hm) (oar_of_mayAccess hm))))

end Sys2Proof.Safety
end

section
/-! PROOFS. Each access instruction issues the access of its row, continued (O20, its sixth part). -/

set_option Elab.async false

namespace Sys2Proof.Safety

open Sys2Proof.Machine Sys2Proof.Claims

variable {s s1 s2 s' : State} {t : Thread} {i : Instr} {r : AccessRow} {p : Fin 8} {opc : Nat} {o : AtomCtl} {off : Word}
  {d x : Operand} {hi : Bool}

/-! ### Loads and stores -/

theorem issuesRow_ldx {sz : Size} {pr : BitVec 5} {off : BitVec 29} (h : accessRow (.ldx d p sz pr off) = some r)
    (hm : MayAccess s t r) : IssuesRow (.ldx d p sz pr off) r s t := by
  obtain rfl := Option.some.inj h
  have hr : s.ready [.a p] [d] [pr] = .ok t := ready_of_mayAccess hm
  refine issuesRow_of_eq (opc := 0x0A5) ?_
  show Eff.done _ = _
  simp only [hr, Eff.bind_ok]
  cases sz <;> rfl

theorem issuesRow_ldaq {sz : Size} {sc : Scope} {off : BitVec 32} (h : accessRow (.ldaq d p sz sc off) = some r)
    (hm : MayAccess s t r) : IssuesRow (.ldaq d p sz sc off) r s t := by
  obtain rfl := Option.some.inj h
  have hr : s.ready [.a p] [d] [] = .ok t := ready_of_mayAccess hm
  refine issuesRow_of_eq (opc := 0x0A8) ?_
  show Eff.done _ = _
  simp only [hr, Eff.bind_ok]
  cases sz <;> rfl

theorem issuesRow_erase (h : accessRow (.erase p) = some r) (hm : MayAccess s t r) : IssuesRow (.erase p) r s t := by
  obtain rfl := Option.some.inj h
  have hr : s.ready [.a p] [] [] = .ok t := ready_of_mayAccess hm
  refine issuesRow_of_eq (opc := 0x0A6) ?_
  show Eff.done _ = _
  simp only [hr, Eff.bind_ok]
  rfl

theorem issuesRow_strel {sz : StSize} {sc : Scope} {off : BitVec 32} (h : accessRow (.strel x p sz sc off) = some r)
    (hm : MayAccess s t r) : IssuesRow (.strel x p sz sc off) r s t := by
  obtain rfl := Option.some.inj h
  have hr : s.ready [.a p, x] [] [] = .ok t := ready_of_mayAccess hm
  refine issuesRow_of_eq (opc := 0x0A9) ((congrArg Eff.done (storeOp_eq hr (drained_of_mayAccess hm) (oar_of_mayAccess hm))).trans ?_)
  cases sz <;> rfl

/-- A load that a row of `loadAs` describes. -/
theorem issuesRow_load {sz : Size} {inc rlx pre : Bool} {kind : AccKind} (he : exec i s = Eff.done (s.load opc d p sz off inc rlx pre kind))
    (hr : s.ready [.a p] [d] [] = .ok t) : IssuesRow i (loadAs d p sz off inc rlx pre kind) s t :=
  issuesRow_of_eq (opc := opc) (he.trans (congrArg Eff.done (load_eq hr)))

/-- A store that a row of `storeAs` describes. -/
theorem issuesRow_store {sz : StSize} {inc rlx pre : Bool} (he : exec i s = Eff.done (s.storeOp opc x p sz off inc rlx pre none))
    (hr : s.ready [.a p, x] [] [] = .ok t) (ho : t.oar = none) : IssuesRow i (storeAs x p sz off inc rlx pre none) s t :=
  issuesRow_of_eq (opc := opc) (he.trans (congrArg Eff.done (storeOp_eq hr rfl ho)))

/-- A load that moves its pointer has another destination (R186). -/
theorem accessRow_ldpi {sz : Size} (h : accessRow (.ldpi d p sz) = some r) : d ≠ .a p ∧ r = loadAs d p sz 0 true false false .load := by
  simp only [accessRow] at h
  split at h
  · cases h
  · next hd => exact ⟨hd, (Option.some.inj h).symm⟩

theorem issuesRow_ldpi {sz : Size} (h : accessRow (.ldpi d p sz) = some r) (hm : MayAccess s t r) : IssuesRow (.ldpi d p sz) r s t := by
  obtain ⟨hd, rfl⟩ := accessRow_ldpi h
  have hd' : (d == Operand.a p) = false := by simpa using hd
  refine issuesRow_load (opc := 0x0A1) ?_ (ready_of_mayAccess hm)
  show Eff.done _ = _
  simp only [hd', State.limit_false, Eff.bind_ok]

/-- The row of a plain store. -/
theorem storeAs_eq (x : Operand) (p : Fin 8) (sz : StSize) (off : Word) (inc : Bool) :
    { storeRow x p sz off with inc := inc } = storeAs x p sz off inc false false none := by
  cases sz <;> rfl

/-- The row of a store under `RLX`. -/
theorem storeAs_pre_eq (x : Operand) (p : Fin 8) (sz : StSize) (off : Word) (inc : Bool) :
    { storeRow x p sz off with inc := inc, rlx := true, pre := true, kind := .rlx } = storeAs x p sz off inc true true none := by
  cases sz <;> rfl

theorem issuesRow_st {sz : StSize} {off : BitVec 24} (h : accessRow (.st x p sz off) = some r) (hm : MayAccess s t r) :
    IssuesRow (.st x p sz off) r s t := by
  obtain rfl := (Option.some.inj h).symm.trans (storeAs_eq x p sz (off.signExtend 64) false)
  exact issuesRow_store (opc := 0x0A2) rfl (ready_of_mayAccess hm) (oar_of_mayAccess hm)

theorem issuesRow_stpi {sz : StSize} (h : accessRow (.stpi x p sz) = some r) (hm : MayAccess s t r) : IssuesRow (.stpi x p sz) r s t := by
  obtain rfl := (Option.some.inj h).symm.trans (storeAs_eq x p sz 0 true)
  exact issuesRow_store (opc := 0x0A3) rfl (ready_of_mayAccess hm) (oar_of_mayAccess hm)

/-! ### Atomics -/

theorem issuesRow_cas {q : RegName} (h : accessRow (.cas q p x o) = some r) (hm : MayAccess s t r) : IssuesRow (.cas q p x o) r s t := by
  obtain rfl := Option.some.inj h
  have hr : s.ready [.a p, x, q.op] [q.op] [] = .ok t := ready_of_mayAccess hm
  refine issuesRow_of_eq (opc := 0x0CD) ?_
  show Eff.done _ = _
  simp only [hr, Eff.bind_ok, atomDrain_eq (o := o) (drained_of_mayAccess hm) (oar_of_mayAccess hm), read1_drainNote]
  rfl

/-- The row of `RSV`. -/
def rsvRow (d : Operand) (p : Fin 8) (o : AtomCtl) : AccessRow :=
  { atomRow d p [] o (fun _ _ acq _ => .rsv o.dbl acq) with early := fun t _ => t.rsv = none }

/-- A reservation stands that a release of an address and a width gives up (R194). -/
def StandsAt (t : Thread) (o : AtomCtl) (va : Nat) : Prop :=
  ∃ q, t.rsv = some q ∧ q.va = va ∧ q.bytes = (if o.dbl then 8 else 4) ∧ q.broken = false

/-- The row of `RLS` and `RLSN`. -/
def rlsRow (d : Operand) (p : Fin 8) (srcs : List Operand) (o : AtomCtl) (data : Word → Option (List Byte)) : AccessRow :=
  { atomRow d p srcs o (fun _ v _ rel => .rls (data v) rel) with
    early := fun t _ => t.rsv.isSome = true
    late := fun t va => StandsAt t o va }

theorem accessRow_rsv : accessRow (.rsv d p o) = if o.rel then none else some (rsvRow d p o) := rfl

theorem accessRow_rls : accessRow (.rls d p x o) =
    if o.acq then none else some (rlsRow d p [x] o (fun v => some (leBytes (if o.dbl then 8 else 4) v.toNat))) := rfl

theorem accessRow_rlsn : accessRow (.rlsn d p o) = if o.acq then none else some (rlsRow d p [] o (fun _ => none)) := rfl

theorem ite_none_eq_some {α : Type} {b : Bool} {x y : α} (h : (if b then none else some x) = some y) : b = false ∧ y = x := by
  cases b with
  | true => cases h
  | false => exact ⟨rfl, (Option.some.inj h).symm⟩

theorem issuesRow_rsv (h : accessRow (.rsv d p o) = some r) (hm : MayAccess s t r) : IssuesRow (.rsv d p o) r s t := by
  obtain ⟨hrel, rfl⟩ := ite_none_eq_some (accessRow_rsv.symm.trans h)
  have hr : s.ready [.a p] [d] [] = .ok t := ready_of_mayAccess hm
  have hrsv : t.rsv = none := early_of_mayAccess hm
  have hstate : (drainNote s t (rsvRow d p o).rel).pop (rsvRow d p o).data = s := by
    have hno : (rsvRow d p o).rel = none := by simp [rsvRow, atomRow, hrel]
    rw [hno]
    rfl
  refine ⟨0x0C0, _, harmless_awaitIt (.grant (lineOf (t.segs[p].base.toNat + (t.av p + o.off.signExtend 64).toNat))), ?_⟩
  rw [hstate]
  show Eff.done _ = _
  simp only [hrel, State.limit_false, Eff.bind_ok, hr, hrsv, Option.isSome_none, Bool.false_eq_true, if_false]
  rfl

/-- A release of a reservation that stands is sent, and gives it up. -/
theorem releaseRsv_eq {base : State} {a : Access} {sp : Space} {va : Nat} (ho : t.oar = none) (hl : s.locate base t a = .ok (va, sp))
    (hn : a.n = if o.dbl then 8 else 4) (h : StandsAt t o (s.canonVa s.cur.core va)) :
    s.releaseRsv base t a = s.access base t a >>= fun s1 => pure (s1.modMe noRsv) := by
  obtain ⟨q, hq, hva, hb, hbr⟩ := h
  have hw : t.accWait false = false := by simp [Thread.accWait, ho]
  simp only [State.releaseRsv, hq, hw, Bool.false_eq_true, if_false, hl, Eff.bind_ok]
  rw [if_neg (by simp [hva, hn, hb]), if_neg (by simp [hbr])]
  rfl

/-- The address of an access passes its checks, whatever state a trap would leave. -/
def Located (s : State) (t : Thread) (r : AccessRow) : Prop :=
  ∃ sp, ∀ opc v base, s.locate base t (request r opc t v) = .ok (accessVa t r, sp)

section
variable (hl : Located s t r)
include hl

theorem issuesRow_rls (h : accessRow (.rls d p x o) = some r) (hm : MayAccess s t r)
    (hlate : r.late t (s.canonVa s.cur.core (accessVa t r))) : IssuesRow (.rls d p x o) r s t := by
  obtain ⟨hacq, rfl⟩ := ite_none_eq_some (accessRow_rls.symm.trans h)
  obtain ⟨sp, hl⟩ := hl
  have hr : s.ready [.a p, x] [d] [] = .ok t := ready_of_mayAccess hm
  refine ⟨0x0C1, _, harmless_noRsv, ?_⟩
  show Eff.done _ = _
  simp only [hacq, State.limit_false, Eff.bind_ok, hr, atomDrain_eq (o := o) (drained_of_mayAccess hm) (oar_of_mayAccess hm), read1_drainNote]
  exact congrArg Eff.done (releaseRsv_eq (oar_of_mayAccess hm) (hl _ _ _) rfl hlate)

theorem issuesRow_rlsn (h : accessRow (.rlsn d p o) = some r) (hm : MayAccess s t r)
    (hlate : r.late t (s.canonVa s.cur.core (accessVa t r))) : IssuesRow (.rlsn d p o) r s t := by
  obtain ⟨hacq, rfl⟩ := ite_none_eq_some (accessRow_rlsn.symm.trans h)
  obtain ⟨sp, hl⟩ := hl
  have hr : s.ready [.a p] [d] [] = .ok t := ready_of_mayAccess hm
  refine ⟨0x0C2, _, harmless_noRsv, ?_⟩
  show Eff.done _ = _
  simp only [hacq, State.limit_false, Eff.bind_ok, hr, atomDrain_eq (o := o) (drained_of_mayAccess hm) (oar_of_mayAccess hm)]
  exact congrArg Eff.done (releaseRsv_eq (oar_of_mayAccess hm) (hl _ 0 _) rfl hlate)

end

/-! ### Counters (R197) -/

theorem nibble_eq (hme : s.me = some t) (h : ¬(hi = true ∧ t.pcb.getLsbD 0 = true)) : s.nibble hi = .ok () := by
  have hb : (hi && s.me.any (fun t => t.pcb.getLsbD 0)) = false := by
    rw [Bool.eq_false_iff, hme]
    simpa using h
  rw [State.nibble, hb, State.limit_false]

theorem issuesRow_pcadd {off : BitVec 16} (h : accessRow (.pcadd d p x hi off) = some r) (hm : MayAccess s t r) :
    IssuesRow (.pcadd d p x hi off) r s t := by
  obtain rfl := Option.some.inj h
  have hr : s.ready [.a p, x] [d] [] = .ok t := ready_of_mayAccess hm
  obtain ⟨hv, hn⟩ : (s.read1 t x).1.toNat ≤ 255 ∧
      ¬(hi = true ∧ t.pcb.getLsbD 0 = true) := early_of_mayAccess hm
  refine issuesRow_of_eq (opc := 0x0D4) ?_
  show Eff.done _ = _
  simp only [nibble_eq (me_of_mayAccess hm) hn, Eff.bind_ok, hr]
  rw [if_neg (Nat.not_lt.mpr hv)]
  rfl

theorem issuesRow_pcrd (h : accessRow (.pcrd d p hi) = some r) (hm : MayAccess s t r) : IssuesRow (.pcrd d p hi) r s t := by
  obtain rfl := Option.some.inj h
  have hr : s.ready [.a p] [d] [] = .ok t := ready_of_mayAccess hm
  have hn : ¬(hi = true ∧ t.pcb.getLsbD 0 = true) := (early_of_mayAccess hm).2
  refine issuesRow_of_eq (opc := 0x0D5) ?_
  show Eff.done _ = _
  simp only [nibble_eq (me_of_mayAccess hm) hn, Eff.bind_ok, hr]
  rfl

theorem issuesRow_pcmrg {x : Fin 16} (h : accessRow (.pcmrg d p x hi) = some r) (hm : MayAccess s t r) :
    IssuesRow (.pcmrg d p x hi) r s t := by
  obtain rfl := Option.some.inj h
  have hr : s.ready [.a p, .g x] [d] [] = .ok t := ready_of_mayAccess hm
  have hn : ¬(hi = true ∧ t.pcb.getLsbD 0 = true) := (early_of_mayAccess hm).2
  refine issuesRow_of_eq (opc := 0x0D6) ?_
  show Eff.done _ = _
  simp only [nibble_eq (me_of_mayAccess hm) hn, Eff.bind_ok, hr]
  rfl

theorem issuesRow_pclv (h : accessRow (.pclv d p hi) = some r) (hm : MayAccess s t r) : IssuesRow (.pclv d p hi) r s t := by
  obtain rfl := Option.some.inj h
  have hr : s.ready [.a p] [d] [] = .ok t := ready_of_mayAccess hm
  have hn : ¬(hi = true ∧ t.pcb.getLsbD 0 = true) := (early_of_mayAccess hm).2
  refine issuesRow_of_eq (opc := 0x0D7) ?_
  show Eff.done _ = _
  simp only [nibble_eq (me_of_mayAccess hm) hn, Eff.bind_ok, hr]
  rfl

theorem issuesRow_pclvSet (h : accessRow (.pclvSet d p x hi) = some r) (hm : MayAccess s t r) :
    IssuesRow (.pclvSet d p x hi) r s t := by
  obtain rfl := Option.some.inj h
  have hr : s.ready [.a p, x] [d] [] = .ok t := ready_of_mayAccess hm
  obtain ⟨hv, hn⟩ : (s.read1 t x).1.toNat ≤ (if t.pcb.getLsbD 0 then 255 else 15) ∧
      ¬(hi = true ∧ t.pcb.getLsbD 0 = true) := early_of_mayAccess hm
  refine issuesRow_of_eq (opc := 0x0D7) ?_
  show Eff.done _ = _
  simp only [nibble_eq (me_of_mayAccess hm) hn, Eff.bind_ok, hr]
  rw [if_neg (Nat.not_lt.mpr hv)]
  rfl

end Sys2Proof.Safety
end

section
/-! PROOFS. Which heads `RLX` may stand before (O20, its seventh part). -/

set_option Elab.async false

namespace Sys2Proof.Safety

open Sys2Proof.Machine Sys2Proof.Claims

variable {o : Option Instr} {j : Instr} {x : Fields}

/-- A load or store that `RLX` may stand before. -/
def isPlain : Instr → Bool
  | .ld _ _ _ _ | .ldpi _ _ _ | .st _ _ _ _ | .stpi _ _ _ => true
  | _ => false

/-- No instruction is decoded, or one that is none of these. -/
def NonePlain (o : Option Instr) : Prop := ∀ j, o = some j → isPlain j = false

theorem nonePlain_none : NonePlain none := by
  intro j h
  cases h

theorem nonePlain_some : NonePlain (some j) ↔ isPlain j = false := by simp [NonePlain]

theorem nonePlain_bind {α : Type} {a : Option α} {f : α → Option Instr} :
    NonePlain (a >>= f) ↔ ∀ v, a = some v → NonePlain (f v) := by
  cases a <;> simp [NonePlain]

theorem nonePlain_ite {c : Prop} [Decidable c] {u : Option Instr} :
    NonePlain (if c then o else u) ↔ (c → NonePlain o) ∧ (¬c → NonePlain u) := by
  by_cases h : c <;> simp [h]

/-- No group of the opcode map but that of the loads and stores decodes one of them (Table 7-5). -/
theorem nonePlain_of_group {f : Fields → Option Instr} (x : Fields) (h : f ∈ [decodeControl, decodeInteger, decodeImmediate, decodeCompare,
    decodeFloat, decodeAtomic, decodeSystem, decodeVector, decodeMove, decodeMatrix, decodeCopy, decodeThunk, decodeMigration, decodePriv]) :
    NonePlain (f x) := by
  simp only [List.mem_cons, List.not_mem_nil, or_false] at h
  rcases h with rfl | rfl | rfl | rfl | rfl | rfl | rfl | rfl | rfl | rfl | rfl | rfl | rfl | rfl
  all_goals
    simp only [decodeControl, decodeInteger, decodeImmediate, decodeCompare, decodeFloat, decodeAtomic, decodeSystem, decodeVector,
      decodeMove, decodeMatrix, decodeCopy, decodeThunk, decodeMigration, decodePriv]
    split <;> simp only [nonePlain_bind, nonePlain_ite, nonePlain_some, nonePlain_none, isPlain, implies_true, and_true]

/-- In the group of the loads and stores they have the first four opcodes. -/
theorem nonePlain_decodeMemory (h : x.opc < 0x0A0 ∨ 0x0A3 < x.opc) : NonePlain (decodeMemory x) := by
  unfold decodeMemory
  split
  · omega
  · omega
  · omega
  · omega
  all_goals simp only [nonePlain_bind, nonePlain_ite, nonePlain_some, nonePlain_none, isPlain, implies_true, and_true]

theorem nonePlain_decodeFields (h : x.opc < 0x0A0 ∨ 0x0A3 < x.opc) : NonePlain (decodeFields x) := by
  unfold decodeFields
  split
  case h_6 => exact nonePlain_decodeMemory h
  case h_16 => exact nonePlain_none
  all_goals exact nonePlain_of_group x (by simp)

theorem opc_unpack (k : TailKind) (head tail : Nat) : (unpack k head tail).opc = head / 32 % 512 := by cases k <;> rfl

/-- A head that decodes as a plain load or store has one of their opcodes. -/
theorem opc_of_isPlain {head tail : Nat} (h : decode head tail = .ok j) (hj : isPlain j = true) :
    0x0A0 ≤ head / 32 % 512 ∧ head / 32 % 512 ≤ 0x0A3 := by
  unfold decode at h
  split at h
  · cases h
  · next k _ =>
    split at h
    · split at h
      · next i hi =>
        cases h
        by_contra hopc
        have hno := nonePlain_decodeFields (x := unpack k head tail) (by rw [opc_unpack]; omega) _ hi
        rw [hj] at hno
        cases hno
      · cases h
    · cases h

/-! ### `RLX` (R151) -/

section
variable {s : State} {t : Thread} {r : AccessRow} {p : Fin 8} {off : Word}

/-- An instruction that is ready with operands is ready with none. -/
theorem ready_nil (h : MayAccess s t r) : s.ready [] [] [] = .ok t := State.ready_eq h.1.1 rfl rfl

/-- The head behind the thread's own in its line decodes as a plain load or store. -/
structure RlxBefore (s : State) (t : Thread) (j : Instr) : Prop where
  more : ¬(s.myLine t).hcnt ≤ pcIdx t.pc
  dec  : decode ((s.myLine t).slot (pcIdx t.pc + 1)).1 ((s.myLine t).slot (pcIdx t.pc + 1)).2 = .ok j
  opc  : ¬(decide (((s.myLine t).slot (pcIdx t.pc + 1)).1 / 32 % 512 < 0x0A0) ||
    decide (0x0A3 < ((s.myLine t).slot (pcIdx t.pc + 1)).1 / 32 % 512)) = true

theorem rlxBefore_of_decode (hn : pcIdx t.pc < (s.myLine t).hcnt)
    (hd : decode ((s.myLine t).slot (pcIdx t.pc + 1)).1 ((s.myLine t).slot (pcIdx t.pc + 1)).2 = .ok j) (hj : isPlain j = true) :
    RlxBefore s t j := by
  obtain ⟨hlo, hhi⟩ := opc_of_isPlain hd hj
  exact ⟨by omega, hd, by simp only [Bool.or_eq_true, decide_eq_true_eq]; omega⟩

variable {q : RegName} {sz : Size} {zs : StSize} {y : Operand} {disp : BitVec 24} (hr : s.ready [] [] [] = .ok t)
include hr

theorem exec_rlx_ld (h : RlxBefore s t (.ld q.op p sz disp)) :
    exec .rlx s = Eff.done (s.load 0x0A0 q.op p sz (disp.signExtend 64) false true true .rlx) := by
  show Eff.done _ = _
  simp only [hr, Eff.bind_ok]
  rw [if_neg h.more, if_neg h.opc]
  simp only [h.dec]
  cases q <;> rfl

theorem exec_rlx_ldpi (hq : q.op ≠ .a p) (h : RlxBefore s t (.ldpi q.op p sz)) :
    exec .rlx s = Eff.done (s.load 0x0A1 q.op p sz 0 true true true .rlx) := by
  have hq' : ¬(q.op == .a p) = true := by simpa using hq
  show Eff.done _ = _
  simp only [hr, Eff.bind_ok]
  rw [if_neg h.more, if_neg h.opc]
  simp only [h.dec]
  cases q with
  | g n => rfl
  | a n =>
    refine congrArg Eff.done (if_neg ?_)
    exact hq'

theorem exec_rlx_st (h : RlxBefore s t (.st y p zs disp)) :
    exec .rlx s = Eff.done (s.storeOp 0x0A2 y p zs (disp.signExtend 64) false true true none) := by
  show Eff.done _ = _
  simp only [hr, Eff.bind_ok]
  rw [if_neg h.more, if_neg h.opc]
  simp only [h.dec]

theorem exec_rlx_stpi (h : RlxBefore s t (.stpi y p zs)) :
    exec .rlx s = Eff.done (s.storeOp 0x0A3 y p zs 0 true true true none) := by
  show Eff.done _ = _
  simp only [hr, Eff.bind_ok]
  rw [if_neg h.more, if_neg h.opc]
  simp only [h.dec]

end

end Sys2Proof.Safety
end

section
/-! PROOFS. The instruction at the PC issues the access of its row (O20, its last part), and O20. -/

set_option Elab.async false

namespace Sys2Proof.Safety

open Sys2Proof.Machine Sys2Proof.Claims

variable {s s2 : State} {t : Thread} {i : Instr} {r : AccessRow} {name cls : Nat} {rlx : Bool}

/-- Each access instruction issues the access of its row. -/
theorem issuesRow_of_accessRow (h : accessRow i = some r) (hm : MayAccess s t r) (hl : Located s t r)
    (hlate : r.late t (s.canonVa s.cur.core (accessVa t r))) : IssuesRow i r s t := by
  cases i
  case ld => cases h; exact issuesRow_load rfl (ready_of_mayAccess hm)
  case ldpi => exact issuesRow_ldpi h hm
  case st => exact issuesRow_st h hm
  case stpi => exact issuesRow_stpi h hm
  case lda => cases h; exact issuesRow_load rfl (ready_of_mayAccess hm)
  case ldx => exact issuesRow_ldx h hm
  case erase => exact issuesRow_erase h hm
  case ldaq => exact issuesRow_ldaq h hm
  case strel => exact issuesRow_strel h hm
  case aadd => cases h; exact issuesRow_fetch rfl hm
  case aand => cases h; exact issuesRow_fetch rfl hm
  case aor => cases h; exact issuesRow_fetch rfl hm
  case axor => cases h; exact issuesRow_fetch rfl hm
  case amin => cases h; exact issuesRow_fetch rfl hm
  case amax => cases h; exact issuesRow_fetch rfl hm
  case aminu => cases h; exact issuesRow_fetch rfl hm
  case amaxu => cases h; exact issuesRow_fetch rfl hm
  case aswp => cases h; exact issuesRow_fetch rfl hm
  case aincb => cases h; exact issuesRow_fetch rfl hm
  case afadd => cases h; exact issuesRow_fetch rfl hm
  case cas => exact issuesRow_cas h hm
  case rsv => exact issuesRow_rsv h hm
  case rls => exact issuesRow_rls hl h hm hlate
  case rlsn => exact issuesRow_rlsn hl h hm hlate
  case pcadd => exact issuesRow_pcadd h hm
  case pcrd => exact issuesRow_pcrd h hm
  case pcmrg => exact issuesRow_pcmrg h hm
  case pclv => exact issuesRow_pclv h hm
  case pclvSet => exact issuesRow_pclvSet h hm
  all_goals cases h

/-- A row moves a pointer that is not its destination. -/
theorem inc_of_accessRow (h : accessRow i = some r) (hi : r.inc = true) : .a r.p ∉ regsOf r.dst := by
  cases i
  case ldpi d p sz =>
    obtain ⟨hd, rfl⟩ := accessRow_ldpi h
    show RegName.a p ∉ regsOf d
    cases d with
    | a n => exact fun hm => hd (congrArg Operand.a (RegName.a.inj (List.mem_singleton.mp hm)).symm)
    | g n => exact fun hm => RegName.noConfusion (List.mem_singleton.mp hm)
    | q _ | nf | rq | zr => exact List.not_mem_nil
  case stpi => cases h; exact List.not_mem_nil
  case rsv => obtain ⟨-, rfl⟩ := ite_none_eq_some (accessRow_rsv.symm.trans h); cases hi
  case rls => obtain ⟨-, rfl⟩ := ite_none_eq_some (accessRow_rls.symm.trans h); cases hi
  case rlsn => obtain ⟨-, rfl⟩ := ite_none_eq_some (accessRow_rlsn.symm.trans h); cases hi
  all_goals cases h
  all_goals cases hi

/-- `RLX` issues the access of the load or store behind it, as a relaxed one (R151). -/
theorem issuesRow_rlx (h : rowAt s t .rlx r) (hm : MayAccess s t r) : IssuesRow .rlx r s t := by
  obtain ⟨j, r0, hn, hd, hj, h0, rfl⟩ := h
  have hnil := ready_nil hm
  obtain ⟨q, p, ⟨sz, off, rfl⟩ | ⟨sz, rfl⟩⟩ | ⟨x, p, sz, off, rfl⟩ | ⟨x, p, sz, rfl⟩ := hj
  · cases h0
    exact issuesRow_load (exec_rlx_ld hnil (rlxBefore_of_decode hn hd rfl)) (ready_of_mayAccess hm)
  · obtain ⟨hq, rfl⟩ := accessRow_ldpi h0
    exact issuesRow_load (exec_rlx_ldpi hnil hq (rlxBefore_of_decode hn hd rfl)) (ready_of_mayAccess hm)
  · cases h0
    have hs := issuesRow_store (exec_rlx_st hnil (rlxBefore_of_decode hn hd rfl)) (ready_of_mayAccess hm) (oar_of_mayAccess hm)
    rwa [← storeAs_pre_eq] at hs
  · cases h0
    have hs := issuesRow_store (exec_rlx_stpi hnil (rlxBefore_of_decode hn hd rfl)) (ready_of_mayAccess hm) (oar_of_mayAccess hm)
    rwa [← storeAs_pre_eq] at hs

/-- The instruction at the PC issues the access of its row. -/
theorem issuesRow_of_rowAt (h : rowAt s t i r) (hm : MayAccess s t r) (hl : Located s t r)
    (hlate : r.late t (s.canonVa s.cur.core (accessVa t r))) : IssuesRow i r s t := by
  unfold rowAt at h
  split at h
  · exact issuesRow_rlx h hm
  · exact issuesRow_of_accessRow h hm hl hlate

theorem inc_of_rowAt (h : rowAt s t i r) (hi : r.inc = true) : .a r.p ∉ regsOf r.dst := by
  unfold rowAt at h
  split at h
  · obtain ⟨j, r0, -, -, -, h0, rfl⟩ := h
    exact inc_of_accessRow (r := r0) h0 hi
  · exact inc_of_accessRow h hi

/-- Settles O20: the instruction at the PC issues the access of its row, which the tables on its way refuse or which is sent. -/
theorem accessIssues : Obligations.AccessIssues := by
  unfold Obligations.AccessIssues
  intro i r s s2 t name cls rlx s1 v hrow hm hp hh hlate hpl granted
  have hl : Located s t r := by
    obtain ⟨sp, hl⟩ := locate_request (opc := 0) (v := 0) hp hh hpl
    exact ⟨sp, fun _ _ base => hl base⟩
  obtain ⟨opc, g, hg, hexec⟩ := issuesRow_of_rowAt hrow hm hl hlate
  obtain ⟨⟨w, hw, hpc⟩, hrefused, hsent⟩ := access_answers (opc := opc) (v := v) hm hp hh (inc_of_rowAt hrow) hpl
  refine ⟨fun hr hgr => ?_, fun hgr => ?_⟩
  · refine hexec.trans ?_
    rw [hrefused hr hgr, Eff.bind_error, Eff.done_error, State.stopped_sup _ hw, hpc]
  · obtain ⟨s', hok, hs'⟩ := hsent hgr
    obtain ⟨s'', hgs, hcalm⟩ := hg s'
    obtain ⟨u, m, hu, hnet, hmsg, hregs, hth, hmem⟩ := hs'.calm hcalm
    refine ⟨s'', u, m, hexec.trans ?_, hu, hnet, hmsg, hth.pc, hth.holds, hregs.dst, hregs.ptr, hregs.rest, hth.pw, hth.sst,
      hth.shows, hth.pred, hmem⟩
    rw [hok, Eff.bind_ok, hgs, Eff.done_ok]

end Sys2Proof.Safety
end

section
/-! PROOFS. Division, extrema and saturation (O2, O3). -/

set_option Elab.async false

namespace Sys2Proof.Machine

/-! ## Quotients and remainders in their row's form (R57, Table 3-1) -/

section
variable {n : Nat} (x y : BitVec n)

theorem divS_eq : divS x y = if y = 0 then BitVec.allOnes n else x.sdiv y :=
  ite_congr rfl (fun _ => rfl) fun _ => BitVec.eq_of_toInt_eq (by rw [BitVec.toInt_ofInt, BitVec.toInt_sdiv])

theorem divU_eq : divU x y = if y = 0 then BitVec.allOnes n else x / y :=
  ite_congr rfl (fun _ => rfl) fun _ => (BitVec.udiv_def (x := x) (y := y)).symm

theorem remS_eq : remS x y = if y = 0 then x else x.srem y :=
  ite_congr rfl (fun _ => rfl) fun _ => by rw [← BitVec.toInt_srem, BitVec.ofInt_toInt]

theorem remU_eq : remU x y = if y = 0 then x else x % y :=
  ite_congr rfl (fun _ => rfl) fun _ => (BitVec.umod_def (x := x) (y := y)).symm

/-! ## Extrema (R166) -/

theorem minS_eq : minS x y = if x.slt y then x else y := by
  rw [minS, BitVec.slt_eq_decide]
  rcases lt_trichotomy x.toInt y.toInt with h | h | h
  · simp [h, h.le]
  · simp [BitVec.eq_of_toInt_eq h]
  · simp [h.not_ge, h.not_gt]

theorem maxS_eq : maxS x y = if x.slt y then y else x := by
  rw [maxS, BitVec.slt_eq_decide]
  rcases lt_trichotomy x.toInt y.toInt with h | h | h
  · simp [h, h.not_ge]
  · simp [BitVec.eq_of_toInt_eq h]
  · simp [h.le, h.not_gt]

theorem minU_eq : minU x y = if x < y then x else y := by
  rw [minU]
  rcases lt_trichotomy x.toNat y.toNat with h | h | h
  · simp [BitVec.lt_def, h, h.le]
  · simp [BitVec.eq_of_toNat_eq h]
  · simp [BitVec.lt_def, h.not_ge, h.not_gt]

theorem maxU_eq : maxU x y = if x < y then y else x := by
  rw [maxU]
  rcases lt_trichotomy x.toNat y.toNat with h | h | h
  · simp [BitVec.lt_def, h, h.not_ge]
  · simp [BitVec.eq_of_toNat_eq h]
  · simp [BitVec.lt_def, h.le, h.not_gt]

end

/-! ## Truncating division (R57) -/

section
variable {n : Nat} {x y : BitVec n}

theorem toInt_divS (hy : y ≠ 0) (h : ¬(x = BitVec.intMin n ∧ y = -1)) : (divS x y).toInt = x.toInt.tdiv y.toInt := by
  rw [divS_eq, if_neg hy]
  exact BitVec.toInt_sdiv_of_ne_or_ne x y (not_and_or.mp h)

theorem toInt_remS (hy : y ≠ 0) : (remS x y).toInt = x.toInt.tmod y.toInt := by
  rw [remS_eq, if_neg hy, BitVec.toInt_srem]

theorem natAbs_tmod_lt (a : Int) {b : Int} (hb : b ≠ 0) : (a.tmod b).natAbs < b.natAbs := by
  rw [Int.natAbs_tmod]
  exact Nat.mod_lt _ (Int.natAbs_pos.mpr hb)

/-- A remainder that is not 0 has the dividend's sign. -/
theorem pos_of_tmod_pos {a b : Int} (h : 0 < a.tmod b) : 0 < a := by
  by_contra ha
  have := Int.tmod_nonneg b (a := -a) (by omega)
  rw [Int.neg_tmod] at this
  omega

theorem neg_of_tmod_neg {a b : Int} (h : a.tmod b < 0) : a < 0 :=
  Int.neg_pos.mp (pos_of_tmod_pos (b := b) (by rw [Int.neg_tmod]; omega))

end

theorem divS_intMin_neg_one {n : Nat} (h : n = 32 ∨ n = 64) :
    divS (BitVec.intMin n) (-1) = BitVec.intMin n ∧ remS (BitVec.intMin n) (-1) = 0 := by
  rcases h with rfl | rfl <;> decide

/-! ## The forms of an instruction (R166) -/

theorem form2_congr {f f' : Word → Word → Word} {g g' : BitVec 32 → BitVec 32 → BitVec 32} (hf : ∀ x y, f x y = f' x y)
    (hg : ∀ x y, g x y = g' x y) (w : Bool) : form2 w f g = Claims.formOf w f' g' := by
  funext x y
  simp only [form2, Claims.formOf, sext32, hf, hg]

end Sys2Proof.Machine

namespace Sys2Proof.Safety

open Sys2Proof.Machine Sys2Proof.Claims

section
variable {s : State} {t : Thread} {d x y : Operand}

/-- A register operation of two sources completes with its result. -/
theorem runs_alu2 {i : Instr} {f : Word → Word → Word} (hi : exec i s = (alu2 d x y f s).done) (h : Issues s t [x, y] [d] []) :
    Runs i s ((((s.pop x).pop y).write d (f (fst2 s t x) (snd2 s t x y))).advance t) := by
  obtain ⟨hm, hw, hp⟩ := h
  rw [Runs, hi, alu2_eq f hm hw hp, Eff.done_ok]
  rfl

theorem satAlu_eq (w : Bool) (f : Int → Int → Int) (h : Issues s t [x, y] [d] []) :
    satAlu d x y w f s = .ok ((((((s.pop x).pop y).write d (satOp w f (fst2 s t x) (snd2 s t x y)).1)).orFlags
      (satOp w f (fst2 s t x) (snd2 s t x y)).2).advance t) := by
  obtain ⟨hm, hw, hp⟩ := h
  simp only [satAlu, State.ready_eq hm hw hp, Eff.bind_ok, State.read2]
  rfl

end

/-- The rows `DIV` to `MAXU` of Table 8-3 compute what the row says. -/
theorem runs_divRow {row : Row2} (hr : row ∈ divRows) {d x y : Operand} (w : Bool) {s : State} {t : Thread} (h : Issues s t [x, y] [d] []) :
    Runs (row.1 d x y w) s ((((s.pop x).pop y).write d (formOf w row.2.1 row.2.2 (fst2 s t x) (snd2 s t x y))).advance t) := by
  simp only [divRows, List.mem_cons, List.not_mem_nil, or_false] at hr
  rcases hr with rfl | rfl | rfl | rfl | rfl | rfl | rfl | rfl <;> dsimp only
  · rw [← form2_congr divS_eq divS_eq w]; exact runs_alu2 rfl h
  · rw [← form2_congr divU_eq divU_eq w]; exact runs_alu2 rfl h
  · rw [← form2_congr remS_eq remS_eq w]; exact runs_alu2 rfl h
  · rw [← form2_congr remU_eq remU_eq w]; exact runs_alu2 rfl h
  · rw [← form2_congr minS_eq minS_eq w]; exact runs_alu2 rfl h
  · rw [← form2_congr maxS_eq maxS_eq w]; exact runs_alu2 rfl h
  · rw [← form2_congr minU_eq minU_eq w]; exact runs_alu2 rfl h
  · rw [← form2_congr maxU_eq maxU_eq w]; exact runs_alu2 rfl h

/-- Settles O2. -/
theorem divisionAndExtremaResults : Obligations.DivisionAndExtremaResults := by
  unfold Obligations.DivisionAndExtremaResults
  refine ⟨fun row hr d x y w s t h => runs_divRow hr w h, fun n hn => ⟨fun x y hy ho => ?_, fun x => ?_, divS_intMin_neg_one hn⟩⟩
  · have hb : y.toInt ≠ 0 := fun e => hy (BitVec.eq_of_toInt_eq (e.trans BitVec.toInt_zero.symm))
    rw [toInt_divS hy ho, toInt_remS hy]
    exact ⟨rfl, rfl, (Int.tdiv_mul_add_tmod _ _).symm, natAbs_tmod_lt _ hb, pos_of_tmod_pos, neg_of_tmod_neg⟩
  · exact ⟨if_pos rfl, if_pos rfl, if_pos rfl, if_pos rfl⟩

/-! ### Saturation (R58) -/

/-- The clamp to the signed range, with n the bound above it. -/
theorem satI_eq (e : Int) (n : Nat) :
    satI e n = if e < -2 ^ (n - 1) then -2 ^ (n - 1) else if 2 ^ (n - 1) ≤ e then 2 ^ (n - 1) - 1 else e := by
  unfold satI
  simp only [Int.sub_one_lt_iff]

theorem orFlags_flagIf (s : State) (b : Bool) (f : BitVec 9) :
    s.orFlags (flagIf b f) = s.modMe (fun u => { u with sst := if b then u.sst ||| f else u.sst }) := by
  refine congrArg s.modMe (funext fun u => ?_)
  cases b
  · show { u with sst := u.sst ||| 0 } = _
    simp
  · rfl

/-- A saturating instruction completes with the clamped result, and sets SAT exactly where the clamp changed it. -/
theorem runs_satAlu {s : State} {t : Thread} {d x y : Operand} {i : Instr} {w : Bool} {f : Int → Int → Int}
    (hi : exec i s = (satAlu d x y w f s).done) (h : Issues s t [x, y] [d] []) :
    let a := if w then ((fst2 s t x).setWidth 32).toInt else (fst2 s t x).toInt
    let b := if w then ((snd2 s t x y).setWidth 32).toInt else (snd2 s t x y).toInt
    let n : Int := if w then 2 ^ 31 else 2 ^ 63
    let e := f a b
    let r := if e < -n then -n else if n ≤ e then n - 1 else e
    Runs i s (((((s.pop x).pop y).write d (BitVec.ofInt 64 r)).modMe
      (fun u => { u with sst := if r = e then u.sst else u.sst ||| 0x20 })).advance t) := by
  intro a b n e r
  have hsat : satOp w f (fst2 s t x) (snd2 s t x y) = (BitVec.ofInt 64 r, flagIf (r != e) fSAT) := by
    have he : (if w then f ((fst2 s t x).setWidth 32).toInt ((snd2 s t x y).setWidth 32).toInt
        else f (fst2 s t x).toInt (snd2 s t x y).toInt) = e := by
      cases w <;> rfl
    have hr : satI e (if w then 32 else 64) = r := by
      rw [satI_eq]
      cases w <;> rfl
    simp only [satOp, he, hr]
  have hflag (u : Thread) : (if (r != e) = true then u.sst ||| fSAT else u.sst) = if r = e then u.sst else u.sst ||| 0x20 := by
    simp only [bne_iff_ne, ne_eq, ite_not]
    rfl
  rw [Runs, hi, satAlu_eq w f h, Eff.done_ok, hsat, orFlags_flagIf]
  simp only [hflag]

/-- Settles O3. -/
theorem saturatingResults : Obligations.SaturatingResults := by
  unfold Obligations.SaturatingResults
  intro d x y w s t h p hp
  simp only [List.mem_cons, List.not_mem_nil, or_false] at hp
  rcases hp with rfl | rfl <;> exact runs_satAlu rfl h

end Sys2Proof.Safety
end

section
/-! PROOFS. The words and results of the fetch-and-op forms (O24). -/

set_option Elab.async false

namespace Sys2Proof.Safety

open Sys2Proof.Machine Sys2Proof.Claims

/-- A form that always writes leaves the word of its row and answers the old one (Table 9-4). -/
theorem atomRun_dbl {f : AtomFn} (a x c : Word) :
    atomRun f true a.toNat x c =
      (if (f.apply 64 a x c).2.1 then some (leBytes 8 (f.apply 64 a x c).1.toNat) else none, a, (f.apply 64 a x c).2.2) := by
  simp only [atomRun, if_true, AtomFn.result, w64, BitVec.ofNat_toNat, BitVec.setWidth_eq]

theorem atomRun_single {f : AtomFn} (a : BitVec 32) (x c : Word) :
    let r := f.apply 32 a (x.setWidth 32) (c.setWidth 32)
    atomRun f false a.toNat x c = (if r.2.1 then some (leBytes 4 r.1.toNat) else none, f.result false a.toNat, r.2.2) := by
  simp [atomRun, BitVec.ofNat_toNat]

/-- What the forms that always write make of a word of either width (Table 9-4). -/
theorem apply_of_mem_atomTable {row : AtomFn × (Word → Word → Word) × (BitVec 32 → BitVec 32 → BitVec 32)} (hr : row ∈ atomTable) :
    (∀ a x c, row.1.apply 64 a x c = (row.2.1 a x, true, 0)) ∧ (∀ a x c, row.1.apply 32 a x c = (row.2.2 a x, true, 0)) := by
  simp only [atomTable, List.mem_cons, List.not_mem_nil, or_false] at hr
  rcases hr with rfl | rfl | rfl | rfl | rfl | rfl | rfl | rfl | rfl
  · exact ⟨fun _ _ _ => rfl, fun _ _ _ => rfl⟩
  · exact ⟨fun _ _ _ => rfl, fun _ _ _ => rfl⟩
  · exact ⟨fun _ _ _ => rfl, fun _ _ _ => rfl⟩
  · exact ⟨fun _ _ _ => rfl, fun _ _ _ => rfl⟩
  · exact ⟨fun a x _ => by rw [AtomFn.apply, minS_eq], fun a x _ => by rw [AtomFn.apply, minS_eq]⟩
  · exact ⟨fun a x _ => by rw [AtomFn.apply, maxS_eq], fun a x _ => by rw [AtomFn.apply, maxS_eq]⟩
  · exact ⟨fun a x _ => by rw [AtomFn.apply, minU_eq], fun a x _ => by rw [AtomFn.apply, minU_eq]⟩
  · exact ⟨fun a x _ => by rw [AtomFn.apply, maxU_eq], fun a x _ => by rw [AtomFn.apply, maxU_eq]⟩
  · exact ⟨fun _ _ _ => rfl, fun _ _ _ => rfl⟩

/-- Every form but `AFADD` answers the old word with its sign (R193). -/
theorem result_single_of_ne_fadd {f : AtomFn} (hf : ∀ r, f ≠ .fadd r) (a : BitVec 32) : f.result false a.toNat = a.signExtend 64 := by
  cases f
  case fadd r => exact absurd rfl (hf r)
  all_goals exact congrArg (BitVec.signExtend 64) ((BitVec.ofNat_toNat ..).trans a.setWidth_eq)

theorem ne_fadd_of_mem_atomTable {row : AtomFn × (Word → Word → Word) × (BitVec 32 → BitVec 32 → BitVec 32)} (hr : row ∈ atomTable)
    (r : BitVec 3) : row.1 ≠ .fadd r := by
  simp only [atomTable, List.mem_cons, List.not_mem_nil, or_false] at hr
  rcases hr with rfl | rfl | rfl | rfl | rfl | rfl | rfl | rfl | rfl <;> exact AtomFn.noConfusion

/-- `AFADD` answers the old word with zeros above it (R193). -/
theorem result_single_fadd (r : BitVec 3) (a : BitVec 32) : (AtomFn.fadd r).result false a.toNat = a.setWidth 64 := by
  show BitVec.ofNat 64 (a.toNat % 2 ^ 32) = _
  rw [Nat.mod_eq_of_lt a.isLt, BitVec.ofNat_toNat]

/-- Settles O24. -/
theorem atomicFunctions : Obligations.AtomicFunctions := by
  unfold Obligations.AtomicFunctions
  refine ⟨fun row hr a x c => ?_, fun row hr a x c => ?_, fun a x c => ⟨?_, ?_⟩, fun a x c => ⟨?_, ?_⟩, fun r a x c => ?_, fun r a x c => ?_⟩
  · rw [atomRun_dbl, (apply_of_mem_atomTable hr).1, if_pos rfl]
  · rw [atomRun_single, (apply_of_mem_atomTable hr).2, if_pos rfl, result_single_of_ne_fadd (ne_fadd_of_mem_atomTable hr)]
  · rw [atomRun_dbl]
    simp only [AtomFn.apply, beq_iff_eq]
  · rw [atomRun_dbl]
    simp only [AtomFn.apply, BitVec.ult_iff_lt]
  · rw [atomRun_single, result_single_of_ne_fadd fun _ => AtomFn.noConfusion]
    simp only [AtomFn.apply, beq_iff_eq]
  · rw [atomRun_single, result_single_of_ne_fadd fun _ => AtomFn.noConfusion]
    simp only [AtomFn.apply, BitVec.ult_iff_lt]
  · rw [atomRun_dbl]
    simp only [AtomFn.apply, if_true]
  · rw [atomRun_single, result_single_fadd]
    simp only [AtomFn.apply, BitVec.toNat_setWidth]
    rfl

end Sys2Proof.Safety
end

section
/-! SUPPORT. The rounding of numbers (R61, R62). -/

set_option Elab.async false

namespace Sys2Proof.Machine

open Sys2Proof.Claims

/-! ## Rounding to a multiple of a unit (R62) -/

section
variable {mode : BitVec 3} {neg st : Bool} {m : Nat} {e q : Int}

theorem roundsUp_exact (odd : Bool) (half : Nat) (h : 0 < half) : roundsUp mode neg odd 0 half false = false := by
  unfold roundsUp
  have : ¬ 0 = half := by omega
  simp [this]

/-- A number that is a multiple of the unit stays as it is. -/
theorem roundAt_exact (h : q ≤ e) : roundAt mode neg m e false q = (m * 2 ^ (e - q).toNat, false) := by
  simp only [roundAt, if_neg (Int.not_lt.mpr h), roundsUp_exact _ 1 Nat.one_pos, Bool.toNat_false, Nat.add_zero]

/-- A number below 2^n units rounds to at most 2^n of them. -/
theorem roundAt_le {n : Nat} (h : topExp m e < q + n) : (roundAt mode neg m e st q).1 ≤ 2 ^ n := by
  have hm := Nat.lt_log2_self (n := m)
  unfold topExp at h
  suffices hk : ∀ kept : Nat, kept < 2 ^ n → ∀ b : Bool, kept + b.toNat ≤ 2 ^ n by
    unfold roundAt
    split
    · refine hk _ (Nat.div_lt_of_lt_mul (hm.trans_le ?_)) _
      rw [← pow_add]
      exact Nat.pow_le_pow_right Nat.two_pos (by omega)
    · refine hk _ ?_ _
      calc m * 2 ^ (e - q).toNat < 2 ^ (Nat.log2 m + 1) * 2 ^ (e - q).toNat := Nat.mul_lt_mul_of_pos_right hm (Nat.two_pow_pos _)
        _ = 2 ^ (Nat.log2 m + 1 + (e - q).toNat) := (pow_add ..).symm
        _ ≤ 2 ^ n := Nat.pow_le_pow_right Nat.two_pos (by omega)
  intro kept h b
  have := Bool.toNat_le b
  omega

/-- A number of 2^n units at least rounds to as many at least. -/
theorem le_roundAt {n : Nat} (hm : m ≠ 0) (h : q + n ≤ topExp m e) : 2 ^ n ≤ (roundAt mode neg m e st q).1 := by
  have hm := Nat.log2_self_le hm
  unfold topExp at h
  unfold roundAt
  split
  · refine Nat.le_add_right_of_le ((Nat.le_div_iff_mul_le (Nat.two_pow_pos _)).mpr (le_trans ?_ hm))
    rw [← pow_add]
    exact Nat.pow_le_pow_right Nat.two_pos (by omega)
  · refine Nat.le_add_right_of_le ?_
    calc 2 ^ n ≤ 2 ^ (Nat.log2 m + (e - q).toNat) := Nat.pow_le_pow_right Nat.two_pos (by omega)
      _ = 2 ^ Nat.log2 m * 2 ^ (e - q).toNat := pow_add ..
      _ ≤ m * 2 ^ (e - q).toNat := Nat.mul_le_mul_right _ hm

theorem mode_cases (mode : BitVec 3) : mode = 0 ∨ mode = 1 ∨ mode = 2 ∨ mode = 3 ∨ mode = 4 ∨ mode = 5 ∨ mode = 6 ∨ mode = 7 := by
  revert mode; decide

/-- What is dropped below 2^k, with 2^(k-1) the half, is compared as R62 says. -/
theorem roundsUp_eq (odd : Bool) {rest half d : Nat} (hd : d = 2 * half) (hh : 0 < half) :
    roundsUp mode neg odd rest half false = match mode.toNat with
      | 0 => decide (d < 2 * rest) || (2 * rest == d && odd)
      | 1 => false
      | 2 => neg && rest != 0
      | 3 => !neg && rest != 0
      | _ => decide (d ≤ 2 * rest) := by
  subst hd
  have h0 : (half != 0) = true := bne_iff_ne.mpr hh.ne'
  have hle : decide (half ≤ rest) = (decide (half < rest) || decide (rest = half)) := by
    rw [← Bool.decide_or]
    exact decide_eq_decide.mpr (by omega)
  obtain rfl | rfl | rfl | rfl | h := mode_cases mode
  · simp [roundsUp, h0, beq_eq_decide]
  · rfl
  · simp [roundsUp]
  · simp [roundsUp]
  · rcases h with rfl | rfl | rfl | rfl <;> simp [roundsUp, hle, h0]

/-- The integer that a number rounds to is the multiple of the unit. -/
theorem nearestInt_eq : nearestInt mode neg m (e - q) =
    ((if neg then -((roundAt mode neg m e false q).1 : Int) else (roundAt mode neg m e false q).1), (roundAt mode neg m e false q).2) := by
  by_cases h : e < q
  · obtain ⟨k, hk⟩ : ∃ k, (q - e).toNat = k + 1 := ⟨(q - e).toNat - 1, by omega⟩
    simp only [nearestInt, roundAt, if_pos h]
    rw [show (e - q).toNat = 0 by omega, show (-(e - q)).toNat = k + 1 by omega, hk]
    simp only [pow_zero, Nat.mul_one, Nat.add_sub_cancel, Bool.or_false]
    rw [roundsUp_eq _ (pow_succ' ..) (Nat.two_pow_pos k)]
    simp only [Nat.testBit_zero, beq_eq_decide] <;> rfl
  · rw [roundAt_exact (not_lt.mp h)]
    have h1 : (-(e - q)).toNat = 0 := by omega
    simp only [nearestInt, h1, pow_zero, Nat.mod_one, Nat.div_one]
    cases neg <;> simp <;> split <;> rfl

/-- An excess below what was dropped compares as one more bit of it. -/
theorem roundsUp_sticky (odd : Bool) (rest : Nat) {half : Nat} (hh : 0 < half) :
    roundsUp mode neg odd rest half true = roundsUp mode neg odd (2 * rest + 1) (2 * half) false := by
  have h0 : (half != 0) = true := bne_iff_ne.mpr hh.ne'
  have hle : (decide (half < rest) || decide (rest = half)) = decide (2 * half < 2 * rest + 1) := by
    rw [← Bool.decide_or]
    exact decide_eq_decide.mpr (by omega)
  have hne : ¬ 2 * rest + 1 = 2 * half := by omega
  obtain rfl | rfl | rfl | rfl | h := mode_cases mode
  · simp [roundsUp, h0, hle, hne]
  · rfl
  · simp [roundsUp]
  · simp [roundsUp]
  · rcases h with rfl | rfl | rfl | rfl <;> simp [roundsUp, h0, hle, hne]

/-- A sticky excess is a last bit of its own, once two bits lie below the unit (R62). -/
theorem roundAt_sticky (h : e + 2 ≤ q) : roundAt mode neg m e true q = roundAt mode neg (2 * m + 1) (e - 1) false q := by
  obtain ⟨k, hk⟩ : ∃ k, (q - e).toNat = k + 1 := ⟨(q - e).toNat - 1, by omega⟩
  have hdiv : (2 * m + 1) / 2 ^ (k + 2) = m / 2 ^ (k + 1) := by
    rw [pow_succ' 2 (k + 1), ← Nat.div_div_eq_div_mul]
    congr 1
    omega
  have hmod : (2 * m + 1) % 2 ^ (k + 2) = 2 * (m % 2 ^ (k + 1)) + 1 := by
    rw [pow_succ' 2 (k + 1), Nat.mod_mul, show (2 * m + 1) / 2 = m by omega]
    omega
  rw [roundAt, roundAt, if_pos (by omega), if_pos (by omega), hk, show (q - (e - 1)).toNat = k + 2 by omega]
  simp only [hdiv, hmod, Nat.add_sub_cancel, Nat.reduceSubDiff]
  rw [roundsUp_sticky _ _ (Nat.two_pow_pos k), ← pow_succ']
  simp

end

/-! ## The formats (R59, Table 3-2) -/

/-- An IEEE format: its bias is half its exponent range. -/
structure Fmt.IsIeee (f : Fmt) : Prop where
  kind : f.kind = .ieee
  range : 2 ^ f.ew = 2 * f.bias + 2
  bias : 1 ≤ f.bias
  fw : 1 ≤ f.fw

theorem isIeee_of_mem {f : Fmt} (h : f ∈ ieeeFmts) : f.IsIeee := by
  simp only [ieeeFmts, List.mem_cons, List.not_mem_nil, or_false] at h
  rcases h with rfl | rfl | rfl | rfl <;> constructor <;> decide

theorem isIeee_fmtOf (f : FFmt) : (fmtOf f).IsIeee := isIeee_of_mem (by cases f <;> decide)

section
variable {f : Fmt}

theorem Fmt.emax_eq (hf : f.IsIeee) : f.emax = 2 * f.bias + 1 := by
  rw [Fmt.emax, hf.range]
  rfl

theorem pack_low_lt {i j x m : Nat} (hx : x < 2 ^ i) (hm : m < 2 ^ j) : x * 2 ^ j + m < 2 ^ (i + j) :=
  calc x * 2 ^ j + m < (x + 1) * 2 ^ j := by rw [Nat.succ_mul]; omega
    _ ≤ 2 ^ i * 2 ^ j := Nat.mul_le_mul_right _ hx
    _ = 2 ^ (i + j) := (pow_add ..).symm

/-- The fields of a pattern. -/
theorem Fmt.fields_pack {neg : Bool} {x m : Nat} (hx : x < 2 ^ f.ew) (hm : m < 2 ^ f.fw) :
    (f.pack neg x m).testBit (f.ew + f.fw) = neg ∧ f.pack neg x m / 2 ^ f.fw % 2 ^ f.ew = x ∧ f.pack neg x m % 2 ^ f.fw = m := by
  have hlow : x * 2 ^ f.fw + m < 2 ^ (f.ew + f.fw) := pack_low_lt hx hm
  refine ⟨?_, ?_, ?_⟩
  · rw [Fmt.pack, Nat.add_assoc, Nat.testBit_eq_decide_div_mod_eq, Nat.add_comm, Nat.add_mul_div_right _ _ (Nat.two_pow_pos _),
      Nat.div_eq_of_lt hlow]
    cases neg <;> rfl
  · rw [Fmt.pack, pow_add, ← Nat.mul_assoc, ← Nat.add_mul, Nat.add_comm, Nat.add_mul_div_right _ _ (Nat.two_pow_pos _),
      Nat.div_eq_of_lt hm, Nat.zero_add, Nat.add_comm, Nat.add_mul_mod_self_right, Nat.mod_eq_of_lt hx]
  · rw [Fmt.pack, pow_add, ← Nat.mul_assoc, ← Nat.add_mul, Nat.add_comm, Nat.add_mul_mod_self_right, Nat.mod_eq_of_lt hm]

theorem Fmt.pack_lt {neg : Bool} {x m : Nat} (hx : x < 2 ^ f.ew) (hm : m < 2 ^ f.fw) : f.pack neg x m < 2 ^ f.width := by
  have hn : neg.toNat < 2 := Bool.toNat_lt neg
  have hlow : x * 2 ^ f.fw + m < 2 ^ (f.ew + f.fw) := pack_low_lt hx hm
  calc f.pack neg x m = neg.toNat * 2 ^ (f.ew + f.fw) + (x * 2 ^ f.fw + m) := Nat.add_assoc ..
    _ < (neg.toNat + 1) * 2 ^ (f.ew + f.fw) := by rw [Nat.succ_mul]; omega
    _ ≤ 2 * 2 ^ (f.ew + f.fw) := Nat.mul_le_mul_right _ hn
    _ = 2 ^ f.width := by rw [← pow_succ', Fmt.width, Nat.add_assoc 1, Nat.add_comm 1]

/-- A pattern is its fields. -/
theorem Fmt.pack_fields {b : Nat} (hb : b < 2 ^ f.width) :
    f.pack (b.testBit (f.ew + f.fw)) (b / 2 ^ f.fw % 2 ^ f.ew) (b % 2 ^ f.fw) = b := by
  have htop : b / 2 ^ (f.ew + f.fw) < 2 := by
    rw [Nat.div_lt_iff_lt_mul (Nat.two_pow_pos _), ← pow_succ']
    rwa [Fmt.width, Nat.add_assoc, Nat.add_comm] at hb
  have hsign : (b.testBit (f.ew + f.fw)).toNat = b / 2 ^ (f.ew + f.fw) := by
    rw [Nat.testBit_eq_decide_div_mod_eq, Nat.mod_eq_of_lt htop]
    interval_cases b / 2 ^ (f.ew + f.fw) <;> rfl
  have hexp : b / 2 ^ f.fw = b / 2 ^ (f.ew + f.fw) * 2 ^ f.ew + b / 2 ^ f.fw % 2 ^ f.ew := by
    rw [Nat.add_comm f.ew, pow_add, ← Nat.div_div_eq_div_mul, Nat.div_add_mod']
  calc f.pack (b.testBit (f.ew + f.fw)) (b / 2 ^ f.fw % 2 ^ f.ew) (b % 2 ^ f.fw)
      = (b / 2 ^ (f.ew + f.fw) * 2 ^ f.ew + b / 2 ^ f.fw % 2 ^ f.ew) * 2 ^ f.fw + b % 2 ^ f.fw := by
        rw [Fmt.pack, hsign, pow_add, Nat.add_mul, Nat.mul_assoc]
    _ = b := by rw [← hexp, Nat.div_add_mod']

end
end Sys2Proof.Machine
end

section
/-! SUPPORT. Patterns, their values and the correct rounding (R59 to R62). -/

set_option Elab.async false

namespace Sys2Proof.Machine

open Sys2Proof.Claims

/-! ## Numbers as rationals -/

theorem ratOf_mul_two_pow (neg : Bool) (m k : Nat) (e : Int) : ratOf neg (m * 2 ^ k) e = ratOf neg m (e + k) := by
  rw [ratOf, ratOf, zpow_add₀ two_ne_zero, zpow_natCast]
  push_cast
  ring

@[simp] theorem ratOf_zero (neg : Bool) (e : Int) : ratOf neg 0 e = 0 := by simp [ratOf]

theorem abs_ratOf (neg : Bool) (m : Nat) (e : Int) : |ratOf neg m e| = m * 2 ^ e := by
  have h2 : |(2 : Rat) ^ e| = 2 ^ e := abs_of_pos (zpow_pos two_pos e)
  cases neg <;> simp [ratOf, abs_mul, h2]

/-- A number of n + 1 bits lies below a power of two just where its leading one does. -/
theorem mul_two_zpow_lt_iff {n k : Nat} {q p : Int} (hl : 2 ^ n ≤ k) (hu : k < 2 ^ (n + 1)) :
    (k : Rat) * 2 ^ q < 2 ^ p ↔ q + n < p := by
  have hl' : (2 : Rat) ^ (n : Int) ≤ k := by exact_mod_cast hl
  have hu' : (k : Rat) < 2 ^ (n + 1 : Int) := by exact_mod_cast hu
  have hq : (0 : Rat) < 2 ^ q := zpow_pos two_pos q
  constructor
  · intro h
    refine (zpow_lt_zpow_iff_right₀ (one_lt_two (α := Rat))).mp (lt_of_le_of_lt ?_ h)
    rw [zpow_add₀ two_ne_zero, mul_comm]
    exact mul_le_mul_of_nonneg_right hl' hq.le
  · intro h
    calc (k : Rat) * 2 ^ q < 2 ^ (n + 1 : Int) * 2 ^ q := mul_lt_mul_of_pos_right hu' hq
      _ = 2 ^ (q + n + 1) := by rw [← zpow_add₀ two_ne_zero]; congr 1; omega
      _ ≤ 2 ^ p := zpow_le_zpow_right₀ one_le_two (by omega)

section
variable {f : Fmt} {mode : BitVec 3} {neg st : Bool} {m : Nat} {e : Int}

/-! ## Patterns and values (R59) -/

theorem Fmt.value_pack (hf : f.IsIeee) {x : Nat} (hx : x < 2 ^ f.ew) (hm : m < 2 ^ f.fw) :
    f.value (f.pack neg x m) =
      if x = f.emax then (if m = 0 then .inf neg else .nan (!m.testBit (f.fw - 1)))
      else if x = 0 then .num neg m (1 - (f.bias : Int) - f.fw) false
      else .num neg (2 ^ f.fw + m) ((x : Int) - f.bias - f.fw) false := by
  obtain ⟨hs, he, hr⟩ := Fmt.fields_pack (neg := neg) hx hm
  simp only [Fmt.value, hf.kind, hs, he, hr]

/-- The value of a pattern whose significand may have carried into its exponent. -/
theorem Fmt.value_carried (hf : f.IsIeee) {k : Nat} (hk : k ≤ 2 ^ f.fw) :
    ∃ n g, f.value (f.pack neg 0 0 + k) = .num neg n g false ∧ ratOf neg n g = ratOf neg k (1 - (f.bias : Int) - f.fw) ∧
      f.pack neg 0 0 + k < 2 ^ f.width := by
  have hw : 4 ≤ 2 ^ f.ew := by have := hf.bias; rw [hf.range]; omega
  have hne := Fmt.emax_eq hf
  have hb := hf.bias
  obtain hk | rfl := Nat.lt_or_eq_of_le hk
  · have hp : f.pack neg 0 0 + k = f.pack neg 0 k := rfl
    refine ⟨k, _, ?_, rfl, hp ▸ Fmt.pack_lt (by omega) hk⟩
    rw [hp, Fmt.value_pack hf (by omega) hk, if_neg (by omega), if_pos rfl]
  · have hp : f.pack neg 0 0 + 2 ^ f.fw = f.pack neg 1 0 := by simp [Fmt.pack]
    refine ⟨2 ^ f.fw, 1 - (f.bias : Int) - f.fw, ?_, rfl, hp ▸ Fmt.pack_lt (by omega) (Nat.two_pow_pos _)⟩
    rw [hp, Fmt.value_pack hf (by omega) (Nat.two_pow_pos _), if_neg (by omega), if_neg (by omega)]
    rfl

/-! ## The rounding of a number (R62) -/

/-- With an unbounded exponent range, a number rounds to a significand of full precision, with the value of the rounded multiple of the unit. -/
theorem Fmt.unbounded_spec (hm : m ≠ 0) :
    let r := roundAt mode neg m e st (topExp m e - f.fw)
    ∃ k q, f.unbounded mode neg m e st = (k, q, r.2) ∧ 2 ^ f.fw ≤ k ∧ k < 2 ^ (f.fw + 1) ∧
      (∀ n, ratOf n k q = ratOf n r.1 (topExp m e - f.fw)) ∧ topExp m e ≤ q + f.fw ∧ (q + f.fw ≤ topExp m e + 1) ∧
      (q + f.fw = topExp m e → k = r.1) := by
  intro r
  have hl : 2 ^ f.fw ≤ r.1 := le_roundAt hm (by omega)
  have hu : r.1 ≤ 2 ^ (f.fw + 1) := roundAt_le (by push_cast; omega)
  unfold Fmt.unbounded
  by_cases hc : r.1 = 2 ^ (f.fw + 1)
  · refine ⟨2 ^ f.fw, topExp m e - f.fw + 1, if_pos hc, le_rfl, Nat.pow_lt_pow_succ Nat.one_lt_two, fun n => ?_, by omega, by omega, by omega⟩
    rw [hc, pow_succ, ← pow_one 2, ratOf_mul_two_pow]
    rfl
  · exact ⟨r.1, _, if_neg hc, hl, lt_of_le_of_ne hu hc, fun n => rfl, by omega, by omega, fun _ => rfl⟩

/-- The cases of the rounding of a nonzero number to an IEEE format. -/
theorem Fmt.round_num (hf : f.IsIeee) (hm : m ≠ 0) {k : Nat} {q : Int} {lost : Bool} (hu : f.unbounded mode neg m e st = (k, q, lost)) :
    let r := roundAt mode neg m e st (1 - (f.bias : Int) - f.fw)
    f.round mode (.num neg m e st) =
      if q + f.fw + f.bias < 1 then (f.pack neg 0 0 + r.1, flagIf r.2 (fUF ||| fNX))
      else if (f.emax : Int) ≤ q + f.fw + f.bias then (f.overflow mode neg, fOF ||| fNX)
      else if topExp m e + f.bias < 1 then (f.pack neg 0 0 + r.1, flagIf r.2 fNX)
      else (f.pack neg (q + f.fw + f.bias).toNat (k - 2 ^ f.fw), flagIf lost fNX) := by
  obtain ⟨m, rfl⟩ := Nat.exists_eq_succ_of_ne_zero hm
  simp only [Fmt.round, hu, hf.kind]

theorem Fmt.overflow_eq (hmode : mode.toNat ≤ 4) : f.overflow mode neg = overflowResult f mode neg := by
  have hle (c : BitVec 3) (hc : 4 < c.toNat) : mode ≠ c := fun e => absurd (e ▸ hmode) (Nat.not_le.mpr hc)
  obtain rfl | rfl | rfl | rfl | rfl | h := mode_cases mode
  · rfl
  · rfl
  · cases neg <;> rfl
  · cases neg <;> rfl
  · rfl
  · exact absurd h (by simp [hle])

/-- The rounding of a number that its format holds without overflow: the pattern has the value of the rounded multiple of the unit. -/
theorem Fmt.value_normal (hf : f.IsIeee) {k : Nat} {q : Int} (hl : 2 ^ f.fw ≤ k) (hu : k < 2 ^ (f.fw + 1)) (h1 : 1 ≤ q + f.fw + f.bias)
    (h2 : q + f.fw + f.bias < f.emax) :
    f.value (f.pack neg (q + f.fw + f.bias).toNat (k - 2 ^ f.fw)) = .num neg k q false ∧
      f.pack neg (q + f.fw + f.bias).toNat (k - 2 ^ f.fw) < 2 ^ f.width := by
  have hx : (q + f.fw + f.bias).toNat < 2 ^ f.ew := by
    have := Nat.sub_le (2 ^ f.ew) 1
    unfold Fmt.emax at h2
    omega
  have hk : k - 2 ^ f.fw < 2 ^ f.fw := by rw [pow_succ] at hu; omega
  refine ⟨?_, Fmt.pack_lt hx hk⟩
  rw [Fmt.value_pack hf hx hk, if_neg (by omega), if_neg (by omega), Nat.add_sub_cancel' hl]
  congr 1
  omega

/-- The correct rounding through the multiple of the unit that the model rounds to. -/
theorem roundsRight_iff {r : Nat × BitVec 9} :
    let unit := max (topExp m e - f.fw) (1 - (f.bias : Int) - f.fw)
    let a := roundAt mode neg m e false unit
    let tiny := ((roundAt mode neg m e false (topExp m e - f.fw)).1 : Rat) * 2 ^ (topExp m e - f.fw) < 2 ^ (1 - (f.bias : Int))
    RoundsRight f mode neg m e r ↔
      ((a.1 : Rat) * 2 ^ unit < 2 ^ (f.bias + 1) → r.1 < 2 ^ f.width ∧
        (∃ n g, f.value r.1 = .num neg n g false ∧ ratOf neg n g = ratOf neg a.1 unit) ∧
        (a.2 = false → r.2 = 0) ∧ (a.2 = true → tiny → r.2 = 0x18) ∧ (a.2 = true → ¬tiny → r.2 = 0x10)) ∧
      ((2 : Rat) ^ (f.bias + 1) ≤ a.1 * 2 ^ unit → r = (overflowResult f mode neg, 0x14)) := by
  have habs (b : Bool) (a : Nat) : (((if b then -(a : Int) else a) : Int).natAbs : Rat) = a := by cases b <;> simp
  have hrat (a : Nat) (u : Int) : (((if neg then -(a : Int) else a) : Int) : Rat) * 2 ^ u = ratOf neg a u := by
    cases neg <;> simp [ratOf]
  have htop : e + (Nat.log2 m : Int) = topExp m e := rfl
  simp only [RoundsRight, htop, nearestInt_eq, habs, hrat, abs_ratOf]

/-- A nonzero number rounds correctly to an IEEE format (R61, R62). -/
theorem Fmt.roundsRight (hf : f.IsIeee) (hmode : mode.toNat ≤ 4) (hm : m ≠ 0) :
    RoundsRight f mode neg m e (f.round mode (.num neg m e false)) := by
  have hb := hf.bias
  have hmax := Fmt.emax_eq hf
  obtain ⟨k, q, hu, hkl, hku, hkq, hql, hqu, hkr⟩ := Fmt.unbounded_spec (f := f) (mode := mode) (neg := neg) (st := false) (e := e) hm
  have hkq' : ((roundAt mode neg m e false (topExp m e - f.fw)).1 : Rat) * 2 ^ (topExp m e - f.fw) = k * 2 ^ q := by
    rw [← abs_ratOf neg, ← hkq neg, abs_ratOf]
  have htiny : (k : Rat) * 2 ^ q < 2 ^ (1 - (f.bias : Int)) ↔ q + f.fw + f.bias < 1 := by
    rw [mul_two_zpow_lt_iff hkl hku]
    omega
  refine roundsRight_iff.mpr ?_
  rw [hkq', htiny, Fmt.round_num hf hm hu]
  by_cases hsub : topExp m e + f.bias < 1
  · -- below the least normal number: the unit is that of the subnormals
    have hr : (roundAt mode neg m e false (1 - (f.bias : Int) - f.fw)).1 ≤ 2 ^ f.fw := roundAt_le (by omega)
    rw [max_eq_right (by omega), if_neg (by omega : ¬ (f.emax : Int) ≤ _), if_pos hsub]
    generalize roundAt mode neg m e false (1 - (f.bias : Int) - f.fw) = a at hr
    obtain ⟨n, g, hv, hval, hlt⟩ := Fmt.value_carried (neg := neg) hf hr
    have hsmall : (a.1 : Rat) * 2 ^ (1 - (f.bias : Int) - f.fw) < 2 ^ (f.bias + 1) :=
      calc (a.1 : Rat) * 2 ^ (1 - (f.bias : Int) - f.fw) ≤ 2 ^ (f.fw : Int) * 2 ^ (1 - (f.bias : Int) - f.fw) :=
            mul_le_mul_of_nonneg_right (by exact_mod_cast hr) (zpow_pos two_pos _).le
        _ = 2 ^ (1 - (f.bias : Int)) := by rw [← zpow_add₀ two_ne_zero]; congr 1; omega
        _ < 2 ^ ((f.bias + 1 : Nat) : Int) := zpow_lt_zpow_right₀ one_lt_two (by omega)
        _ = 2 ^ (f.bias + 1) := zpow_natCast _ _
    refine ⟨fun _ => ?_, fun h => absurd hsmall (not_lt.mpr h)⟩
    by_cases ht : q + f.fw + f.bias < 1
    · rw [if_pos ht]
      exact ⟨hlt, ⟨n, g, hv, hval⟩, fun h => by simp [h, flagIf], fun h _ => by simp [h, flagIf, fUF, fNX], fun _ h => absurd ht h⟩
    · rw [if_neg ht]
      exact ⟨hlt, ⟨n, g, hv, hval⟩, fun h => by simp [h, flagIf], fun _ h => absurd h ht, fun h _ => by simp [h, flagIf, fNX]⟩
  · have hbig : (k : Rat) * 2 ^ q < 2 ^ (f.bias + 1) ↔ q + f.fw + f.bias < f.emax := by
      rw [← zpow_natCast, mul_two_zpow_lt_iff hkl hku]
      omega
    have hbig' : (2 : Rat) ^ (f.bias + 1) ≤ k * 2 ^ q ↔ (f.emax : Int) ≤ q + f.fw + f.bias := by
      rw [← not_lt, hbig, not_lt]
    rw [max_eq_left (by omega), hkq', hbig', hbig, if_neg (by omega : ¬ q + f.fw + f.bias < 1), if_neg hsub, Fmt.overflow_eq hmode]
    generalize (roundAt mode neg m e false (topExp m e - f.fw)) = a at hkq
    refine ⟨fun h => ?_, fun h => if_pos h⟩
    obtain ⟨hv, hlt⟩ := Fmt.value_normal (neg := neg) hf hkl hku (by omega) h
    rw [if_neg (not_le.mpr h)]
    exact ⟨hlt, ⟨k, q, hv, hkq neg⟩, fun h => by simp [h, flagIf], fun _ h => absurd h (by omega), fun h _ => by simp [h, flagIf, fNX]⟩

/-- A sticky excess rounds as any excess there (R62). -/
theorem Fmt.round_sticky (hf : f.IsIeee) (h : 2 ^ (f.fw + 2) ≤ m) :
    f.round mode (.num neg m e true) = f.round mode (.num neg (2 * m + 1) (e - 1) false) := by
  have hm : m ≠ 0 := by have := Nat.two_pow_pos (f.fw + 2); omega
  have hlog : Nat.log2 (2 * m + 1) = Nat.log2 m + 1 := by
    rw [Nat.log2_eq_iff (by omega), pow_succ', pow_succ']
    have := Nat.log2_self_le hm
    have := Nat.lt_log2_self (n := m)
    omega
  have htop : topExp (2 * m + 1) (e - 1) = topExp m e := by
    simp only [topExp, hlog]
    omega
  have hge : f.fw + 2 ≤ Nat.log2 m := (Nat.le_log2 hm).mpr h
  have hq : e + 2 ≤ topExp m e - f.fw := by
    simp only [topExp]
    omega
  have hunb : f.unbounded mode neg (2 * m + 1) (e - 1) false = f.unbounded mode neg m e true := by
    simp only [Fmt.unbounded, htop, roundAt_sticky hq]
  obtain ⟨k, q, hu, -, -, -, hql, hqu, -⟩ := Fmt.unbounded_spec (f := f) (mode := mode) (neg := neg) (st := true) (e := e) hm
  have h1 := Fmt.round_num hf hm hu
  have h2 := Fmt.round_num hf (Nat.succ_ne_zero (2 * m)) (hunb.trans hu)
  rw [h1, h2, htop]
  by_cases hs : topExp m e + f.bias < 1
  · rw [roundAt_sticky (q := 1 - (f.bias : Int) - f.fw) (by omega)]
  · have : ¬ q + f.fw + f.bias < 1 := by omega
    simp only [if_neg this, if_neg hs]

/-! ## Values of a format (R59, R60) -/

/-- A subnormal number rounds to itself. -/
theorem Fmt.round_subnormal (hf : f.IsIeee) (hm : m < 2 ^ f.fw) :
    f.round mode (.num neg m (1 - (f.bias : Int) - f.fw) false) = (f.pack neg 0 m, 0) := by
  have hb := hf.bias
  have hmax := Fmt.emax_eq hf
  by_cases h0 : m = 0
  · subst h0; rfl
  obtain ⟨k, q, hu, -, -, -, -, hqu, -⟩ :=
    Fmt.unbounded_spec (f := f) (mode := mode) (neg := neg) (st := false) (e := 1 - (f.bias : Int) - f.fw) h0
  have hlog : Nat.log2 m < f.fw := (Nat.log2_lt h0).mpr hm
  have htop : topExp m (1 - (f.bias : Int) - f.fw) + f.bias < 1 := by
    unfold topExp
    omega
  have hp : f.pack neg 0 0 + m * 2 ^ (1 - (f.bias : Int) - f.fw - (1 - (f.bias : Int) - f.fw)).toNat = f.pack neg 0 m := by
    simp [Fmt.pack]
  rw [Fmt.round_num hf h0 hu, roundAt_exact le_rfl, if_pos htop, if_neg (by omega : ¬ (f.emax : Int) ≤ _)]
  simp only [hp, flagIf, Bool.false_eq_true, if_false, ite_self]

/-- A normal number rounds to itself. -/
theorem Fmt.round_normal (hf : f.IsIeee) {x : Nat} (h1 : 1 ≤ x) (h2 : x < f.emax) (hm : m < 2 ^ f.fw) :
    f.round mode (.num neg (2 ^ f.fw + m) ((x : Int) - f.bias - f.fw) false) = (f.pack neg x m, 0) := by
  have hlog : Nat.log2 (2 ^ f.fw + m) = f.fw := by
    rw [Nat.log2_eq_iff (by have := Nat.two_pow_pos f.fw; omega), pow_succ]
    omega
  have htop : topExp (2 ^ f.fw + m) ((x : Int) - f.bias - f.fw) - f.fw = (x : Int) - f.bias - f.fw := by
    simp only [topExp, hlog]
    omega
  have hu : f.unbounded mode neg (2 ^ f.fw + m) ((x : Int) - f.bias - f.fw) false = (2 ^ f.fw + m, (x : Int) - f.bias - f.fw, false) := by
    have hne : 2 ^ f.fw + m ≠ 2 ^ (f.fw + 1) := by rw [pow_succ]; omega
    simp only [Fmt.unbounded, htop, roundAt_exact le_rfl, sub_self, Int.toNat_zero, pow_zero, Nat.mul_one, if_neg hne]
  have hbe : (x : Int) - f.bias - f.fw + f.fw + f.bias = x := by omega
  rw [Fmt.round_num hf (by have := Nat.two_pow_pos f.fw; omega) hu, hbe, if_neg (by omega), if_neg (by omega), if_neg (by omega),
    Int.toNat_natCast, Nat.add_sub_cancel_left]
  rfl

/-- What the patterns of a format round to: the numbers and the infinities to themselves, a NaN to the canonical one. -/
theorem Fmt.round_value_pack (hf : f.IsIeee) {x : Nat} (hx : x < 2 ^ f.ew) (hm : m < 2 ^ f.fw) :
    f.round mode (f.value (f.pack neg x m)) =
      if x = f.emax ∧ m ≠ 0 then (f.qnan, flagIf (!m.testBit (f.fw - 1)) fNV) else (f.pack neg x m, 0) := by
  have hmax : f.emax = 2 ^ f.ew - 1 := rfl
  rw [Fmt.value_pack hf hx hm]
  by_cases he : x = f.emax
  · by_cases h0 : m = 0
    · subst h0
      rw [if_pos he, if_pos rfl, if_neg (by simp), he]
      simp only [Fmt.round, hf.kind]
      rfl
    · rw [if_pos he, if_neg h0, if_pos ⟨he, h0⟩]
      rfl
  · rw [if_neg he, if_neg (fun h : x = f.emax ∧ m ≠ 0 => he h.1)]
    by_cases h0 : x = 0
    · rw [if_pos h0, Fmt.round_subnormal hf hm, h0]
    · rw [if_neg h0, Fmt.round_normal hf (by omega) (by omega) hm]

theorem Fmt.isNan_value_pack (hf : f.IsIeee) {x : Nat} (hx : x < 2 ^ f.ew) (hm : m < 2 ^ f.fw) :
    (f.value (f.pack neg x m)).isNan = decide (x = f.emax ∧ m ≠ 0) := by
  rw [Fmt.value_pack hf hx hm]
  by_cases he : x = f.emax
  · by_cases h0 : m = 0 <;> simp [FV.isNan, he, h0]
  · rw [if_neg he]
    split <;> simp [FV.isNan, he]

end

end Sys2Proof.Machine

namespace Sys2Proof.Safety

open Sys2Proof.Machine Sys2Proof.Claims

/-- Settles O10: each pattern is its fields, and what its fields round to is known. -/
theorem formatValueRoundsToItself : Obligations.FormatValueRoundsToItself := by
  unfold Obligations.FormatValueRoundsToItself
  intro f hf mode b hb
  have hf := isIeee_of_mem hf
  have hx := Nat.mod_lt (b / 2 ^ f.fw) (Nat.two_pow_pos f.ew)
  have hm := Nat.mod_lt b (Nat.two_pow_pos f.fw)
  have hbit : (b % 2 ^ f.fw).testBit (f.fw - 1) = b.testBit (f.fw - 1) := by
    have := hf.fw
    rw [Nat.testBit_mod_two_pow]
    simp [show f.fw - 1 < f.fw by omega]
  rw [← Fmt.pack_fields hb, Fmt.isNan_value_pack hf hx hm, Fmt.round_value_pack hf hx hm, Fmt.pack_fields hb, hbit]
  refine ⟨fun h => if_neg (of_decide_eq_false h), fun h => (if_pos (of_decide_eq_true h)).trans ?_⟩
  cases b.testBit (f.fw - 1) <;> rfl

end Sys2Proof.Safety
end

section
/-! PROOFS. Special operands of the exact operations (R60, R63, Table 3-4; O11). -/

set_option Elab.async false

namespace Sys2Proof.Machine

open Sys2Proof.Claims

/-! ## A NaN beside another value -/

section
variable {x : FV} (hx : ∀ b, x ≠ .nan b) (mode : BitVec 3) (sg mx : Bool)
include hx

theorem FV.isNan_of_ne : x.isNan = false := by
  cases x with
  | nan b => exact absurd rfl (hx b)
  | inf | num => rfl

/-- Sums, products and quotients of a NaN and another value are the quiet NaN, with NV for a signalling one. -/
theorem FV.ops_nan :
    let q : FR := (.nan false, flagIf sg fNV)
    (FV.nan sg).add mode x = q ∧ x.add mode (.nan sg) = q ∧ (FV.nan sg).mul x = q ∧ x.mul (.nan sg) = q ∧
      (FV.nan sg).div x = q ∧ x.div (.nan sg) = q := by
  cases x with
  | nan b => exact absurd rfl (hx b)
  | inf | num => exact ⟨rfl, rfl, rfl, rfl, rfl, rfl⟩

theorem sigNV_nan_left : sigNV [.nan sg, x] = if sg then 1 else 0 := by
  cases x with
  | nan b => exact absurd rfl (hx b)
  | inf | num => cases sg <;> simp [sigNV, fNV]

theorem sigNV_nan_right : sigNV [x, .nan sg] = if sg then 1 else 0 := by
  cases x with
  | nan b => exact absurd rfl (hx b)
  | inf | num => cases sg <;> simp [sigNV, fNV]

theorem FV.nan_minmax : (FV.nan sg).minmax mx x = (x, if sg then 1 else 0) := by
  simp only [FV.minmax, sigNV_nan_left hx, FV.isNan_of_ne hx]
  rfl

theorem FV.minmax_nan : x.minmax mx (.nan sg) = (x, if sg then 1 else 0) := by
  simp only [FV.minmax, sigNV_nan_right hx, FV.isNan_of_ne hx]
  rfl

end

theorem FV.nan_minmax_nan (mx sg sh : Bool) : (FV.nan sg).minmax mx (.nan sh) = (.nan false, flagIf (sg || sh) fNV) := by
  have h : sigNV [.nan sg, .nan sh] = flagIf (sg || sh) fNV := by cases sg <;> cases sh <;> simp [sigNV, flagIf]
  simp only [FV.minmax, h]
  rfl

/-! ## Infinities, zeros and negative numbers (Table 3-4) -/

theorem FV.inf_add_inf_not (mode : BitVec 3) (a : Bool) : (FV.inf a).add mode (.inf !a) = (.nan false, fNV) := by
  cases a <;> rfl

theorem FV.inf_mul_zero (a b : Bool) (e : Int) : (FV.inf a).mul (.num b 0 e false) = (.nan false, fNV) := rfl
theorem FV.zero_mul_inf (a b : Bool) (e : Int) : (FV.num b 0 e false).mul (.inf a) = (.nan false, fNV) := rfl
theorem FV.zero_div_zero (a b : Bool) (e g : Int) : (FV.num a 0 e false).div (.num b 0 g false) = (.nan false, fNV) := rfl

theorem FV.div_zero (a b : Bool) {m : Nat} (hm : m ≠ 0) (e g : Int) :
    (FV.num a m e false).div (.num b 0 g false) = (.inf (a != b), fDZ) := if_neg hm

theorem FV.sqrt_neg {m : Nat} (hm : m ≠ 0) (e : Int) : (FV.num true m e false).sqrt = (.nan false, fNV) := if_neg hm

/-- An infinity rounds to that of the format. -/
theorem Fmt.round_inf {f : Fmt} (hf : f.IsIeee) (mode : BitVec 3) (neg : Bool) : f.round mode (.inf neg) = (f.infty neg, 0) := by
  simp only [Fmt.round, hf.kind]

end Sys2Proof.Machine

namespace Sys2Proof.Safety

open Sys2Proof.Machine Sys2Proof.Claims

/-- What a quiet NaN with NV, or with none, comes to after the rounding. -/
theorem round_quiet_nan (f : Fmt) (mode : BitVec 3) (sig : Bool) {e : FR} (h : e = (.nan false, flagIf sig fNV)) :
    ((f.round mode e.1).1, e.2 ||| (f.round mode e.1).2) = (f.qnan, if sig then (1 : BitVec 9) else 0) := by
  subst h
  cases sig <;> simp [Fmt.round, flagIf, fNV]

/-- Settles O11. -/
theorem floatSpecialCases : Obligations.FloatSpecialCases := by
  unfold Obligations.FloatSpecialCases
  intro f mode R nan
  have quiet {e : FR} (sig : Bool) : e = (.nan false, flagIf sig fNV) → R e = nan sig := round_quiet_nan _ mode sig
  refine ⟨fun x sg hx => ?_, fun a => quiet true (FV.inf_add_inf_not mode a),
    fun a b e => ⟨quiet true (FV.inf_mul_zero a b e), quiet true (FV.zero_mul_inf a b e)⟩,
    fun a b e g => quiet true (FV.zero_div_zero a b e g), fun a b => quiet true rfl, fun m e hm => quiet true (FV.sqrt_neg hm e),
    fun a b m e g hm => ?_, fun x sg mx hx => ⟨FV.nan_minmax hx sg mx, FV.minmax_nan hx sg mx⟩,
    fun sg sh mx => quiet _ (FV.nan_minmax_nan mx sg sh)⟩
  · obtain ⟨h1, h2, h3, h4, h5, h6⟩ := FV.ops_nan hx mode sg
    exact ⟨quiet sg h1, quiet sg h2, quiet sg h3, quiet sg h4, quiet sg h5, quiet sg h6, quiet sg rfl⟩
  · show (((fmtOf f).round mode _).1, _) = _
    rw [FV.div_zero a b hm, Fmt.round_inf (isIeee_fmtOf f)]
    simp [fDZ]

end Sys2Proof.Safety
end

section
/-! SUPPORT. The exact operations on numbers (R63). -/

set_option Elab.async false

namespace Sys2Proof.Machine

open Sys2Proof.Claims

/-! ## Integers at a unit -/

theorem ratOf_natAbs (v : Int) (q : Int) : ratOf (decide (v < 0)) v.natAbs q = v * 2 ^ q := by
  obtain h | h := lt_or_ge v 0
  · have : ((v.natAbs : Nat) : Rat) = -v := by rw [← Int.cast_natCast, Int.ofNat_natAbs_of_nonpos h.le]; push_cast; rfl
    simp [ratOf, h, this]
  · have : ((v.natAbs : Nat) : Rat) = v := by rw [← Int.cast_natCast, Int.natAbs_of_nonneg h]
    simp [ratOf, not_lt.mpr h, this]

theorem atUnit_mul (neg : Bool) (m : Nat) {e q : Int} (h : q ≤ e) : (atUnit neg m e q : Rat) * 2 ^ q = ratOf neg m e := by
  have he : e = q + (e - q).toNat := by omega
  have hr : ratOf neg m e = ratOf neg (m * 2 ^ (e - q).toNat) q := by rw [ratOf_mul_two_pow, ← he]
  rw [hr]
  cases neg <;> simp [atUnit, ratOf]

section
variable (mode : BitVec 3) (a b d s s' : Bool) (m n : Nat) (e g : Int)

/-- A sum of numbers is exact; a zero sum is +0, or −0 under RDN, and two zeros of one sign keep it. -/
theorem FV.add_num : ∃ c p k, (FV.num a m e s).add mode (.num b n g s') = (.num c p k false, 0) ∧
    ratOf c p k = ratOf a m e + ratOf b n g ∧ (p = 0 → c = if m = 0 ∧ n = 0 ∧ a = b then a else decide (mode = 2)) := by
  by_cases h0 : m = 0 ∧ n = 0
  · obtain ⟨rfl, rfl⟩ := h0
    exact ⟨_, _, _, rfl, by simp, fun _ => by by_cases hab : a = b <;> simp [hab]⟩
  · have hz : ¬((decide (m = 0) && decide (n = 0)) = true) := by simpa using h0
    have hsign : ¬(m = 0 ∧ n = 0 ∧ a = b) := fun h => h0 ⟨h.1, h.2.1⟩
    simp only [FV.add, if_neg hz, if_neg hsign]
    generalize hq : (if m = 0 then g else if n = 0 then e else if e ≤ g then e else g) = q
    generalize hv : (if m = 0 then 0 else atUnit a m e q) + (if n = 0 then 0 else atUnit b n g q) = v
    have hqm : m ≠ 0 → q ≤ e := fun h => by rw [← hq, if_neg h]; split_ifs <;> omega
    have hqn : n ≠ 0 → q ≤ g := fun h => by rw [← hq, if_neg h]; split_ifs <;> omega
    have hval : (v : Rat) * 2 ^ q = ratOf a m e + ratOf b n g := by
      rw [← hv, Int.cast_add, add_mul]
      congr 1
      · split_ifs with h
        · simp [h]
        · exact atUnit_mul a m (hqm h)
      · split_ifs with h
        · simp [h]
        · exact atUnit_mul b n (hqn h)
    by_cases hv0 : v = 0
    · refine ⟨_, _, _, if_pos hv0, ?_, fun _ => rfl⟩
      rw [← hval, hv0]
      simp
    · exact ⟨_, _, _, if_neg hv0, (ratOf_natAbs v q).trans hval, fun h => absurd (Int.natAbs_eq_zero.mp h) hv0⟩

/-- A product of numbers is exact. -/
theorem FV.mul_num : ∃ p k, (FV.num a m e s).mul (.num b n g s') = (.num (a != b) p k false, 0) ∧
    ratOf (a != b) p k = ratOf a m e * ratOf b n g := by
  refine ⟨m * n, _, rfl, ?_⟩
  split_ifs with h
  · obtain rfl | rfl := Nat.mul_eq_zero.mp h <;> simp
  · simp only [ratOf, zpow_add₀ (two_ne_zero (α := Rat))]
    push_cast
    cases a <;> cases b <;> simp <;> ring

/-- A product and a sum of numbers are exact together. -/
theorem FV.fma_num (q : Nat) (h : Int) : ∃ c p k, (FV.num a m e s).fma mode (.num b n g s') (.num d q h false) = (.num c p k false, 0) ∧
    ratOf c p k = ratOf a m e * ratOf b n g + ratOf d q h := by
  obtain ⟨p, k, hmul, hval⟩ := FV.mul_num a b s s' m n e g
  obtain ⟨c, r, i, hadd, hsum, -⟩ := FV.add_num mode (a != b) d false false p q k h
  refine ⟨c, r, i, ?_, by rw [hsum, hval]⟩
  simp only [FV.fma, hmul, hadd, FV.isNan]
  rfl

/-- The order of numbers is that of their values, with −0 below +0 where it counts. -/
theorem FV.lt_num (zeros : Bool) : FV.lt zeros (.num a m e s) (.num b n g s') =
    (decide (ratOf a m e < ratOf b n g) || (zeros && decide (m = 0) && decide (n = 0) && a && !b)) := by
  by_cases h0 : m = 0 ∧ n = 0
  · obtain ⟨rfl, rfl⟩ := h0
    simp [FV.lt]
  · have hz : ¬((decide (m = 0) && decide (n = 0)) = true) := by simpa using h0
    have hz' : (zeros && decide (m = 0) && decide (n = 0) && a && !b) = false := by
      rw [Bool.and_assoc zeros, Bool.eq_false_of_not_eq_true hz]
      simp
    simp only [FV.lt, if_neg hz, hz', Bool.or_false]
    generalize hq : (if e ≤ g then e else g) = q
    have hqe : q ≤ e := by rw [← hq]; split_ifs <;> omega
    have hqg : q ≤ g := by rw [← hq]; split_ifs <;> omega
    refine decide_eq_decide.mpr ?_
    rw [← atUnit_mul a m hqe, ← atUnit_mul b n hqg, mul_lt_mul_iff_left₀ (zpow_pos two_pos q), Int.cast_lt]

end

/-! ## Quotients (Table 3-4) -/

/-- A quotient of nonzero numbers has 64 bits at least, and says whether anything lies below them. -/
theorem FV.div_num (a b s s' : Bool) {m n : Nat} (e g : Int) (hm : m ≠ 0) (hn : n ≠ 0) :
    ∃ p k st, (FV.num a m e s).div (.num b n g s') = (.num (a != b) p k st, 0) ∧ 2 ^ 63 ≤ p ∧
      ratOf false p k ≤ ratOf false m e / ratOf false n g ∧ ratOf false m e / ratOf false n g < ratOf false (p + 1) k ∧
      (st = true ↔ ratOf false p k ≠ ratOf false m e / ratOf false n g) := by
  obtain ⟨k, hk⟩ : ∃ k, Nat.log2 n + 64 = k := ⟨_, rfl⟩
  have hn0 : 0 < n := Nat.pos_of_ne_zero hn
  have hval : ratOf false m e / ratOf false n g = ((m * 2 ^ k : Nat) : Rat) / n * 2 ^ (e - g - k) := by
    simp only [ratOf, zpow_sub₀ (two_ne_zero (α := Rat)), zpow_natCast]
    have : (n : Rat) ≠ 0 := by exact_mod_cast hn
    push_cast
    field_simp
  have hpos : (0 : Rat) < 2 ^ (e - g - k) := zpow_pos two_pos _
  have hone (p : Nat) (i : Int) : ratOf false p i = p * 2 ^ i := by simp [ratOf]
  refine ⟨m * 2 ^ k / n, e - g - k, m * 2 ^ k % n != 0, ?_, ?_, ?_, ?_, ?_⟩
  · simp only [FV.div, if_neg hn, if_neg hm, hk]
  · rw [Nat.le_div_iff_mul_le hn0]
    calc 2 ^ 63 * n ≤ 2 ^ 63 * 2 ^ (Nat.log2 n + 1) := Nat.mul_le_mul_left _ Nat.lt_log2_self.le
      _ = 2 ^ k := by rw [← pow_add]; congr 1; omega
      _ ≤ m * 2 ^ k := Nat.le_mul_of_pos_left _ (Nat.pos_of_ne_zero hm)
  · rw [hval, hone]
    exact mul_le_mul_of_nonneg_right Nat.cast_div_le hpos.le
  · rw [hval, hone]
    refine mul_lt_mul_of_pos_right ?_ hpos
    rw [div_lt_iff₀ (by exact_mod_cast hn0)]
    exact_mod_cast Nat.lt_mul_of_div_lt (Nat.lt_succ_self _) hn0
  · rw [hval, hone, bne_iff_ne, not_iff_not, mul_left_inj' hpos.ne', eq_div_iff (by exact_mod_cast hn)]
    norm_cast
    exact Nat.dvd_iff_mod_eq_zero.symm.trans (Nat.dvd_iff_div_mul_eq ..)

/-! ## Roots (Table 3-4) -/

/-- A step of Newton's iteration stays at the root or above it. -/
theorem sqrt_le_newton {n x : Nat} (hx : 0 < x) : Nat.sqrt n ≤ (x + n / x) / 2 := by
  have hs := Nat.sqrt_le n
  rw [Nat.le_div_iff_mul_le two_pos]
  obtain h | h := Nat.le_total (2 * Nat.sqrt n) x
  · exact Nat.le_add_right_of_le (by omega)
  · obtain ⟨d, hd⟩ := Nat.exists_eq_add_of_le h
    have : d ≤ n / x := (Nat.le_div_iff_mul_le hx).mpr (by nlinarith [sq_nonneg ((x : Int) - d)])
    omega

/-- Above the root, a step halves the distance to it at least. -/
theorem newton_le {n x : Nat} (hx : Nat.sqrt n < x) : (x + n / x) / 2 ≤ (x + Nat.sqrt n) / 2 := by
  refine Nat.div_le_div_right (Nat.add_le_add_left (Nat.lt_succ_iff.mp (Nat.div_lt_of_lt_mul ?_)) x)
  calc n < (Nat.sqrt n + 1) * (Nat.sqrt n + 1) := Nat.lt_succ_sqrt n
    _ ≤ x * (Nat.sqrt n + 1) := Nat.mul_le_mul_right _ hx

theorem isqrtFrom_eq {n : Nat} (hn : n ≠ 0) : ∀ (k x : Nat), Nat.sqrt n ≤ x → x < Nat.sqrt n + 2 ^ k → isqrtFrom n k x = Nat.sqrt n
  | 0, x, h1, h2 => by rw [isqrtFrom]; omega
  | k + 1, x, h1, h2 => by
    have hs : 0 < Nat.sqrt n := Nat.sqrt_pos.mpr (Nat.pos_of_ne_zero hn)
    have hlow := sqrt_le_newton (n := n) (hs.trans_le h1)
    rw [isqrtFrom]
    obtain rfl | hx := Nat.eq_or_lt_of_le h1
    · exact if_pos hlow
    · have hle := newton_le hx
      rw [if_neg (by omega)]
      exact isqrtFrom_eq hn k _ hlow (by rw [pow_succ] at h2; omega)

theorem isqrt_eq (n : Nat) : isqrt n = Nat.sqrt n := by
  unfold isqrt
  split_ifs with hn
  · rw [hn, Nat.sqrt_zero]
  · have hlt : n < 2 ^ (Nat.log2 n / 2 + 1) * 2 ^ (Nat.log2 n / 2 + 1) :=
      Nat.lt_log2_self.trans_le (by rw [← pow_add]; exact Nat.pow_le_pow_right two_pos (by omega))
    have hle : 2 ^ (Nat.log2 n / 2 + 1) < 2 ^ (Nat.log2 n + 2) := Nat.pow_lt_pow_right Nat.one_lt_two (by omega)
    exact isqrtFrom_eq hn _ _ (Nat.sqrt_lt.mpr hlt).le (by omega)

/-- A root of a positive number has 64 bits at least, and says whether anything lies below them. -/
theorem FV.sqrt_num (s : Bool) {m : Nat} (e : Int) (hm : m ≠ 0) :
    ∃ p k st, (FV.num false m e s).sqrt = (.num false p k st, 0) ∧ 2 ^ 63 ≤ p ∧
      ratOf false p k ^ 2 ≤ ratOf false m e ∧ ratOf false m e < ratOf false (p + 1) k ^ 2 ∧
      (st = true ↔ ratOf false p k ^ 2 ≠ ratOf false m e) := by
  obtain ⟨m1, i, hm1, hval, hsqrt⟩ : ∃ (m1 : Nat) (i : Int), m1 ≠ 0 ∧ ratOf false m e = ratOf false m1 (2 * i) ∧
      (FV.num false m e s).sqrt = (.num false (isqrt (m1 * 2 ^ 128)) (i - 64) (isqrt (m1 * 2 ^ 128) * isqrt (m1 * 2 ^ 128) != m1 * 2 ^ 128), 0) := by
    by_cases he : e % 2 = 0
    · refine ⟨m, e / 2, hm, by congr 1; omega, ?_⟩
      simp only [FV.sqrt, if_neg hm, if_pos he]
      rfl
    · refine ⟨2 * m, (e - 1) / 2, by omega, ?_, ?_⟩
      · rw [Nat.mul_comm, ← pow_one 2, ratOf_mul_two_pow]
        congr 1
        push_cast
        omega
      · simp only [FV.sqrt, if_neg hm, if_neg he]
        rfl
  have hpos : (0 : Rat) < 2 ^ (2 * i - 128) := zpow_pos two_pos _
  have hroot (p : Nat) : ratOf false p (i - 64) ^ 2 = ((p * p : Nat) : Rat) * 2 ^ (2 * i - 128) := by
    have : (2 : Rat) ^ (2 * i - 128) = 2 ^ (i - 64) * 2 ^ (i - 64) := by rw [← zpow_add₀ two_ne_zero]; congr 1; omega
    simp only [ratOf, this]
    push_cast
    simp
    ring
  have harg : ratOf false m e = ((m1 * 2 ^ 128 : Nat) : Rat) * 2 ^ (2 * i - 128) := by
    have : 2 * i = 2 * i - 128 + (128 : Nat) := by omega
    rw [hval, this, ← ratOf_mul_two_pow]
    simp [ratOf]
  rw [isqrt_eq] at hsqrt
  refine ⟨_, _, _, hsqrt, ?_, ?_, ?_, ?_⟩
  · rw [Nat.le_sqrt]
    have := Nat.pos_of_ne_zero hm1
    omega
  · rw [hroot, harg]
    exact mul_le_mul_of_nonneg_right (by exact_mod_cast Nat.sqrt_le _) hpos.le
  · rw [hroot, harg]
    exact mul_lt_mul_of_pos_right (by exact_mod_cast Nat.lt_succ_sqrt _) hpos
  · rw [hroot, harg, bne_iff_ne, not_iff_not, mul_left_inj' hpos.ne', Nat.cast_inj]

end Sys2Proof.Machine
end

section
/-! PROOFS. Scalar floating-point arithmetic (O8). -/

set_option Elab.async false

namespace Sys2Proof.Safety

open Sys2Proof.Machine Sys2Proof.Claims

section
variable {s : State} {t : Thread} {d x y z : Operand} {i : Instr}

theorem afterFloat_eq (s : State) (d : Operand) (t : Thread) (bits : Nat) (g : BitVec 9) :
    ((s.write d (w64 bits)).orFlags g).advance t = afterFloat s d t bits g := rfl

theorem fres_eq (f : Fmt) (mode : BitVec 3) (r : FR) :
    fres f mode r = (w64 (f.round mode r.1).1, r.2 ||| (f.round mode r.1).2) := rfl

/-- A scalar operation of one source completes with its result and its flags. -/
theorem runs_fop1 {f : BitVec 3 → Word → Word × BitVec 9} (hi : exec i s = (fop1 d x f s).done) (h : Issues s t [x] [d] []) :
    Runs i s ((((s.pop x).write d (f t.rnd (fst2 s t x)).1).orFlags (f t.rnd (fst2 s t x)).2).advance t) := by
  obtain ⟨hm, hw, hp⟩ := h
  simp only [Runs, hi, fop1, State.ready_eq hm hw hp, Eff.bind_ok, State.read1]
  rfl

/-- A scalar operation of two sources completes with its result and its flags. -/
theorem runs_fop2 {f : BitVec 3 → Word → Word → Word × BitVec 9} (hi : exec i s = (fop2 d x y f s).done) (h : Issues s t [x, y] [d] []) :
    Runs i s (((((s.pop x).pop y).write d (f t.rnd (fst2 s t x) (snd2 s t x y)).1).orFlags
      (f t.rnd (fst2 s t x) (snd2 s t x y)).2).advance t) := by
  obtain ⟨hm, hw, hp⟩ := h
  simp only [Runs, hi, fop2, State.ready_eq hm hw hp, Eff.bind_ok, State.read2]
  rfl

/-- A scalar comparison completes with its predicate and its flags. -/
theorem runs_fcmp {p : BitVec 5} {f : Word → Word → Bool × BitVec 9} (hi : exec i s = (fcmp p x y f s).done) (h : Issues s t [x, y] [] [p]) :
    Runs i s (((((s.pop x).pop y).modMe (fun u => u.setP p (f (fst2 s t x) (snd2 s t x y)).1)).orFlags
      (f (fst2 s t x) (snd2 s t x y)).2).advance t) := by
  obtain ⟨hm, hw, hp⟩ := h
  simp only [Runs, hi, fcmp, State.ready_eq hm hw hp, Eff.bind_ok, State.read2]
  rfl

/-- An exact operation on two operands with one rounding completes with the rounded result and the flags of both. -/
theorem runs_fres2 {f : FFmt} (op : BitVec 3 → FV → FV → FR)
    (hi : exec i s = (fop2 d x y (fun m a b => fres (fmtOf f) m (op m (fval f a) (fval f b))) s).done) (h : Issues s t [x, y] [d] []) :
    let e := op t.rnd (operandValue f (fst2 s t x)) (operandValue f (snd2 s t x y))
    let r := (fmtOf f).round t.rnd e.1
    Runs i s (afterFloat ((s.pop x).pop y) d t r.1 (e.2 ||| r.2)) := by
  have hr := runs_fop2 hi h
  rwa [fres_eq, afterFloat_eq] at hr

/-- The same on one operand, with a format of its own for the result. -/
theorem runs_fres1 (k : Word → Fmt) (op : Word → FR) (hi : exec i s = (fop1 d x (fun m a => fres (k a) m (op a)) s).done)
    (h : Issues s t [x] [d] []) :
    let e := op (fst2 s t x)
    let r := (k (fst2 s t x)).round t.rnd e.1
    Runs i s (afterFloat (s.pop x) d t r.1 (e.2 ||| r.2)) := by
  have hr := runs_fop1 hi h
  rwa [fres_eq, afterFloat_eq] at hr

theorem runs_fma (f : FFmt) (h : Issues s t [x, y, z] [d] []) :
    let e := (operandValue f (fst2 s t x)).fma t.rnd (operandValue f (snd2 s t x y)) (operandValue f (((s.pop x).pop y).peek t z))
    let r := (fmtOf f).round t.rnd e.1
    Runs (.fma d x y z f) s (afterFloat (((s.pop x).pop y).pop z) d t r.1 (e.2 ||| r.2)) := by
  obtain ⟨hm, hw, hp⟩ := h
  show execFma d x y z f s = _
  simp only [execFma, State.ready_eq hm hw hp, Eff.bind_ok, State.read2, State.read1]
  rfl

end

/-- The two-source rows of Table 8-4 complete with one exact operation and one rounding. -/
theorem runs_floatRow {row : FRow2} (hr : row ∈ floatRows) {d x y : Operand} (f : FFmt) {s : State} {t : Thread}
    (h : Issues s t [x, y] [d] []) :
    let e := row.2 t.rnd (operandValue f (fst2 s t x)) (operandValue f (snd2 s t x y))
    let r := (fmtOf f).round t.rnd e.1
    Runs (row.1 d x y f) s (afterFloat ((s.pop x).pop y) d t r.1 (e.2 ||| r.2)) := by
  simp only [floatRows, List.mem_cons, List.not_mem_nil, or_false] at hr
  rcases hr with rfl | rfl | rfl | rfl | rfl | rfl
  · exact runs_fres2 (fun m a b => a.add m b) rfl h
  · exact runs_fres2 (fun m a b => a.add m b.neg) rfl h
  · exact runs_fres2 (fun _ a b => a.mul b) rfl h
  · exact runs_fres2 (fun _ a b => a.div b) rfl h
  · exact runs_fres2 (fun _ a b => a.minmax false b) rfl h
  · exact runs_fres2 (fun _ a b => a.minmax true b) rfl h

/-- Settles O8. -/
theorem floatArithmeticResults : Obligations.FloatArithmeticResults := by
  unfold Obligations.FloatArithmeticResults
  refine ⟨fun row hr d x y f s t h => runs_floatRow hr f h, fun d x f s t h => runs_fres1 (fun _ => fmtOf f) (fun a => (operandValue f a).sqrt) rfl h,
     fun d x y z f s t h => runs_fma f h,
    fun f hf mode neg m e => ⟨fun hmode hm => Fmt.roundsRight (isIeee_of_mem hf) hmode hm, Fmt.round_sticky (isIeee_of_mem hf)⟩,
    fun mode a b m n e g => ⟨FV.add_num mode a b false false m n e g, FV.mul_num a b false false m n e g,
      fun d q h => FV.fma_num mode a b d false false m n e g q h, FV.div_num a b false false e g, FV.sqrt_num false e⟩⟩

end Sys2Proof.Safety
end

section
/-! PROOFS. Signs, comparisons, conversions and classes (O9). -/

set_option Elab.async false

namespace Sys2Proof.Machine

open Sys2Proof.Claims

/-! ## Signs (R60) -/

theorem testBit_eq_decide_le {v k : Nat} (h : v < 2 ^ (k + 1)) : v.testBit k = decide (2 ^ k ≤ v) := by
  have hlt : v / 2 ^ k < 2 := by rwa [Nat.div_lt_iff_lt_mul (Nat.two_pow_pos k), ← pow_succ']
  rw [Nat.testBit_eq_decide_div_mod_eq, Nat.mod_eq_of_lt hlt]
  refine decide_eq_decide.mpr ⟨fun h1 => ?_, fun h1 => ?_⟩
  · by_contra h2
    rw [Nat.div_eq_of_lt (not_le.mp h2)] at h1
    omega
  · have := Nat.div_pos h1 (Nat.two_pow_pos k)
    omega

theorem Fmt.width_eq (f : Fmt) : f.width = (f.ew + f.fw) + 1 := by unfold Fmt.width; omega

/-- The sign bit inverted adds or takes its weight. -/
theorem flip_sign {v k : Nat} (hv : v < 2 ^ (k + 1)) :
    v % 2 ^ k + (if true && !v.testBit k then 2 ^ k else 0) = if v < 2 ^ k then v + 2 ^ k else v - 2 ^ k := by
  rw [testBit_eq_decide_le hv]
  by_cases h : v < 2 ^ k
  · rw [if_pos h, Nat.mod_eq_of_lt h, if_pos (by simp [h])]
  · have hs : v - 2 ^ k < 2 ^ k := by rw [pow_succ] at hv; omega
    rw [if_neg h, Nat.mod_eq_sub_mod (not_lt.mp h), Nat.mod_eq_of_lt hs, if_neg (by simp [not_lt.mp h])]
    rfl

/-! ## Classes (R179) -/

theorem Fmt.classOf_eq {f : Fmt} (hf : f.IsIeee) {v : Nat} (hv : v < 2 ^ f.width) : f.classOf v = classBit f v := by
  have hneg : v.testBit (f.ew + f.fw) = decide (2 ^ (f.ew + f.fw) ≤ v) := testBit_eq_decide_le (f.width_eq ▸ hv)
  have hm := Nat.mod_lt v (Nat.two_pow_pos f.fw)
  have hx := Nat.mod_lt (v / 2 ^ f.fw) (Nat.two_pow_pos f.ew)
  have hmag : v % 2 ^ (f.ew + f.fw) = v / 2 ^ f.fw % 2 ^ f.ew * 2 ^ f.fw + v % 2 ^ f.fw := by
    rw [Nat.add_comm f.ew, pow_add, Nat.mod_mul, Nat.add_comm, Nat.mul_comm]
  have hquiet : (v % 2 ^ f.fw).testBit (f.fw - 1) = decide (2 ^ (f.fw - 1) ≤ v % 2 ^ f.fw) :=
    testBit_eq_decide_le (by rwa [Nat.sub_add_cancel hf.fw])
  have hmax : f.emax = 2 ^ f.ew - 1 := rfl
  unfold Fmt.classOf classBit
  simp only [hneg, hmag, hquiet, ← hmax]
  generalize v / 2 ^ f.fw % 2 ^ f.ew = x at hx
  generalize v % 2 ^ f.fw = m at hm
  have hpos := Nat.two_pow_pos f.fw
  generalize 2 ^ f.fw = u at hm hpos
  by_cases he : x = f.emax
  · subst he
    by_cases h0 : m = 0
    · simp [h0]
    · simp [h0, Nat.pos_of_ne_zero h0]
  · have hlt : x * u + m < f.emax * u :=
      calc x * u + m < (x + 1) * u := by rw [Nat.succ_mul]; omega
        _ ≤ f.emax * u := Nat.mul_le_mul_right _ (by omega)
    rw [if_neg he, if_neg (not_lt.mpr hlt.le), if_neg hlt.ne]
    by_cases h0 : x = 0
    · subst h0
      simp only [if_true, Nat.zero_mul, Nat.zero_add, if_neg (not_le.mpr hm)]
      by_cases hz : m = 0 <;> simp [hz]
    · have : u ≤ x * u + m := Nat.le_add_right_of_le (Nat.le_mul_of_pos_left _ (Nat.pos_of_ne_zero h0))
      rw [if_neg h0, if_pos this]

/-! ## Conversions to integers (R65) -/

/-- The number of a pattern has no excess. -/
theorem Fmt.value_exact {f : Fmt} {b m : Nat} {neg st : Bool} {e : Int} (h : f.value b = .num neg m e st) : st = false := by
  simp only [Fmt.value] at h
  split at h <;> split_ifs at h <;> cases h <;> rfl

/-- The clamp to bounds that 80 bits hold. -/
theorem FV.toInt_eq (mode : BitVec 3) {lo hi : Int} (hlo : lo ≤ 0) (hlo' : -2 ^ 80 < lo) (hhi : hi < 2 ^ 80) {v : FV}
    (hv : ∀ neg m e st, v = .num neg m e st → st = false) : v.toInt mode lo hi = asInteger mode lo hi v := by
  cases v with
  | nan _ | inf _ => rfl
  | num neg m e st =>
    obtain rfl := hv _ _ _ _ rfl
    have hn : nearestInt mode neg m e = roundInt mode neg m e false := by
      have := nearestInt_eq (mode := mode) (neg := neg) (m := m) (e := e) (q := 0)
      rw [sub_zero] at this
      exact this
    by_cases hbig : 80 ≤ topExp m e ∧ m ≠ 0
    · have hk : 2 ^ 80 ≤ (roundAt mode neg m e false 0).1 := le_roundAt hbig.2 (by omega)
      have hk' : (2 : Int) ^ 80 ≤ (roundAt mode neg m e false 0).1 := by exact_mod_cast hk
      have hc : (decide (80 ≤ topExp m e) && m != 0) = true := by simpa using hbig
      simp only [FV.toInt, asInteger, hn, roundInt, if_pos hc]
      cases neg
      · have h1 : ¬((roundAt mode false m e false 0).1 : Int) < lo := by omega
        have h2 : hi < ((roundAt mode false m e false 0).1 : Int) := by omega
        simp only [Bool.false_eq_true, if_false, if_neg h1, if_pos h2]
        rfl
      · have h1 : -((roundAt mode true m e false 0).1 : Int) < lo := by omega
        simp only [if_true, if_pos h1]
        rfl
    · have hc : ¬(decide (80 ≤ topExp m e) && m != 0) = true := by simpa using hbig
      simp only [FV.toInt, asInteger, hn, if_neg hc]
      rfl

/-- The bounds of the integer types (R181). -/
theorem iBounds_eq (ty : ITy) :
    let n : Int := 2 ^ (iTy ty).1
    iBounds (iTy ty).1 (iTy ty).2 = (if (iTy ty).2 then -(n / 2) else 0, if (iTy ty).2 then n / 2 - 1 else n - 1) := by
  cases ty <;> rfl

theorem iBounds_le (ty : ITy) : let b := iBounds (iTy ty).1 (iTy ty).2; b.1 ≤ 0 ∧ -2 ^ 80 < b.1 ∧ b.2 < 2 ^ 80 := by
  cases ty <;> decide

/-! ## Comparisons (R178) -/

theorem FV.eq_eq (a b : FV) : a.eq b = (!(a.isNan || b.isNan) && !a.lt false b && !b.lt false a) := by
  rw [FV.eq, Bool.not_or]

theorem FV.le_eq (a b : FV) : a.le b = (!(a.isNan || b.isNan) && !b.lt false a) := by
  rw [FV.le, Bool.not_or]

theorem FV.lt_of_nan (zeros : Bool) (a b : FV) (h : (a.isNan || b.isNan) = true) : a.lt zeros b = false := by
  cases a with
  | nan _ => cases b <;> rfl
  | inf _ | num =>
    cases b with
    | nan _ => rfl
    | inf _ | num => cases h

theorem FV.lt_eq (a b : FV) : a.lt false b = (!(a.isNan || b.isNan) && a.lt false b) := by
  cases h : (a.isNan || b.isNan)
  · rfl
  · rw [FV.lt_of_nan false a b h]
    rfl

theorem cmpFlags_true (a b : FV) : cmpFlags true a b = if decide (a = .nan true) || decide (b = .nan true) then 1 else 0 := by
  have hne (c : FV) (l : List FV) (hc : c ≠ .nan true) : sigNV (c :: l) = sigNV l := by
    cases c with
    | nan sig =>
      cases sig with
      | false => rfl
      | true => exact absurd rfl hc
    | inf | num => rfl
  show sigNV [a, b] = _
  by_cases ha : a = .nan true
  · by_cases hb : b = .nan true
    · simp [ha, hb, sigNV, fNV]
    · simp [ha, hb, sigNV, fNV, hne b [] hb]
  · by_cases hb : b = .nan true
    · simp [ha, hb, sigNV, fNV, hne a _ ha]
    · simp [ha, hb, sigNV, hne a _ ha, hne b _ hb]

theorem cmpFlags_false (a b : FV) : cmpFlags false a b = if a.isNan || b.isNan then 1 else 0 := rfl

end Sys2Proof.Machine
end

section
/-! PROOFS. Signs, comparisons, conversions and classes, continued: O9. -/

set_option Elab.async false

namespace Sys2Proof.Safety

open Sys2Proof.Machine Sys2Proof.Claims

section
variable {s : State} {t : Thread} {d x y : Operand} {f : FFmt}

/-- A one-source operation that gives a pattern and flags. -/
theorem runs_bits1 {i : Instr} (g : BitVec 3 → Word → Word × BitVec 9) (hi : exec i s = (fop1 d x g s).done) (h : Issues s t [x] [d] [])
    {bits : Nat} {flags : BitVec 9} (hg : g t.rnd (fst2 s t x) = (w64 bits, flags)) :
    Runs i s (afterFloat (s.pop x) d t bits flags) := by
  have hr := runs_fop1 hi h
  rwa [hg, afterFloat_eq] at hr

theorem width_fmtOf_eq (f : FFmt) : (fmtOf f).width = (fmtOf f).width - 1 + 1 := by cases f <;> rfl

theorem runs_fabs (h : Issues s t [x] [d] []) :
    Runs (.fabs d x f) s (afterFloat (s.pop x) d t
      ((fst2 s t x).toNat % 2 ^ (fmtOf f).width % 2 ^ ((fmtOf f).width - 1)) 0) :=
  runs_bits1 (fun _ a => (signBit f false a, 0)) rfl h rfl

theorem runs_fneg (h : Issues s t [x] [d] []) :
    let k := (fmtOf f).width
    let v := (fst2 s t x).toNat % 2 ^ k
    Runs (.fneg d x f) s (afterFloat (s.pop x) d t (if v < 2 ^ (k - 1) then v + 2 ^ (k - 1) else v - 2 ^ (k - 1)) 0) := by
  refine runs_bits1 (fun _ a => (signBit f true a, 0)) rfl h (congrArg (fun b => (w64 b, 0)) (flip_sign ?_))
  rw [← width_fmtOf_eq]
  exact Nat.mod_lt _ (Nat.two_pow_pos _)

theorem runs_fclass (h : Issues s t [x] [d] []) :
    Runs (.fclass d x f) s (afterFloat (s.pop x) d t (2 ^ classBit (fmtOf f) ((fst2 s t x).toNat % 2 ^ (fmtOf f).width)) 0) := by
  refine runs_bits1 (fun _ a => (w64 (2 ^ (fmtOf f).classOf (a.toNat % 2 ^ (fmtOf f).width)), 0)) rfl h ?_
  rw [Fmt.classOf_eq (isIeee_fmtOf f) (Nat.mod_lt _ (Nat.two_pow_pos _))]

theorem runs_fcvti (ty : ITy) (h : Issues s t [x] [d] []) :
    let n : Int := 2 ^ (iTy ty).1
    let r := asInteger t.rnd (if (iTy ty).2 then -(n / 2) else 0) (if (iTy ty).2 then n / 2 - 1 else n - 1) (operandValue f (fst2 s t x))
    Runs (.fcvti d x f ty) s (afterFloat (s.pop x) d t (BitVec.ofInt 64 r.1).toNat r.2) := by
  intro n r
  obtain ⟨h0, hlo, hhi⟩ := iBounds_le ty
  have hb : iBounds (iTy ty).1 (iTy ty).2 = (if (iTy ty).2 then -(n / 2) else 0, if (iTy ty).2 then n / 2 - 1 else n - 1) := iBounds_eq ty
  have hr : (fval f (fst2 s t x)).toInt t.rnd (iBounds (iTy ty).1 (iTy ty).2).1 (iBounds (iTy ty).1 (iTy ty).2).2 = r := by
    rw [FV.toInt_eq t.rnd h0 hlo hhi (v := fval f (fst2 s t x)) fun _ _ _ _ => Fmt.value_exact, hb]
    rfl
  refine runs_bits1 (fun m a => (BitVec.ofInt 64 ((fval f a).toInt m (iBounds (iTy ty).1 (iTy ty).2).1 (iBounds (iTy ty).1 (iTy ty).2).2).1,
    ((fval f a).toInt m (iBounds (iTy ty).1 (iTy ty).2).1 (iBounds (iTy ty).1 (iTy ty).2).2).2)) rfl h ?_
  rw [hr, w64, BitVec.ofNat_toNat, BitVec.setWidth_eq]

/-- A one-source operation that rounds a value once. -/
theorem runs_round1 {i : Instr} (k : Word → Fmt) (v : Word → FV) (hi : exec i s = (fop1 d x (fun m a => fres (k a) m (v a, 0)) s).done)
    (h : Issues s t [x] [d] []) :
    let r := (k (fst2 s t x)).round t.rnd (v (fst2 s t x))
    Runs i s (afterFloat (s.pop x) d t r.1 r.2) := by
  have hr := runs_fres1 k (fun a => (v a, 0)) hi h
  have h0 (g : BitVec 9) : 0 ||| g = g := BitVec.zero_or
  simpa only [h0] using hr

theorem runs_icvtf (ty : ITy) (h : Issues s t [x] [d] []) :
    let n : Int := if (iTy ty).2 then sIntOf (fst2 s t x).toNat (iTy ty).1 else ((fst2 s t x).toNat % 2 ^ (iTy ty).1 : Nat)
    let r := (fmtOf f).round t.rnd (.num (n < 0) n.natAbs 0 false)
    Runs (.icvtf d x f ty) s (afterFloat (s.pop x) d t r.1 r.2) :=
  runs_round1 (fun _ => fmtOf f)
    (fun a => FV.ofInt (if (iTy ty).2 then sIntOf a.toNat (iTy ty).1 else (a.toNat % 2 ^ (iTy ty).1 : Nat))) rfl h

theorem runs_fcvt (sel : FcvtSel) (h : Issues s t [x] [d] []) :
    let e := fcvtSides f (fst2 s t x) sel
    Runs (.fcvt d x f sel) s (afterFloat (s.pop x) d t (e.2.round t.rnd e.1).1 (e.2.round t.rnd e.1).2) := by
  have hr := runs_round1 (fun a => (fcvtOf f sel a).2) (fun a => (fcvtOf f sel a).1) (i := .fcvt d x f sel) rfl h
  have he : fcvtOf f sel (fst2 s t x) = fcvtSides f (fst2 s t x) sel := by cases sel <;> rfl
  rwa [he] at hr

/-- A comparison by a function of the two values. -/
theorem runs_compare {p : BitVec 5} {i : Instr} (g : FV → FV → Bool × BitVec 9)
    (hi : exec i s = (fcmp p x y (fun v w => g (fval f v) (fval f w)) s).done) (h : Issues s t [x, y] [] [p]) {r : Bool} {flags : BitVec 9}
    (hg : g (operandValue f (fst2 s t x)) (operandValue f (snd2 s t x y)) = (r, flags)) :
    Runs i s (((((s.pop x).pop y).modMe (fun u => u.setP p r)).modMe (fun u => { u with sst := u.sst ||| flags })).advance t) := by
  have hr := runs_fcmp hi h
  rw [show g (fval f (fst2 s t x)) (fval f (snd2 s t x y)) = (r, flags) from hg] at hr
  exact hr

end

/-- Settles O9. -/
theorem floatSignCompareConvertResults : Obligations.FloatSignCompareConvertResults := by
  unfold Obligations.FloatSignCompareConvertResults
  refine ⟨fun d x f s t h => ⟨runs_fabs h, runs_fneg h, runs_fclass h, fun ty => runs_fcvti ty h, fun ty => runs_icvtf ty h,
    fun sel => runs_fcvt sel h⟩, fun p x y f s t h => ?_, fun zeros a b m n e g => ⟨FV.lt_num a b false false m n e g zeros, rfl, rfl, rfl⟩⟩
  intro a b done nan sig
  refine ⟨?_, ?_, ?_⟩
  · exact runs_compare (fun a b => (a.eq b, cmpFlags true a b)) rfl h (Prod.ext (FV.eq_eq a b) (cmpFlags_true a b))
  · exact runs_compare (fun a b => (a.lt false b, cmpFlags false a b)) rfl h (Prod.ext (FV.lt_eq a b) (cmpFlags_false a b))
  · exact runs_compare (fun a b => (a.le b, cmpFlags false a b)) rfl h (Prod.ext (FV.le_eq a b) (cmpFlags_false a b))

end Sys2Proof.Safety
end

section
/-! PROOFS. A line of an engine operation that is no deposit is read wherever the operation works (O35 fails for one that is): `EngOp.finished` takes
a landed deposit as finished whatever its units have still to do. -/

set_option Elab.async false

namespace Sys2Proof.Safety

open Sys2Proof.Machine Sys2Proof.Claims

/-- A unit with two lines of the own scratchpad to read. -/
def twoReads : EUnit :=
  { key := 0, reads := [⟨0, 0xFF0000001000, 64, false, none⟩, ⟨0, 0xFF0000001040, 64, false, none⟩], phase := 0, loaded := false, writes := []
    gone := [] }

/-- A running deposit that has landed, with that unit. -/
def landedDeposit : EngOp :=
  { tag := 7, who := ⟨0, 0, 0, 1⟩, slot := 0, part := 0, opc := 0x165, pc := 0, enc := 0, shape := 0
    job := .depo { tag := 0, who := none, lcore := 0, slot := 0, code := 0, val := 0, src := none, part := 0, ctx := 0 }
    rnd := 0, vl := 0, segs := Vector.replicate 8 ⟨0, 0, false, false, false⟩, cnt := none, wait := false, srcs := [], dsts := [], more := 0
    att := none, started := true, landed := true, ordered := false, units := [twoReads], flags := 0, trap := none, move := none, outs := []
    scaled := [], count := none, late := none, skip := [], logged := [], granted := [] }

/-- The machine with that operation at the head of the copy engine's queue of core 0. -/
def landedDepositState : State :=
  { State.reset with cores := [(0, { Core.reset with copy := { Engine.reset with queue := [landedDeposit] } })] }

theorem working_landedDeposit : Working landedDepositState 0 .copy landedDeposit 0 twoReads :=
  ⟨rfl, rfl, rfl, rfl, rfl, rfl, rfl, rfl, rfl, nofun, rfl⟩

theorem lineReady_landedDeposit :
    LineReady landedDepositState landedDepositState 0 landedDeposit 0xFF0000001000 false false (spKey 0 0 0x1000) := by
  refine ⟨.inl ⟨0x1000, by decide +kernel, rfl, rfl⟩, rfl, rfl, rfl, by decide +kernel, by decide +kernel, rfl, ?_, rfl⟩
  unfold Sound MemOk
  decide +kernel

/-- A landed deposit counts as finished, so no line event of it changes anything. -/
theorem performLine_landedDeposit (ui j : Nat) : Runs (.perform (.line 0 .copy ui j)) landedDepositState landedDepositState := rfl

/-- Refutes O35: in a state where a landed deposit stands at the head of an engine's queue with lines to read, a read of one of them changes
nothing, where the statement has it bring its bytes. -/
theorem not_engineOperationResults : ¬ Obligations.EngineOperationResults := by
  unfold Obligations.EngineOperationResults
  intro h
  obtain ⟨-, -, hread, -⟩ := h
  obtain ⟨-, hmid, -⟩ := hread landedDepositState landedDepositState 0 .copy landedDeposit 0 0 0 twoReads ⟨0, 0xFF0000001000, 64, false, none⟩
    (spKey 0 0 0x1000) working_landedDeposit rfl rfl lineReady_landedDeposit
  have hsame := Host.Outcome.next.inj ((performLine_landedDeposit 0 0).symm.trans (hmid (by decide)))
  have hgot := congrArg (fun s => (s.engHead 0 .copy).map (fun o => o.units.map (fun u => u.reads.map (fun r => r.got.isNone)))) hsame
  exact absurd hgot (by decide +kernel)

end Sys2Proof.Safety
end

section
/-! PROOFS. A refill leaves a stock as it filled it only where the replay that follows opens no sparse page (O36 fails where it does): a port that
first caches the leaf of a class-1 page empties the stocks of its pool. -/

set_option Elab.async false

namespace Sys2Proof.Safety

open Sys2Proof.Machine Sys2Proof.Claims

/-- A load that its home, slice 0, has parked in want of a frame: it names a granule of the sparse page at device address 0. -/
def parkedLoad : Msg :=
  { tag := 7, who := ⟨0, 0, 0, 1⟩, part := 0, core := 0, slot := 0, opc := 0x100, pc := 0, next := 0, off := 0, va := 0, pa := sparseKey (2 ^ 30) 0
    bytes := 8, acc := .load, need := needR, cls := 1, bank := .slice 0 0 0, op := .load 8 false none none, rlx := false, unchk := false
    stuck := false, dst := .reg, undo := none, gran := some (0x4000, 0x3000, 0) }

/-- Its fault queue entry, which stands at slice 1. -/
def parkedElsewhere : FaultEntry := ⟨.home (.slice 0 0 1), 0, 0, 0, .stock, .access parkedLoad⟩

/-- The root table at 0x1000 names the table at 0x2000, whose first leaf maps 1 GiB of class 1 with its descriptor at 2^30; the descriptor names the
pool at 0x3000, which holds one frame, 0x5000. No port has cached the leaf. -/
def starvedState : State :=
  { State.reset with
    mem := [(0x1000, 0x01), (0x1002, 0x02), (0x2000, 0x83), (0x2001, 0x0C), (0x2004, 0x04), (0x3000, 0x01), (0x3011, 0x50)
            , (2 ^ 30 + 17, 0x30), (2 ^ 30 + 25, 0x40)]
    ctxs := [⟨0, 0, 0, [], [], 0, 0, none, 0x1000, false⟩]
    faultQ := [parkedElsewhere] }

theorem sound_starvedState : Sound starvedState := by
  unfold Sound MemOk
  decide +kernel

/-- The pool of the page has one frame, which the refill takes. -/
theorem rawNat_starvedState : starvedState.rawNat 0x3000 4 = 1 := by decide +kernel

/-- The replayed load is placed again from its port, which caches the leaf and empties the stock that the refill has just filled. -/
theorem stockRefill_starvedState : ∃ s, Runs (.stockRefill 0) starvedState s ∧ s.stockOf (.slice 0 0 0) 0x3000 = [] :=
  ⟨_, rfl, by decide +kernel⟩

/-- Refutes O36: a refill for an access that another home than its own has parked is followed by its replay from its port, where the walk that
caches the leaf of its sparse page leaves the stock of the pool empty, not with the frame of the pool that the statement has there. -/
theorem not_engineEvents : ¬ Obligations.EngineEvents := by
  unfold Obligations.EngineEvents
  intro h
  obtain ⟨-, -, -, -, -, -, -, hrefill⟩ := h
  obtain ⟨s', hrun, hstock⟩ := hrefill starvedState 0 parkedElsewhere parkedLoad (0x4000, 0x3000, 0) rfl rfl rfl rfl (by decide +kernel)
    sound_starvedState
  obtain ⟨s, hrun', hempty⟩ := stockRefill_starvedState
  obtain rfl : s' = s := Host.Outcome.next.inj (hrun.symm.trans hrun')
  have hlength := congrArg List.length (hempty.symm.trans hstock)
  simp [rawNat_starvedState] at hlength

end Sys2Proof.Safety
end

section
/-! PROOFS. A thread that must leave its core for another leaves (O22). -/

set_option Elab.async false

namespace Sys2Proof.Safety

open Sys2Proof.Machine Sys2Proof.Claims

variable {s : State} {t : Thread} {i : Instr} {r : AccessRow} {x : Fin 16} {c dest : Nat}

/-! ### Departure (R27, R28) -/

theorem leaves_depart (t : Thread) (dest : Nat) : Leaves s (s.depart t dest) t dest := by
  refine ⟨⟨_, List.mem_append_right _ (List.mem_singleton.mpr rfl), rfl, rfl, rfl⟩, ?_, rfl, fun c hc => ?_⟩
  · show (((s.setOcc s.cur.core s.cur.slot _).modSlot s.cur.core s.cur.slot _).slot s.cur.core s.cur.slot).occ = _
    rw [State.slot_modSlot_same, State.slot_setOcc_same]
    simp
  · show ((s.setOcc s.cur.core s.cur.slot _).modSlot s.cur.core s.cur.slot _).core c = _
    rw [State.modSlot, State.core_modCore_ne _ _ _ _ hc, State.setOcc, State.modSlot, State.core_modCore_ne _ _ _ _ hc]

theorem leaveFor_mayLeave (hme : s.me = some t) (h : MayLeave s t dest) : s.leaveFor dest = s.depart t dest := by
  obtain ⟨hns, hpart, ho, hdr, hf, hscan, hsound⟩ := h
  unfold State.leaveFor
  simp only [hme]
  split
  · next va hk => exact absurd hk (hns va)
  · simp [hpart, hf, hscan, State.drainOr_eq hdr ho, hsound]

/-- A core of another partition is refused as a target refuses it (R272). -/
theorem leaveFor_foreign (hme : s.me = some t) (hns : NotSpark t) (h : s.partOf (s.physOf dest) ≠ t.part) :
    s.leaveFor dest = s.supTrap cACCESS (w64 dest) t.pc := by
  unfold State.leaveFor
  simp only [hme]
  split
  · next va hk => exact absurd hk (hns va)
  · simp [h]

/-- An instruction that stops at a core that it must run on leaves for it. -/
theorem leaves_of_exec (hme : s.me = some t) (h : MayLeave s t dest) (he : exec i s = .next (s.leaveFor dest)) :
    ∃ s', Runs i s s' ∧ Leaves s s' t dest :=
  ⟨s.depart t dest, he.trans (congrArg _ (leaveFor_mayLeave hme h)), leaves_depart t dest⟩

/-! ### `MIG` and `HOME` (R254) -/

theorem me_of_issues {srcs dsts : List Operand} {ps : List (BitVec 5)} (h : Issues s t srcs dsts ps) : s.me = some t := h.1

section
variable (hns : NotSpark t) (hl : t.lead = false)
include hns hl

theorem moveTo_here (h : s.physOf dest = s.cur.core) : s.moveTo t dest = .ok (s.advance t) := by
  simp only [State.moveTo, State.noSpark_eq hns, Eff.bind_ok, hl, h]
  rfl

theorem moveTo_away (h : s.physOf dest ≠ s.cur.core) : s.moveTo t dest = .error (.migrate dest, s) := by
  simp only [State.moveTo, State.noSpark_eq hns, Eff.bind_ok, hl, h]
  rfl

end

theorem execMig_of_lt (hi : Issues s t [.g x] [] []) (h : (t.gv x).toNat < 3968) :
    exec (.mig x) s = Eff.done (s.moveTo t (t.gv x).toNat) := by
  obtain ⟨hme, hw, hp⟩ := hi
  have hlt : ¬Config.logCores ≤ (t.gv x).toNat := Nat.not_le.mpr h
  show Eff.done _ = _
  simp [State.ready_eq hme hw hp, hlt]

theorem execMig_of_le (hi : Issues s t [.g x] [] []) (hl : t.lead = false) (h : 3968 ≤ (t.gv x).toNat) :
    exec (.mig x) s = .next (s.userTrap 0x01 (t.gv x) t.pc) := by
  obtain ⟨hme, hw, hp⟩ := hi
  have hle : Config.logCores ≤ (t.gv x).toNat := h
  show Eff.done _ = _
  simp only [State.ready_eq hme hw hp, Eff.bind_ok, hl, hle]
  exact s.stopped_trap hme _ _

theorem execHome_eq (hi : Issues s t [] [] []) : exec .home s = Eff.done (s.moveTo t t.id.hcore.toNat) := by
  obtain ⟨hme, hw, hp⟩ := hi
  show Eff.done _ = _
  rw [State.ready_eq hme hw hp, Eff.bind_ok]

/-! ### An access to the scratchpad of another core (R80) -/

/-- What an instruction does first is to issue the access of its row, or to release its reservation by it (R194). -/
theorem issuesRow_or_release (h : rowAt s t i r) (hm : MayAccess s t r) :
    IssuesRow i r s t ∨ t.rsv.isSome = true ∧ ∃ base opc v, exec i s = Eff.done (s.releaseRsv base t (request r opc t v)) := by
  cases i
  case rlx => exact .inl (issuesRow_rlx h hm)
  case rls d p x o =>
    obtain ⟨hacq, rfl⟩ := ite_none_eq_some (accessRow_rls.symm.trans h)
    have hr : s.ready [.a p, x] [d] [] = .ok t := ready_of_mayAccess hm
    refine .inr ⟨early_of_mayAccess hm, (drainNote s t (orderOf o.rel o.sc)).pop x, 0x0C1, s.peek t x, ?_⟩
    show Eff.done _ = _
    simp only [hacq, State.limit_false, Eff.bind_ok, hr, atomDrain_eq (o := o) (drained_of_mayAccess hm) (oar_of_mayAccess hm),
      read1_drainNote]
    rfl
  case rlsn d p o =>
    obtain ⟨hacq, rfl⟩ := ite_none_eq_some (accessRow_rlsn.symm.trans h)
    have hr : s.ready [.a p] [d] [] = .ok t := ready_of_mayAccess hm
    refine .inr ⟨early_of_mayAccess hm, drainNote s t (orderOf o.rel o.sc), 0x0C2, 0, ?_⟩
    show Eff.done _ = _
    simp only [hacq, State.limit_false, Eff.bind_ok, hr, atomDrain_eq (o := o) (drained_of_mayAccess hm) (oar_of_mayAccess hm)]
    rfl
  case ld | lda => cases h; exact .inl (issuesRow_load rfl (ready_of_mayAccess hm))
  case aadd | aand | aor | axor | amin | amax | aminu | amaxu | aswp | aincb | afadd => cases h; exact .inl (issuesRow_fetch rfl hm)
  case ldpi => exact .inl (issuesRow_ldpi h hm)
  case st => exact .inl (issuesRow_st h hm)
  case stpi => exact .inl (issuesRow_stpi h hm)
  case ldx => exact .inl (issuesRow_ldx h hm)
  case erase => exact .inl (issuesRow_erase h hm)
  case ldaq => exact .inl (issuesRow_ldaq h hm)
  case strel => exact .inl (issuesRow_strel h hm)
  case cas => exact .inl (issuesRow_cas h hm)
  case rsv => exact .inl (issuesRow_rsv h hm)
  case pcadd => exact .inl (issuesRow_pcadd h hm)
  case pcrd => exact .inl (issuesRow_pcrd h hm)
  case pcmrg => exact .inl (issuesRow_pcmrg h hm)
  case pclv => exact .inl (issuesRow_pclv h hm)
  case pclvSet => exact .inl (issuesRow_pclvSet h hm)
  all_goals cases h

/-- The address of an access lies in the scratchpad of another core, so the access stops before it has read anything. -/
theorem locate_elsewhere {base : State} {opc off : Nat} {v : Word} (hp : PointerOk t r) (hl : t.lead = false)
    (hs : s.spaceOf s.cur.core (accessVa t r) = some (.sp Config.pkg c off)) (hc : c ≠ s.cur.core) :
    s.locate base t (request r opc t v) = .error (.migrate (s.logOf c), s) := by
  obtain ⟨hg, hal⟩ := hp
  have hgrants : ¬(!(t.segs[(request r opc t v).p]).grants ((request r opc t v).o t).toNat (request r opc t v).n
      (request r opc t v).need) = true := by
    rw [Bool.not_eq_true, Bool.not_eq_false']
    exact hg
  have haligned : ¬(accessVa t r % (request r opc t v).align != 0) = true := by
    rw [bne_iff_ne, ne_eq, not_not]
    exact hal
  have hva : t.segs[(request r opc t v).p].base.toNat + ((request r opc t v).o t).toNat = accessVa t r := rfl
  simp only [State.locate]
  rw [if_neg hgrants, hva, if_neg haligned]
  simp [hs, hc, hl, stop]

theorem exec_elsewhere {off : Nat} (h : rowAt s t i r) (hm : MayAccess s t r) (hp : PointerOk t r) (hl : t.lead = false)
    (hs : s.spaceOf s.cur.core (accessVa t r) = some (.sp Config.pkg c off)) (hc : c ≠ s.cur.core) :
    exec i s = .next (s.leaveFor (s.logOf c)) := by
  rcases issuesRow_or_release h hm with ⟨opc, g, -, he⟩ | ⟨hrsv, base, opc, v, he⟩
  · have hw : t.accWait (request r opc t (s.peek t r.data)).rlx = false := accWait_request hm
    rw [he, State.access, hw, locate_elsewhere hp hl hs hc]
    rfl
  · obtain ⟨q, hq⟩ := Option.isSome_iff_exists.mp hrsv
    have hw : t.accWait false = false := by simp [Thread.accWait, oar_of_mayAccess hm]
    rw [he, State.releaseRsv, hq]
    simp only [hw, locate_elsewhere hp hl hs hc]
    rfl

/-- Settles O22: each of the three stops for its core, which the thread leaves for. -/
theorem migrationResults : Obligations.MigrationResults := by
  unfold Obligations.MigrationResults
  intro s t
  refine ⟨fun i r c off hrow hm hp hl hs hc hleave => ?_, fun x hi hns hl => ⟨fun hlt h => ?_, fun hlt h hleave => ?_, fun hlt h hpart => ?_,
    fun h => execMig_of_le hi hl h⟩, fun hi hns hl => ⟨fun h => ?_, fun h hleave => ?_⟩⟩
  · exact leaves_of_exec (me_of_mayAccess hm) hleave (exec_elsewhere hrow hm hp hl hs hc)
  · exact (execMig_of_lt hi hlt).trans (by rw [moveTo_here hns hl h, Eff.done_ok])
  · exact leaves_of_exec (me_of_issues hi) hleave
      ((execMig_of_lt hi hlt).trans (by rw [moveTo_away hns hl h, Eff.done_error, State.stopped_migrate]))
  · have hvalue : w64 (t.gv x).toNat = t.gv x := BitVec.ofNat_toNat _ _
    exact (execMig_of_lt hi hlt).trans
      (by rw [moveTo_away hns hl h, Eff.done_error, State.stopped_migrate, leaveFor_foreign (me_of_issues hi) hns hpart,
        hvalue]; rfl)
  · exact (execHome_eq hi).trans (by rw [moveTo_here hns hl h, Eff.done_ok])
  · exact leaves_of_exec (me_of_issues hi) hleave
      ((execHome_eq hi).trans (by rw [moveTo_away hns hl h, Eff.done_error, State.stopped_migrate]))

end Sys2Proof.Safety
end

section
/-! PROOFS. Probabilistic counters (O25). -/

set_option Elab.async false

namespace Sys2Proof.Machine

variable {s top m n l l1 l2 byte bound k e : Nat} {c cds : BitVec 32} {sat wide hi : Bool}

/-! ## Estimates and levels (R96, R97) -/

theorem est_mono (s : Nat) : StrictMono (est s) :=
  strictMono_nat_of_lt_succ fun l => Nat.lt_add_of_pos_right (Nat.two_pow_pos (l / 2 ^ s))

theorem topLevel_le (s bound k l e : Nat) : topLevel s bound k l e ≤ l + k := by
  induction k generalizing l e with
  | zero => exact Nat.le_refl _
  | succ k ih =>
    simp only [topLevel]
    split
    · exact (ih _ _).trans (by omega)
    · omega

/-- The largest level whose estimate stays at or below a bound is found from any level under it. -/
theorem topLevel_eq (hl : l ≤ n) (hn : est s n ≤ bound) (hgt : bound < est s (n + 1)) (hk : n < l + k) :
    topLevel s bound k l (est s l) = n := by
  induction k generalizing l with
  | zero => omega
  | succ k ih =>
    have hnext : (est s l + 2 ^ (l / 2 ^ s) ≤ bound) ↔ l < n := by
      show est s (l + 1) ≤ bound ↔ _
      constructor
      · intro h
        exact Nat.lt_of_succ_lt_succ ((est_mono s).lt_iff_lt.mp (h.trans_lt hgt))
      · intro h
        exact ((est_mono s).monotone h).trans hn
    simp only [topLevel, hnext]
    split
    · next h => exact ih h (by omega)
    · omega

theorem lmax_false_le (s : Nat) : lmax false s ≤ 15 := (topLevel_le ..).trans (Nat.le_of_eq (Nat.zero_add _))

/-! ## Draws (R97) -/

theorem draws_eq (n : Nat) (c : BitVec 32) (x : Nat) : draws n c x =
    (x * 2 ^ (32 * n) + ((List.range n).map (fun i => (draw^[i + 1] c).toNat * 2 ^ (32 * (n - 1 - i)))).sum, draw^[n] c) := by
  induction n generalizing c x with
  | zero => simp [draws]
  | succ n ih =>
    have htail : (fun i => (draw^[i + 1] (draw c)).toNat * 2 ^ (32 * (n - 1 - i))) =
        (fun i => (draw^[i + 1] c).toNat * 2 ^ (32 * (n + 1 - 1 - i))) ∘ Nat.succ := by
      funext i
      have hi : n - 1 - i = n + 1 - 1 - i.succ := by omega
      rw [hi]
      rfl
    rw [draws, ih, htail, List.range_succ_eq_map, List.map_cons, List.sum_cons, List.map_map]
    refine Prod.ext ?_ rfl
    show (x * 2 ^ 32 + (draw c).toNat) * 2 ^ (32 * n) + _ = x * 2 ^ (32 * (n + 1)) + ((draw c).toNat * 2 ^ (32 * n) + _)
    rw [Nat.add_mul, Nat.mul_assoc, ← Nat.pow_add, Nat.mul_succ, Nat.add_comm 32, Nat.add_assoc]

/-- A promotion uses at least one draw. -/
theorem drawCount_eq (k : Nat) : (if k = 0 then 1 else (k + 31) / 32) = max 1 ((k + 31) / 32) := by
  split <;> omega

theorem promote_eq (l s num : Nat) (c : BitVec 32) : promote l s num c =
    let k := l / 2 ^ s
    let n := max 1 ((k + 31) / 32)
    (decide (((List.range n).map (fun i => (draw^[i + 1] c).toNat * 2 ^ (32 * (n - 1 - i)))).sum < num * 2 ^ (32 * n - k)), draw^[n] c) := by
  simp only [promote, drawCount_eq, draws_eq, Nat.zero_mul, Nat.zero_add]

/-! ## Trials and merges (R98) -/

/-- A level with one promotion or without. -/
def promoted (l : Nat) (up : Bool) : Nat := if up then l + 1 else l

theorem promoted_le {up : Bool} (h : l < top) : promoted l up ≤ top := by
  unfold promoted
  split <;> omega

theorem addTrials_promote (h : l ≠ top) : addTrials s top (m + 1) l c sat =
    addTrials s top m (promoted l (promote l s 1 c).1) (promote l s 1 c).2 sat := by
  rw [addTrials, if_neg h]
  rfl

theorem addTrials_top (s top m : Nat) (c : BitVec 32) (sat : Bool) :
    addTrials s top m top c sat = (top, c, if m = 0 then sat else true) := by
  induction m generalizing sat with
  | zero => rfl
  | succ m ih =>
    rw [addTrials, if_pos rfl, ih]
    simp

/-- Trials move a level up, by one each at most, and not past the largest. -/
theorem addTrials_bounds (h : l ≤ top) : l ≤ (addTrials s top m l c sat).1 ∧ (addTrials s top m l c sat).1 ≤ l + m ∧
    (addTrials s top m l c sat).1 ≤ top := by
  induction m generalizing l c with
  | zero => exact ⟨Nat.le_refl _, Nat.le_refl _, h⟩
  | succ m ih =>
    by_cases htop : l = top
    · rw [htop, addTrials_top]
      exact ⟨Nat.le_refl _, Nat.le_add_right _ _, Nat.le_refl _⟩
    · rw [addTrials_promote htop]
      have hlo : l ≤ promoted l (promote l s 1 c).1 := by
        unfold promoted
        split <;> omega
      have hhi : promoted l (promote l s 1 c).1 ≤ l + 1 := promoted_le l.lt_succ_self
      obtain ⟨hlo', hhi', htop'⟩ := ih (c := (promote l s 1 c).2) (promoted_le (lt_of_le_of_ne h htop))
      exact ⟨hlo.trans hlo', by omega, htop'⟩

/-- A merge whose sum reaches the largest estimate. -/
theorem mergeLevels_top (h : est s top ≤ est s l1 + est s l2) :
    mergeLevels s top l1 l2 c = (top, c, decide (est s top < est s l1 + est s l2)) := by
  simp only [mergeLevels]
  rw [if_pos h]

section
variable (ht : est s l1 + est s l2 < est s top) (hn : est s n ≤ est s l1 + est s l2) (hgt : est s l1 + est s l2 < est s (n + 1))
include ht hn

theorem lt_of_est_le : n < top := (est_mono s).lt_iff_lt.mp (hn.trans_lt ht)

include hgt

theorem topLevel_merge : topLevel s (est s l1 + est s l2) top 0 0 = n :=
  topLevel_eq (l := 0) (Nat.zero_le _) hn hgt (by have := lt_of_est_le ht hn; omega)

theorem mergeLevels_exact (he : est s l1 + est s l2 = est s n) : mergeLevels s top l1 l2 c = (n, c, false) := by
  simp only [mergeLevels]
  rw [if_neg (Nat.not_le.mpr ht), topLevel_merge ht hn hgt, if_neg (Nat.not_lt.mpr (Nat.le_of_eq he))]

theorem mergeLevels_promote (he : est s n < est s l1 + est s l2) : mergeLevels s top l1 l2 c =
    (promoted n (promote n s (est s l1 + est s l2 - est s n) c).1, (promote n s (est s l1 + est s l2 - est s n) c).2, false) := by
  simp only [mergeLevels]
  rw [if_neg (Nat.not_le.mpr ht), topLevel_merge ht hn hgt, if_pos he]
  rfl

end

/-! ## A counter in its byte (R96, R99) -/

/-- The byte with a level that fits its width. -/
theorem setLevel_of_fits (h : wide = false → l < 16) : setLevel wide hi byte l =
    if wide then l else if hi then byte % 16 + l * 16 else byte / 16 * 16 + l := by
  cases wide with
  | true => rfl
  | false =>
    have hl : l % 16 = l := Nat.mod_eq_of_lt (h rfl)
    simp only [setLevel, hl]

theorem levelOf_byte (h : byte < 256) : levelOf wide hi byte = if wide then byte else if hi then byte / 16 else byte % 16 := by
  unfold levelOf
  have hhigh : byte / 16 % 16 = byte / 16 := Nat.mod_eq_of_lt (by omega)
  rw [hhigh]

theorem levelOf_setLevel (h : wide = false → l < 16) : levelOf wide hi (setLevel wide hi byte l) = l := by
  rw [setLevel_of_fits h]
  cases wide with
  | true => rfl
  | false =>
    have hl := h rfl
    cases hi
    · show (byte / 16 * 16 + l) % 16 = l
      omega
    · show (byte % 16 + l * 16) / 16 % 16 = l
      omega

theorem setLevel_setLevel (byte l n : Nat) : setLevel wide hi (setLevel wide hi byte l) n = setLevel wide hi byte n := by
  cases wide with
  | true => rfl
  | false =>
    cases hi
    · show (byte / 16 * 16 + l % 16) / 16 * 16 + n % 16 = byte / 16 * 16 + n % 16
      omega
    · show (byte % 16 + l % 16 * 16) % 16 + n % 16 * 16 = byte % 16 + n % 16 * 16
      omega

/-! ## Counter instructions (Table 9-5) -/

/-- The largest level that a counter control word allows (R96). -/
def pcbTop (pcb : BitVec 3) : Nat := lmax (pcb.getLsbD 0) (pcb.toNat / 2)

/-- The level that a counter instruction reads from a byte (R96). -/
def readLevel (hi : Bool) (pcb : BitVec 3) (byte : Nat) : Nat := min (levelOf (pcb.getLsbD 0) hi byte) (pcbTop pcb)

/-- The answer of a counter instruction that leaves a level. -/
def leavesLevel (hi : Bool) (pcb : BitVec 3) (byte : Nat) (r : Nat × BitVec 32 × Bool) : Option Nat × Word × BitVec 32 × BitVec 9 :=
  (some (setLevel (pcb.getLsbD 0) hi byte r.1), w64 r.1, r.2.1, flagIf r.2.2 fPCSAT)

section
variable (hi : Bool) (pcb : BitVec 3) (byte : Nat) (cds : BitVec 32)

theorem clamp_eq_min (a b : Nat) : (if b < a then b else a) = min a b := by
  rw [Nat.min_def]
  split <;> split <;> omega

theorem readLevel_le : readLevel hi pcb byte ≤ pcbTop pcb := Nat.min_le_right _ _

theorem fits_of_le_pcbTop (h : l ≤ pcbTop pcb) : pcb.getLsbD 0 = false → l < 16 := by
  intro hw
  unfold pcbTop at h
  rw [hw] at h
  have := lmax_false_le (pcb.toNat / 2)
  omega

/-- A nibble that takes a level leaves the other of its byte (R99). -/
theorem leavesLevel_eq {r : Nat × BitVec 32 × Bool} (h : r.1 ≤ pcbTop pcb) : leavesLevel hi pcb byte r =
    (some (if pcb.getLsbD 0 then r.1 else if hi then byte % 16 + r.1 * 16 else byte / 16 * 16 + r.1), w64 r.1, r.2.1, flagIf r.2.2 fPCSAT) := by
  rw [leavesLevel, setLevel_of_fits (fits_of_le_pcbTop pcb h)]

theorem ctrRun_rd : ctrRun .rd hi pcb byte cds = (none, w64 (est (pcb.toNat / 2) (readLevel hi pcb byte)), cds, 0) := by
  simp only [ctrRun, clamp_eq_min]
  rfl

theorem ctrRun_lv : ctrRun .lv hi pcb byte cds = (none, w64 (readLevel hi pcb byte), cds, 0) := by
  simp only [ctrRun, clamp_eq_min]
  rfl

theorem ctrRun_lvSet (v : Nat) : ctrRun (.lvSet v) hi pcb byte cds =
    (some (setLevel (pcb.getLsbD 0) hi byte v), w64 (readLevel hi pcb byte), cds, 0) := by
  simp only [ctrRun, clamp_eq_min]
  rfl

theorem ctrRun_add (m : Nat) : ctrRun (.add m) hi pcb byte cds =
    leavesLevel hi pcb byte (addTrials (pcb.toNat / 2) (pcbTop pcb) m (readLevel hi pcb byte) cds false) := by
  simp only [ctrRun, clamp_eq_min]
  rfl

theorem ctrRun_mrg (l2 : Nat) : ctrRun (.mrg l2) hi pcb byte cds =
    leavesLevel hi pcb byte (mergeLevels (pcb.toNat / 2) (pcbTop pcb) (readLevel hi pcb byte) (min l2 (pcbTop pcb)) cds) := by
  simp only [ctrRun, clamp_eq_min]
  rfl

/-- A trial at the largest level draws nothing and sets PCSAT. -/
theorem ctrRun_add_top (m : Nat) (h : readLevel hi pcb byte = pcbTop pcb) : ctrRun (.add (m + 1)) hi pcb byte cds =
    ((ctrRun (.add m) hi pcb byte cds).1, (ctrRun (.add m) hi pcb byte cds).2.1, (ctrRun (.add m) hi pcb byte cds).2.2.1, 0x40) := by
  rw [ctrRun_add, ctrRun_add, h, addTrials_top, addTrials_top]
  rfl

/-- A trial below the largest level is followed by the others in the byte that it leaves. -/
theorem ctrRun_add_promote (m : Nat) (h : readLevel hi pcb byte < pcbTop pcb) :
    let p := promote (readLevel hi pcb byte) (pcb.toNat / 2) 1 cds
    let n := promoted (readLevel hi pcb byte) p.1
    ctrRun (.add (m + 1)) hi pcb byte cds =
      ctrRun (.add m) hi pcb (if pcb.getLsbD 0 then n else if hi then byte % 16 + n * 16 else byte / 16 * 16 + n) p.2 := by
  intro p n
  have hfits : pcb.getLsbD 0 = false → n < 16 := fits_of_le_pcbTop pcb (promoted_le h)
  have hread : readLevel hi pcb (setLevel (pcb.getLsbD 0) hi byte n) = n := by
    rw [readLevel, levelOf_setLevel hfits, Nat.min_eq_left (promoted_le h)]
  rw [← setLevel_of_fits hfits, ctrRun_add, ctrRun_add, addTrials_promote h.ne, hread]
  simp only [leavesLevel, setLevel_setLevel]
  rfl

theorem ctrRun_mrg_of_eq {l2 : Nat} {r : Nat × BitVec 32 × Bool}
    (hr : mergeLevels (pcb.toNat / 2) (pcbTop pcb) (readLevel hi pcb byte) (min l2 (pcbTop pcb)) cds = r) (h : r.1 ≤ pcbTop pcb) :
    ctrRun (.mrg l2) hi pcb byte cds = (some (if pcb.getLsbD 0 then r.1 else if hi then byte % 16 + r.1 * 16
      else byte / 16 * 16 + r.1), w64 r.1, r.2.1, flagIf r.2.2 fPCSAT) := by
  rw [ctrRun_mrg, hr, leavesLevel_eq hi pcb byte h]

end

end Sys2Proof.Machine

namespace Sys2Proof.Safety

open Sys2Proof.Machine Sys2Proof.Claims

/-- Settles O25. -/
theorem counterResults : Obligations.CounterResults := by
  unfold Obligations.CounterResults
  refine ⟨fun s l => ⟨rfl, rfl⟩, by decide +kernel, fun _ => rfl, promote_eq, ?_⟩
  intro hi pcb byte cds hbyte wide s stored l
  have hl : l = readLevel hi pcb byte := by
    rw [readLevel, levelOf_byte hbyte]
    rfl
  have hle := readLevel_le hi pcb byte
  clear_value l
  subst hl
  refine ⟨ctrRun_rd .., ctrRun_lv .., fun v hv => ?_, fun m => ?_, ?_, fun m => ?_, fun l2 => ⟨fun h => ?_, fun n ht hn hgt => ?_⟩⟩
  · have hfits : wide = false → v < 16 := fun hw => by simpa [hw] using hv
    rw [ctrRun_lvSet, setLevel_of_fits hfits]
  · obtain ⟨hlo, hhi, htop⟩ := addTrials_bounds (s := s) (m := m) (c := cds) (sat := false) hle
    exact ⟨_, _, _, (ctrRun_add ..).trans (leavesLevel_eq hi pcb byte htop), hlo, hhi, htop⟩
  · exact (ctrRun_add hi pcb byte cds 0).trans (leavesLevel_eq hi pcb byte hle)
  · split
    · next htop => exact ctrRun_add_top hi pcb byte cds m htop
    · next htop => exact ctrRun_add_promote hi pcb byte cds m (lt_of_le_of_ne hle htop)
  · refine (ctrRun_mrg_of_eq hi pcb byte cds (mergeLevels_top h) (Nat.le_refl _)).trans ?_
    simp only [flagIf, decide_eq_true_eq]
    rfl
  · have hlt : n < pcbTop pcb := lt_of_est_le ht hn
    exact ⟨fun he => (ctrRun_mrg_of_eq hi pcb byte cds (mergeLevels_exact ht hn hgt he) hlt.le :),
      fun he => (ctrRun_mrg_of_eq hi pcb byte cds (mergeLevels_promote ht hn hgt he) (promoted_le hlt) :)⟩

end Sys2Proof.Safety
end

section
/-! PROOFS. Each engine instruction but `DEPO` asks its engine for the operation of its row (O32, its first part). -/

set_option Elab.async false

namespace Sys2Proof.Safety

open Sys2Proof.Machine Sys2Proof.Claims

variable {s : State} {t : Thread} {i : Instr} {r : EngRow} {opc : Nat} {f : VFmt} {e : ECtl} {d x y : Strm} {k : BitVec 4}
  {n : Fin 16} {att : Option (Fin 8)}

/-! ### Registers as sources (R34) -/

/-- Registers are readable each by itself. -/
theorem srcWait_regs (all : List Operand) (l : List RegName) :
    s.srcWait t all (l.map RegName.op) = none ↔ ∀ q ∈ l, s.srcWait t [] [q.op] = none := by
  induction l with
  | nil => simp [State.srcWait]
  | cons q l ih =>
    rw [List.forall_mem_cons, ← ih]
    cases q with
    | g n =>
      simp only [List.map_cons, RegName.op, State.srcWait]
      cases (t.gCell n).readWait n.val <;> simp
    | a n =>
      simp only [List.map_cons, RegName.op, State.srcWait]
      cases (t.a[n]).readWait (16 + n.val) <;> simp

theorem srcHeld_regs (l : List RegName) : s.srcHeld (l.map RegName.op) = false := by
  rw [State.srcHeld, List.any_eq_false]
  intro x hx
  obtain ⟨q, -, rfl⟩ := List.mem_map.mp hx
  cases q <;> simp [RegName.op]

theorem waits_regs (l : List RegName) : s.waits t (l.map RegName.op) [] [] = none ↔ ∀ q ∈ l, s.srcWait t [] [q.op] = none := by
  rw [← srcWait_regs (l.map RegName.op) l, State.waits, srcHeld_regs]
  cases s.srcWait t (l.map RegName.op) (l.map RegName.op) <;> simp [Thread.predWait]

/-- Sources pass their parity checks each by itself (R320). -/
theorem parityFails_eq_any (l : List Operand) : s.parityFails t l [] = l.any (fun x => s.parityFails t [x] []) := by
  induction l with
  | nil => rfl
  | cons x l ih =>
    rw [List.any_cons, ← ih]
    simp only [State.parityFails, Thread.parityFails, List.any_cons, List.any_nil, List.isEmpty_nil, Bool.not_true, Bool.false_and,
      Bool.or_false, Bool.or_assoc, Bool.or_left_comm]

/-- An instruction that is ready with registers is ready with some of them. -/
theorem ready_of_subset {l m : List RegName} (h : Issues s t (l.map RegName.op) [] []) (hml : m ⊆ l) :
    s.ready (m.map RegName.op) [] [] = .ok t := by
  obtain ⟨hme, hw, hp⟩ := h
  exact State.ready_eq hme ((waits_regs m).mpr fun q hq => (waits_regs l).mp hw q (hml hq))
    (by
      rw [parityFails_eq_any, List.any_eq_false] at hp ⊢
      exact fun x hx => hp x (List.map_subset RegName.op hml hx))

/-! ### What an instruction asks its engine for -/

/-- The request that a row describes. -/
def rowReq (opc : Nat) (r : EngRow) : EngReq :=
  { eng := r.eng, opc := opc, job := r.job, ec := r.ec, vl := r.vl, xs := r.xs, extra := r.extra, posts := r.posts, scaled := r.scaled
    count := r.count, late := r.late, more := r.more, att := r.att }

/-- An instruction asks its engine for the operation of a row. -/
def AsksFor (i : Instr) (r : EngRow) (s : State) (t : Thread) : Prop :=
  ∃ opc, exec i s = Eff.done (s.engIssue s t (rowReq opc r))

theorem me_of_mayQueue (h : MayQueue s t r) : s.me = some t := by
  obtain ⟨⟨hme, -, -⟩, -⟩ := h
  exact hme

theorem ready_of_mayQueue (h : MayQueue s t r) : s.ready r.srcs r.dsts [] = .ok t := by
  obtain ⟨⟨hme, hw, hp⟩, -⟩ := h
  exact State.ready_eq hme hw hp

theorem ok_of_mayQueue (h : MayQueue s t r) : r.ok := by
  obtain ⟨-, -, -, -, hok⟩ := h
  exact hok

theorem sizeOf_eq (f : VFmt) : sizeOf_ f = eBytes f := by cases f <;> rfl

/-! ### Elementwise operations (R206) -/

theorem elemIssue_eq {op : ElemOp} {sf : VFmt} {xs : List VSrc} (hr : s.ready (elemRow t op f sf e d xs).srcs [] [] = .ok t) :
    s.elemIssue opc op f sf e d xs = s.engIssue s t (rowReq opc (elemRow t op f sf e d xs)) := by
  have hr' : s.ready (xs.map VSrc.operand ++ [.a d.p]) [] [] = .ok t := hr
  simp only [State.elemIssue, hr', Eff.bind_ok, ← sizeOf_eq]
  rfl

theorem asksFor_elem {op : ElemOp} {sf : VFmt} {xs : List VSrc} (he : exec i s = (s.elemIssue opc op f sf e d xs).done)
    (hm : MayQueue s t (elemRow t op f sf e d xs)) : AsksFor i (elemRow t op f sf e d xs) s t :=
  ⟨opc, he.trans (congrArg Eff.done (elemIssue_eq (ready_of_mayQueue hm)))⟩

/-- The format that a register names is the one of its row (R213). -/
theorem ofCode?_eq (n : Nat) : VFmt.ofCode? n = [VFmt.f32, .f16, .bf16, .i32, .i16, .i8, .e4, .e5][n]? := by
  match n with
  | 0 | 1 | 2 | 3 | 4 | 5 | 6 | 7 => rfl
  | n + 8 => rfl

theorem asksFor_vcvt (h : engRow s t (.vcvt f e d x n) = some r) (hm : MayQueue s t r) : AsksFor (.vcvt f e d x n) r s t := by
  obtain ⟨sf, hsf, rfl⟩ := Option.map_eq_some_iff.mp h
  obtain ⟨hi, -⟩ := hm
  have hi' : Issues s t ([RegName.g n, .a x.p, .a d.p].map RegName.op) [] [] := hi
  have h3 : s.ready [.a x.p, .g n, .a d.p] [] [] = .ok t :=
    ready_of_subset (m := [.a x.p, .g n, .a d.p]) hi' (by simp)
  have h2 : s.ready (elemRow t (.cvt sf) f sf e d [.strm x]).srcs [] [] = .ok t :=
    ready_of_subset (m := [.a x.p, .a d.p]) hi' (by simp)
  refine ⟨0x121, ?_⟩
  show Eff.done _ = _
  simp only [h3, Eff.bind_ok, ofCode?_eq, hsf, elemIssue_eq h2]
  rfl

theorem asksFor_fold {mx : Bool} (he : exec i s = (s.foldIssue opc mx f e d x).done) (hm : MayQueue s t (foldRow t mx f e d x)) :
    AsksFor i (foldRow t mx f e d x) s t := by
  have hr : s.ready [.a x.p, .a d.p] [] [] = .ok t := ready_of_mayQueue hm
  refine ⟨opc, he.trans ?_⟩
  simp only [State.foldIssue, hr, Eff.bind_ok, ← sizeOf_eq]
  rfl

/-! ### Tiles and compression (R214 to R217) -/

theorem toNat_field (v : Word) (lo n : Nat) : (v.extractLsb' lo n).toNat = v.toNat / 2 ^ lo % 2 ^ n := by
  rw [BitVec.extractLsb'_toNat, Nat.shiftRight_eq_div_pow]

/-- A source format that `VPACK` takes (R214). -/
theorem packFormat {m : Nat} {src : VFmt}
    (h : ([some VFmt.f32, some .f16, some .bf16, none, none, none, some .e4, some .e5][m % 2 ^ 5]?).join = some src) :
    (VFmt.ofCode? (m % 8)).getD .i32 = src ∧ bits m 4 3 = 0 ∧ src.isFloat = true := by
  have hlow : m % 8 = m % 2 ^ 5 % 8 := by omega
  have hhigh : bits m 4 3 = m % 2 ^ 5 / 8 := by
    show m / 8 % 4 = m % 32 / 8
    omega
  rw [hlow, hhigh]
  generalize m % 2 ^ 5 = c at h ⊢
  match c, h with
  | 0, rfl | 1, rfl | 2, rfl | 6, rfl | 7, rfl => exact ⟨rfl, rfl, rfl⟩

theorem asksFor_vpack (h : engRow s t (.vpack f e d x n) = some r) (hm : MayQueue s t r) : AsksFor (.vpack f e d x n) r s t := by
  obtain ⟨src, hsrc, rfl⟩ := Option.map_eq_some_iff.mp h
  have hr : s.ready [.a x.p, .g n, .a d.p] [] [] = .ok t := ready_of_mayQueue hm
  have hok : (t.gv n).toNat < 2 ^ 15 := ok_of_mayQueue hm
  rw [toNat_field, Nat.pow_zero, Nat.div_one] at hsrc
  obtain ⟨hcode, hbits, hfloat⟩ := packFormat hsrc
  refine ⟨0x122, ?_⟩
  show Eff.done _ = _
  simp only [hr, Eff.bind_ok, hcode, hbits, hfloat, ← sizeOf_eq, toNat_field]
  rw [if_neg (by simpa using hok)]
  rfl

theorem asksFor_vunpk (h : engRow s t (.vunpk f e d x) = some r) (hm : MayQueue s t r) : AsksFor (.vunpk f e d x) r s t := by
  obtain rfl := Option.some.inj h
  have hr : s.ready [.a x.p, .a d.p] [] [] = .ok t := ready_of_mayQueue hm
  refine ⟨0x123, ?_⟩
  show Eff.done _ = _
  simp only [hr, Eff.bind_ok, ← sizeOf_eq]
  rfl

/-- The ranges that n bytes at two pointers take share a byte. -/
theorem meets_iff_overlap (k : Nat) (p q : Fin 8) : (Range.mk (s.canonVa s.cur.core (t.ptrVa p)) k).meets
    (Range.mk (s.canonVa s.cur.core (t.ptrVa q)) k) = true ↔ overlap s t k p q := by
  simp only [Range.meets, Bool.and_eq_true, decide_eq_true_eq]
  rfl

theorem asksFor_vtrn (h : engRow s t (.vtrn f e d x) = some r) (hm : MayQueue s t r) : AsksFor (.vtrn f e d x) r s t := by
  obtain rfl := Option.some.inj h
  have hr : s.ready [.a x.p, .a d.p] [] [] = .ok t := ready_of_mayQueue hm
  have hok : ¬overlap s t (1024 * sizeOf_ f) x.p d.p := ok_of_mayQueue hm
  refine ⟨0x128, ?_⟩
  show Eff.done _ = _
  simp only [hr, Eff.bind_ok, ← sizeOf_eq, meets_iff_overlap, hok, if_false]
  rfl

theorem asksFor_vcmpr (h : engRow s t (.vcmpr f e d x y n) = some r) (hm : MayQueue s t r) : AsksFor (.vcmpr f e d x y n) r s t := by
  obtain rfl := Option.some.inj h
  have hr : s.ready [.a x.p, .a y.p, .a d.p] [.g n] [] = .ok t := ready_of_mayQueue hm
  obtain ⟨hx, hy⟩ : (overlap s t (t.vl.toNat * sizeOf_ f) d.p x.p →
      s.canonVa s.cur.core (at_ t d.p) = s.canonVa s.cur.core (at_ t x.p)) ∧
      ¬overlap s t (t.vl.toNat * sizeOf_ f) d.p y.p := ok_of_mayQueue hm
  refine ⟨0x129, ?_⟩
  show Eff.done _ = _
  simp only [hr, Eff.bind_ok, ← sizeOf_eq]
  rw [if_neg]
  · rfl
  · simp only [Bool.or_eq_true, Bool.and_eq_true, meets_iff_overlap, bne_iff_ne]
    rintro (⟨ho, hne⟩ | ho)
    · exact hne (hx ho)
    · exact hy ho

/-! ### Gathers and scatters (R218 to R220) -/

theorem asksFor_gath {p : Fin 8} (h : engRow s t (.gath f e d p y) = some r) (hm : MayQueue s t r) : AsksFor (.gath f e d p y) r s t := by
  obtain rfl := Option.some.inj h
  have hr : s.ready [.a p, .a y.p, .a d.p] [] [] = .ok t := ready_of_mayQueue hm
  refine ⟨0x124, ?_⟩
  show Eff.done _ = _
  simp only [hr, Eff.bind_ok, ← sizeOf_eq]
  rfl

theorem asksFor_gathf {p : Fin 8} (h : engRow s t (.gathf f e d p y n) = some r) (hm : MayQueue s t r) :
    AsksFor (.gathf f e d p y n) r s t := by
  obtain rfl := Option.some.inj h
  have hr : s.ready [.a p, .a y.p, .a d.p] [.g n] [] = .ok t := ready_of_mayQueue hm
  refine ⟨0x125, ?_⟩
  show Eff.done _ = _
  simp only [hr, Eff.bind_ok, ← sizeOf_eq]
  rfl

theorem asksFor_scat {p : Fin 8} (h : engRow s t (.scat f e p x y) = some r) (hm : MayQueue s t r) : AsksFor (.scat f e p x y) r s t := by
  obtain rfl := Option.some.inj h
  have hr : s.ready [.a x.p, .a y.p, .a p] [] [] = .ok t := ready_of_mayQueue hm
  refine ⟨0x126, ?_⟩
  show Eff.done _ = _
  simp only [hr, Eff.bind_ok, ← sizeOf_eq]
  rfl

/-! ### The matrix engine (R222 to R226) -/

theorem asksFor_mma {p q : Fin 8} {o : MmaCtl} (h : engRow s t (.mma k p q o) = some r) (hm : MayQueue s t r) :
    AsksFor (.mma k p q o) r s t := by
  obtain rfl := Option.some.inj h
  have hr : s.ready [.a p, .a q] [] [] = .ok t := ready_of_mayQueue hm
  have hok : o.fmt = .i8 → o.eco = false ∧ o.scale = 0 := ok_of_mayQueue hm
  have hlimit : (o.fmt == .i8 && (o.eco || o.scale != 0)) = false := by
    rw [Bool.eq_false_iff]
    simp only [ne_eq, Bool.and_eq_true, beq_iff_eq, Bool.or_eq_true, bne_iff_ne, not_and, not_or]
    intro hf
    obtain ⟨heco, hscale⟩ := hok hf
    simp [heco, hscale]
  refine ⟨0x140, ?_⟩
  show Eff.done _ = _
  simp only [hlimit, State.limit_false, hr, Eff.bind_ok]
  cases o.fmt <;> rfl

/-- An operation on accumulators alone. -/
theorem asksFor_plain {job : Job}
    (he : exec i s = Eff.done (s.ready [] [] [] >>= fun u => s.engIssue s u (rowReq opc (plainRow .mat e job 0))))
    (hm : MayQueue s t (plainRow .mat e job 0)) : AsksFor i (plainRow .mat e job 0) s t := by
  have hr : s.ready [] [] [] = .ok t := ready_of_mayQueue hm
  exact ⟨opc, he.trans (by rw [hr, Eff.bind_ok])⟩

/-- An operation on an accumulator with one stream. -/
theorem asksFor_acc {job : Thread → Job} {len align : Nat} {dst : Bool}
    (he : exec i s = Eff.done (s.ready [.a x.p] [] [] >>= fun u => s.engIssue s u (rowReq opc (accRow u e (job u) x len align dst))))
    (hm : MayQueue s t (accRow t e (job t) x len align dst)) : AsksFor i (accRow t e (job t) x len align dst) s t := by
  have hr : s.ready [.a x.p] [] [] = .ok t := ready_of_mayQueue hm
  exact ⟨opc, he.trans (by rw [hr, Eff.bind_ok])⟩

theorem asksFor_msta {int : Bool} (h : engRow s t (.msta k x f int e) = some r) (hm : MayQueue s t r) :
    AsksFor (.msta k x f int e) r s t := by
  obtain rfl := Option.some.inj h
  have hr : s.ready [.a x.p] [] [] = .ok t := ready_of_mayQueue hm
  have hok : int = true → f ∈ [VFmt.i32, .i16, .i8] := ok_of_mayQueue hm
  have hlimit : (int && f.isFloat) = false := by
    cases int with
    | false => rfl
    | true =>
      have hf := hok rfl
      cases f <;> simp_all [VFmt.isFloat]
  refine ⟨0x143, ?_⟩
  show Eff.done _ = _
  simp only [hlimit, State.limit_false, hr, Eff.bind_ok, ← sizeOf_eq]
  rfl

theorem asksFor_mstc {e5 : Bool} (h : engRow s t (.mstc k x e5 e) = some r) (hm : MayQueue s t r) : AsksFor (.mstc k x e5 e) r s t := by
  obtain rfl := Option.some.inj h
  have hr : s.ready [.a x.p] [] [] = .ok t := ready_of_mayQueue hm
  refine ⟨0x144, ?_⟩
  show Eff.done _ = _
  simp only [hr, Eff.bind_ok]
  rfl

/-! ### Copies (R227 to R229) -/

theorem attStrm_eq (t : Thread) (att : Option (Fin 8)) : t.attStrm att = attRow t att := by cases att <;> rfl

theorem asksFor_cpy (h : engRow s t (.cpy d x n att e) = some r) (hm : MayQueue s t r) : AsksFor (.cpy d x n att e) r s t := by
  obtain rfl := Option.some.inj h
  have hr : s.ready ([.a x.p, .g n] ++ att.toList.map Operand.a ++ [.a d.p]) [] [] = .ok t := ready_of_mayQueue hm
  have hok : (t.gv n).toNat ≤ 2 ^ 24 := ok_of_mayQueue hm
  refine ⟨0x160, ?_⟩
  show Eff.done _ = _
  simp only [hr, Eff.bind_ok, attStrm_eq]
  rw [if_neg (Nat.not_lt.mpr hok)]
  rfl

theorem asksFor_cpy2 (h : engRow s t (.cpy2 d x n att e) = some r) (hm : MayQueue s t r) : AsksFor (.cpy2 d x n att e) r s t := by
  obtain rfl := Option.some.inj h
  have hr : s.ready ([.a x.p, .g n] ++ att.toList.map Operand.a ++ [.a d.p]) [] [] = .ok t := ready_of_mayQueue hm
  refine ⟨0x161, ?_⟩
  show Eff.done _ = _
  simp only [hr, Eff.bind_ok, attStrm_eq, toNat_field]
  rfl

/-- The cores that a mask names (R229). -/
theorem quadNamed_eq (s : State) (m : BitVec 4) : s.quadNamed m =
    ((List.range 4).filter (fun i => m.getLsbD i && (s.logOf? (s.cur.core / 4 * 4 + i)).isSome)).map (fun i => s.cur.core / 4 * 4 + i) := by
  rw [← List.filterMap_eq_map, List.filterMap_filter]
  rfl

theorem asksFor_cpym {m : BitVec 4} (h : engRow s t (.cpym d x n att e m) = some r) (hm : MayQueue s t r) :
    AsksFor (.cpym d x n att e m) r s t := by
  obtain rfl := Option.some.inj h
  have hr : s.ready ([.a x.p, .g n] ++ att.toList.map Operand.a ++ [.a d.p]) [] [] = .ok t := ready_of_mayQueue hm
  obtain ⟨hmask, hok⟩ : m ≠ 0 ∧ (t.gv n).toNat ≤ 2 ^ 24 := ok_of_mayQueue hm
  have hlimit : (m == 0) = false := beq_eq_false_iff_ne.mpr hmask
  refine ⟨0x162, ?_⟩
  show Eff.done _ = _
  simp only [hlimit, State.limit_false, hr, Eff.bind_ok, attStrm_eq, quadNamed_eq]
  rw [if_neg (Nat.not_lt.mpr hok)]
  rfl

/-- Each engine instruction but `DEPO` asks its engine for the operation of its row. -/
theorem asksFor_of_engRow (h : engRow s t i = some r) (hm : MayQueue s t r) (hd : ∀ x y e, i ≠ .depo x y e) : AsksFor i r s t := by
  cases i
  case vadd | vsub | vmul | vfma | vmin | vmax | vabs | vneg | vdiv | vsqrt | vrsq | vexp2 | vand | vor | vxor | vshl | vshr | vsra |
      vceq | vclt | vsel | viota | vset | vmov => cases h; exact asksFor_elem rfl hm
  case vrsum | vrmax => cases h; exact asksFor_fold rfl hm
  case vcvt => exact asksFor_vcvt h hm
  case vpack => exact asksFor_vpack h hm
  case vunpk => exact asksFor_vunpk h hm
  case vtrn => exact asksFor_vtrn h hm
  case vcmpr => exact asksFor_vcmpr h hm
  case gath => exact asksFor_gath h hm
  case gathf => exact asksFor_gathf h hm
  case scat => exact asksFor_scat h hm
  case mma => exact asksFor_mma h hm
  case mzero | madd => cases h; exact asksFor_plain rfl hm
  case mlda k x int e => cases h; exact asksFor_acc (job := fun u => .mlda k (at_ u x.p)) rfl hm
  case mscal k x e => cases h; exact asksFor_acc (job := fun u => .mscal k (at_ u x.p)) rfl hm
  case mrssq k x e => cases h; exact asksFor_acc (job := fun u => .mrssq k (at_ u x.p)) rfl hm
  case msta => exact asksFor_msta h hm
  case mstc => exact asksFor_mstc h hm
  case cpy => exact asksFor_cpy h hm
  case cpy2 => exact asksFor_cpy2 h hm
  case cpym => exact asksFor_cpym h hm
  case depo x y e => exact absurd rfl (hd x y e)
  all_goals cases h

end Sys2Proof.Safety
end

section
/-! PROOFS. The checks of an engine instruction's streams in their order, and what makes it wait (O32). -/

set_option Elab.async false

namespace Sys2Proof.Safety

open Sys2Proof.Machine Sys2Proof.Claims

variable {s : State} {t : Thread} {i : Instr} {r : EngRow} {opc : Nat} {xs : List Stream} {x : Stream} {c : BitVec 8}

/-! ### One stream -/

/-- The segment of a stream's pointer grants its range (R204). -/
def streamGranted (t : Thread) (x : Stream) : Bool := (t.segs[x.p]).grants x.off.toNat x.n x.need

/-- A stream starts at a multiple of its alignment (R204). -/
def streamAligned (t : Thread) (x : Stream) : Bool := t.streamVa x % x.align == 0

/-- The streams with bytes. -/
def liveStreams (xs : List Stream) : List Stream := xs.filter (fun x => x.n != 0)

theorem need_eq (x : Stream) : (if x.reach = .att then Need.mk false false false else Need.mk (!x.dst) x.dst false) = x.need := by
  obtain ⟨p, off, n, align, dst, reach⟩ := x
  cases reach <;> cases dst <;> rfl

theorem placeCause_eq (s : State) (t : Thread) (x : Stream) : placeCause s (t.streamVa x) x = s.placeFault t x := by
  obtain ⟨p, off, n, align, dst, reach⟩ := x
  unfold placeCause State.placeFault
  dsimp only
  generalize s.rangeSpace s.cur.core _ n = sp
  rcases sp with _ | _ | ⟨m, k, o⟩
  · cases reach <;> rfl
  · cases reach <;> rfl
  · cases reach <;> simp <;> rfl

theorem belowXb_iff (s : State) (t : Thread) (x : Stream) : s.belowXb t x = true ↔ underXb s (t.streamVa x) x := by
  obtain ⟨p, off, n, align, dst, reach⟩ := x
  unfold State.belowXb underXb
  dsimp only
  generalize s.spaceOf s.cur.core _ = sp
  rcases sp with _ | _ | ⟨m, k, o⟩ <;> cases reach <;> simp

/-! ### All streams (R204) -/

/-- A search for an answer finds that of the first element that has one. -/
theorem findSome?_of_find? {α β : Type} {f : α → Option β} {l : List α} {a : α} {b : β}
    (h : l.find? (fun x => (f x).isSome) = some a) (hb : f a = some b) : l.findSome? f = some b := by
  obtain ⟨-, as, bs, rfl, hbefore⟩ := List.find?_eq_some_iff_append.mp h
  exact List.findSome?_eq_some_iff.mpr ⟨as, a, bs, rfl, hb, fun x hx => by simpa using hbefore x hx⟩

theorem find?_not_of_all {α : Type} {l : List α} {p : α → Bool} (h : l.all p = true) : l.find? (fun x => !p x) = none := by
  rw [List.find?_eq_none]
  intro x hx
  simpa using List.all_eq_true.mp h x hx

/-- The checks of R204 in their order, each for every stream with bytes before the next. -/
theorem streamFault_eq (s : State) (t : Thread) (xs : List Stream) : s.streamFault t xs =
    match (liveStreams xs).find? (fun x => !streamGranted t x) with
    | some x => some (cSEGV, x.off)
    | none => match (liveStreams xs).find? (fun x => !streamAligned t x) with
      | some x => some (cMISALIGN, x.off)
      | none => match (liveStreams xs).findSome? (fun x => (s.placeFault t x).map (fun c => (c, x.off))) with
        | some r => some r
        | none => ((liveStreams xs).find? (fun x => s.belowXb t x)).map (fun x => (cEXECONLY, x.off)) := by
  unfold State.streamFault
  dsimp only [liveStreams, streamGranted, streamAligned]
  cases (xs.filter (fun x => x.n != 0)).find? (fun x => s.belowXb t x) <;> rfl

theorem streamFault_segment (h : (liveStreams xs).find? (fun x => !streamGranted t x) = some x) : s.streamFault t xs = some (cSEGV, x.off) := by
  rw [streamFault_eq, h]

section
variable (hg : (liveStreams xs).all (streamGranted t) = true)
include hg

theorem streamFault_alignment (h : (liveStreams xs).find? (fun x => !streamAligned t x) = some x) : s.streamFault t xs = some (cMISALIGN, x.off) := by
  rw [streamFault_eq, find?_not_of_all hg, h]

variable (ha : (liveStreams xs).all (streamAligned t) = true)
include ha

theorem streamFault_place (h : (liveStreams xs).find? (fun x => (s.placeFault t x).isSome) = some x) (hc : s.placeFault t x = some c) :
    s.streamFault t xs = some (c, x.off) := by
  have hfirst : (liveStreams xs).find? (fun x => ((s.placeFault t x).map (fun c => (c, x.off))).isSome) = some x := by
    simpa using h
  rw [streamFault_eq, find?_not_of_all hg, find?_not_of_all ha, findSome?_of_find? hfirst (by rw [hc]; rfl)]

theorem streamFault_executeOnly (hp : ∀ y ∈ liveStreams xs, s.placeFault t y = none) (h : (liveStreams xs).find? (fun x => s.belowXb t x) = some x) :
    s.streamFault t xs = some (cEXECONLY, x.off) := by
  have hnone : (liveStreams xs).findSome? (fun x => (s.placeFault t x).map (fun c => (c, x.off))) = none :=
    List.findSome?_eq_none_iff.mpr fun y hy => by rw [hp y hy]; rfl
  rw [streamFault_eq, find?_not_of_all hg, find?_not_of_all ha, hnone, h]
  rfl

end

/-! ### The issue of the operation (R101, R131, R204, R221) -/

section
variable {base : State} {q : EngReq} {v : Word} (hw : t.engWait = false)
include hw

theorem engIssue_traps (h : base.streamFault t q.xs = some (c, v)) : s.engIssue base t q = .error (.trap c v, base) := by
  simp [State.engIssue, hw, h, stop]

variable (h : base.streamFault t q.xs = none)
include h

theorem engIssue_conflict (hc : s.myCore.engConflict q.eng (base.streamRanges t q.xs false) (base.streamRanges t q.xs true ++ q.extra) = true) :
    s.engIssue base t q = .error (.park .issue, s) := by
  simp [State.engIssue, hw, h, hc, stop]

variable (hc : s.myCore.engConflict q.eng (base.streamRanges t q.xs false) (base.streamRanges t q.xs true ++ q.extra) = false)
  (hroom : ¬16 < s.myCore.hallUse + (base.streamRanges t q.xs false).length + (base.streamRanges t q.xs true ++ q.extra).length +
    (if q.vl = 0 then 0 else q.more))
include hc hroom

theorem engIssue_full (hq : 2 ≤ (s.myCore.engine q.eng).queue.length) : s.engIssue base t q = .error (.park .issue, s) := by
  simp only [State.engIssue, hw, h, hc, hroom, hq]
  rfl

theorem engIssue_counter (hq : ¬2 ≤ (s.myCore.engine q.eng).queue.length) (hn : s.myCore.cc[q.ec.cnt.toFin].val = 65535) :
    s.engIssue base t q = .error (.park (.counter q.ec.cnt), s) := by
  simp only [State.engIssue, hw, h, hc, hroom, hq, hn]
  rfl

end

theorem engWait_of_mayQueue (h : MayQueue s t r) : t.engWait = false := by
  obtain ⟨-, -, ho, hrlx, -⟩ := h
  simp [Thread.engWait, ho, hrlx]

section
variable (hi : AsksFor i r s t)
include hi

theorem traps_of_streamFault {v : Word} (hm : MayQueue s t r) (h : s.streamFault t r.xs = some (c, v)) :
    Runs i s (s.userTrap c v t.pc) := by
  obtain ⟨opc, he⟩ := hi
  rw [Runs, he, engIssue_traps (q := rowReq opc r) (engWait_of_mayQueue hm) h, Eff.done_error, s.stopped_trap (me_of_mayQueue hm)]

theorem parks_of_engIssue {w : Wait} (h : ∀ opc, s.engIssue s t (rowReq opc r) = .error (.park w, s)) : Runs i s (s.park w) := by
  obtain ⟨opc, he⟩ := hi
  rw [Runs, he, h opc, Eff.done_error, State.stopped_park]

end

/-- Settles O32. -/
theorem engineStreamChecks : Obligations.EngineStreamChecks := by
  unfold Obligations.EngineStreamChecks
  intro i s t r hrow hm hd k live' va need granted' aligned' traps
  have hi := asksFor_of_engRow hrow hm hd
  have hw := engWait_of_mayQueue hm
  have hgranted : granted' = streamGranted t := funext fun x => congrArg ((t.segs[x.p]).grants x.off.toNat x.n) (need_eq x)
  rw [hgranted]
  have hplace : ∀ x, placeCause s (va x) x = s.placeFault t x := placeCause_eq s t
  simp only [hplace]
  refine ⟨fun x h => ?_, fun hg x h => ?_, fun hg ha x c h hc => ?_, fun hg ha hp a x b hl hx hbefore => ?_, fun h => ⟨fun hc => ?_,
    fun hc hroom => ⟨fun hq => ?_, fun hq hn => ?_⟩⟩⟩
  · exact traps_of_streamFault hi hm (streamFault_segment h)
  · exact traps_of_streamFault hi hm (streamFault_alignment hg h)
  · exact traps_of_streamFault hi hm (streamFault_place hg ha h hc)
  · have hnone : ∀ y ∈ liveStreams r.xs, s.placeFault t y = none := fun y hy => Option.isNone_iff_eq_none.mp (List.all_eq_true.mp hp y hy)
    have hfirst : (liveStreams r.xs).find? (fun x => s.belowXb t x) = some x :=
      List.find?_eq_some_iff_append.mpr ⟨(belowXb_iff s t x).mpr hx, a, b, hl, fun y hy => by
        rw [Bool.not_eq_true', ← Bool.not_eq_true, belowXb_iff]
        exact hbefore y hy⟩
    exact traps_of_streamFault hi hm (streamFault_executeOnly hg ha hnone hfirst)
  · exact parks_of_engIssue hi fun opc => engIssue_conflict (q := rowReq opc r) hw h hc
  · exact parks_of_engIssue hi fun opc => engIssue_full (q := rowReq opc r) hw h hc (Nat.not_lt.mpr hroom) hq
  · exact parks_of_engIssue hi fun opc => engIssue_counter (q := rowReq opc r) hw h hc (Nat.not_lt.mpr hroom) (Nat.not_le.mpr hq) hn

end Sys2Proof.Safety
end

section
/-! PROOFS. The machine after reset (O56): its lists are empty, and what a list does not hold is at reset. -/

set_option Elab.async false

namespace Sys2Proof.Safety

open Sys2Proof.Machine Sys2Proof.Claims

theorem memOk_reset : MemOk .reset := rfl

/-! ### Access tables and partitions (R273, Table 19-4) -/

theorem rights_reset (k i p : Nat) : State.reset.rights k i p = if p = 0 then 0x1F else 0 := rfl

theorem partn_reset (p : Nat) : State.reset.partn p = .reset := rfl

theorem queue_reset (q : Nat) : Part.reset.queue q = { base := 0, stat := 0, size := 4, tail := 0, head := 0 } := rfl

/-! ### Cores -/

theorem core_reset (c : Nat) : State.reset.core c = .reset := rfl

theorem slot_reset (c : Nat) (i : Fin 8) : State.reset.slot c i = .reset := by
  rw [State.slot, core_reset]
  exact Vector.getElem_replicate i.isLt

theorem threadAt_reset (c : Nat) (i : Fin 8) : State.reset.threadAt c i = none := by
  rw [State.threadAt, slot_reset]
  rfl

theorem cc_reset (i : Fin 8) : Core.reset.cc[i] = ⟨0, 0⟩ := Vector.getElem_replicate i.isLt

theorem q_reset (i : Fin 4) : Core.reset.q[i] = [] := Vector.getElem_replicate i.isLt

/-- Settles O56. -/
theorem resetState : Obligations.ResetState := by
  unfold Obligations.ResetState
  refine ⟨memOk_reset, fun k i => rights_reset k i 0, fun k i p hp => (rights_reset k i p).trans (if_neg hp),
    fun p q => (congrArg (Part.queue · q) (partn_reset p)).trans (queue_reset q), rfl, rfl, fun c i => ?_, fun c => ?_,
    fun p x => rfl, rfl, rfl, rfl, rfl, rfl, rfl, rfl, rfl, rfl, rfl, rfl, rfl, rfl, fun c => congrArg Core.csave (core_reset c)⟩
  · rw [slot_reset, threadAt_reset]
    exact ⟨rfl, rfl, rfl⟩
  · rw [core_reset]
    exact ⟨rfl, fun i => congrArg CC.val (cc_reset i), rfl, rfl, rfl, q_reset⟩

end Sys2Proof.Safety
end

section
/-! SUPPORT. Handles: what their checks answer where each passes (R184, R240), the word that is read at a home (R113), and what the write of a
handle word leaves (R105, R118, R241). -/

set_option Elab.async false

namespace Sys2Proof.Safety

open Sys2Proof.Machine Sys2Proof.Claims

variable {s s1 u : State} {t : Thread} {p : Fin 8} {need : Need} {name w : Nat}

/-! ### A pointer to a handle (R240) -/

/-- The port that opens a handle moves no thread. -/
theorem sameSites_of_handleTo (h : HandleTo s s1 t p need name) : SameSites s s1 := by
  obtain ⟨-, -, -, ⟨x, hx, -⟩, -⟩ := h
  exact .port hx

theorem handlePtr_eq (h : HandleTo s s1 t p need name) :
    s.handlePtr t p need = .ok (t.segs[p].base.toNat + (t.av p).toNat, name, s1) := by
  obtain ⟨hg, hal, hsp, ⟨x, hx, rfl⟩, hf⟩ := h
  have hq : s1.homeHeld x.name = none := by simp [State.homeHeld, hf]
  have hn : s.issueName t (t.segs[p].base.toNat + (t.av p).toNat) .handle need (t.av p) = .ok (x.name, x.gran, s1) := by
    simp only [State.issueName, hsp, hx, hq]
  simp only [State.handlePtr, hg, hal, hn]
  rfl

/-- Bytes that a segment grants at a pointer lie below the top of the address space (R49). -/
theorem addr_lt_of_grants {n : Nat} (h : (t.segs[p]).grants (t.av p).toNat n need = true) (hn : 1 ≤ n) :
    t.segs[p].base.toNat + (t.av p).toNat < 2 ^ 48 := by
  simp only [Seg.grants, Bool.and_eq_true, decide_eq_true_eq] at h
  obtain ⟨⟨⟨⟨-, h⟩, -⟩, -⟩, -⟩ := h
  omega

/-! ### The word of a handle (R113) -/

theorem clean_of_wordAt (h : WordAt s t name w) : Clean s := ⟨h.1.2.1, h.1.2.2, h.2.1⟩

theorem handleWord_eq (h : WordAt s t name w) (va : Nat) : s.handleWord t va name = .ok (w, s) := by
  have hc := clean_of_wordAt h
  obtain ⟨-, -, hg, hl, hd, rfl⟩ := h
  have hr : s.homeReads name none false false t.part t.id.ctx.toNat (s.logOf s.cur.core) s.cur.slot.val = (true, s) := by
    simp [State.homeReads, hc.synd, hc.lost]
  have hn : s.readNamed name 8 none = (some (s.raw name 8), s) := by
    simp [State.readNamed, hd, readStored_clean hc]
  have hread : s.issueRead t va name 8 none = .ok (s.raw name 8, s) := by
    simp only [State.issueRead, hg, hl, hr, hn]
    rfl
  rw [State.handleWord, hread]
  rfl

theorem leNat_lt (b : List Byte) : leNat b < 256 ^ b.length := by
  induction b with
  | nil => exact Nat.one_pos
  | cons x r ih =>
    have hx := x.isLt
    rw [leNat, List.length_cons, Nat.pow_succ]
    omega

theorem rawNat_lt (s : State) (k : Nat) : s.rawNat k 8 < 2 ^ 64 := by
  have h := leNat_lt (s.raw k 8)
  rwa [State.raw, Memory.reads_length] at h

theorem hState_eq (h : WordAt s t name w) : hState w = w / 2 ^ 62 := by
  obtain ⟨-, -, -, -, -, rfl⟩ := h
  exact Nat.mod_eq_of_lt (by have := rawNat_lt s name; omega)

/-! ### A word in memory -/

/-- A number stored at a place is read there, modulo its width. -/
theorem rawNat_of_writes {m : Memory} (hm : Memory.wf m = true) {k v : Nat} (h : u.mem = Memory.writes m k (leBytes 8 v)) :
    u.rawNat k 8 = v % 2 ^ 64 := by
  have hr := Memory.reads_writes hm k (leBytes 8 v)
  rw [leBytes_length] at hr
  rw [State.rawNat, State.raw, h, hr]
  exact leNat_leBytes 8 v

/-- Bytes stored elsewhere do not touch a word. -/
theorem rawNat_of_apart {m : Memory} (hm : Memory.wf m = true) {k j : Nat} {b : List Byte} (h : u.mem = Memory.writes m j b)
    (ha : Apart k 8 j b.length) : u.rawNat k 8 = leNat (Memory.reads m k 8) := by
  rw [State.rawNat, State.raw, h]
  refine congrArg leNat (reads_congr fun i hi => Memory.read_writes_out hm j b ?_)
  rcases ha with ha | ha <;> omega

/-- A write at a home that is also a release leaves its bytes, and stirs what watches them. -/
theorem homeWriteRel_stirs (h : Clean s) (k : Nat) (b : List Byte) (sc : Scope) (l : Nat) (i : Fin 8) :
    Stirs (laidDown s k b) (s.homeWriteRel k b sc l i) :=
  (homeWrite_stirs h b).trans ⟨rfl, fun _ => rfl⟩

/-- The bytes of a write alone are stored by it. -/
theorem stored_of_writes (hm : MemOk s) {k : Nat} {b : List Byte} (h : u.mem = Memory.writes s.mem k b) : Stored s u k b :=
  Stored.append (b := []) Stored.nil hm rfl h

/-! ### The end of an instruction -/

theorem me_advance {v : Thread} (h : s.me = some v) : (s.advance t).me = some { v with pc := s.succ t, status := .ready } := by
  rw [State.advance, State.me_goto, h]
  rfl

theorem succ_advance (s : State) (t v : Thread) : (s.advance t).succ v = s.succ v :=
  State.SameStore.succ (s := s) (u := s.advance t) ⟨rfl, rfl⟩ rfl v

theorem regsBut_of_cells {t u : Thread} (hg : u.g = t.g) (hw : u.win = t.win) (ha : u.a = t.a) : RegsBut t u [] :=
  fun r _ => t.cell_congr hg hw ha r

/-! ### The target of a write (Table 5-6) -/

/-- A handle word that is VALUE or POISON may be written. -/
theorem handleOpen_eq (hw : WordAt s t name w) (hg : s.grantsTo s.cur.core t.part (bankOf name) name 2 = true) (hst : w / 2 ^ 62 ∈ [0, 3])
    (va : Nat) (xval : Word) : s.handleOpen t va name xval = .ok s := by
  have hs : (hState w = 1 || hState w = 2) = false := by
    rw [hState_eq hw]
    simp only [List.mem_cons, List.not_mem_nil, or_false] at hst
    rcases hst with h | h <;> rw [h] <;> rfl
  simp only [State.handleOpen, hg, handleWord_eq hw, Eff.bind_ok, hs]
  rfl

/-- One that is SUSPENDED or EVALUATING may not. -/
theorem handleOpen_traps (hw : WordAt s t name w) (hg : s.grantsTo s.cur.core t.part (bankOf name) name 2 = true) (hst : w / 2 ^ 62 ∈ [1, 2])
    (va : Nat) (xval : Word) : s.handleOpen t va name xval = .error (.trap cILLEGAL xval, s) := by
  have hs : (hState w = 1 || hState w = 2) = true := by
    rw [hState_eq hw]
    simp only [List.mem_cons, List.not_mem_nil, or_false] at hst
    rcases hst with h | h <;> rw [h] <;> rfl
  simp only [State.handleOpen, hg, handleWord_eq hw, Eff.bind_ok, hs]
  rfl

end Sys2Proof.Safety
end

section
/-! PROOFS. `HTEST`, `FORCE` and `SPARK` (O37). -/

set_option Elab.async false

namespace Sys2Proof.Safety

open Sys2Proof.Machine Sys2Proof.Claims

variable {s s1 u : State} {t : Thread} {d : Operand} {p : Fin 8} {name w : Nat}

/-! ### `HTEST` (R247) -/

theorem htest_word {pr : BitVec 5} (hi : Issues s t [.a p] [d] [pr]) (ho : t.oar = none) (h : HandleAt s s1 t p needR name w) :
    Runs (.htest d p pr) s (((((if w / 2 ^ 62 = 0 then acquired s1 name else s1).write d (BitVec.ofNat 64 w))).modMe
      (fun u => u.setP pr (w / 2 ^ 62 == 0))).advance t) := by
  obtain ⟨hme, hw, hp⟩ := hi
  obtain ⟨hto, hat⟩ := h
  show execHtest d p pr s = _
  simp only [execHtest, State.ready_eq hme hw hp, Eff.bind_ok, oarEmpty_eq ho, handlePtr_eq hto, handleWord_eq hat, hState_eq hat]
  rfl

/-! ### One event of a force (R111) -/

/-- A word that keeps to Table 5-2 (R103). -/
theorem hBroken_eq_false (hs : hState w = w / 2 ^ 62) (hf : w / 2 ^ 58 % 16 ≤ 9) (h1 : w / 2 ^ 62 = 1 → w / 2 ^ 32 % 2 ^ 16 = 0)
    (h3 : w / 2 ^ 62 = 3 → w / 2 ^ 8 % 2 ^ 40 = 0 ∧ (w % 256 = 1 ∨ w % 256 = 2)) : hBroken w = false := by
  have e1 : (hState w == 1 && bits w 47 32 != 0) = false := by
    by_cases h : w / 2 ^ 62 = 1
    · simp [show bits w 47 32 = 0 from h1 h]
    · rw [beq_eq_false_iff_ne.mpr (hs ▸ h), Bool.false_and]
  have e3 : (hState w == 3 && (bits w 47 8 != 0 || (w % 256 != 1 && w % 256 != 2))) = false := by
    by_cases h : w / 2 ^ 62 = 3
    · obtain ⟨hb, hc⟩ := h3 h
      have hb' : bits w 47 8 = 0 := hb
      rcases hc with hc | hc <;> simp [hb', hc]
    · rw [beq_eq_false_iff_ne.mpr (hs ▸ h), Bool.false_and]
  have hf' : decide (9 < hFmt w) = false := decide_eq_false (Nat.not_lt.mpr hf)
  simp only [hBroken, hf', e1, e3, Bool.or_self]

/-- The offset of a handle in its pointer's segment is the pointer's (R111, R265). -/
theorem walkOff_pointer (base : Nat) (o : Word) : walkOff base (base + o.toNat) = o := by
  simp only [walkOff, w64, BitVec.ofNat_add, BitVec.ofNat_toNat, BitVec.setWidth_eq]
  exact add_sub_cancel_left _ _

section
variable (hat : WordAt s t name w) (hb : hBroken w = false) (va base : Nat)
include hat hb

theorem forceEvent_value (h : w / 2 ^ 62 = 0) : s.forceEvent t va name base = .ok (w, s) := by
  simp only [State.forceEvent, handleWord_eq hat, Eff.bind_ok, hb, hState_eq hat, h]
  rfl

theorem forceEvent_poison (h : w / 2 ^ 62 = 3) (hk : t.walk = none) :
    s.forceEvent t va name base = .error (.trap cPOISON (walkOff base va), s.modMe (fun u => { u with walk := none })) := by
  simp only [State.forceEvent, handleWord_eq hat, Eff.bind_ok, hb, hState_eq hat, h, State.forceTrap, hk]
  rfl

theorem forceEvent_claims (h : w / 2 ^ 62 = 1) {s2 : State} (hc : s.walkClaim t va name = .ok s2) :
    s.forceEvent t va name base = .error (.asIs, s2) := by
  simp only [State.forceEvent, handleWord_eq hat, Eff.bind_ok, hb, hState_eq hat, h, hc]
  rfl

end

/-! ### `FORCE` of a VALUE or POISON word (R246) -/

section
variable (hi : Issues s t [.a p] [d] []) (ho : t.oar = none) (hk : t.walk = none) (h : HandleAt s s1 t p needR name w)
include hi ho hk h

/-- `FORCE` with no walk begun is one event at the handle's home. -/
theorem force_eq : exec (.force d p) s = Eff.done (do
    let (v, s2) ← s1.forceEvent t (t.segs[p].base.toNat + (t.av p).toNat) name t.segs[p].base.toNat
    return (((s2.modMe (fun t => { t with walk := none })).acquireHandle name).write d (w64 v)).advance t) := by
  obtain ⟨hme, hw, hp⟩ := hi
  have hon : s.walkOn t 0x182 t.segs[p].base.toNat = .ok () := by simp only [State.walkOn, hk]
  show execForce d p s = _
  simp only [execForce, State.ready_eq hme hw hp, Eff.bind_ok, oarEmpty_eq ho, hon, handlePtr_eq h.1]

variable (hb : hBroken w = false)
include hb

theorem force_value (h0 : w / 2 ^ 62 = 0) : Runs (.force d p) s
    (((acquired (s1.modMe (fun u => { u with walk := none })) name).write d (BitVec.ofNat 64 w)).advance t) := by
  rw [Runs, force_eq hi ho hk h, forceEvent_value h.2 hb _ _ h0]
  rfl

theorem force_poison (h3 : w / 2 ^ 62 = 3) : Runs (.force d p) s
    ((s1.modMe (fun u => { u with walk := none })).userTrap 0x0B (t.av p) t.pc) := by
  have hme : (s1.modMe (fun u => { u with walk := none })).me = some { t with walk := none } := by
    rw [State.me_modMe, (sameSites_of_handleTo h.1).me, hi.1]
    rfl
  rw [Runs, force_eq hi ho hk h, forceEvent_poison h.2 hb _ _ h3 hk, walkOff_pointer]
  exact State.stopped_trap _ hme _ _

theorem force_claims (h1 : w / 2 ^ 62 = 1) {s2 : State}
    (hc : s1.walkClaim t (t.segs[p].base.toNat + (t.av p).toNat) name = .ok s2) : Runs (.force d p) s s2 := by
  rw [Runs, force_eq hi ho hk h, forceEvent_claims h.2 hb _ _ h1 hc]
  rfl

end

/-! ### A claim (R108, R109) -/

theorem noteBank_eq (s : State) (b : Bank) (ty payload : Nat) : ∃ l, s.noteBank b ty payload = { s with diary := l } := by
  unfold State.noteBank
  cases sliceSource b with
  | none => exact ⟨s.diary, rfl⟩
  | some src => exact ⟨_, rfl⟩

/-- The word of a claimed handle is EVALUATING (Table 5-2). -/
theorem evalWord_state (w : Nat) (who : Ident) (spark : Bool) (idx : Nat) : evalWord w who spark idx % 2 ^ 64 / 2 ^ 62 = 2 := by
  simp only [evalWord, hWord, bits]
  omega

/-- A party holds the claim of a handle: its record is made, its word reads EVALUATING, and no thread moves. -/
structure Claimed (s u : State) (name w : Nat) (who : Ident) (spark : Bool) : Prop where
  sites : SameSites s u
  clean : Clean u
  memOk : MemOk u
  word  : u.rawNat name 8 / 2 ^ 62 = 2
  claim : ∃ c, u.claimOf? name = some c ∧ c.claimant = some (who, spark) ∧ c.cell = w % 2 ^ 32

theorem claimed_claim (h : Clean s) (hm : MemOk s) (b : Bank) (part : Nat) (who : Ident) (spark : Bool) (prio : Nat) :
    Claimed s (s.claim name b part who spark prio) name (s.rawNat name 8) who spark := by
  unfold State.claim
  extract_lets w old idx c
  obtain ⟨l, hl⟩ := noteBank_eq ((s.homeWrite name (leBytes 8 (evalWord w who spark idx))).setClaim c) b 0x0D
    (spark.toNat * 2 ^ 35 + noteG3 name)
  have hst := homeWrite_stirs (k := name) h (leBytes 8 (evalWord w who spark idx))
  have hsites := SameSites.of_stirs hst
  have hword : (s.homeWrite name (leBytes 8 (evalWord w who spark idx))).rawNat name 8 / 2 ^ 62 = 2 := by
    rw [rawNat_of_writes hm hst.mem, evalWord_state]
  rw [hl]
  exact {
    sites := ⟨hsites.cores, hsites.cur, hsites.lmap⟩
    clean := ⟨hst.synd.trans h.synd, hst.lost.trans h.lost, hst.cacheBad.trans h.cache⟩
    memOk := hm.homeWrite
    word := hword
    claim := ⟨c, by simp [State.claimOf?, State.setClaim, c], rfl, rfl⟩ }

/-- A write beside the handle leaves its claim. -/
theorem Claimed.homeWrite {who : Ident} {spark : Bool} (h : Claimed s u name w who spark) {k : Nat} {b : List Byte}
    (ha : Apart name 8 k b.length) : Claimed s (u.homeWrite k b) name w who spark := by
  have hst := homeWrite_stirs (k := k) h.clean b
  have hclaims : (u.homeWrite k b).claims = u.claims := (congrArg State.claims hst.rest :)
  exact {
    sites := h.sites.trans (.homeWrite b)
    clean := ⟨hst.synd.trans h.clean.synd, hst.lost.trans h.clean.lost, hst.cacheBad.trans h.clean.cache⟩
    memOk := h.memOk.homeWrite
    word := by rw [rawNat_of_apart h.memOk hst.mem ha]; exact h.word
    claim := by rw [State.claimOf?, hclaims]; exact h.claim }

theorem me_sparkPrio {who : Ident} (h : s.me = some t) : ∃ n, (s.sparkPrio who).me = some { t with prio := n } := by
  unfold State.sparkPrio
  extract_lets ps
  rw [State.me_modWho, h, Option.map_some, onWho]
  split
  · exact ⟨_, rfl⟩
  · exact ⟨t.prio, rfl⟩

/-- A claim is held, and its forcing frame stands in the window stack and in the walk of its thread, which stays at its instruction (R109). -/
structure Framed (s s' : State) (t : Thread) (name w : Nat) (spark : Bool) : Prop where
  me    : ∃ (f : ForceFrame) (k : Walk) (n : Nat), f.pa = name ∧ k.frames = [f] ∧
    s'.me = some { t with wsp := t.wsp + 16, status := .ready, walk := some k, prio := n }
  word  : s'.rawNat name 8 / 2 ^ 62 = 2
  claim : ∃ c, s'.claimOf? name = some c ∧ c.claimant = some (t.id, spark) ∧ c.cell = w % 2 ^ 32

theorem walkClaim_frames (hat : WordAt s t name w) (hme : s.me = some t) (hk : t.walk = none) (hl : t.wsp.toNat + 16 ≤ t.wsl.toNat)
    (hf : s.waiterFree (bankOf name) = true) (ha : Apart name 8 (s.stackKey t t.wsp.toNat) 16) (va : Nat) :
    ∃ s' spark, s.walkClaim t va name = .ok s' ∧ Framed s s' t name w spark := by
  have hclean := clean_of_wordAt hat
  obtain ⟨⟨hm, -, -⟩, -, -, -, -, hw⟩ := hat
  unfold State.walkClaim
  extract_lets walk base spark s1 idx s2 s3
  have hc : Claimed s s1 name w t.id spark := hw ▸ claimed_claim hclean hm _ _ _ _ _
  have hkey : s1.stackKey t base = s.stackKey t base := by
    simp only [State.stackKey, State.homeOf, State.physOf, hc.sites.lmap]
  have hc2 : Claimed s s2 name w t.id spark := hc.homeWrite (by
    rw [List.length_append, leBytes_length, leBytes_length, hkey]
    exact ha)
  have hme3 : s3.me = some { t with
      wsp := t.wsp + 16, status := .ready, walk := some { walk with frames := [⟨va, name, idx, 0, base, []⟩] } } := by
    have hnil : walk.frames = [] := by simp only [walk, hk]; rfl
    rw [State.me_modMe, hc2.sites.me, hme, Option.map_some, hnil]
  rw [if_neg (by omega), if_neg (by simp [hf])]
  refine ⟨_, spark, rfl, ?_⟩
  by_cases hs : spark = true
  · rw [if_pos hs]
    obtain ⟨n, hn⟩ := me_sparkPrio (who := t.id) hme3
    exact ⟨⟨_, _, n, rfl, rfl, hn⟩, hc2.word, hc2.claim⟩
  · rw [if_neg hs]
    exact ⟨⟨_, _, t.prio, rfl, rfl, hme3⟩, hc2.word, hc2.claim⟩

/-! ### `SPARK` (R25, R248) -/

theorem spark_pools (hi : Issues s t [.a p] [] []) (ho : t.oar = none) (hg : (t.segs[p]).grants (t.av p).toNat 8 needR = true)
    (hal : (t.segs[p].base.toNat + (t.av p).toNat) % 8 = 0) : Runs (.spark p) s ((s.modCore s.cur.core (fun k =>
      { k with sparks := k.sparks ++ if k.sparks.length < 32 then
        [(t.id.ctx.toNat, t.segs[p].base.toNat + (t.av p).toNat)] else [] })).advance t) := by
  obtain ⟨hme, hw, hp⟩ := hi
  have hpool : ∀ c ctx va, s.putSpark c ctx va =
      s.modCore c (fun k => { k with sparks := k.sparks ++ if k.sparks.length < 32 then [(ctx, va)] else [] }) := fun c ctx va => by
    refine congrArg (s.modCore c) (funext fun k => ?_)
    split
    · rfl
    · rw [List.append_nil]
  show execSpark p s = _
  simp only [execSpark, State.ready_eq hme hw hp, Eff.bind_ok, oarEmpty_eq ho, hg, hal, hpool]
  rfl

/-- Settles O37: each instruction is one event at the handle's home, and a claim is made by `walkClaim_frames`. -/
theorem handleReadResults : Obligations.HandleReadResults := by
  unfold Obligations.HandleReadResults
  intro s s1 t p name w ho
  refine ⟨fun d pr hi h => htest_word hi ho h, fun d hi h hk hf => ⟨fun h0 => ?_, fun h3 hz hc => ?_, fun h1 hz hl _ hfree ha => ?_⟩,
    fun hi hg => spark_pools hi ho hg⟩
  · exact force_value hi ho hk h (hBroken_eq_false (hState_eq h.2) hf (by omega) (by omega)) h0
  · exact force_poison hi ho hk h (hBroken_eq_false (hState_eq h.2) hf (by omega) fun _ => ⟨hz, hc⟩) h3
  · have hb := hBroken_eq_false (hState_eq h.2) hf (fun _ => hz) (by omega)
    have hme : s1.me = some t := (sameSites_of_handleTo h.1).me.trans hi.1
    obtain ⟨s', spark, hclaim, hframed⟩ := walkClaim_frames h.2 hme hk hl hfree ha (t.segs[p].base.toNat + (t.av p).toNat)
    obtain ⟨f, k, n, hpa, hfr, hme'⟩ := hframed.me
    obtain ⟨c, hc, hwho, hcell⟩ := hframed.claim
    exact ⟨s', _, c, f, force_claims hi ho hk h hb h1 hclaim, hme', rfl, rfl, rfl, hc, ⟨spark, hwho⟩, hcell, hframed.word,
      congrArg some hfr, hpa, regsBut_of_cells rfl rfl rfl⟩

end Sys2Proof.Safety
end

section
/-! PROOFS. `HVAL`, `SUSP` and `APPLY` (O38, its first three parts). -/

set_option Elab.async false

namespace Sys2Proof.Safety

open Sys2Proof.Machine Sys2Proof.Claims

variable {s s1 s2 s3 u : State} {t : Thread} {d x arg pl : Fin 8} {name w idx : Nat}

/-! ### Tiles (Tables 5-1, 5-3) -/

theorem code_eq (f : TFmt) : Machine.TFmt.code f = tileCode f := by cases f <;> rfl

theorem tileAlign_code (f : TFmt) : tileAlign (tileCode f) = (tileElem f).getD 8 := by cases f <;> rfl

/-- A placement has the bytes of its elements, or those of a coded tile (R107). -/
theorem placeBytes_code (f : TFmt) (rows cols : Nat) : placeBytes (tileCode f) rows cols = (tileElem f).elim 4096 (rows * cols * ·) := by
  cases f <;> simp [placeBytes, tileCode, tileElem]

/-- A tile in memory has the bytes of its elements; of a coded one the head is checked (R245). -/
theorem tileBytes_code (f : TFmt) (rows cols : Nat) :
    (if isCoded (tileCode f) then 8 else placeBytes (tileCode f) rows cols) = (tileElem f).elim 8 (rows * cols * ·) := by
  cases f <;> simp [placeBytes, tileCode, tileElem, isCoded]

theorem one_le_tileBytes (f : TFmt) {n : Nat} (hn : 1 ≤ n) : 1 ≤ (tileElem f).elim 8 (n * ·) := by
  cases f <;> simp only [tileElem, Option.elim] <;> omega

theorem hValue_eq (fmt rows cols : Nat) {addr : Nat} (h : addr < 2 ^ 48) :
    hValue fmt (rows + 1) (cols + 1) addr = handleOf 0 fmt rows cols addr := by
  rw [hValue, handleOf, Nat.mod_eq_of_lt h, Nat.zero_mul, Nat.zero_add, Nat.add_sub_cancel, Nat.add_sub_cancel]

/-! ### The write of a handle word (R241) -/

theorem sameSites_handlePut (s : State) (name v : Nat) : SameSites s (s.handlePut name v) :=
  (SameSites.homeWrite _).trans ⟨rfl, rfl, rfl⟩

theorem handlePut_stirs (h : Clean s) (name v : Nat) : Stirs (laidDown s name (leBytes 8 v)) (s.handlePut name v) :=
  homeWriteRel_stirs h name _ _ _ _

theorem release_mem_handlePut (s : State) (name v : Nat) :
    ⟨name / 8 * 8, .pk, s.logOf s.cur.core, s.cur.slot⟩ ∈ (s.handlePut name v).relRec := List.mem_cons_self

theorem logOf_congr (h : SameSites s u) (c : Nat) : u.logOf c = s.logOf c := by
  simp only [State.logOf, State.logOf?, h.lmap]

/-! ### `HVAL` (R245) -/

section
variable {sh : TShape} (hns : NotSpark t) (hi : Issues s t [.a d, .a x] [] []) (ho : t.oar = none) (hd : t.drained s.cur.core .pk = true)
  (h : HandleAt s s1 t d needW name w) (hg : s1.grantsTo s.cur.core t.part (bankOf name) name 2 = true)
  (ht : TileAt s1 t x ((tileElem sh.fmt).elim 8 ((sh.rows.toNat + 1) * (sh.cols.toNat + 1) * ·)) ((tileElem sh.fmt).getD 8) needR)
include hns hi ho hd h ht

/-- `HVAL` past its checks is one event at the handle's home. -/
theorem hval_eq : exec (.hval d x sh) s = Eff.done (do
    let s2 ← s1.handleWrite t (t.segs[d].base.toNat + (t.av d).toNat) name
      (hValue (tileCode sh.fmt) (sh.rows.toNat + 1) (sh.cols.toNat + 1) (t.segs[x].base.toNat + (t.av x).toNat)) (t.av d)
    return s2.shown.advance t) := by
  obtain ⟨hme, hw, hp⟩ := hi
  have hcur := (sameSites_of_handleTo h.1).cur
  rw [← hcur] at hd
  have htile := tilePtr_eq ht
  rw [← tileBytes_code, ← tileAlign_code] at htile
  show execHval d x sh s = _
  simp only [execHval, State.ready_eq hme hw hp, Eff.bind_ok, oarEmpty_eq ho, handlePtr_eq h.1, code_eq, htile, State.drainOr_eq hd ho,
    State.noSpark_eq hns]

include hg

theorem hval_writes (hst : w / 2 ^ 62 ∈ [0, 3]) : ∃ s' u, Runs (.hval d x sh) s s' ∧ s'.me = some u ∧ u.pc = s'.succ t ∧ RegsBut t u [] ∧
    Stored s1 s' name (leBytes 8 (handleOf 0 (tileCode sh.fmt) sh.rows.toNat sh.cols.toNat (t.segs[x].base.toNat + (t.av x).toNat))) ∧
    ⟨name / 8 * 8, .pk, s.logOf s.cur.core, s.cur.slot⟩ ∈ s'.relRec := by
  have hsites := sameSites_of_handleTo h.1
  have haddr := addr_lt_of_grants ht.1 (one_le_tileBytes sh.fmt (Nat.mul_pos (Nat.succ_pos _) (Nat.succ_pos _)))
  have hg1 := hg
  rw [← hsites.cur] at hg1
  have hrun : Runs (.hval d x sh) s ((s1.handlePut name (handleOf 0 (tileCode sh.fmt) sh.rows.toNat sh.cols.toNat
      (t.segs[x].base.toNat + (t.av x).toNat))).shown.advance t) := by
    rw [Runs, hval_eq hns hi ho hd h ht, State.handleWrite, handleOpen_eq h.2 hg1 hst, hValue_eq _ _ _ haddr]
    rfl
  have hme : (s1.handlePut name (handleOf 0 (tileCode sh.fmt) sh.rows.toNat sh.cols.toNat
      (t.segs[x].base.toNat + (t.av x).toNat))).shown.me = some t.showing := by
    rw [State.shown, State.me_modMe, (sameSites_handlePut _ _ _).me, hsites.me, hi.1]
    rfl
  refine ⟨_, _, hrun, me_advance hme, (succ_advance _ t t).symm, regsBut_of_cells rfl rfl rfl,
    stored_of_writes h.2.1.1 (handlePut_stirs (clean_of_wordAt h.2) _ _).mem, ?_⟩
  have hrel := release_mem_handlePut s1 name (handleOf 0 (tileCode sh.fmt) sh.rows.toNat sh.cols.toNat (t.segs[x].base.toNat + (t.av x).toNat))
  rwa [logOf_congr hsites, hsites.cur] at hrel

theorem hval_traps (hst : w / 2 ^ 62 ∈ [1, 2]) : Runs (.hval d x sh) s (s1.userTrap 0x01 (t.av d) t.pc) := by
  have hsites := sameSites_of_handleTo h.1
  rw [← hsites.cur] at hg
  rw [Runs, hval_eq hns hi ho hd h ht, State.handleWrite, handleOpen_traps h.2 hg hst]
  exact State.stopped_trap _ (hsites.me.trans hi.1) _ _

end

/-! ### A suspension (R105, R118, R243, R244) -/

theorem ctx_modCtx (s : State) (part ctx : Nat) {f : Ctx → Ctx} (hf : ∀ c, (f c).part = c.part ∧ (f c).ctx = c.ctx) :
    (s.modCtx part ctx f).ctx part ctx = f (s.ctx part ctx) := by
  have hid : (s.ctx part ctx).part = part ∧ (s.ctx part ctx).ctx = ctx := by
    unfold State.ctx
    cases hc : s.ctxs.find? (fun c => c.part == part && c.ctx == ctx) with
    | none => exact ⟨rfl, rfl⟩
    | some c => simpa using List.find?_some hc
  have hkey : ((f (s.ctx part ctx)).part == part && (f (s.ctx part ctx)).ctx == ctx) = true := by
    simp [hf, hid]
  have hfind : (s.modCtx part ctx f).ctxs.find? (fun c => c.part == part && c.ctx == ctx) = some (f (s.ctx part ctx)) :=
    List.find?_cons_of_pos hkey
  simp only [State.ctx, hfind, Option.getD_some]

/-- The index of a cell has 32 bits (R271). -/
theorem idx_lt_of_allocCell (h : s.allocCell t = some idx) : idx < 2 ^ 32 := by
  unfold State.allocCell at h
  dsimp only at h
  split at h
  · cases h
  · have hm := List.mem_range.mp (List.mem_of_find?_eq_some h)
    exact hm.trans (Nat.mod_lt _ (by decide))

/-- A cell is taken and written, and the word of the handle names it; the thread has shown a side effect (R243, R244). -/
structure Suspended (s s' : State) (t : Thread) (name idx fmt rows cols : Nat) : Prop where
  me    : s'.me = some t.showing
  cur   : s'.cur = s.cur
  tasks : ∀ c, (s'.core c).tasks = (s.core c).tasks
  word  : s'.rawNat name 8 = handleOf 1 fmt (rows - 1) (cols - 1) idx
  suse  : (s'.ctx t.part t.id.ctx.toNat).suse = (s.ctx t.part t.id.ctx.toNat).suse + 1
  cell  : idx ∈ (s'.ctx t.part t.id.ctx.toNat).cells

/-- The context takes one more cell. -/
def takeIdx (idx : Nat) (c : Ctx) : Ctx := { c with cells := idx :: c.cells, suse := c.suse + 1 }

/-- The state once a cell of the thread's context is taken and holds these bytes. -/
def cellTaken (s : State) (t : Thread) (idx : Nat) (b : List Byte) : State :=
  (s.modCtx t.part t.id.ctx.toNat (takeIdx idx)).homeWrite (s.cellAt t idx) b

theorem takeCell_eq (hg : s.grantsTo s.cur.core t.part (bankOf (s.cellAt t idx)) (s.cellAt t idx) 2 = true) (c : Cell) :
    s.takeCell t idx c = .ok (cellTaken s t idx (c.toBytes t.id.ctx.toNat)) := by
  simp only [State.takeCell, hg]
  rfl

section
variable (b : List Byte)

theorem sameSites_cellTaken : SameSites s (cellTaken s t idx b) :=
  SameSites.trans (u := s.modCtx t.part t.id.ctx.toNat (takeIdx idx)) ⟨rfl, rfl, rfl⟩ (.homeWrite b)

theorem memOk_cellTaken (h : MemOk s) : MemOk (cellTaken s t idx b) := h.modCtx.homeWrite

variable (h : Clean s)
include h

theorem cellTaken_stirs : Stirs (laidDown (s.modCtx t.part t.id.ctx.toNat (takeIdx idx)) (s.cellAt t idx) b) (cellTaken s t idx b) :=
  homeWrite_stirs (s := s.modCtx t.part t.id.ctx.toNat (takeIdx idx)) ⟨h.synd, h.lost, h.cache⟩ b

theorem clean_cellTaken : Clean (cellTaken s t idx b) :=
  have hst := cellTaken_stirs b h
  ⟨hst.synd.trans h.synd, hst.lost.trans h.lost, hst.cacheBad.trans h.cache⟩

theorem ctxs_cellTaken : (cellTaken s t idx b).ctxs = (s.modCtx t.part t.id.ctx.toNat (takeIdx idx)).ctxs := (cellTaken_stirs b h).ctxs

end

/-- The word of a SUSPENDED handle (Tables 5-1, 5-2). -/
def suspWord (fmt rows cols idx : Nat) : Nat := 2 ^ 62 + fmt * 2 ^ 58 + (rows - 1) * 2 ^ 53 + (cols - 1) * 2 ^ 48 + idx

theorem suspWord_eq {fmt rows cols : Nat} (hf : fmt ≤ 9) (hr : rows ≤ 32) (hc : cols ≤ 32) (hi : idx < 2 ^ 32) :
    suspWord fmt rows cols idx % 2 ^ 64 = handleOf 1 fmt (rows - 1) (cols - 1) idx := by
  rw [suspWord, handleOf]
  omega

theorem suspend_suspends (hme : s.me = some t) (hat : WordAt s t name w)
    (hg : s.grantsTo s.cur.core t.part (bankOf name) name 2 = true)
    (hgk : s.grantsTo s.cur.core t.part (bankOf (s.cellAt t idx)) (s.cellAt t idx) 2 = true) (hst : w / 2 ^ 62 ∈ [0, 3])
    (ha : s.allocCell t = some idx) {c : Cell} {rows cols : Nat} (hf : c.rfmt ≤ 9) (hr : rows ≤ 32) (hc : cols ≤ 32) (va : Nat) (xval : Word) :
    ∃ s', s.suspend t va name idx c rows cols xval = .ok s' ∧ Suspended s s' t name idx c.rfmt rows cols := by
  have hclean := clean_of_wordAt hat
  have hrun : s.suspend t va name idx c rows cols xval =
      .ok ((cellTaken s t idx (c.toBytes t.id.ctx.toNat)).handlePut name (suspWord c.rfmt rows cols idx)).shown := by
    simp only [State.suspend, handleOpen_eq hat hg hst, Eff.bind_ok, takeCell_eq hgk]
    rfl
  generalize c.toBytes t.id.ctx.toNat = b at hrun
  have hput := handlePut_stirs (clean_cellTaken (t := t) (idx := idx) b hclean) name (suspWord c.rfmt rows cols idx)
  have hsites : SameSites s ((cellTaken s t idx b).handlePut name (suspWord c.rfmt rows cols idx)) :=
    (sameSites_cellTaken b).trans (sameSites_handlePut _ _ _)
  have hctx : ((cellTaken s t idx b).handlePut name (suspWord c.rfmt rows cols idx)).shown.ctx t.part t.id.ctx.toNat =
      takeIdx idx (s.ctx t.part t.id.ctx.toNat) := by
    rw [← ctx_modCtx s t.part t.id.ctx.toNat (f := takeIdx idx) fun _ => ⟨rfl, rfl⟩]
    have hall := hput.ctxs.trans (ctxs_cellTaken (t := t) (idx := idx) b hclean)
    show State.ctx ((cellTaken s t idx b).handlePut name (suspWord c.rfmt rows cols idx)) t.part t.id.ctx.toNat = _
    simp only [State.ctx, hall]
  refine ⟨_, hrun, ?_, hsites.cur, fun e => ?_, ?_, ?_, ?_⟩
  · rw [State.shown, State.me_modMe, hsites.me, hme]
    rfl
  · rw [State.shown, tasks_modMe, State.core, hsites.cores]
    rfl
  · have hword := rawNat_of_writes (memOk_cellTaken b hat.1.1) hput.mem
    rw [suspWord_eq hf hr hc (idx_lt_of_allocCell ha)] at hword
    exact hword
  · rw [hctx]
    rfl
  · rw [hctx]
    exact List.mem_cons_self

/-! ### `SUSP` (R243) -/

/-- An operation that Table 5-5 accepts has a format of the table as its result, and one operand or two. -/
theorem tileResult_spec {op mode : Nat} {res : Option Nat} {ws : List Nat} {r rows cols : Nat}
    (h : tileResult op mode res ws = some (r, rows, cols)) : r ≤ 9 ∧ ws.length = if op = 5 ∨ op = 7 then 1 else 2 := by
  unfold tileResult at h
  extract_lets a fa q sh same ok at h
  split at h
  · next hc =>
    simp only [Bool.and_eq_true, decide_eq_true_eq] at hc
    obtain ⟨⟨hok, -⟩, hq⟩ := hc
    obtain ⟨rfl, -⟩ := Prod.mk.inj (Option.some.inj h)
    refine ⟨hq, ?_⟩
    clear h
    dsimp only [ok] at hok
    split at hok
    case h_9 => cases hok
    all_goals rfl
  · cases h

/-- The form of an operation has as many operands as Table 5-5 gives it. -/
theorem two_of_tileResult {op : TileOp} {res : Option Nat} {y : Option (Fin 8)} {a b r rows cols : Nat}
    (h : tileResult (TileOp.cell op).1 (TileOp.cell op).2 res (a :: (y.map fun _ => b).toList) = some (r, rows, cols)) :
    (TileOp.two op != y.isSome) = false := by
  have hl := (tileResult_spec h).2
  have htwo : TileOp.two op = !decide ((TileOp.cell op).1 = 5 ∨ (TileOp.cell op).1 = 7) := by cases op <;> rfl
  by_cases hop : (TileOp.cell op).1 = 5 ∨ (TileOp.cell op).1 = 7
  · rw [if_pos hop] at hl
    cases y with
    | none => simp [htwo, hop]
    | some q => cases hl
  · rw [if_neg hop] at hl
    cases y with
    | none => cases hl
    | some q => simp [htwo, hop]

/-- The cell of a `SUSP`: its operation, its operands' addresses, and the thread's pointers to formats and scales (Table 5-4). -/
def suspCell (t : Thread) (x : Fin 8) (y : Option (Fin 8)) (op : TileOp) (r place : Nat) : Cell :=
  { op := (TileOp.cell op).1, rfmt := r, mode := (TileOp.cell op).2, entry := 0, opa := t.segs[x].base.toNat + (t.av x).toNat
    opb := (y.map fun q => t.segs[q].base.toNat + (t.av q).toNat).getD 0, opc := 0, place := place, fmtp := t.fmtp.toNat, sclp := t.sclp.toNat }

section
variable {y : Option (Fin 8)} {op : TileOp} {res : Option TFmt} {dn wx xn wy yn r rows cols : Nat}

/-- `SUSP` past its checks, where a cell is granted, is a suspension. -/
theorem susp_eq (hns : NotSpark t) (hi : Issues s t ([.a d, .a x] ++ y.toList.map Operand.a ++ [.a pl]) [] []) (ho : t.oar = none)
    (hd : t.drained s.cur.core .pk = true) (hk : t.walk = none) (h1 : HandleTo s s1 t d needW dn) (h2 : HandleTo s1 s2 t x needR xn)
    (h3 : y = none ∧ s3 = s2 ∨ ∃ p, y = some p ∧ HandleTo s2 s3 t p needR yn ∧ WordAt s3 t yn wy) (hcur : s3.cur = s.cur)
    (hx : WordAt s3 t xn wx)
    (hr : tileResult (TileOp.cell op).1 (TileOp.cell op).2 (res.map tileCode) (wx :: (y.map fun _ => wy).toList) = some (r, rows, cols))
    (ht : TileAt s3 t pl (placeBytes r rows cols) (tileAlign r) needW) (ha : s3.allocCell t = some idx) :
    exec (.susp d x y pl op res) s = Eff.done (do
      let s6 ← s3.suspend t (t.segs[d].base.toNat + (t.av d).toNat) dn idx (suspCell t x y op r (t.segs[pl].base.toNat + (t.av pl).toNat))
        rows cols (t.av d)
      return s6.advance t) := by
  obtain ⟨hme, hw, hp⟩ := hi
  rw [← hcur] at hd
  have hcode : res.map Machine.TFmt.code = res.map tileCode := congrArg (res.map ·) (funext code_eq)
  show execSusp d x y pl op res s = _
  simp only [execSusp, two_of_tileResult hr, State.limit_false, State.ready_eq hme hw hp, Eff.bind_ok, oarEmpty_eq ho, hk, Option.bind_none,
    handlePtr_eq h1, handlePtr_eq h2, hcode]
  rcases h3 with ⟨rfl, rfl⟩ | ⟨p, rfl, hp3, hy⟩
  · simp only [Option.map_none, Option.toList_none] at hr
    simp only [Eff.bind_ok, State.drainOr_eq hd ho, handleWord_eq hx, hr, tilePtr_eq ht, State.noSpark_eq hns, ha]
    rfl
  · simp only [Option.map_some, Option.toList_some] at hr
    simp only [handlePtr_eq hp3, Eff.bind_ok, State.drainOr_eq hd ho, handleWord_eq hx, handleWord_eq hy, Except.map, hr, tilePtr_eq ht,
      State.noSpark_eq hns, ha]
    rfl

end

/-! ### `APPLY` (R244) -/

section
variable {e : Fin 16} {sh : TShape}

/-- The cell of an `APPLY`: the entry of its program, its argument block, its placement, and the thread's pointers to formats and scales (Table
5-4). -/
def applyCell (t : Thread) (e : Fin 16) (fmt args place : Nat) : Cell :=
  { op := 31, rfmt := fmt, mode := 0, entry := (t.gv e).toNat % 2 ^ 48, opa := args, opb := 0, opc := 0
    place := place, fmtp := t.fmtp.toNat, sclp := t.sclp.toNat }

/-- The descriptor of the task that forces an `APPLY` handle (R244). -/
def applyDesc (s : State) (t : Thread) (e : Fin 16) (va args : Nat) : Desc :=
  { s.descOf t (t.gv e) args with handle := BitVec.ofNat 48 va, applyt := true }

/-- `APPLY` past its checks, where a cell is granted, is a suspension and a new descriptor. -/
theorem apply_eq (hns : NotSpark t) (hi : Issues s t [.a d, .g e, .a arg, .a pl] [] []) (ho : t.oar = none)
    (hd : t.drained s.cur.core .pk = true) (h : HandleTo s s1 t d needW name) (hta : TileAt s1 t arg 1 1 needR)
    (htp : TileAt s1 t pl ((tileElem sh.fmt).elim 4096 ((sh.rows.toNat + 1) * (sh.cols.toNat + 1) * ·)) ((tileElem sh.fmt).getD 8) needW)
    (h0 : (t.gv e).getLsbD 0 = false) (h1 : (t.gv e).toNat / 2 % 32 ≠ 0) (hroom : (s1.core s.cur.core).taskCount (min t.prio 3) < 64)
    (ha : s1.allocCell t = some idx) :
    exec (.apply d e arg pl sh) s = Eff.done (do
      let s4 ← s1.suspend t (t.segs[d].base.toNat + (t.av d).toNat) name idx
        (applyCell t e (tileCode sh.fmt) (t.segs[arg].base.toNat + (t.av arg).toNat) (t.segs[pl].base.toNat + (t.av pl).toNat))
        (sh.rows.toNat + 1) (sh.cols.toNat + 1) (t.av d)
      return (s4.enqueue (applyDesc s4 t e (t.segs[d].base.toNat + (t.av d).toNat) (t.segs[arg].base.toNat + (t.av arg).toNat))).advance t) := by
  obtain ⟨hme, hw, hp⟩ := hi
  have hcur := (sameSites_of_handleTo h).cur
  rw [← hcur] at hd
  have hplace := tilePtr_eq htp
  rw [← placeBytes_code, ← tileAlign_code] at hplace
  have hprio : t.taskPrio = min t.prio 3 := by
    unfold Thread.taskPrio
    split <;> omega
  have htr : s1.taskRoom t s.cur.core t.taskPrio = true := by simp [State.taskRoom, hprio, hroom]
  show execApply d e arg pl sh s = _
  simp only [execApply, State.ready_eq hme hw hp, Eff.bind_ok, oarEmpty_eq ho, handlePtr_eq h, tilePtr_eq hta, code_eq, hplace, entryOk_eq h0 h1, htr,
    State.drainOr_eq hd ho, State.noSpark_eq hns, ha]
  rfl

end

end Sys2Proof.Safety
end

section
/-! PROOFS. What `SUSP` and `APPLY` leave, the fill of `HFILL` (R249), and O38. -/

set_option Elab.async false

namespace Sys2Proof.Safety

open Sys2Proof.Machine Sys2Proof.Claims

variable {s s1 s2 s3 u : State} {t : Thread} {d x p pl arg : Fin 8} {name w idx : Nat}

/-! ### What a `SUSP` and an `APPLY` leave (R243, R244) -/

section
variable {y : Option (Fin 8)} {op : TileOp} {res : Option TFmt} {dn wx xn wy yn r rows cols : Nat}

theorem susp_suspends (hns : NotSpark t) (hi : Issues s t ([.a d, .a x] ++ y.toList.map Operand.a ++ [.a pl]) [] []) (ho : t.oar = none)
    (hd : t.drained s.cur.core .pk = true) (hk : t.walk = none) (h1 : HandleTo s s1 t d needW dn) (h2 : HandleTo s1 s2 t x needR xn)
    (h3 : y = none ∧ s3 = s2 ∨ ∃ p, y = some p ∧ HandleTo s2 s3 t p needR yn ∧ WordAt s3 t yn wy) (hx : WordAt s3 t xn wx)
    (hat : WordAt s3 t dn w) (hg : s3.grantsTo s.cur.core t.part (bankOf dn) dn 2 = true)
    (hgk : s3.grantsTo s.cur.core t.part (bankOf (s3.cellAt t idx)) (s3.cellAt t idx) 2 = true)
    (hr : tileResult (TileOp.cell op).1 (TileOp.cell op).2 (res.map tileCode) (wx :: (y.map fun _ => wy).toList) = some (r, rows, cols))
    (hrows : rows ≤ 32) (hcols : cols ≤ 32) (ht : TileAt s3 t pl (placeBytes r rows cols) (tileAlign r) needW) (ha : s3.allocCell t = some idx)
    (hst : w / 2 ^ 62 ∈ [0, 3]) : ∃ s6, Runs (.susp d x y pl op res) s (s6.advance t) ∧ Suspended s3 s6 t dn idx r rows cols := by
  have hsites : SameSites s s3 := by
    refine ((sameSites_of_handleTo h1).trans (sameSites_of_handleTo h2)).trans ?_
    rcases h3 with ⟨-, rfl⟩ | ⟨q, -, hq, -⟩
    · exact .refl _
    · exact sameSites_of_handleTo hq
  rw [← hsites.cur] at hg hgk
  obtain ⟨s6, hs6, hsus⟩ := suspend_suspends (c := suspCell t x y op r (t.segs[pl].base.toNat + (t.av pl).toNat))
    (hsites.me.trans hi.1) hat hg hgk hst ha (tileResult_spec hr).1 hrows hcols (t.segs[d].base.toNat + (t.av d).toNat) (t.av d)
  refine ⟨s6, ?_, hsus⟩
  rw [Runs, susp_eq hns hi ho hd hk h1 h2 h3 hsites.cur hx hr ht ha, hs6]
  rfl

end

section
variable {e : Fin 16} {sh : TShape}

theorem apply_suspends (hns : NotSpark t) (hi : Issues s t [.a d, .g e, .a arg, .a pl] [] []) (ho : t.oar = none)
    (hd : t.drained s.cur.core .pk = true) (h : HandleAt s s1 t d needW name w)
    (hg : s1.grantsTo s.cur.core t.part (bankOf name) name 2 = true)
    (hgk : s1.grantsTo s.cur.core t.part (bankOf (s1.cellAt t idx)) (s1.cellAt t idx) 2 = true) (hta : TileAt s1 t arg 1 1 needR)
    (htp : TileAt s1 t pl ((tileElem sh.fmt).elim 4096 ((sh.rows.toNat + 1) * (sh.cols.toNat + 1) * ·)) ((tileElem sh.fmt).getD 8) needW)
    (h0 : (t.gv e).getLsbD 0 = false) (h1 : (t.gv e).toNat / 2 % 32 ≠ 0) (hroom : (s1.core s.cur.core).taskCount (min t.prio 3) < 64)
    (ha : s1.allocCell t = some idx) (hst : w / 2 ^ 62 ∈ [0, 3]) :
    ∃ s4, Runs (.apply d e arg pl sh) s ((s4.enqueue (applyDesc s4 t e (t.segs[d].base.toNat + (t.av d).toNat)
        (t.segs[arg].base.toNat + (t.av arg).toNat))).advance t) ∧
      Suspended s1 s4 t name idx (tileCode sh.fmt) (sh.rows.toNat + 1) (sh.cols.toNat + 1) := by
  have hsites := sameSites_of_handleTo h.1
  rw [← hsites.cur] at hg hgk
  have hrows : sh.rows.toNat + 1 ≤ 32 := sh.rows.isLt
  have hcols : sh.cols.toNat + 1 ≤ 32 := sh.cols.isLt
  have hfmt : tileCode sh.fmt ≤ 9 := by cases sh.fmt <;> decide
  obtain ⟨s4, hs4, hsus⟩ := suspend_suspends (c := applyCell t e (tileCode sh.fmt) (t.segs[arg].base.toNat + (t.av arg).toNat)
    (t.segs[pl].base.toNat + (t.av pl).toNat)) (hsites.me.trans hi.1) h.2 hg hgk hst ha hfmt hrows hcols
    (t.segs[d].base.toNat + (t.av d).toNat) (t.av d)
  refine ⟨s4, ?_, hsus⟩
  rw [Runs, apply_eq hns hi ho hd h.1 hta htp h0 h1 hroom ha, hs4]
  rfl

end

section
variable {fmt rows cols : Nat} (h : Suspended s u t name idx fmt rows cols) (D : Desc)
include h

theorem me_after_enqueue : (u.enqueue D).me = some { t.showing with spare := false } := by
  rw [me_enqueue, h.me]
  rfl

/-- The descriptor stands in the issuing core's queue, behind those that were there. -/
theorem tasks_after_enqueue : (((u.enqueue D).advance t).core s.cur.core).tasks = (s.core s.cur.core).tasks ++ [D] := by
  rw [State.advance, State.goto, tasks_modMe, ← h.cur, tasks_enqueue, h.tasks]

end

/-! ### The waiters of a handle are told (R29, R111, R136) -/

/-- Wakes and signals change no thread, no claim and no byte. -/
structure Notifies (s u : State) : Prop where
  store  : s.SameStore u
  cur    : u.cur = s.cur
  claims : u.claims = s.claims
  me     : u.me = s.me

namespace Notifies

theorem refl (s : State) : Notifies s s := ⟨⟨rfl, rfl⟩, rfl, rfl, rfl⟩

theorem trans {v : State} (h : Notifies s u) (g : Notifies u v) : Notifies s v :=
  ⟨⟨g.store.1.trans h.store.1, g.store.2.trans h.store.2⟩, g.cur.trans h.cur, g.claims.trans h.claims, g.me.trans h.me⟩

theorem lower (s : State) (who : List Ident) (num : Nat) : Notifies s (s.signal who (.lower num)) := by
  unfold State.signal
  split
  · exact ⟨⟨rfl, rfl⟩, rfl, rfl, rfl⟩
  · exact ⟨⟨rfl, rfl⟩, rfl, rfl, me_modDesc num Desc.lower⟩

theorem wakeWaiter (s : State) (pa : Nat) (who : List Ident) (x : Waiter) : Notifies s (s.wakeWaiter pa who x) := by
  cases x with
  | thread v n va => exact ⟨⟨rfl, rfl⟩, rfl, rfl, rfl⟩
  | task num => exact lower s who num

end Notifies

/-- A record that is closed is gone, its waiters being told. -/
theorem closeRecord_leaves (s : State) (pa : Nat) : (s.closeRecord pa).claimOf? pa = none ∧ s.SameStore (s.closeRecord pa) ∧
    (s.closeRecord pa).cur = s.cur ∧ (s.closeRecord pa).me = s.me := by
  unfold State.closeRecord
  cases hc : s.claimOf? pa with
  | none => exact ⟨hc, ⟨rfl, rfl⟩, rfl, rfl⟩
  | some c =>
    have hn : Notifies s (c.deps.foldl (fun s d => s.signal c.party (.lower d)) (c.waiters.foldl (fun s x => s.wakeWaiter pa c.party x) s)) :=
      (foldl_rel Notifies.refl Notifies.trans (fun s x => Notifies.wakeWaiter s pa c.party x) _ s).trans
        (foldl_rel Notifies.refl Notifies.trans (fun s d => Notifies.lower s c.party d) _ _)
    refine ⟨?_, hn.store, hn.cur, hn.me⟩
    simp [State.claimOf?]

/-! ### A fill (R111, R249) -/

/-- A VALUE word's state is 0 (Table 5-1). -/
theorem hValue_state {fmt rows cols : Nat} (place : Nat) (hf : fmt < 16) (hr : rows ≤ 32) (hc : cols ≤ 32) :
    hValue fmt rows cols place % 2 ^ 64 / 2 ^ 62 = 0 := by
  rw [hValue]
  omega

/-- The handle is VALUE and has no record, and no thread has changed. -/
structure Filled (s u : State) (name : Nat) : Prop where
  word  : u.rawNat name 8 / 2 ^ 62 = 0
  claim : u.claimOf? name = none
  cur   : u.cur = s.cur
  me    : u.me = s.me

theorem fillHandle_fills (h : Clean s) (hm : MemOk s) (part ctx : Nat) {fmt : Nat} (hf : fmt < 16) (place lcore : Nat) (i : Fin 8) :
    Filled s (s.fillHandle name part ctx fmt place lcore i) name := by
  unfold State.fillHandle
  extract_lets w cell v spark s0
  obtain ⟨l, hl⟩ := noteBank_eq s (bankOf name) 0x0E (spark * 2 ^ 35 + noteG3 name)
  have hs0 : SameSites s s0 := by rw [show s0 = _ from hl]; exact ⟨rfl, rfl, rfl⟩
  have hm0 : MemOk s0 := by rw [show s0 = _ from hl]; exact hm
  have hc0 : Clean s0 := by rw [show s0 = _ from hl]; exact ⟨h.synd, h.lost, h.cache⟩
  have hst := homeWriteRel_stirs hc0 name (leBytes 8 v) .pk lcore i
  have hsites : SameSites s (s0.homeWriteRel name (leBytes 8 v) .pk lcore i) := hs0.trans ((SameSites.homeWrite _).trans ⟨rfl, rfl, rfl⟩)
  obtain ⟨hnone, hstore, hcur, hme⟩ := closeRecord_leaves ((s0.homeWriteRel name (leBytes 8 v) .pk lcore i).freeCell part ctx cell) name
  have hword : v % 2 ^ 64 / 2 ^ 62 = 0 :=
    hValue_state place hf (Nat.mod_lt _ (by decide)) (Nat.mod_lt _ (by decide))
  refine ⟨?_, hnone, hcur.trans hsites.cur, hme.trans hsites.me⟩
  rw [rawNat_of_writes hm0 (hstore.1.trans hst.mem), hword]

/-! ### `HFILL` -/

/-- What the filling thread does last: its fill is a visible side effect, and a spark takes a new priority (R25, R249). -/
def fillShown (s : State) (t : Thread) : State :=
  let s4 := s.modMe (fun t => { t with visible := true, held := [] })
  match t.kind with
  | .spark _ => s4.sparkPrio t.id
  | _ => s4

theorem me_fillShown (h : s.me = some t) : ∃ n, (fillShown s t).me = some { t with visible := true, held := [], prio := n } := by
  have h4 : (s.modMe (fun t => { t with visible := true, held := [] })).me = some { t with visible := true, held := [] } := by
    rw [State.me_modMe, h]
    rfl
  unfold fillShown
  dsimp only
  split
  · exact me_sparkPrio h4
  · exact ⟨t.prio, h4⟩

theorem rest_fillShown (s : State) (t : Thread) : (fillShown s t).mem = s.mem ∧ (fillShown s t).claims = s.claims := by
  unfold fillShown
  dsimp only
  split <;> exact ⟨rfl, rfl⟩

/-- The cell of the claim of a handle, as a fill reads it. -/
def claimCell (s : State) (t : Thread) (name : Nat) : Cell :=
  Cell.ofNat (s.goodNat (s.cellAt t (((s.claimOf? name).map (·.cell)).getD 0)) 64)

theorem rfmt_claimCell_lt (s : State) (t : Thread) (name : Nat) : (claimCell s t name).rfmt < 16 := Nat.mod_lt _ (by decide)

/-- `HFILL` of the handle that its program evaluates is a fill. -/
theorem hfill_fills {h : Hold} {l : List Hold} {k : Walk} {f : ForceFrame} {fs : List ForceFrame} {b : Bool}
    (hi : Issues s t [.a p] [] []) (ho : t.oar = none) (hd : t.drained s.cur.core .pk = true) (hto : HandleTo s s1 t p needW name)
    (hg : s1.grantsTo s.cur.core t.part (bankOf name) name 2 = true) (hheld : t.held = []) (hh : t.holds = h :: l) (hk : h.walk = some k)
    (hf : k.frames = f :: fs) (hpa : f.pa = name) (hc : s1.claimant? name = some (t.id, b)) :
    Runs (.hfill p) s ((fillShown (s1.fillHandle name t.part t.id.ctx.toNat (claimCell s1 t name).rfmt (claimCell s1 t name).place
      (s1.logOf s.cur.core) s.cur.slot) t).advance t) := by
  obtain ⟨hme, hw, hp⟩ := hi
  have hcur := (sameSites_of_handleTo hto).cur
  rw [← hcur] at hd
  have hmine : (((t.holds.head?.bind (·.walk)).bind (·.frames.head?)).any (fun f => f.pa == name) &&
      (s1.claimant? name).any (fun x => x.1 == t.id)) = true := by
    simp [hh, hk, hf, hpa, hc]
  have hcommit : s1.commitHeld t = .ok s1 := by
    simp only [State.commitHeld, hheld, heldRuns, List.mergeSort_nil]
    rfl
  show execHfill p s = _
  simp only [execHfill, State.ready_eq hme hw hp, Eff.bind_ok, oarEmpty_eq ho, handlePtr_eq hto, hmine, State.drainOr_eq hd ho, hg, hcommit]
  rfl

/-- Settles O38: each write is one event at the handle's home past the checks of its instruction; `suspend_suspends` takes the cell of a `SUSP`
and of an `APPLY`, and `fillHandle_fills` makes the fill of `HFILL`. -/
theorem handleWriteResults : Obligations.HandleWriteResults := by
  unfold Obligations.HandleWriteResults
  intro s t ho hd
  refine ⟨?hval, ?susp, ?apply, ?hfill⟩
  case hval =>
    intro d x sh s1 name w n hns hi h hg ht
    exact ⟨fun hst => hval_writes hns hi ho hd h hg ht hst, fun hst => ⟨s1, hval_traps hns hi ho hd h hg ht hst, rfl⟩⟩
  case susp =>
    intro d x y pl op res s1 s2 s3 dn w xn wx yn wy r rows cols idx ws key hns hi hk h1 h2 h3 hx hat hg hgk hr _ _ hrows hcols ht ha _ hst
    obtain ⟨s6, hrun, hsus⟩ := susp_suspends hns hi ho hd hk h1 h2 h3 hx hat hg hgk hr hrows hcols ht ha hst
    exact ⟨_, _, hrun, me_advance hsus.me, (succ_advance s6 t t).symm, regsBut_of_cells rfl rfl rfl, hsus.word, hsus.suse, hsus.cell⟩
  case apply =>
    intro d e arg pl sh s1 name w idx n k hns hi h hg hgk hta htp h0 h1 hroom ha _ hst
    obtain ⟨s4, hrun, hsus⟩ := apply_suspends hns hi ho hd h hg hgk hta htp h0 h1 hroom ha hst
    have htasks := tasks_after_enqueue hsus (applyDesc s4 t e (t.segs[d].base.toNat + (t.av d).toNat) (t.segs[arg].base.toNat + (t.av arg).toNat))
    rw [(sameSites_of_handleTo h.1).cur] at htasks
    exact ⟨_, _, _, hrun, me_advance (me_after_enqueue hsus _), (succ_advance _ t t).symm, regsBut_of_cells rfl rfl rfl, hsus.word, htasks,
      Nat.mod_eq_of_lt (addr_lt_of_grants h.1.1 (by decide)), rfl, rfl, Nat.mod_eq_of_lt (addr_lt_of_grants hta.1 (le_refl 1)), rfl, rfl⟩
  case hfill =>
    intro p s1 name w h l k f fs b hi hat hg hheld hh hk hf hpa hc
    have hfill := fillHandle_fills (name := name) (clean_of_wordAt hat.2) hat.2.1.1 t.part t.id.ctx.toNat (rfmt_claimCell_lt s1 t name)
      (claimCell s1 t name).place (s1.logOf s.cur.core) s.cur.slot
    have hrun := hfill_fills hi ho hd hat.1 hg hheld hh hk hf hpa hc
    generalize s1.fillHandle name t.part t.id.ctx.toNat (claimCell s1 t name).rfmt (claimCell s1 t name).place (s1.logOf s.cur.core) s.cur.slot = s3
      at hfill hrun
    obtain ⟨n, hme⟩ := me_fillShown (hfill.me.trans ((sameSites_of_handleTo hat.1).me.trans hi.1))
    obtain ⟨hmem, hclaims⟩ := rest_fillShown s3 t
    refine ⟨_, _, hrun, me_advance hme, (succ_advance _ t t).symm, rfl, regsBut_of_cells rfl rfl rfl, ?_, ?_⟩
    · show leNat (Memory.reads (fillShown s3 t).mem name 8) / 2 ^ 62 = 0
      rw [hmem]
      exact hfill.word
    · show (fillShown s3 t).claims.find? _ = none
      rw [hclaims]
      exact hfill.claim

end Sys2Proof.Safety
end
